-- ==== Sys2Proof/Word.lean ====
section
/-! DEFINITION. The widths the spec gives its values: a byte, a 64-bit register word (R6), a 64 B memory line (R276), a 256-bit key value (R111) and a 384-bit digest. -/

namespace Sys2Proof

/-- One byte. -/
abbrev Byte := BitVec 8

/-- One register of the block window: 64 bits (R6). -/
abbrev Word := BitVec 64

/-- One 64 B line, byte 0 in the lowest bits (R5, R276). -/
abbrev Line := BitVec 512

/-- A key value (R111). -/
abbrev Key := BitVec 256

/-- A SHA-384 digest. -/
abbrev Digest := BitVec 384

/-- A string of bytes, the byte at the lowest offset first (R5). -/
abbrev Bytes := List Byte

/-- One of the eight partitions P0 to P7 of the chip (R17). -/
abbrev Part := Fin 8

/-- One of the 64 optical ports of configuration X (R46). -/
abbrev Port := Fin 64

/-- A 32-bit member reference: index in [15:0], kind in [17:16] (R13). -/
abbrev MemberRef := BitVec 32

/-- A key slot number (R111). -/
abbrev Slot := BitVec 12

end Sys2Proof
end

