-- ==== Sys2Proof/Syntax.lean ====
section
/-! DEFINITION. The commands of the block: one constructor of `Instr` for each row of spec/opcode_table.json, with the data that arrives with the row's event as operands (the table lists none; log entry 5). -/

namespace Sys2Proof

/-- The islands (R28). -/
inductive Island where
  | tc
  | le (n : Fin 16)
  | me (n : Fin 8)
  | hbe
  | ptu
  | ahu
  | kdr
  | battery
  deriving DecidableEq, Repr

/-- The owner of a page set: a partition, or the operator (R406, R358). -/
inductive Owner where
  | part (p : Part)
  | operator
  deriving DecidableEq, Repr

/-- A place where pinned outputs leave (R37): an optical port, a stream port, or a compute die's network-on-chip port. -/
inductive Lane where
  | egress (port : Port)
  | ingress (port : Port)
  | read (die : Fin 4)
  deriving DecidableEq, Repr

/-- How the timebase was lost (R36, `EV_RST_TB_LOST`). -/
inductive TbLoss where
  | noEdge
  | rate
  deriving DecidableEq, Repr

/-- What follows every descriptor header (R334): the queue it was fetched from, its command identifier, its cookie, and `INTR`. -/
structure CmdCtx where
  queue  : BitVec 8
  cmdId  : BitVec 32
  cookie : Word
  intr   : Bool
  deriving DecidableEq, Repr

/-- A message inside a peer session (R147): the receiving partition, the peer's member reference, and whether the secured message authenticated. -/
structure Sec where
  part : Part
  peer : MemberRef
  auth : Bool
  deriving DecidableEq, Repr

/-- The root token (R261), field by field. -/
structure Token where
  regionId   : BitVec 32
  keeper     : BitVec 16
  mirror     : BitVec 16
  tokenSeq   : Word
  domainId   : BitVec 32
  generation : BitVec 16
  levels     : Byte
  unreadable : Bool
  sweep      : Bool
  noMirror   : Bool
  audit      : Bool
  pages      : Word
  sweepPtr   : Word
  majorHwm   : Word
  root       : Line
  mac        : BitVec 128
  deriving DecidableEq, Repr

/-- One entry of an `INTENT` (R260): level 0 names a counter block alone; a node comes with its content as of the last publication. -/
structure IntentEntry where
  level   : Byte
  index   : BitVec 56
  content : Line
  deriving DecidableEq, Repr

/-- The body of `JOIN` (R148). -/
structure Join where
  member       : MemberRef
  domainId     : BitVec 32
  ownerDigest  : Digest
  commonDigest : Digest
  serial       : Word
  term         : BitVec 32
  isAnchor     : Bool
  isStandby    : Bool
  isDelegate   : Bool
  keyed        : Bool
  proof        : BitVec 128
  deriving DecidableEq, Repr

/-- One roster entry as `ROSTER_SYNC` carries it (R150): state 0 free, 1 live, 2 departing. -/
structure RosterEntry where
  index : BitVec 16
  state : BitVec 2
  tag   : BitVec 128
  deriving DecidableEq, Repr

/-- The body of an announcement (R137). -/
structure Announce where
  sender      : MemberRef
  domainId    : BitVec 32
  ownerDigest : Digest
  serial      : Word
  term        : BitVec 32
  lc          : Bool
  keyed       : Bool
  anchor      : Bool
  deriving DecidableEq, Repr

/-- The capabilities of R139. -/
inductive SpdmCap where
  | cert | chal | meas | encrypt | mac | mutAuth | keyEx | keyUpd
  deriving DecidableEq, Repr

/-- The algorithms of R139. -/
inductive SpdmAlg where
  | ecdsaP384 | sha384 | secp384r1 | aes256gcm | spdmSchedule | dmtf
  deriving DecidableEq, Repr

/-- What an SPDM message of this block says, where the spec fixes it (R139 to R144, R146, R147); its encoding is SPDM 1.3's (log entry 6). -/
inductive SpdmBody where
  /-- Nothing beyond the code. -/
  | none
  /-- VERSION: the one version spoken. -/
  | version (v : Byte)
  /-- Capabilities, `CTExponent`, `DataTransferSize`, `MaxSPDMmsgSize`. -/
  | capabilities (caps : List SpdmCap) (ctExponent : Byte) (transfer maxMsg : BitVec 32)
  /-- Base and requester asymmetric, hash, measurement hash, DHE, AEAD, key schedule, measurement specification. -/
  | algorithms (base requester hash measHash dhe aead schedule measSpec : SpdmAlg)
  /-- A request for a certificate slot. -/
  | slot (n : Byte)
  | digests (chain : Digest)
  /-- A certificate chain, the root first. -/
  | chain (certs : List Bytes)
  /-- CHALLENGE: the slot, with a measurement summary or without. -/
  | challenge (slot : Byte) (summary : Bool)
  /-- A response signed by ECDSA, or FINISH: the slot and the signature. -/
  | signed (slot : Byte) (sig : Bytes)
  /-- GET_MEASUREMENTS for all blocks with a signature. -/
  | measureAll
  /-- MEASUREMENTS: the blocks as (index, content), the signature. -/
  | measurements (blocks : List (Byte × Bytes)) (sig : Bytes)
  /-- KEY_EXCHANGE: the slot, the DHE share. -/
  | keyExchange (slot : Byte) (share : Bytes)
  /-- KEY_EXCHANGE_RSP: the DHE share, MutAuthRequested with no encapsulated flow, the signature. -/
  | keyExchangeRsp (share : Bytes) (mutAuth : Bool) (sig : Bytes)
  /-- KEY_UPDATE with the operation UpdateAllKeys. -/
  | updateAllKeys
  | error (code : Byte)
  deriving DecidableEq, Repr

/-- An envelope header (R135): `resv` is the reserved word. -/
structure EnvHead where
  version    : Byte
  kind       : Byte
  msgId      : BitVec 16
  domainId   : BitVec 32
  src        : MemberRef
  dst        : MemberRef
  totalLen   : BitVec 16
  fragOffset : BitVec 16
  fragLen    : BitVec 16
  spdmLen    : BitVec 16
  resv       : Word
  deriving DecidableEq, Repr

/-- What an SPDM response brings to the checker of R145. Signatures and chains are verified outside the model's reach (the SPDM message formats are not the spec's): the operand is the verdict (log entry 6). -/
inductive SpdmResp where
  /-- VERSION; whether 1.3 is offered (R139). -/
  | version (ok : Bool)
  | capabilities (ok : Bool)
  /-- ALGORITHMS; whether the profile's algorithms were agreed (R139). -/
  | algorithms (ok : Bool)
  | digests
  /-- CERTIFICATE: chain well formed and signed, self-issued Open chain, ends at the provisioning root, SHA-384 of the leaf (R143). -/
  | certificate (chainOk selfIssued atRoot : Bool) (leaf : Digest)
  /-- CHALLENGE_AUTH: the two signature halves (R141). -/
  | challengeAuth (ecdsaOk mldsaOk : Bool)
  /-- MEASUREMENTS: the signature halves and the reported blocks as (index, value) (R146). -/
  | measurements (ecdsaOk mldsaOk : Bool) (blocks : List (Byte × Digest)) (lcWord : Word)
  /-- KEY_EXCHANGE_RSP: the signature halves, the DHE share and the ML-KEM ciphertext (R141, R142). -/
  | keyExchangeRsp (ecdsaOk mldsaOk : Bool) (share kemCt : Bytes)
  /-- FINISH_RSP. -/
  | finishRsp
  /-- KEY_UPDATE_ACK. -/
  | keyUpdateAck
  /-- END_SESSION_ACK. -/
  | endSessionAck
  /-- ERROR Busy (R144). -/
  | busy
  /-- ERROR UnsupportedRequest (R139). -/
  | unsupported
  deriving DecidableEq, Repr

/-- The operation of a domain request (R276). -/
inductive DomOp where
  | read
  | write (data : Line)
  /-- `AOP` code, operands A and B. -/
  | atomic (aop : BitVec 4) (a b : Word)
  deriving DecidableEq, Repr

/-- The object an HBM or tray fetch names (R275): level 0 a counter block, level k a node, a tag-area line, or a data line. -/
inductive MemObj where
  | node (level : Nat) (index : Nat)
  | tagLine (index : Nat)
  | dataLine (index : Nat)
  deriving DecidableEq, Repr

/-- The header of a transaction message (R283) without its type. -/
structure Xact where
  status   : Byte
  tag      : BitVec 14
  regionId : BitVec 32
  dseq     : Word
  aux      : Word
  offset   : BitVec 48
  count    : BitVec 3
  acquire  : Bool
  abandon  : Bool
  deriving DecidableEq, Repr

/-- A tray response (R280). -/
structure TrayRsp where
  op      : BitVec 4
  count   : BitVec 3
  reqPart : BitVec 3
  tag     : BitVec 14
  node    : BitVec 16
  offset  : BitVec 48
  mstat   : BitVec 14
  lines   : List Line
  deriving DecidableEq, Repr

/-- An H2D bounce record (R349): header fields, payload ciphertext and tag. -/
structure BounceRec where
  rtype   : Byte
  status  : Byte
  reqId   : BitVec 16
  length  : BitVec 16
  psize   : Bool
  resv    : Bool
  seq     : Word
  addr    : BitVec 57
  payload : Bytes
  tag     : BitVec 128
  deriving DecidableEq, Repr

/-- A clamp notice (R372): suspects as (`REGION_ID`, `PAGE`). -/
structure ClampNotice where
  tick     : Word
  domainId : BitVec 32
  clamping : MemberRef
  cause    : Byte
  suspects : List (BitVec 32 × Word)
  mac      : BitVec 128
  deriving DecidableEq, Repr

/-- A cipher request (R175). `groups` above 64 are issued as consecutive requests of at most 64; `tag` says that the work ends in a GHASH tag (R168), and `seals` is the number of counted encryptions it makes (R125). -/
structure CipherReq where
  part   : Part
  slot   : Slot
  gen    : BitVec 16
  use    : BitVec 3      -- bit 0 encrypt, 1 decrypt, 2 MAC
  ctr    : BitVec 128
  groups : Nat
  pinned : Bool
  ret    : Nat
  tag    : Bool
  seals  : Nat
  deriving DecidableEq, Repr

/-- How a running reset's scope ends or is named (R378). -/
inductive ResetScope where
  | context (p : Part) (engine : BitVec 16)
  | engine (i : Island)
  | partition (p : Part)
  | chip
  | powerCycle
  deriving DecidableEq, Repr

/-- What a periodic core test finds (R185): the right answer, a mismatch of the copies, a wrong answer on which both agree, or a failed GHASH test. -/
inductive CoreTest where
  | pass
  | mismatch
  | wrongBoth
  | ghash
  deriving DecidableEq, Repr

/-- The pairwise-consistency or verify-after-sign test of a key pair drawn or a signature made (R185): passed, passed at the second try, or failed twice. -/
inductive SelfTest where
  | pass
  | retry
  | fail
  deriving DecidableEq, Repr

/-- What a debugger does through `TC_DBG` (R103): TC halt and its end, one step, memory access. -/
inductive TcDbg where
  | halt
  | resume
  | step
  | memRead (addr : Word)
  | memWrite (addr val : Word)
  deriving DecidableEq, Repr

/-- The commands. -/
inductive Instr where
  -- host access
  /-- R7 -/
  | registerWrite (off : BitVec 24) (val : Word)
  /-- R6: offset, size in bytes, direction -/
  | hostAccessSize (off : BitVec 24) (size : Byte) (isWrite : Bool)
  -- clocks, timebase, Shim
  /-- R31 -/
  | clockLock
  /-- R33 -/
  | tbLoadFrame (count : Word) (crcOk : Bool)
  /-- R34 -/
  | tickFloorWrite
  /-- R35 -/
  | tbSync
  /-- R35: the island, the master count TC sent, and the verdict of the CRC of R129 -/
  | tickSync (isl : Island) (c : Word) (crcOk : Bool)
  /-- R36 -/
  | timebaseLost (kind : TbLoss)
  /-- R38 -/
  | shimRelease (lane : Lane)
  /-- R44 -/
  | islandSleep (isl : Island)
  /-- R44 -/
  | islandWake (isl : Island)
  /-- R45: whether the domain now runs from `VBAT` -/
  | batterySupplySwitch (toVbat : Bool)
  /-- R52: `RST_KIND`, the self-tests' verdict (R184), the log's integrity word (R384) -/
  | chipRstRelease (kind : Bool) (testsOk logOk : Bool)
  /-- R51 -/
  | haltAck
  -- supply
  /-- R384: the `SM_WARN` bits asserted -/
  | supplyWarn (bits : BitVec 5)
  /-- R169 -/
  | supplyWarnEnd (supply : Fin 5)
  /-- R384: the verdict of the key-store check -/
  | supplyRecover (pass : Bool)
  /-- R384 -/
  | supplyTrip (bits : BitVec 5)
  -- sideband
  /-- R49: the dynamic address assigned -/
  | i3cEntdaa (addr : BitVec 7)
  | i3cRstdaa
  | i3cEnec
  | i3cDisec
  | i3cGetpid
  | i3cGetbcr
  | i3cGetdcr
  | i3cGetstatus
  /-- R49: the reset action byte -/
  | i3cRstact (action : Byte)
  /-- R383 -/
  | i3cPrivateRead
  | i3cPowerCycleAck
  | i3cChipResetRequest
  | powerCycleIbiRepeat
  -- test access port
  /-- R50 -/
  | jtagExtest
  | jtagIdcode
  | jtagSamplePreload
  /-- R50: the instruction code shifted in -/
  | jtagBypass (code : Byte)
  /-- R103 -/
  | jtagIntScan
  /-- R103: the debug access made -/
  | jtagTcDbg (op : TcDbg)
  /-- R32, R103: the spread-off control's new value -/
  | jtagClkCtl (spreadOff : Bool)
  | jtagFuseRead
  -- telemetry
  /-- R392 -/
  | telemetryPosting (powerMw : BitVec 32) (throttle : BitVec 2) (seq tempFab : BitVec 16) (tempCmp : List (BitVec 16))
  /-- R393 -/
  | telemetryWindowEnd (owner : Owner)
  | throttlePeriodEnd (owner : Owner)
  -- the Jig
  /-- R75 -/
  | cmdJigLoad (ctx : CmdCtx) (part : Part) (replace : Bool) (addr : Word) (length : BitVec 32)
  /-- R76: the staged copy, or none when the DMA failed -/
  | jigStagedCheck (image : Option Bytes)
  /-- R80 -/
  | jigCommitPoint (part : Part)
  | jigActivate (part : Part)
  /-- R84 -/
  | mboxReadDigests (part : Part)
  | mboxReadDecisions (part : Part) (arg : BitVec 32)
  | mboxReadHeader (part : Part)
  -- root and lifecycle
  /-- R90: the sensor, and whether the overwrite of an earlier trip still runs -/
  | tamperTrip (sensor : Fin 8) (overwriting : Bool)
  /-- R91 -/
  | tamperZeroised
  /-- R86 -/
  | rootFlip
  /-- R109: whether `VBAT` is in range -/
  | genRoot (vbatOk : Bool)
  | arm (mask : Byte)
  | close
  /-- R101: the token read from the host, or none when the DMA failed -/
  | reopen (token : Option Bytes)
  /-- R109: whether the DMA succeeds -/
  | readId (dmaOk : Bool)
  /-- R97: the certificate read from the host, or none when the DMA failed -/
  | burnCert (cert : Option Bytes)
  /-- R109: whether the DMA succeeds -/
  | readCert (dmaOk : Bool)
  /-- R108 -/
  | lcBootWrite (val : Word)
  /-- R106: the bundle, or none when the DMA failed -/
  | bootBundleFetched (bundle : Option Bytes)
  /-- R108: the bits written as 1 -/
  | tamperLatchClear (mask : Byte)
  -- keys
  /-- R132 -/
  | cmdKeyDerive (ctx : CmdCtx) (parent : Slot) (uses : BitVec 3) (exportable : Bool) (limitExp : BitVec 6) (target : Slot) (label : BitVec 256)
  | cmdKeyReplace (ctx : CmdCtx) (slot : Slot) (commitTick : Word)
  | cmdKeyInvalidate (ctx : CmdCtx) (slot : Slot)
  /-- R127: with whether the DMA of the blob succeeds -/
  | cmdKeyWrap (ctx : CmdCtx) (slot : Slot) (dest : MemberRef) (addr : Word) (dmaOk : Bool)
  /-- R117, with the verdict of the CRC of R129 -/
  | kdrKill (isl : Island) (slot : Slot) (crcOk : Bool)
  /-- R129 -/
  | kdrAcknowledge (isl : Island) (slot : Slot) (crcOk : Bool)
  /-- R118 -/
  | orphanZeroed (slot : Slot)
  /-- R121: whether the island cores' results agree with the key unit's, and the island that disagrees -/
  | knownAnswerCheck (slot : Slot) (agree : Bool) (isl : Island)
  /-- R122 -/
  | keyConfirm (sec : Sec) (kind : Byte) (generation : BitVec 16) (context kcv : Word)
  /-- R123 -/
  | keyConfirmDeadline (slot : Slot)
  /-- R124 -/
  | keyReplaceCommit (slot : Slot)
  /-- R120 -/
  | keyRetire (slot : Slot)
  /-- R126, with the verdict of the CRC of R129 -/
  | keyLimitNear (isl : Island) (slot : Slot) (crcOk : Bool)
  | keyLimitReached (isl : Island) (slot : Slot) (crcOk : Bool)
  /-- R131 -/
  | keyCountReport (isl : Island) (slot : Slot) (crcOk : Bool)
  /-- R129: with the CRC verdict -/
  | kdrKeyLoad (isl : Island) (slot : Slot) (crcOk : Bool)
  /-- R130 -/
  | keyCacheMiss (isl : Island) (part : Part) (slot : Slot) (crcOk : Bool)
  | keyEpochPreload (part : Part)
  /-- R149: the admitter's term, and (`GROUP_ID`, blob) entries -/
  | keyDeliver (sec : Sec) (term : BitVec 32) (entries : List (BitVec 32 × Bytes))
  -- Dovetail: envelopes and discovery
  /-- R135 -/
  | envelopeFragment (part : Part) (hd : EnvHead) (data : Bytes)
  /-- R136 -/
  | envelopeReassemblyTimeout (part : Part) (src : MemberRef) (msgId : BitVec 16)
  /-- R138 -/
  | announcementSend (part : Part)
  | announcement (part : Part) (a : Announce)
  -- Dovetail: SPDM
  -- `msg` is the message with its companion, as the SPDM transcript takes it (R141)
  /-- R140 -/
  | getVersion (part : Part) (peer : MemberRef) (msg : Bytes)
  | getCapabilities (part : Part) (peer : MemberRef) (msg : Bytes)
  /-- R139: whether the offer includes the profile -/
  | negotiateAlgorithms (part : Part) (peer : MemberRef) (offerOk : Bool) (msg : Bytes)
  | getDigests (part : Part) (peer : MemberRef) (msg : Bytes)
  | getCertificate (part : Part) (peer : MemberRef) (msg : Bytes)
  /-- R141, and the test of the signature it asks for (R185) -/
  | challenge (part : Part) (peer : MemberRef) (msg : Bytes) (test : SelfTest)
  /-- R140, and the tests of the signature and of the key pair of a KEY_EXCHANGE that follows (R185) -/
  | getMeasurements (part : Part) (peer : MemberRef) (msg : Bytes) (test : SelfTest)
  /-- R142: the requester's encapsulation key and DHE share, and the tests of the key pair and the signature (R185) -/
  | keyExchange (part : Part) (peer : MemberRef) (ek share msg : Bytes) (test : SelfTest)
  /-- R140: the requester's two signature halves -/
  | finish (part : Part) (peer : MemberRef) (ecdsaOk mldsaOk : Bool) (msg : Bytes)
  | keyUpdate (sec : Sec)
  | endSession (sec : Sec)
  /-- R145, and the tests of the key pair or signature of the request that follows (R185) -/
  | spdmResponse (part : Part) (peer : MemberRef) (rsp : SpdmResp) (msg : Bytes) (test : SelfTest)
  /-- R144 -/
  | spdmRequestTimeout (part : Part) (peer : MemberRef)
  | busyRetry (part : Part) (peer : MemberRef)
  /-- R159 -/
  | admissionRetry (part : Part) (peer : MemberRef)
  -- Dovetail: session messages
  /-- R148 -/
  | join (sec : Sec) (body : Join)
  | joinAck (sec : Sec) (reason : BitVec 16)
  /-- R149 -/
  | keyFetch (sec : Sec) (groups : List (BitVec 32))
  /-- R151 -/
  | rosterClaim (sec : Sec) (index : BitVec 16) (tag : BitVec 128)
  | rosterGrant (sec : Sec) (index : BitVec 16) (reason : BitVec 16) (term : BitVec 32)
  /-- R150 -/
  | rosterSync (sec : Sec) (entry : RosterEntry)
  | rosterSyncAck (sec : Sec) (index : BitVec 16)
  /-- R153 -/
  | heartbeatSend (part : Part)
  | heartbeat (sec : Sec) (term : BitVec 32) (rosterSeq : BitVec 32)
  | heartbeatLost (part : Part)
  /-- R154 -/
  | takeover (sec : Sec) (term : BitVec 32) (newAnchor : BitVec 16)
  /-- R156 -/
  | depart (sec : Sec) (member : MemberRef) (cause : Byte) (epoch : BitVec 24)
  /-- R147 -/
  | probe (sec : Sec)
  | probeAck (sec : Sec)
  | probeTimeout (part : Part) (peer : MemberRef)
  | keyUpdateTrigger (part : Part) (peer : MemberRef)
  /-- R157 -/
  | departureEffective (part : Part) (member : MemberRef)
  /-- R165 -/
  | formationLate (part : Part)
  /-- R152 -/
  | delegateAbsent (part : Part)
  /-- R411 -/
  | envelopePortFailover (part : Part) (member : MemberRef)
  /-- R161 -/
  | cmdPeerAdmit (ctx : CmdCtx) (peer : MemberRef) (manual : Bool) (deleg : BitVec 4) (relay : Word)
  | cmdPeerRelease (ctx : CmdCtx) (peer : MemberRef)
  -- the sealing fabric
  /-- R175 -/
  | cipherRequest (isl : Island) (req : CipherReq)
  /-- R179 -/
  | coreWindowStart (isl : Island)
  /-- R168: the core, whether the copies agree -/
  | cipherGroupCompare (isl : Island) (core : Nat) (agree : Bool)
  /-- R181 -/
  | gridSwitch (isl : Island)
  /-- R185: the core, what the test finds, whether it had to take a cycle -/
  | periodicCoreTest (isl : Island) (core : Nat) (found : CoreTest) (forced : Bool)
  | drbgReseed
  | entropyWaitTimeout (part : Part)
  -- optical links
  /-- R37: the slot's data presented at start point `slotTick` -/
  | streamSlotData (part : Part) (port : Port) (slotTick : Word) (data : Bytes)
  /-- R202 -/
  | egressFrameStart (port : Port)
  /-- R194: side word node and partition, and the frame -/
  | frameReceived (port : Port) (sideNode : BitVec 16) (sidePart : Part) (frame : Bytes)
  /-- R198 -/
  | syncReq (part : Part) (port : Port) (sender target : BitVec 16) (stream : Byte) (challenge : Word) (epoch : BitVec 24)
  | syncAck (part : Part) (port : Port) (sender : BitVec 16) (sport : BitVec 6) (stream : Byte) (challenge : Word) (floor : BitVec 48)
  | syncReqRetry (part : Part) (port : Port) (sender : BitVec 16) (stream : Byte)
  /-- R200 -/
  | rekeyStart (part : Part)
  | epochBoundary (part : Part)
  /-- R193 -/
  | staleDrop (part : Part)
  /-- R200 -/
  | kerfEnd (part : Part)
  /-- R201 -/
  | rekeyRetry (part : Part) (port : Port)
  /-- R208 -/
  | portModeWrite (port : Port) (mode : BitVec 2)
  | portModeDrained (port : Port)
  /-- R210: the register word written -/
  | patternCtlWrite (port : Port) (val : Word)
  /-- R209 -/
  | patternInject (port : Port)
  /-- R207 -/
  | queueSample
  /-- R212 -/
  | qselWrite (le : Fin 16) (part : Part) (val : Word)
  -- Veneer
  /-- R231 -/
  | veneerStepStart (part : Part) (group : BitVec 32)
  /-- R234 -/
  | cmdVeneerGroup (ctx : CmdCtx) (group : BitVec 32) (op : BitVec 2) (tableSrc : Bool) (firstStep table : Word)
  -- memory
  /-- R306: die, partition, PASID, engine, operation, address, whether it is marked scheduled (R256), and whether the DMA of a fault-ring entry it may write succeeds (R315) -/
  | domainRequest (die : Fin 4) (part : Part) (pasid : BitVec 20) (engine : BitVec 16) (op : DomOp) (addr : BitVec 57) (scheduled ringOk : Bool)
  /-- R269: the ME, the region, the object, the memory status and the content -/
  | hbmResponse (me : Fin 8) (region : BitVec 10) (obj : MemObj) (status : BitVec 2) (data : Line)
  /-- R251 -/
  | reencryptionDone (me : Fin 8) (part : Part) (slot : Fin 2)
  /-- R256: region handle, page, mask of lines, first data tick -/
  | stageRequest (part : Part) (region : BitVec 10) (page : Nat) (lines : BitVec 64) (dataTick : Word)
  /-- R258 -/
  | scrubStep (me : Fin 8) (part : Part)
  /-- R259 -/
  | sweepStep (part : Part) (region : BitVec 10)
  /-- R271: the ME, the region identifier -/
  | memClearDone (me : Fin 8) (regionId : BitVec 32)
  /-- R261 -/
  | token (sec : Sec) (tok : Token)
  /-- R262 -/
  | tokenAck (sec : Sec) (regionId : BitVec 32) (tokenSeq : Word)
  /-- R260 -/
  | intent (sec : Sec) (regionId : BitVec 32) (tokenSeq : Word) (entries : List IntentEntry)
  | intentAck (sec : Sec) (regionId : BitVec 32) (tokenSeq : Word)
  /-- R263 -/
  | readOpen (sec : Sec) (regionId : BitVec 32)
  | readClose (sec : Sec) (regionId : BitVec 32)
  /-- R264 -/
  | reverify (sec : Sec) (regionId : BitVec 32) (page tokenSeq : Word)
  /-- R270 -/
  | repairReq (sec : Sec) (regionId : BitVec 32) (level : Byte) (index : Word)
  /-- R266 -/
  | handoff (sec : Sec) (tok : Token)
  /-- R268 -/
  | refuse (sec : Sec) (regionId : BitVec 32) (status : Byte)
  /-- R265 -/
  | relay (sec : Sec) (dests : List (BitVec 16)) (tok : Token)
  | mirrorTakeover (part : Part) (regionId : BitVec 32)
  /-- R270: the children fetched, as (status, content), in ascending order -/
  | repairDone (part : Part) (region : BitVec 10) (level : Nat) (index : Nat) (children : List (BitVec 2 × Line))
  /-- R268 -/
  | regionOpenTimeout (part : Part) (region : BitVec 10)
  /-- R272 -/
  | cmdRegionOpen (ctx : CmdCtx) (window : Fin 16) (treeMe : BitVec 4)
  | cmdRegionHandoff (ctx : CmdCtx) (region : BitVec 10)
  | cmdRegionClear (ctx : CmdCtx) (region : BitVec 10)
  -- transactions
  /-- R287: receiving partition, sending member, header -/
  | read (part : Part) (peer : BitVec 16) (x : Xact)
  | write (part : Part) (peer : BitVec 16) (x : Xact) (lines : List Line)
  | atomic (part : Part) (peer : BitVec 16) (x : Xact) (aop : Byte) (a b : Word)
  /-- R296 -/
  | fenceReq (part : Part) (peer : BitVec 16) (x : Xact)
  /-- R284 -/
  | readRsp (part : Part) (peer : BitVec 16) (x : Xact) (lines : List Line)
  | writeAck (part : Part) (peer : BitVec 16) (x : Xact)
  | atomicRsp (part : Part) (peer : BitVec 16) (x : Xact) (old : Word)
  | fenceAck (part : Part) (peer : BitVec 16) (x : Xact) (tokenSeq : Word)
  /-- R297 -/
  | computeDieFence (die : Fin 4) (part : Part)
  /-- R282 -/
  | trayResponse (part : Part) (r : TrayRsp)
  /-- R288 -/
  | retransmit (part : Part) (tag : Fin 2048)
  | abandonCopy (part : Part) (tag : Fin 2048)
  /-- R292 -/
  | atomicWindowExpire (part : Part) (peer : BitVec 16) (dseq : Word)
  /-- R297 -/
  | fenceReqResend (part : Part) (peer : BitVec 16)
  /-- R295 -/
  | acquireTimeout (part : Part) (regionId : BitVec 32)
  /-- R298 -/
  | tagQuarantineEnd (part : Part) (tag : Fin 2048)
  -- translation
  /-- R316 -/
  | stallEscalate (part : Part) (engine : BitVec 16)
  /-- R314 -/
  | fdoneReplay (part : Part) (faultId : BitVec 16)
  | fdoneFail (part : Part) (faultId : BitVec 16)
  /-- R314: the new consumer index, whether the entries' DMA succeeds -/
  | faultRingConsume (part : Part) (rd : BitVec 10) (dmaOk : Bool)
  /-- R315: the register word written, whether the entries' DMA succeeds -/
  | faultRingEnable (part : Part) (val : Word) (dmaOk : Bool)
  /-- R318 -/
  | cmdPrefetch (ctx : CmdCtx) (addr : BitVec 57) (pages : BitVec 16) (psize : Bool) (dest : BitVec 2) (bounce : BitVec 6) (reserve : BitVec 10)
  | cmdAdvise (ctx : CmdCtx) (addr : BitVec 57) (pages : BitVec 16) (psize : Bool) (advice : BitVec 4)
  /-- R320 -/
  | cmdInvalidateXlat (ctx : CmdCtx) (addr : BitVec 57) (pages : BitVec 16) (psize withdraw : Bool)
  /-- R319 -/
  | epochDrainDone (part : Part)
  /-- R318 -/
  | pageMoveDone (part : Part)
  | evictMove (part : Part)
  /-- R322 -/
  | portMoved (part : Part) (port : Port)
  /-- R324: the register word written -/
  | pinWrite (part : Part) (val : Word)
  -- host interface
  /-- R328: the entry, whether the quota word, the value -/
  | sliceWrite (entry : Fin 64) (quota : Bool) (val : Word)
  /-- R330: the word written to `SWY_PART_QNEW_n` -/
  | queueCreate (part : Part) (val : Word)
  /-- R331 -/
  | sqTailWrite (queue : BitVec 8) (index : BitVec 32)
  /-- R332 -/
  | cqHeadWrite (queue : BitVec 8) (index : BitVec 32)
  /-- R331: the 64 B descriptor at `SQ_HEAD`, or none when the ring DMA failed; whether a DMA write of the completion ring has failed -/
  | descriptorFetch (queue : BitVec 8) (desc : Option Line) (cqFail : Bool)
  /-- R337 -/
  | cmdPartCreate (ctx : CmdCtx) (part : Part)
  /-- R338 -/
  | cmdFence (ctx : CmdCtx) (mode : BitVec 2) (shared : Bool) (acqCount : BitVec 3) (fence : BitVec 32) (acq : List (BitVec 16))
  /-- R341 -/
  | cmdAbort (ctx : CmdCtx) (queue : BitVec 8) (target : BitVec 32)
  /-- R343 -/
  | cmdObjFree (ctx : CmdCtx) (otype : Byte) (abortRefs : Bool) (handle : BitVec 32)
  /-- R340 -/
  | cmdQuery (ctx : CmdCtx) (selector : BitVec 16) (arg : BitVec 32) (addr : Word) (len : BitVec 32) (dmaOk : Bool)
  /-- R348 -/
  | cmdBounceOpen (ctx : CmdCtx) (host : BitVec 16) (slotsLog : BitVec 4) (h2dBase d2hBase : Word) (window : Byte)
  /-- R347: the host member, the indices read from the relay area -/
  | relayDoorbell (part : Part) (host : BitVec 16) (inProd outCons : BitVec 32)
  /-- R354 -/
  | h2dTailWrite (window : BitVec 6) (tail : BitVec 32)
  /-- R350: the record at `H2D_HEAD` -/
  | bounceWrite (window : BitVec 6) (r : BounceRec)
  | readReq (window : BitVec 6) (r : BounceRec)
  | pageData (window : BitVec 6) (r : BounceRec)
  | flush (window : BitVec 6) (r : BounceRec)
  /-- R351 -/
  | d2hHeadWrite (window : BitVec 6) (head : BitVec 32)
  | bouncePageTimeout (window : BitVec 6)
  -- interrupts
  /-- R362 -/
  | interruptDelivery
  /-- R363 -/
  | interruptDone (owner : Owner) (source : BitVec 10)
  /-- R364 -/
  | interruptSetpend (owner : Owner) (source : BitVec 10)
  -- Clamp, resets, log
  /-- R370 -/
  | clampEnd
  /-- R373 -/
  | clampNotice (sec : Sec) (n : ClampNotice)
  /-- R377: whether the DMA of the sample succeeded, the plaintext of its stacked SRAM ranges -/
  | sampleSealed (part : Part) (dmaOk : Bool) (content : Bytes)
  /-- R380 -/
  | rstReqContext (part : Part) (engine : BitVec 16)
  | rstReqPartition (part : Part)
  | rstOpEngine (code : Byte)
  | rstOpChip
  | rstOpPowerCycle
  /-- R378 -/
  | resetComplete (scope : ResetScope)
  /-- R381 -/
  | resetBoundExpire (scope : ResetScope)
  /-- R382 -/
  | compatOosClear
  /-- R388 -/
  | logDataRead (owner : Owner)
  -- pins and levels
  /-- R358 -/
  | linkUpChange (port : Port) (up : Bool)
  /-- R274 -/
  | hbmReadyChange (me : Fin 8) (ready : Bool)
  /-- R169 -/
  | smWarnRelease (supply : Fin 5)
  /-- R52 -/
  | chipRstAssert
  /-- R89 -/
  | batteryPowerLoss
  /-- R185 -/
  | entropyHealthFail
  | entropySourceRecovered
  deriving DecidableEq, Repr

end Sys2Proof
end

