-- ==== Sys2Proof/WellFormed.lean ====
section
/-! DEFINITION. Which commands can occur: the bounds the spec sets on what arrives with a row's event. The meanings are total and do not rely on them. -/

namespace Sys2Proof

/-- The islands with cipher cores (R28, R175). -/
def Island.hasCores : Island → Bool
  | .le _ => true
  | .me _ => true
  | .hbe => true
  | _ => false

/-- The islands an engine reset can name (R378, R387). -/
def Island.resets : Island → Bool
  | .tc => false
  | .kdr => false
  | .battery => false
  | _ => true

/-- A transaction with `n` lines of data, as its `COUNT` says (R283). -/
def Xact.carries (x : Xact) (n : Nat) : Bool := decide (n = x.count.toNat + 1)

/-- A bounce record's payload is the length its header names (R349). -/
def BounceRec.filled (r : BounceRec) : Bool := decide (r.payload.length ≤ 4096)

/-- An instruction code that selects an instruction of its own (R50). -/
def jtagAssigned (c : Byte) : Bool := decide (c = 0x00 ∨ c = 0x01 ∨ c = 0x02)

/-- A reset that names an island it can reset. -/
def ResetScope.ok : ResetScope → Bool
  | .engine i => i.resets
  | _ => true

/-- A well-formed command. -/
def Instr.wf : Instr → Bool
  | .registerWrite off _ => decide (off.toNat % 8 = 0)
  | .tickSync isl _ _ => isl.resets
  | .islandSleep isl => isl.hasCores
  | .islandWake isl => isl.hasCores
  | .telemetryPosting _ _ _ _ temps => decide (temps.length ≤ 4)
  | .jtagBypass code => !jtagAssigned code
  | .kdrKill isl _ _ => isl.hasCores
  | .kdrAcknowledge isl _ _ => isl.hasCores
  | .kdrKeyLoad isl _ _ => isl.hasCores
  | .keyLimitNear isl _ _ => isl.hasCores
  | .keyLimitReached isl _ _ => isl.hasCores
  | .keyCountReport isl _ _ => isl.hasCores
  | .keyCacheMiss isl _ _ _ => isl.hasCores
  | .knownAnswerCheck _ _ isl => isl.hasCores
  | .cipherRequest isl req => isl.hasCores && decide (1 ≤ req.groups)
  | .coreWindowStart isl => isl.hasCores
  | .cipherGroupCompare isl core _ => isl.hasCores && decide (core < 24)
  | .gridSwitch isl => isl.hasCores
  | .periodicCoreTest isl core _ _ => isl.hasCores && decide (core < 24)
  | .write _ _ x lines => x.carries lines.length
  | .cmdFence _ _ _ _ _ acq => decide (acq.length ≤ 4)
  | .repairDone _ _ _ _ children => decide (children.length ≤ 8)
  | .bounceWrite _ r => r.filled
  | .readReq _ r => r.filled
  | .pageData _ r => r.filled
  | .flush _ r => r.filled
  | .clampNotice _ n => decide (n.suspects.length ≤ 256)
  | .resetComplete scope => scope.ok
  | .resetBoundExpire scope => scope.ok
  | _ => true

end Sys2Proof
end

