-- ==== Sys2Proof/Decode.lean ====
section
/-! DEFINITION. The decoder of the table's rows. No row of spec/opcode_table.json gives a bit of an encoding, so no word spells a command. -/

namespace Sys2Proof

/-- The command a word of `nbits` bits spells by the table: none, for every word. -/
def decodeTableWord (nbits w : Nat) : Option Instr :=
  match nbits, w with
  | _, _ => none

end Sys2Proof
end

