-- ==== Sys2Proof/Config.lean ====
section
/-! DEFINITION. What the spec names and does not define, as constants without a body: the cryptographic primitives of the public standards it cites (the spec gives their inputs, not their tables), the values each chip or implementation fixes, and the free values (every value the spec leaves open is one of these applied to plain data; nothing in Lean can evaluate them). Log entries 2, 3 and 4. -/

namespace Sys2Proof.Config

/-- DESIGN CHOICE (log entry 2). The forward AES-256 cipher (R167): key, block. -/
opaque aes256 : Key → BitVec 128 → BitVec 128

/-- DESIGN CHOICE (log entry 2). KMAC256 of key bytes, data bytes and a customisation string (R116); a narrower output takes the low bits. -/
opaque kmac256 : Bytes → Bytes → String → BitVec 512

/-- DESIGN CHOICE (log entry 2). KMAC256 of 2,048 bits with the customisation "SWY-VENEER-ALPHA" (R222): key bytes, data bytes. -/
opaque kmacAlpha : Bytes → Bytes → BitVec 2048

/-- DESIGN CHOICE (log entry 2). SHA-384. -/
opaque sha384 : Bytes → Digest

/-- DESIGN CHOICE (log entry 2). ECDSA P-384 verification: public key X then Y, message, signature r then s (R60). -/
opaque ecdsaVerify : Bytes → Bytes → Bytes → Bool

/-- DESIGN CHOICE (log entry 2). ML-DSA-87 verification in pure mode: public key, message, context string, signature (R60). -/
opaque mldsaVerify : Bytes → Bytes → String → Bytes → Bool

/-- DESIGN CHOICE (log entry 2). ML-KEM-1024 decapsulation under the key pair of the seeds d ‖ z (R59, R94, R142): seeds, ciphertext. -/
opaque mlkemDecap : BitVec 512 → Bytes → Key

/-- DESIGN CHOICE (log entry 2). ML-KEM-1024 encapsulation to a public key with fresh randomness: key, randomness; the ciphertext and the shared secret (R128). -/
opaque mlkemEncap : Bytes → Key → Bytes × Key

/-- DESIGN CHOICE (log entry 2). The ML-DSA-87 public key of a seed ξ (FIPS 204), 2,592 B. -/
opaque mldsaPublic : Key → BitVec 20736

/-- DESIGN CHOICE (log entry 2). The ECDSA P-384 public key of a private key d, X then Y, 96 B. -/
opaque ecdsaPublic : Nat → BitVec 768

/-- DESIGN CHOICE (log entry 2). The ML-KEM-1024 public key of the seeds d ‖ z (FIPS 203), 1,568 B. -/
opaque mlkemPublic : BitVec 512 → BitVec 12544

/-- DESIGN CHOICE (log entry 2). An ML-DSA-87 signature (4,627 B) under a seed ξ over a message with a context string, and an ECDSA P-384 signature, r then s (96 B), under a private key; deterministic signing. -/
opaque mldsaSign : Key → Bytes → String → BitVec 37016
opaque ecdsaSign : Nat → Bytes → BitVec 768

/-- DESIGN CHOICE (log entry 2). The DER encoding of a device certificate (R95): the subject serial number's characters, the subject's keys in the `OWNER_KEYS` layout, of which the ML-DSA-87 key is the subject public key and the other two stand in critical private extensions, and the seed ξ that signs it. -/
opaque certOf : Bytes → Bytes → Key → Bytes

/-- DESIGN CHOICE (log entry 2). The public keys a certificate carries, in the `OWNER_KEYS` layout, or none when it is not well formed (R95, R105). -/
opaque certKeys : Bytes → Option Bytes

/-- DESIGN CHOICE (log entry 3). The free value behind every draw of TC's CTR_DRBG (R185): the n-th draw of the run. -/
opaque drbg : Nat → BitVec 512

/-- DESIGN CHOICE (log entry 2). The ECDH P-384 shared secret of a private key and a partner's share (R142). -/
opaque ecdhP384 : Nat → Bytes → BitVec 384

/-- DESIGN CHOICE (log entry 6). SPDM 1.3, which the spec cites: the bytes of a message of a code with what it says; the message M a signature of a code covers, of the transcript so far; the transcript hash TH as of FINISH (R148) of the messages of an attempt, companions included; the export master secret of a DHE secret and TH (R116); a secured message of a session: its key, its identifier, whether its sender is the requester, its number, its plaintext. -/
opaque spdmBytes : Byte → SpdmBody → Bytes
opaque spdmSigned : Byte → List Bytes → Bytes
opaque transcriptHash : List Bytes → Digest
opaque exportSecret : BitVec 384 → Digest → Key
opaque securedMessage : Key → BitVec 32 → Bool → Nat → Bytes → Bytes

/-- The Dribex provisioning root certificate, whose digest mask ROM holds (R143). -/
opaque provisioningRoot : Bytes

/-- DESIGN CHOICE (log entry 3). A value the spec leaves open, the n-th of the run. -/
opaque openValue : Nat → BitVec 512

/-- DESIGN CHOICE (log entry 14). Where a member is on the fabric: its node in [15:0] and its partition on the package in [18:16] of the side word (R191); the spec names no source for them. Domain identifier, member reference. -/
opaque memberSide : BitVec 32 → MemberRef → BitVec 19
/-- DESIGN CHOICE (log entry 14). The fabric's discovery address of a domain (R138), as the side word holds it; the spec names no value. -/
opaque discoverySide : BitVec 32 → BitVec 19

/-- The 256-bit mask-ROM constant of the test root (R87). -/
opaque testRootKey : Key

/-- The known-answer keys mask ROM writes to slots 2 to 7 (R111). -/
opaque katKey : Nat → Key

/-- DESIGN CHOICE (log entry 16). Bytes of stacked SRAM a partition has for Veneer tables; the spec gives no size. -/
opaque stackedSram : Nat

/-- SHA-384 of the mask ROM, measurement block 1 (R107). -/
opaque romDigest : Digest

/-- The Dribex lifecycle keys (R101) and firmware keys (R104), whose digests mask ROM holds: ECDSA then ML-DSA. -/
opaque lifecycleKeys : Bytes × Bytes
opaque firmwareKeys : Bytes × Bytes

/-- The silicon revision of `SWY_GLB_ID.REV` and the `IDCODE` (R405), and Dribex's manufacturer code (R50). -/
opaque siliconRev : BitVec 4
opaque manufacturer : BitVec 11

/-- The I3C provisioned identifier, bus and device characteristics (R49): fixed per device. -/
opaque i3cPid : BitVec 48
opaque i3cBcr : Byte
opaque i3cDcr : Byte

/-- The I3C status word that GETSTATUS returns (R49): the spec gives the command, not the word's layout; a function of the sideband request code. -/
opaque i3cStatus : Byte → BitVec 16

end Sys2Proof.Config
end

