-- ==== Sys2Proof/Machine/Tab.lean ====
section
/-! DEFINITION. Sparse tables: a list of (key, value) pairs in strictly rising key order. Every indexed piece of state (registers with several instances, slots, queues, regions) is held this way; a key that is not listed has the default the reader names. -/

namespace Sys2Proof.Machine

/-- A sparse table. -/
abbrev Tab (α : Type) := List (Nat × α)

/-- The value at key `k`, if listed. -/
def Tab.get? {α : Type} : Tab α → Nat → Option α
  | [], _ => none
  | (j, v) :: t, k => if j = k then some v else Tab.get? t k

/-- The value at key `k`, or `d` when unlisted. -/
def Tab.getD {α : Type} (t : Tab α) (k : Nat) (d : α) : α := (Tab.get? t k).getD d

/-- Whether key `k` is listed. -/
def Tab.has {α : Type} (t : Tab α) (k : Nat) : Bool := (Tab.get? t k).isSome

/-- Lists `v` at key `k`, in key order. -/
def Tab.set {α : Type} : Tab α → Nat → α → Tab α
  | [], k, v => [(k, v)]
  | (j, w) :: t, k, v =>
    if k < j then (k, v) :: (j, w) :: t
    else if k = j then (k, v) :: t
    else (j, w) :: Tab.set t k v

/-- Unlists key `k`. -/
def Tab.del {α : Type} : Tab α → Nat → Tab α
  | [], _ => []
  | (j, w) :: t, k => if j = k then Tab.del t k else (j, w) :: Tab.del t k

/-- Applies `f` to the value at `k`, taking `d` for an unlisted key. -/
def Tab.upd {α : Type} (t : Tab α) (k : Nat) (d : α) (f : α → α) : Tab α :=
  Tab.set t k (f (Tab.getD t k d))

/-- Applies `f` to every listed value. -/
def Tab.mapV {α : Type} (t : Tab α) (f : Nat → α → α) : Tab α := t.map fun p => (p.1, f p.1 p.2)

/-- Keeps the entries `f` accepts. -/
def Tab.keep {α : Type} (t : Tab α) (f : Nat → α → Bool) : Tab α := t.filter fun p => f p.1 p.2

/-- The listed values that `f` accepts are counted. -/
def Tab.count {α : Type} (t : Tab α) (f : Nat → α → Bool) : Nat := (t.filter fun p => f p.1 p.2).length

/-- The lowest key at or above `k`, among the next `n`, that is not listed. -/
def Tab.lowestFree {α : Type} (t : Tab α) (k : Nat) : Nat → Option Nat
  | 0 => none
  | n + 1 => if Tab.has t k then Tab.lowestFree t (k + 1) n else some k

/-- Keys rise strictly: the canonical form. -/
def Tab.wf {α : Type} : Tab α → Bool
  | [] => true
  | (j, _) :: t => (match t with | [] => true | (k, _) :: _ => decide (j < k)) && Tab.wf t

end Sys2Proof.Machine
end

