-- ==== Sys2Proof/Machine/State.lean ====
section
/-! DEFINITION. The state of the block as plain data: the queue of waiting commands, the parts no reset reaches (configuration, fuses, battery domain), and everything else; the state after reset; the ways a step can stop. Indexed state is sparse (`Tab`): an unlisted key holds the default named at its structure. -/

namespace Sys2Proof.Machine

/-- The four configurations (R1, R2). -/
inductive Cfg where
  | s | m | l | x
  deriving DecidableEq, Repr

/-! ### The parts no reset reaches -/

/-- The lifecycle fuse area (R96). Every burn sets cells; none is ever cleared. A mark is two cells: `mark` holds the eight cells of M0 to M3 in the order of bits [7:0]. -/
structure Fuses where
  /-- Records 0 to 15, 64 bits each (R96). -/
  records   : Tab Word
  /-- Certificate slots 0 to 7 (R96). -/
  certSlots : Tab Digest
  /-- The chip serial (R87). -/
  serial    : Word
  /-- The firmware floor word (R96, R107). -/
  floor     : Word
  deriving DecidableEq, Repr

/-- The battery domain (R85 to R91, R34, R45). -/
structure Battery where
  /-- `ENTROPY` of the root array, 4,064 B (R85). -/
  entropy   : BitVec 32512
  /-- `CHECK` of the root array (R85). -/
  check     : BitVec 256
  /-- Stored in inverted form (R86). -/
  inverted  : Bool
  /-- The arm mask (R88, R89). -/
  armMask   : Byte
  /-- `SWY_LC_TAMPER.LATCH`, `FIRST`, `ZERO_COUNT` (R108). -/
  latch     : Byte
  first     : Byte
  zeroCount : BitVec 24
  /-- The tick floor (R34). -/
  tickFloor : Word
  /-- Running from `VBAT` (R45). -/
  onVbat    : Bool
  /-- A zeroisation TC has not yet acted on, and one it has not yet recorded because the tick counter was not loaded (R91). -/
  zeroised  : Bool
  unreported : Bool
  deriving DecidableEq, Repr

structure Hard where
  cfg  : Cfg
  fuse : Fuses
  bat  : Battery
  deriving DecidableEq, Repr

/-! ### Trouble log (R386 to R390) -/

/-- One log entry (R387). `nums` gives its number in each view it entered: views 0 to 7 are the partitions', view 8 the operator's (R388). -/
structure LogEntry where
  tick   : Word
  code   : BitVec 16
  island : Byte
  part   : Byte
  sev    : BitVec 4
  view   : BitVec 4
  args   : BitVec 128
  nums   : Tab Nat
  deriving DecidableEq, Repr

/-- The registers of one log page (R390). -/
structure LogPage where
  wr   : BitVec 32
  rd   : BitVec 32
  lost : BitVec 32
  gone : Bool
  deriving DecidableEq, Repr

/-- What limits an event (R213): the key, the tick of its last entry, the occurrences since. -/
structure Limit where
  code  : BitVec 16
  part  : Nat
  obj   : Nat
  tick  : Word
  count : Nat
  deriving DecidableEq, Repr

structure TroubleLog where
  /-- Parts 0 to 7 (448 entries each) and part 8, the global part (512), oldest first. -/
  rings  : Tab (List LogEntry)
  pages  : Tab LogPage
  limits : List Limit
  deriving DecidableEq, Repr

/-! ### Interrupt controller (R358 to R368) -/

/-- One source. `cond` is the level condition or the S, M latch; `requeued` marks a return to pending from active-and-pending (R362). -/
structure Src where
  state    : BitVec 2
  vector   : BitVec 11
  prio     : BitVec 2
  mask     : Bool
  cond     : Bool
  requeued : Bool
  owner    : Option Owner
  deriving DecidableEq, Repr

/-- One owner's page (R368). -/
structure IcPage where
  pmask  : Bool
  thresh : BitVec 2
  stray  : BitVec 32
  sel    : BitVec 10
  deriving DecidableEq, Repr

structure Ic where
  srcs       : Tab Src
  /-- Pages of owners 0 to 7 and, at 8, the operator. -/
  pages      : Tab IcPage
  strayTotal : BitVec 32
  /-- The owner served next (R362). -/
  turn       : Nat
  deriving DecidableEq, Repr

/-! ### Key store (R111 to R133) -/

/-- The attribute word (R113), field by field. `uses` is bits [9:4]: encrypt, decrypt, derive, wrap, MAC, Veneer. -/
structure Attr where
  st         : BitVec 2
  limitExp   : BitVec 6
  generation : BitVec 16
  parent     : Slot
  owner      : BitVec 4
  testRoot   : Bool
  exportable : Bool
  uses       : BitVec 6
  type       : BitVec 4
  deriving DecidableEq, Repr

/-- One slot (R111): value, attributes, the use count TC holds (R125), the PASID and label of a user key (R132, R116), the islands that hold it (R130), the points of R126 already reported (bit 0 near, bit 1 reached). -/
structure KeySlot where
  value  : Key
  attr   : Attr
  count  : Nat
  pasid  : BitVec 20
  label  : BitVec 256
  heldBy : List Island
  told   : BitVec 2
  deriving DecidableEq, Repr

/-- Where a replacement stands (R120). -/
inductive ReplStage where
  | staged | checked | confirmed | committed
  deriving DecidableEq, Repr

/-- What a link key is for (R116): sending member, its port, the epoch, and whether this member is the sender. -/
structure LinkRef where
  sender : BitVec 16
  port   : BitVec 6
  epoch  : BitVec 24
  egress : Bool
  deriving DecidableEq, Repr

/-- A replacement (R120 to R124): the slot's shadow, the command if one started it, the commit tick (0 = at confirmation) and the tick it may not precede (R201), the members still to confirm, a first mismatch of the known-answer check, the retire tick once known, and for a link key what it is for. -/
structure Repl where
  shadow     : Slot
  ctx        : Option CmdCtx
  stage      : ReplStage
  commitTick : Word
  notBefore  : Word
  await      : List MemberRef
  failedKat  : Bool
  retireTick : Option Word
  link       : Option LinkRef
  deriving DecidableEq, Repr

/-- An invalidation whose kills are not all acknowledged (R117); the owner and generation of its root are those of the tick it was taken (R134). -/
structure Inval where
  root  : Slot
  count : Nat
  waits : List (Island × Slot)
  ctx   : Option CmdCtx
  part  : BitVec 4
  gen   : BitVec 16
  deriving DecidableEq, Repr

structure KeyStore where
  /-- The slots that are not free. -/
  slots  : Tab KeySlot
  repls  : Tab Repl
  invals : List Inval
  /-- `SWY_KS_SEL_n.SLOT`. -/
  sel    : Tab Slot
  deriving DecidableEq, Repr

/-- What a key value on the KDR is: the slot's own, or derived from it for a Veneer step or for an admitted-mode sender and epoch (R222). -/
inductive KeyFor where
  | own
  | step (n : Nat)
  | adm (skind : Bool) (sender : BitVec 16) (epoch : BitVec 24)
  deriving DecidableEq, Repr

/-- A message on the KDR on its way to an island (R129); `alpha` is the tag coefficients of a Veneer step (R222), else 0. -/
inductive KdrMsg where
  | load (slot home : Slot) (gen : BitVec 16) (previous : Bool) (value : Key) (count : Nat) (commit : Word) (part : BitVec 4) (what : KeyFor) (alpha : BitVec 2048)
  | kill (slot : Slot)
  deriving DecidableEq, Repr

/-- An entry of an island's key cache (R130). `home` is the slot of TC that holds the value, or the slot it is derived from: the shadow once the role is previous (R124); `commit` is 0 once the value is in use; `reported` is the count last reported to TC (R131). -/
structure CacheEnt where
  slot     : Slot
  home     : Slot
  gen      : BitVec 16
  previous : Bool
  value    : Key
  count    : Nat
  reported : Nat
  commit   : Word
  part     : BitVec 4
  what     : KeyFor
  alpha    : BitVec 2048
  deriving DecidableEq, Repr

/-! ### Islands (R28) and their schedulers (R175 to R186) -/

/-- A queued request and the groups of it already issued (R175, R179). -/
structure QReq where
  req    : CipherReq
  issued : Nat
  deriving DecidableEq, Repr

/-- A group issued on a core and not yet released (R168), or a finished tag, which is compared like one: its partition (none for a periodic test), key slot and return port, its first counter block and key, recomputations so far, the tick of the first mismatch and whether a supply-warning period ran then. -/
structure Group where
  core   : Nat
  part   : Option Part
  slot   : Slot
  ret    : Nat
  ctr    : BitVec 128
  key    : Key
  tag    : Bool
  recomp : Nat
  first  : Word
  warned : Bool
  deriving DecidableEq, Repr

/-- What a grid is built from: each partition with a share on the island, its cells in a frame and its placement mask (R176, R180). -/
abbrev GridBasis := List (Nat × Nat × Option (BitVec 32))

/-- A grid an island is to switch to at its first frame boundary at or after tick `due` (R181). -/
structure NextGrid where
  basis : GridBasis
  cells : List Nat
  due   : Word
  deriving DecidableEq, Repr

/-- The grid of an island (R176): one owner for each cell, cell (core, column) at index core × W + column; 15 = none. `next` are the grids to come, in order. `column` is the window column that starts next. Of the windows that run: `issued` gives the groups each core's owner issued, `foreign` the cores that have given a cycle to a foreign recomputation (R173). `waiting` are recomputations that wait for a cycle, `moved` groups displaced out of a full cell (R179). -/
structure GridSt where
  basis   : GridBasis
  cells   : List Nat
  gen     : BitVec 16
  next    : List NextGrid
  column  : Nat
  foreign : List Nat
  issued  : Tab Nat
  waiting : List Group
  moved   : List Group
  deriving DecidableEq, Repr

structure IslandSt where
  asleep     : Bool
  inReset    : Bool
  /-- Pinned outputs suspended (R35) or held (R36). -/
  suspended  : Bool
  /-- The tick at which the island last took work (R192). -/
  work       : Word
  /-- The local tick copy, and the copies latched at the last four strobes as (strobe, copy) (R35). -/
  copy       : Word
  latched    : List (Word × Word)
  /-- The key cache, most recently used first (R130). -/
  cache      : List CacheEnt
  /-- KDR messages on their way here, oldest first (R129). -/
  kdrIn      : List KdrMsg
  /-- Request entries, oldest first (R175), and the requests held at their engines' crossings while their partition's entries are full (R29). -/
  reqs       : List QReq
  held       : List CipherReq
  groups     : List Group
  grid       : GridSt
  /-- `SWY_LE_MISMATCH_n` (R186). -/
  mmFirst    : BitVec 24
  mmRecomp   : BitVec 16
  mmDisp     : BitVec 16
  mmForced   : BitVec 8
  /-- Ticks of the first mismatches counted outside warning periods (R172). -/
  mmTicks    : List Word
  /-- `SWY_LE_GRID_SEL_n` (R186). -/
  selCore    : BitVec 5
  selColumn  : BitVec 5
  /-- Last periodic test of each core (R185). -/
  tests      : Tab Word
  /-- The source stub's latches and sampled levels, and whether retention registers hold them (R366). -/
  stubLatch  : List Nat
  stubLevel  : Tab Bool
  retained   : Bool
  deriving DecidableEq, Repr

/-! ### The Jig (R53 to R74) -/

structure AllowEntry where
  kind        : BitVec 2
  measIndex   : Byte
  index       : BitVec 16
  measurement : Digest
  identity    : Digest
  deriving DecidableEq, Repr

structure KeyWindow where
  window     : Nat
  kind       : BitVec 2
  regionId   : BitVec 32
  base       : Nat
  size       : Nat
  generation : BitVec 16
  deriving DecidableEq, Repr

structure RegionRec where
  regionId : BitVec 32
  keeper   : BitVec 16
  mirror   : BitVec 16
  kind     : BitVec 2
  node     : BitVec 16
  offset   : Nat
  size     : Nat
  deriving DecidableEq, Repr

structure SchedEntry where
  slot   : Nat
  port   : Nat
  stream : Byte
  egress : Bool
  cls    : BitVec 2
  peer   : BitVec 16
  deriving DecidableEq, Repr

structure Schedule where
  slotTicks  : Nat
  cycleSlots : Nat
  cycleZero  : Nat
  extEgress  : Nat
  extIngress : Nat
  extRead    : Nat
  entries    : List SchedEntry
  deriving DecidableEq, Repr

structure VGroupRec where
  groupId  : BitVec 32
  members  : Nat
  position : Nat
  admitted : Bool
  format   : Byte
  switch   : BitVec 16
  stochastic : Bool
  deriving DecidableEq, Repr

structure ScaleRec where
  groupId : BitVec 32
  blocks  : Nat
  init    : Int
  target  : Nat
  exps    : Option (List Int)
  deriving DecidableEq, Repr

structure LaneRec where
  port   : Nat
  stream : Byte
  frames : Nat
  upNode : BitVec 16
  deriving DecidableEq, Repr

structure RunRec where
  firstPos    : Nat
  firstMember : Nat
  count       : Nat
  deriving DecidableEq, Repr

structure TreeRec where
  groupId    : BitVec 32
  op         : Nat
  stepCycles : Nat
  zeroCycle  : Nat
  filterArg  : BitVec 32
  lanes      : List LaneRec
  runs       : List RunRec
  deriving DecidableEq, Repr

structure ResetPolicy where
  compatEn    : Bool
  escalateMax : Nat
  compatCount : Nat
  compatWindow : Nat
  deriving DecidableEq, Repr

structure TelemetryRec where
  powerStep : Nat
  powerAvg  : Nat
  tempStep  : Nat
  throttlePeriod : Nat
  deriving DecidableEq, Repr

/-- A loaded image (R57 to R74). `header` is the 128 B body of `IMAGE_HEADER`; `placement` is `CORE_PLACEMENT` with `POLICY` 1 (25 masks). -/
structure Jig where
  header       : Bytes
  cfg          : Nat
  lc           : Bool
  domainId     : BitVec 32
  memberIndex  : BitVec 16
  serial       : Word
  activateTick : Word
  ownerDigest  : Digest
  deviceDigest : Digest
  ownerKeys    : Bytes
  /-- The `DUMP_SECRET` body, which a replacement must not change (R56). -/
  dumpBody     : Bytes
  imageDigest  : Digest
  commonDigest : Digest
  addrNode     : Bool
  memberCount  : Nat
  epochZero    : Nat
  rekeyPeriod  : Nat
  anchors      : List (BitVec 16)
  allow        : List AllowEntry
  shares       : List Nat
  keepAwake    : BitVec 32
  placement    : Option (List (BitVec 32))
  windows      : List KeyWindow
  regions      : List RegionRec
  schedule     : Option Schedule
  groups       : List VGroupRec
  scales       : List ScaleRec
  trees        : List TreeRec
  policy       : ResetPolicy
  telemetry    : TelemetryRec
  deriving DecidableEq, Repr

/-- The Expert mailbox of a partition (R83). -/
structure Mbox where
  arg     : BitVec 32
  op      : Byte
  go      : Bool
  words   : List Word
  overrun : Bool
  error   : Bool
  done    : Bool
  deriving DecidableEq, Repr

/-- A replacement image past step 9 (R80), with the offset of the first record of each type that step 10 charges (R83). -/
structure PendingJig where
  jig       : Jig
  offs      : Tab Nat
  ctx       : CmdCtx
  committed : Bool
  deriving DecidableEq, Repr

/-- A load TC has taken and not completed (R75). -/
structure JigLoad where
  ctx     : CmdCtx
  part    : Part
  replace : Bool
  addr    : Word
  length  : BitVec 32
  begun   : Word
  deriving DecidableEq, Repr

/-- A partition (R17, R337, R355). -/
structure PartSt where
  /-- `SWY_PART_STAT_n.STATE`: 0 none, 1 created, 2 Jig loaded, 3 releasing. -/
  state      : BitVec 2
  /-- Held by the escalation cap (R381). -/
  held       : Bool
  createTick : Word
  jig        : Option Jig
  loadTick   : Word
  /-- Its shares no longer count in the grids: a released partition after it has left its domain (R181, R344). -/
  gridOff    : Bool
  pending    : Option PendingJig
  rejType    : BitVec 16
  rejOffset  : BitVec 24
  rejReason  : BitVec 16
  verifying  : Bool
  mbox       : Mbox
  /-- The release waiting for its drain and clearing (R344). -/
  release    : Option CmdCtx
  /-- `SWY_PART_QNEW_n`, `SWY_PART_QSQB_n`, `SWY_PART_QCQB_n`, `SWY_PART_QRES_n` (R355). -/
  qVector    : BitVec 11
  qCqLog     : BitVec 4
  qSqLog     : BitVec 4
  qPasid     : BitVec 20
  qSqBase    : BitVec 52
  qCqBase    : BitVec 52
  qDone      : Bool
  qStatus    : Byte
  qQueue     : Byte
  deriving DecidableEq, Repr

/-! ### Dovetail (R135 to R165) -/

/-- A message of an admission or a session, as an envelope carries it. -/
inductive Env where
  /-- A Dovetail message of a session: type, body (R147). -/
  | dove (type : Byte) (body : Bytes)
  /-- An SPDM message: code, what it says, companion (R139, R141). -/
  | spdm (code : Byte) (body : SpdmBody) (companion : Bytes)
  deriving DecidableEq, Repr

/-- A message of an admission or a session with its `MSG_ID` (R135) and, where it is secured, its number in the session (R147). -/
structure Sent where
  msgId : BitVec 16
  num   : Nat
  env   : Env
  deriving DecidableEq, Repr

/-- A host member's relay area (R346): the admitting command, whose queue takes the relay events while it lives, and the envelopes that wait for an OUT slot (R347). -/
structure Relay where
  ctx     : Option CmdCtx
  outq    : List Sent
  addr    : Word
  outProd : BitVec 32
  outCons : BitVec 32
  inProd  : BitVec 32
  inCons  : BitVec 32
  deriving DecidableEq, Repr

/-- A session table entry (R147, R159, R162). `state` is the code of R159; `admitCtx` is the waiting `CMD_PEER_ADMIT`; `step` counts the requests of a connection answered so far; `requester` says which side this is (R140); `rejoin` marks a session that has replaced an older one and not yet joined (R158, R159). Of the attempt: the image it began with (R160) and the group size then in force (R161), the messages of its transcript (R141), the seeds of the ML-KEM pair and the ECDH key drawn, the DHE secret (R142), the transcript hash as of FINISH (R148), the request that is out and the last answer, to be sent again (R144), and whether a takeover has ended it (R154). -/
structure Peer where
  state      : BitVec 4
  sessionId  : BitVec 32
  reason     : BitVec 16
  epoch      : BitVec 32
  admEpoch   : BitVec 32
  requester  : Bool
  rejoin     : Bool
  step       : Nat
  image      : Option Jig
  groupLog   : Nat
  script     : List Bytes
  kem        : BitVec 512
  ecdh       : Nat
  dhe        : BitVec 384
  th         : Digest
  asking     : Option Sent
  answered   : Option Sent
  overtaken  : Bool
  resent     : Bool
  asked      : Word
  delegate   : Bool
  keyed      : Bool
  anchor     : Bool
  standby    : Bool
  leaf       : Digest
  /-- The measurement blocks accepted (R146), held against a later allow list (R80). -/
  meas       : List (Byte × Digest)
  tag        : BitVec 128
  secret     : Slot
  sent       : Nat
  received   : Nat
  authFails  : Nat
  probes     : Nat
  probeTick  : Word
  wrapOut    : Word
  wrapIn     : Option Word
  joinIn     : Bool
  ackOut     : Bool
  ackIn      : Bool
  ackHeld    : Bool
  refusedAt  : Word
  admitCtx      : Option CmdCtx
  relay      : Option Relay
  port       : Option Port
  deriving DecidableEq, Repr

/-- A message under reassembly (R136). -/
structure Reasm where
  src      : MemberRef
  msgId    : BitVec 16
  totalLen : BitVec 16
  started  : Word
  frags    : List (Nat × Bytes)
  deriving DecidableEq, Repr

/-- A roster change waiting for the standbys (R150): the grant it releases. -/
structure RosterPend where
  entry : RosterEntry
  await : List MemberRef
  grant : Option MemberRef
  deriving DecidableEq, Repr

/-- A departure on its way (R156); `told` once the anchor has recorded it. -/
structure Departing where
  member : MemberRef
  cause  : Byte
  epoch  : BitVec 24
  told   : Bool
  deriving DecidableEq, Repr

/-- A group key the anchor has drawn and the standbys have not all acknowledged, with the members that wait for it (R149). -/
structure GroupWait where
  group : BitVec 32
  await : List MemberRef
  wants : List MemberRef
  deriving DecidableEq, Repr

/-- One partition's admission state. `lost` are the accelerator members counted as lost (R153); `byAnchor` says that an anchor has admitted this member (R154); `drawn` are group keys on their way to the standbys. -/
structure Adm where
  peers      : Tab Peer
  reasm      : List Reasm
  msgIds     : Tab (BitVec 16)
  term       : BitVec 32
  anchor     : BitVec 16
  keyed      : Bool
  domainSlot : Slot
  groupSlots : Tab Slot
  roster     : Tab RosterEntry
  rosterSeq  : BitVec 32
  rosterPend : List RosterPend
  departing  : List Departing
  departed   : List (BitVec 16)
  manual     : Bool
  selfOff    : Bool
  groupLog   : Nat
  announceAt : Word
  /-- When a heartbeat of an accelerator member was last heard (R153). -/
  heard      : Tab Word
  /-- Group keys asked for and not held yet, with the member that asked (R149). -/
  wantGroups : List (MemberRef × BitVec 32)
  drawn      : List GroupWait
  lost       : List (BitVec 16)
  byAnchor   : Bool
  noAnchor   : Bool
  formStart  : Word
  nextSid    : BitVec 32
  notices    : List (MemberRef × Word)
  deriving DecidableEq, Repr

/-! ### What leaves the block -/

/-- A thing the block sent: the ports of R46 seen from inside. -/
inductive Out where
  | msix (vector : BitVec 11)
  | dmaWrite (addr : Word) (data : Bytes)
  | dmaRead (addr : Word) (len : Nat)
  | regRead (value : Word)
  /-- Domain request port response: die, engine, status, value. -/
  | portRsp (die : Fin 4) (part : Part) (engine : BitVec 16) (status : Byte) (value : Line)
  /-- A fence of a compute die completes. -/
  | fenceRsp (die : Fin 4) (part : Part) (status : Byte)
  /-- A frame and its side word (R191). -/
  | frame (port : Port) (side : BitVec 64) (data : Bytes)
  /-- Opened data at a stream port (R37), or an empty slot. -/
  | stream (port : Port) (part : Part) (data : Bytes)
  | hbmRead (me : Fin 8) (region : Nat) (obj : MemObj)
  | hbmWrite (me : Fin 8) (region : Nat) (obj : MemObj) (data : Line)
  | hbmZero (me : Fin 8) (base size : Nat)
  | trayZero (part : Part) (node : BitVec 16) (base size : Nat)
  /-- A Dovetail message in a session (R147): type and body. -/
  | dove (part : Part) (peer : MemberRef) (type : Byte) (body : Bytes)
  /-- An SPDM message (R139): SPDM request or response code, what it says, companion. -/
  | spdm (part : Part) (peer : MemberRef) (code : Byte) (body : SpdmBody) (companion : Bytes)
  /-- A complete envelope message handed to admission (R136): sender, kind, bytes of the SPDM message, message. -/
  | envelope (part : Part) (src : MemberRef) (kind : Byte) (spdmLen : Nat) (message : Bytes)
  | announce (part : Part) (port : Option Port) (body : Bytes)
  | kdr (isl : Island) (m : KdrMsg)
  | kdrTick (count : Word)
  | tbSync (count : Word)
  | i3c (data : Bytes)
  | ibi (data : Byte)
  | jtag (data : Bytes)
  | control (port : Port) (payload : Bytes)
  | toEnvelope (part : Part) (payload : Bytes)
  | toXact (part : Part) (sender : BitVec 16) (payload : Bytes)
  | toTray (part : Part) (payload : Bytes)
  | toControl (port : Port) (part : Part) (payload : Bytes)
  /-- A cipher request ends without keystream: the status its engine receives (R114, R117, R126). -/
  | cipherDone (isl : Island) (part : Part) (ret : Nat) (status : Byte)
  /-- A group of keystream released to its return port (R168). -/
  | group (isl : Island) (part : Part) (ret : Nat) (keystream : Bytes)
  /-- A finished tag released to its return port (R168). -/
  | ghash (isl : Island) (part : Part) (ret : Nat)
  deriving DecidableEq, Repr

/-! ### Links (R187 to R213) -/

/-- A plaintext frame in a queue: partition, type, stream, destination (a member index, of a switch when `switch`; or a fabric node), payload, enqueue tick (R203), whether it carries a clamp notice, which a Clamp lets out (R370, R372), tag. -/
structure QFrame where
  part    : Part
  ftype   : BitVec 4
  stream  : Byte
  dest    : BitVec 16
  switch  : Bool
  node    : BitVec 16
  payload : Bytes
  tick    : Word
  notice  : Bool
  /-- The transaction tag of a request that travels in the frame (R298). -/
  tag     : Option Nat
  deriving DecidableEq, Repr

/-- The Veneer frame a pinned output is, or is the result of: group, step, its blocks (R231, R235). -/
structure VRef where
  group  : BitVec 32
  step   : Nat
  blocks : List Nat
  deriving DecidableEq, Repr

/-- A pinned output in a Shim buffer (R37 to R40). `readyAt` is the tick at which it became ready; `sealed'` says that it is sealed under the key of `epoch` (R193); `job` is a frame whose sealing still waits for its key (R130). -/
structure Pinned where
  part    : Part
  cls     : BitVec 2
  seq     : Nat
  start   : Word
  pin     : Word
  ready   : Bool
  readyAt : Word
  slipped : Bool
  sealed' : Bool
  epoch   : BitVec 24
  stream  : Byte
  /-- What leaves at the release. -/
  outs    : List Out
  /-- The memory request of a staged read, which makes it ready. -/
  req     : Option Nat
  /-- The translation epoch of the use that ends at the release (R319). -/
  use     : Option (BitVec 16)
  job     : Option QFrame
  veneer  : Option VRef
  /-- The region of a staged read. -/
  region  : Option Nat
  deriving DecidableEq, Repr

/-- The registers and queues of one port (R211). `mode` is the mode in force, `modeReg` the last value `PORT_MODE` took, `drain` the mode a drain waits for; `wait0` holds frames at their crossing while the class 0 queue is full (R203). -/
structure PortSt where
  c0Burst   : Byte
  c0Rate    : Byte
  overhead  : Byte
  lenMode   : Bool
  mode      : BitVec 2
  modeReg   : BitVec 2
  malformed : BitVec 32
  noPart    : BitVec 24
  drain     : Option (BitVec 2 × Word)
  linkUp    : Bool
  downSince : Word
  bgRate    : BitVec 16
  keySlot   : BitVec 4
  inject    : Bool
  pattern   : BitVec 2
  chkEn     : Bool
  genEn     : Bool
  bitErr    : BitVec 32
  tagFail   : BitVec 16
  missing   : BitVec 12
  refused   : Bool
  lock      : Bool
  frames    : Word
  /-- Next pattern `SEQ` to send and the generator's register; next `SEQ` expected; bad frames in a row (R209). -/
  patSeq    : BitVec 48
  patReg    : BitVec 31
  patWant   : Option (BitVec 48)
  patBad    : Nat
  tokens    : Int
  bgTokens  : Int
  queue0    : List QFrame
  wait0     : List QFrame
  turn0     : Nat
  deriving DecidableEq, Repr

/-- One partition's registers, shaper and class 3 queue on one port (R212). -/
structure PortPart where
  c3Burst   : Byte
  c3Rate    : BitVec 16
  tagFail   : BitVec 16
  replay    : BitVec 16
  epochRej  : BitVec 16
  other     : BitVec 16
  cmark     : BitVec 24
  accepted  : BitVec 40
  tokens    : Int
  queue3    : List QFrame
  wait3     : List QFrame
  /-- The committed egress key's slot and the epoch it belongs to; whether the port is held and from which tick it is to resume; the epoch and cause of a failed change; the tick of the last retry, none before the first (R201). -/
  egressKey : Option (Slot × BitVec 24)
  hold      : Bool
  resumeAt  : Option Word
  failed    : Option (BitVec 24 × Nat)
  tried     : Option Word
  /-- Sequence counters, by 256 × epoch + stream (R192). -/
  seqs      : Tab Nat
  /-- Whether class 3 frames left in the current epoch (R200). -/
  carried3  : Bool
  deriving DecidableEq, Repr

/-- A stream record (R196, R198). `st`: 0 pending, 1 synchronised, 2 failed; `port` is where its frame arrived, and its requests leave. -/
structure StreamRec where
  port      : Port
  skind     : Bool
  sender    : BitVec 16
  stream    : Byte
  st        : BitVec 2
  floor     : Nat
  prevFloor : Option Nat
  challenge : Word
  tries     : Nat
  asked     : Word
  scheduled : Bool
  created   : Word
  sport     : BitVec 6
  used      : Bool
  usedPrev  : Bool
  deriving DecidableEq, Repr

/-- One replay window (R197): the top T as T + 1, and the bitmap's set bits as T − q. -/
structure Window where
  top  : Nat
  bits : BitVec 4096
  deriving DecidableEq, Repr

/-- A context (R196): the windows of the current and of the previous epoch. -/
structure Context where
  skind    : Bool
  sender   : BitVec 16
  sport    : BitVec 6
  stream   : Byte
  cur      : Window
  prev     : Option Window
  created  : Word
  used     : Bool
  usedPrev : Bool
  deriving DecidableEq, Repr

/-- The latest sample of a queue (R207). -/
structure QSample where
  depth    : BitVec 24
  delay    : BitVec 24
  seq      : BitVec 16
  deriving DecidableEq, Repr

/-- A frame in an LE's input buffer that waits for its epoch (R195) or its key (R199): the port, the tick of its last byte, the frame. -/
structure Waiting where
  port    : Port
  arrived : Word
  frame   : Bytes
  deriving DecidableEq, Repr

/-- One partition's page on one LE (R212, R243). -/
structure LePart where
  qsel     : BitVec 4
  samples  : Tab QSample
  maxima   : Tab QSample
  sampSeq  : BitVec 16
  records  : List StreamRec
  contexts : List Context
  inbuf    : List Waiting
  vnSel    : BitVec 32
  deriving DecidableEq, Repr

/-- A slot that holds a link key, and what it is the key of (R116, R200). -/
structure LinkKey where
  ref  : LinkRef
  slot : Slot
  deriving DecidableEq, Repr

/-- A partition's place in its epochs and its link keys (R200). -/
structure EpochSt where
  epoch : BitVec 24
  kerf  : Bool
  start : Word
  keys  : List LinkKey
  deriving DecidableEq, Repr

/-! ### Veneer (R214 to R244) -/

/-- What TC derives for one step of a group and loads into the LEs of its lanes (R222): K_step and the coefficients α. -/
structure VMask where
  step  : Nat
  key   : Key
  alpha : BitVec 2048
  deriving DecidableEq, Repr

/-- One step of a group that is not complete (R221, R229, R235). `exps` is the exponent of each block, none while it waits for the step before; the lists name blocks, `malformed` those of frames discarded at steps 3 and 4 of R229. An admitted group has no exponents, and `total` counts the blocks of the step: those of the table, or those sent. -/
structure VStep where
  step      : Nat
  exps      : List (Option Int)
  total     : Nat
  received  : List Nat
  delivered : List Nat
  failed    : List Nat
  sent      : List Nat
  sat       : List Nat
  malformed : List Nat
  departed  : Bool
  aborted   : Bool
  deriving DecidableEq, Repr

/-- A group that has been armed (R234 to R243). `state`: 2 armed, 3 halted. `table` is the running table (R221), `tableAt` its address and `chosen` whether the block chose it; `haltReq` a requested halt, `haltStep` the step that halted the group and `haltSt` the status the final record takes; `final` says that record is owed. `admCount` counts frames sealed under the admitted-mode key of `admEpoch` (R239). -/
structure VGroup where
  part      : Part
  groupId   : BitVec 32
  state     : BitVec 4
  cause     : BitVec 4
  ctx       : Option CmdCtx
  firstStep : Nat
  newest    : Option Nat
  haltReq   : Bool
  haltStep  : Option Nat
  haltSt    : Byte
  final     : Bool
  steps     : List VStep
  masks     : List VMask
  table     : List Int
  tableAt   : Word
  chosen    : Bool
  admEpoch  : BitVec 24
  admCount  : Nat
  /-- The points of R126 reported for that key (bit 0 near, bit 1 reached). -/
  admTold   : BitVec 2
  sat       : BitVec 24
  tagFail   : BitVec 16
  discard   : BitVec 16
  late      : BitVec 8
  deriving DecidableEq, Repr

/-! ### Protected memory (R245 to R275) -/

/-- Who is answered when a request ends: a domain request port, or line `n` of a bundle of requests. -/
inductive ReqSrc where
  | port (die : Fin 4)
  | bundle (id n : Nat)
  deriving DecidableEq, Repr

/-- A requester: whom to answer, the context it belongs to, and the translation epoch of its use (R319), none for the block's own work. -/
structure Asker where
  src    : ReqSrc
  engine : BitVec 16
  pasid  : BitVec 20
  use    : Option (BitVec 16)
  deriving DecidableEq, Repr

/-- What a memory request does. -/
inductive MemOp where
  | read
  | write (data : Line)
  | atomic (aop : BitVec 4) (a b : Word)
  /-- Brings the page's counter block and its path into the tree cache (R255, R256). -/
  | path
  /-- Reads and verifies one stored line, past a re-encryption slot (R251, R258, R264, R267). -/
  | fill
  /-- Returns a run of pages to fresh (R253, R318). -/
  | fresh (pages : Nat)
  deriving DecidableEq, Repr

/-- A line request at an ME or on the way to a tray. `wants` names the objects it waits for; `fetched` is the data line's ciphertext and memory status. -/
structure MemReq where
  id      : Nat
  part    : Part
  region  : Nat
  line    : Nat
  op      : MemOp
  by'     : Asker
  /-- The byte of the line at which an atomic's word begins. -/
  within  : Nat
  wants   : List MemObj
  fetched : Option (Line × BitVec 2)
  /-- `TOKEN_SEQ` the fetch used; 1 while a `REVERIFY` is out, 2 when the read is repeated after its answer (R264). -/
  seqUsed : Word
  rever   : Nat
  scheduled : Bool
  begun   : Bool
  deriving DecidableEq, Repr

/-- What a bundle of line requests is for. -/
inductive BundleFor where
  /-- A pair's `READ`, `WRITE` or `ATOMIC` at the keeper (R287, R290, R291). -/
  | pair (peer : BitVec 16) (mtype : Byte) (x : Xact)
  /-- A bounce window's `READ_REQ` or `WRITE` (R350). -/
  | bounce (window : BitVec 6) (reqId : BitVec 16) (read : Bool) (addr : BitVec 57)
  /-- Lines of a page on its way (R318), read or written. -/
  | move (change : Nat) (write : Bool)
  /-- The translation table read that fills the cache entry of a page key (R309, R310). -/
  | table (key : Nat)
  /-- The lines of a re-encryption slot (R251). -/
  | slot (me : Fin 8) (n : Nat)
  /-- The keeper's check of a page for a reader (R264), or after a clamp notice (R267): its path first, then its lines. -/
  | reverify (region : Nat) (peer : BitVec 16) (page : Nat) (lines : Bool)
  | audit (region page : Nat) (lines : Bool)
  /-- The metadata and lines a publication needs (R262). -/
  | gather (region : Nat)
  /-- Plane's own work, or none: nobody is answered. -/
  | quiet
  deriving DecidableEq, Repr

/-- Line requests answered together: how many are outstanding, the first status that is not `ST_OK`, what was read and which lines failed, by line. -/
structure Bundle where
  id     : Nat
  part   : Part
  what   : BundleFor
  left   : Nat
  status : Byte
  lines  : Tab Line
  bad    : List Nat
  deriving DecidableEq, Repr

/-- Work a command leaves to be done before its effect ends (the model's own queue, empty between commands unless a run of it is cut short). -/
inductive Work where
  | req (id : Nat)
  | bundle (id : Nat)
  | pub (region : Nat)
  | fences (p : Part)
  | part (p : Part)
  | adm (p : Part)
  deriving DecidableEq, Repr

/-- A tree-cache entry (R255). -/
structure TreeEnt where
  region : Nat
  obj    : MemObj
  line   : Line
  dirty  : Bool
  pinned : Bool
  /-- It is to leave and waits for its parent (R255). -/
  leaving : Bool
  /-- The fetch that filled it came back corrected (R269). -/
  corr   : Bool
  /-- Its content as of the last publication, once changed since (R260). -/
  pubd   : Option Line
  deriving DecidableEq, Repr

/-- A staged line (R256). -/
structure Staged where
  region   : Nat
  line     : Nat
  complete : Bool
  dataTick : Word
  deriving DecidableEq, Repr

/-- A re-encryption slot (R251): the page, its new major counter and the generation it was taken under, line data in plaintext where known, lines still to fetch, lines made lost (R270). -/
structure Reenc where
  region : Nat
  page   : Nat
  major  : Word
  gen    : BitVec 16
  lines  : Tab Line
  await  : List Nat
  lost   : Bool
  deriving DecidableEq, Repr

/-- One partition's state on one ME (R274). -/
structure MePart where
  scrubPeriod : BitVec 32
  planeShare  : BitVec 7
  corrected   : BitVec 16
  uncorr      : BitVec 16
  slips       : BitVec 16
  reenc       : BitVec 16
  hits        : BitVec 32
  misses      : BitVec 32
  passes      : BitVec 16
  page        : BitVec 36
  scrubRegion : Nat
  cache       : List TreeEnt
  /-- Fills that wait for room in the partition's part (R255). -/
  fills       : List TreeEnt
  staging     : List Staged
  slots       : Tab Reenc
  deriving DecidableEq, Repr

/-- A footprint placed on a stack (R252, R321), kept until its zero fill ends (R271). -/
structure Footprint where
  regionId : BitVec 32
  part     : Part
  base     : Nat
  size     : Nat
  clearing : Bool
  /-- A fill on a tray, of a kind 2 region nobody keeps. -/
  pool     : Bool
  deriving DecidableEq, Repr

/-- One ME's stack (R274). -/
structure MeSt where
  ready  : Bool
  placed : List Footprint
  deriving DecidableEq, Repr

/-- A publication in progress (R262): 0 gathers metadata, 1 waits for `INTENT_ACK`, 2 for the tray, 3 for the mirror's `TOKEN_ACK`, 4 for the readers'. `lines` are the writes it takes; `covers` the pairs' messages it makes visible; a takeover's writes run in phase 2 alone (R265). -/
structure Publication where
  phase    : Nat
  await    : List (BitVec 16)
  tags     : List Nat
  covers   : List (BitVec 16 × Nat)
  lines    : Tab Line
  /-- Tray writes not yet issued. -/
  writes   : List (MemObj × Line)
  /-- Lines whose old content could not be read (R270). -/
  bad      : List Nat
  takeover : Option (BitVec 16)
  deriving DecidableEq, Repr

/-- An open region at this member (R246, R268). `role`: 0 keeper, 1 mirror, 2 reader. -/
structure Region where
  part       : Part
  /-- The PASID that holds the object; none for a reserve and after a takeover (R326). -/
  pasid      : Option (BitVec 20)
  window     : Option (Fin 16)
  regionId   : BitVec 32
  kind       : BitVec 2
  state      : BitVec 4
  role       : BitVec 2
  me         : Fin 8
  base       : Nat
  node       : BitVec 16
  pages      : Nat
  levels     : Nat
  /-- The key in force at this member and its generation, and the previous one while a sweep runs (R259). -/
  keySlot    : Slot
  gen        : BitVec 16
  prevKey    : Option Slot
  token      : Token
  /-- The token last sent, whose root the memory holds (R261, R262). -/
  shown      : Token
  readers    : List (BitVec 16)
  pub        : Option Publication
  /-- Another publication is wanted once the running one ends. -/
  again      : Bool
  /-- `TOKEN_SEQ` of the newest publication that has ended (R284). -/
  published  : Word
  /-- Pages made lost (R270). -/
  lost       : List Nat
  sweeping   : Bool
  /-- A hand-off waits for its publication (R266). -/
  handing    : Bool
  audit      : Option Nat
  repair     : Option (Nat × Nat)
  /-- `REVERIFY` and `REPAIR_REQ` that wait for the publication's end (R273), as (peer, page) and (level, index). -/
  reverifies : List (BitVec 16 × Nat)
  repairs    : List (Nat × Nat)
  /-- Lines that the scrub writes back in the next publication, as (line, ciphertext) (R257, R258). -/
  backs      : List (Nat × Line)
  /-- The open, hand-off or clear in progress. -/
  ctx        : Option CmdCtx
  openTick   : Word
  /-- Marked dying; the deferral fence (R343). -/
  dying      : Bool
  deferral   : Option (BitVec 32)
  /-- The release it hands off for (R344). -/
  closing    : Bool
  /-- After a takeover, the identity tag of the keeper that was lost, which becomes the mirror again under that tag alone (R265). -/
  tookOver   : Option (BitVec 128)
  deriving DecidableEq, Repr

/-- The major high-water mark of a region that has been closed, by its key: partition, region, window generation (R248). -/
structure ClosedMark where
  part     : Part
  regionId : BitVec 32
  window   : Nat
  gen      : BitVec 16
  hwm      : Word
  deriving DecidableEq, Repr

/-- A mirror entry (R246): the last token accepted, the intent held (R265), the tick of the keeper's last message. -/
structure MirrorEnt where
  part     : Part
  regionId : BitVec 32
  token    : Option Token
  intent   : Option (Word × List IntentEntry)
  heard    : Word
  deriving DecidableEq, Repr

/-! ### Transactions (R276 to R305) -/

/-- What a held tag carries (R298). `kind`: 0 tray request, 1 transaction message, 2 quarantine, 3 a message that waits for the new keeper's token (R290). `first` and `last` are the ticks of its first and last sending, `dseq` its number once given (R286). -/
structure TagSt where
  kind     : BitVec 2
  region   : Nat
  regionId : BitVec 32
  peer     : BitVec 16
  mtype    : Byte
  dseq     : Option Nat
  offset   : BitVec 48
  node     : BitVec 16
  obj      : MemObj
  line     : Line
  aop      : Byte
  opA      : Word
  opB      : Word
  by'      : Asker
  first    : Option Word
  last     : Word
  abandon  : Bool
  /-- Its requester has been answered already (R299). -/
  silent   : Bool
  quarEnd  : Word
  deriving DecidableEq, Repr

/-- The requester's side of a pair (R286, R288): next `DSEQ`, the last `ACCEPTED` and `VISIBLE` received, the port, the largest fence target, its `FENCE_REQ` tag and when it was last sent, and the numbers of the atomics sent, answered or not, at or above `FLOOR`. -/
structure PairReq where
  next     : Nat
  accepted : Nat
  visible  : Nat
  port     : Option Port
  target   : Nat
  fenceTag : Option Nat
  asked    : Word
  atoms    : List Nat
  deriving DecidableEq, Repr

/-- An atomic answered by the keeper (R292). -/
structure WinEnt where
  dseq   : Nat
  status : Byte
  old    : Word
  tick   : Word
  deriving DecidableEq, Repr

/-- A message waiting in the reorder buffer (R287). -/
structure Held where
  dseq  : Nat
  mtype : Byte
  x     : Xact
  lines : List Line
  aop   : Byte
  opA   : Word
  opB   : Word
  deriving DecidableEq, Repr

/-- The keeper's side of a pair (R287). `busy` says the message `accepted` + 1 is being applied; `target` is the largest fence target received, with its tag and region. -/
structure PairKeep where
  accepted : Nat
  floor    : Nat
  busy     : Bool
  target   : Nat
  fence    : Option (BitVec 14 × BitVec 32)
  reorder  : List Held
  window   : List WinEnt
  /-- Writes and atomics applied and not yet visible, as (`DSEQ`, region handle). -/
  unseen   : List (Nat × Nat)
  deriving DecidableEq, Repr

/-- An acquire of a fence (R295): the region, the tag of its `FENCE_REQ`, the `TOKEN_SEQ` wanted once answered and when. -/
structure Acquire where
  regionId : BitVec 32
  tag      : Option Nat
  want     : Option Word
  answered : Word
  deriving DecidableEq, Repr

/-- A fence taken and not complete (R297): targets by destination, writes of its own ME by request, publications of its own regions wanted, acquires; `status` once it has failed. -/
structure FenceRun where
  ctx     : Option CmdCtx
  die     : Option (Fin 4)
  object  : BitVec 32
  slot    : Option Nat
  pasid   : BitVec 20
  targets : List (BitVec 16 × Nat)
  self    : List Nat
  pubs    : List (Nat × Word)
  acquire : List Acquire
  /-- A bounce window's `FLUSH` and its `REQ_ID` (R350). -/
  flush   : Option (BitVec 6 × BitVec 16)
  status  : Byte
  deriving DecidableEq, Repr

/-- A pair's acquire at the keeper that waits for the publication's end (R295). -/
structure AcqWait where
  peer   : BitVec 16
  region : Nat
  tag    : BitVec 14
  deriving DecidableEq, Repr

/-- One partition's AHU page and transaction state (R304). -/
structure AhuPart where
  trayNode   : BitVec 16
  trayValid  : Bool
  atomLimit  : Byte
  rto        : Byte
  peak       : Nat
  retransmit : BitVec 32
  staleRsp   : BitVec 16
  abandoned  : BitVec 16
  applied    : BitVec 32
  cached     : BitVec 16
  unknown    : BitVec 16
  duplicate  : BitVec 32
  reorderDrop : BitVec 16
  refused    : BitVec 16
  tags       : Tab TagSt
  req        : Tab PairReq
  keep       : Tab PairKeep
  acqs       : List AcqWait
  fences     : List FenceRun
  /-- Switch stages seen on a tray's responses, as (node, stages, tick) (R321). -/
  hops       : List (BitVec 16 × Nat × Word)
  /-- Lines of kind 2 regions written and not published (R262), keyed by region × 2^41 + line. -/
  dirty      : Tab Line
  deriving DecidableEq, Repr

/-! ### Translation (R306 to R325) -/

/-- A page-table entry (R307). -/
structure Pte where
  res   : BitVec 2
  ro    : Bool
  busy  : Bool
  wd    : Bool
  evict : Bool
  rgn   : BitVec 10
  frame : BitVec 31
  deriving DecidableEq, Repr

/-- A request stalled in the PTU (R313). `fault` is the fault it belongs to, none while it waits on `BUSY` or on a table read. -/
structure Stalled where
  pasid  : BitVec 20
  engine : BitVec 16
  src    : ReqSrc
  op     : DomOp
  addr   : BitVec 57
  since  : Word
  fault  : Option (BitVec 16)
  scheduled : Bool
  deriving DecidableEq, Repr

/-- A fault not yet completed (R311 to R314). -/
structure XFault where
  id      : BitVec 16
  page    : Nat
  addr    : BitVec 57
  pasid   : BitVec 20
  cause   : BitVec 4
  access  : BitVec 2
  engine  : BitVec 16
  tick    : Word
  window  : Nat
  written : Bool
  deriving DecidableEq, Repr

/-- A change of translations in progress (R318 to R320). `kind`: 0 move, 1 advice, 2 invalidation, 3 window closing, 4 region opened, 5 Jig replaced (for 3 and 4 `window` is the region's handle), 6 a destruction that drains (R342; `todo` names what it waits for, `arg` the PASID + 1 of a process death and `done` its objects); `arg` is the destination or the advice. `stage`: 0 not begun, 1 waits for the drain, 2 copies, 3 waits for the host (R351), 4 copied, the entry to be rewritten. `todo` are the page keys left, the first in progress once begun; `cursor` counts its 4 KiB pieces copied; `frame` is the reserve and first frame taken; `last` the D2H index to be consumed. -/
structure XChange where
  id      : Nat
  kind    : Nat
  ctx     : Option CmdCtx
  window  : Nat
  todo    : List Nat
  small   : Bool
  arg     : Nat
  reserve : BitVec 10
  bounce  : BitVec 6
  stage   : Nat
  epoch   : BitVec 16
  cursor  : Nat
  frame   : Option (Nat × Nat)
  done    : Nat
  began   : Option Word
  last    : BitVec 32
  deriving DecidableEq, Repr

/-- A pinned port (R324). -/
structure PinEnt where
  dkind : BitVec 2
  dest  : BitVec 16
  port  : Port
  deriving DecidableEq, Repr

/-- One partition's PTU page and tables (R324). -/
structure PtuPart where
  base     : BitVec 52
  en       : Bool
  wr       : BitVec 10
  rd       : BitVec 10
  overflow : Bool
  dmaErr   : Bool
  nextId   : BitVec 16
  faults   : List XFault
  stalls   : List Stalled
  epoch    : BitVec 16
  /-- Uses of each live epoch, newest first (R319). -/
  uses     : List (BitVec 16 × Nat)
  hits     : BitVec 32
  misses   : BitVec 32
  /-- Cached translations as page keys, most recently used first (R310). -/
  cache    : List Nat
  /-- Page entries that differ from resident at home: key window × 2^40 + page, and for a split part window × 2^40 + 2^39 + 32 × page + part. -/
  ptes     : Tab Pte
  /-- The table region's handle (R309). -/
  table    : Option Nat
  /-- Page keys whose table read is out. -/
  reading  : List Nat
  /-- Frames in use of each reserve, keyed by region handle × 2^31 + frame (R317). -/
  frames   : Tab Nat
  selKind  : BitVec 2
  selDest  : BitVec 16
  pins     : List PinEnt
  chosen   : List PinEnt
  changes  : List XChange
  nextChg  : Nat
  deriving DecidableEq, Repr

/-! ### Host interface (R326 to R357) -/

/-- A slice entry (R19). -/
structure Slice where
  valid : Bool
  part  : BitVec 3
  pasid : BitVec 20
  q     : BitVec 9
  rgn   : BitVec 11
  fence : BitVec 15
  bw    : BitVec 7
  deriving DecidableEq, Repr

/-- A completion record before it is written (R335). -/
structure Rec where
  status  : Byte
  kind    : BitVec 2
  reason  : BitVec 16
  cmdId   : BitVec 32
  cookie  : Word
  result  : Word
  result2 : Word
  intr    : Bool
  deriving DecidableEq, Repr

/-- A command taken from a queue and not complete: its identifier, opcode, the handles it names (R343). -/
structure InFlight where
  ctx     : CmdCtx
  opcode  : Byte
  ordered : Bool
  /-- TC has started it (R333, R341). -/
  started : Bool
  names   : List (Byte × BitVec 32)
  deriving DecidableEq, Repr

/-- A command queue (R329, R356). `state`: 0 free, 1 live, 2 dying, 3 failed. -/
structure Queue where
  part    : Part
  pasid   : BitVec 20
  sqBase  : BitVec 52
  cqBase  : BitVec 52
  sqLog   : Nat
  cqLog   : Nat
  sqTail  : BitVec 32
  cqHead  : BitVec 32
  sqHead  : BitVec 32
  cqTail  : BitVec 32
  state   : BitVec 2
  tailErr : Bool
  held    : List Rec
  flight  : List InFlight
  aborted : List (BitVec 32)
  deriving DecidableEq, Repr

/-- A fence object (R338, R339). -/
structure FenceObj where
  pasid   : BitVec 20
  part    : Part
  shared  : Bool
  status  : Option Byte
  /-- A pending signal already names it (a fence object takes one signal). -/
  claimed : Bool
  waits   : List CmdCtx
  freed   : Bool
  /-- 0 object, 1 the slot of a pending signal, 2 deferral fence. -/
  kind    : BitVec 2
  /-- The deferral fence that its own deferred free signals (R343). -/
  deferral : Option (BitVec 32)
  deriving DecidableEq, Repr

/-- A D2H record before it is written (R349, R350). -/
structure D2h where
  rtype   : Byte
  status  : Byte
  reqId   : BitVec 16
  psize   : Bool
  addr    : BitVec 57
  payload : Bytes
  deriving DecidableEq, Repr

/-- A bounce window (R348, R354). `state`: 0 closed, 1 open, 2 failed, 3 ending. -/
structure Bounce where
  part     : Part
  pasid    : BitVec 20
  host     : BitVec 16
  state    : BitVec 4
  cause    : BitVec 4
  slotsLog : Nat
  h2dBase  : Word
  d2hBase  : Word
  h2dHead  : BitVec 32
  h2dTail  : BitVec 32
  d2hHead  : BitVec 32
  d2hTail  : BitVec 32
  seqIn    : Word
  seqOut   : Word
  keySlot  : Slot
  /-- D2H records that wait for room in the ring. -/
  outq     : List D2h
  dying    : Option (BitVec 32)
  deriving DecidableEq, Repr

structure HostIf where
  slices   : Tab Slice
  queues   : Tab Queue
  fences   : Tab FenceObj
  /-- Fence generations by slot (R327). -/
  fenceGen : Tab (BitVec 16)
  bounces  : Tab Bounce
  /-- Bounce-window generations by window (R348). -/
  bwGen    : Tab (BitVec 16)
  /-- The session under which a window was last opened, as partition × 2^32 + session identifier. -/
  bwSess   : Tab Nat
  deriving DecidableEq, Repr

/-! ### Resets (R369 to R389) -/

/-- A reset taken and not complete (R378, R381). -/
structure Running where
  scope     : ResetScope
  taken     : Word
  requester : Byte
  /-- The partition whose context the escalation began with. -/
  origin    : Option Part
  deriving DecidableEq, Repr

/-- The page of partition n (R389). -/
structure RstPart where
  engine     : BitVec 16
  level      : BitVec 2
  go         : Bool
  resets     : BitVec 32
  lastLevel  : BitVec 4
  dumpBase   : BitVec 52
  dumpEn     : Bool
  dumpPasid  : BitVec 20
  ranges     : List Word
  dumpResult : BitVec 4
  dumpCount  : BitVec 16
  dumpBytes  : BitVec 32
  sealedAt   : Option Word
  /-- A sample due: its level and Clamp cause (R376, R377). -/
  sampling   : Option (Byte × Byte × Word)
  deriving DecidableEq, Repr

/-- Reset state that a chip reset keeps beside the trouble log (R382). -/
structure Compat where
  oos    : Bool
  active : Bool
  count  : Byte
  window : BitVec 16
  resets : List Word
  deriving DecidableEq, Repr

structure Rst where
  parts      : Tab RstPart
  running    : List Running
  /-- Resets taken, as (scope, tick), newest first (R381). -/
  history    : List (ResetScope × Word)
  halted     : Bool
  haltTick   : Word
  clampCause : Byte
  /-- The partition a Clamp is attributed to. -/
  clampPart  : Option Part
  suspects   : List (BitVec 32 × Word)
  /-- `CHIP_RST_REQ` and `CHIP_RST_N` asserted (R46, R52). -/
  chipRstReq : Bool
  chipRstN   : Bool
  opLevel    : BitVec 4
  opIsland   : Byte
  /-- `SWY_RST_CHIP`. -/
  chipCause  : Byte
  chipClamp  : Byte
  chipTick   : Word
  /-- The cause the coming chip reset will report. -/
  nextCause  : Byte
  compat     : Compat
  deriving DecidableEq, Repr

/-! ### Supply, sideband, test access, telemetry, clocks, lifecycle -/

structure Supply where
  warn      : BitVec 5
  /-- Supplies in a supply-warning period (R169). -/
  period    : BitVec 5
  released  : Tab Word
  /-- The tick at which each supply's last period began (R391). -/
  start     : Tab Word
  warnCount : BitVec 32
  tripLast  : BitVec 5
  /-- Supplies whose key-store check runs (R384). -/
  checking  : BitVec 5
  deriving DecidableEq, Repr

structure I3c where
  addr      : Option (BitVec 7)
  ibiEn     : Bool
  rstAction : Byte
  request   : Byte
  reqTick   : Word
  cycleWant : Bool
  lastIbi   : Word
  deriving DecidableEq, Repr

/-- The instruction register of the test access port and whether a debugger holds TC halted (R50, R103). -/
structure Jtag where
  ir     : Byte
  tcHalt : Bool
  deriving DecidableEq, Repr

/-- One owner's coarsened readings (R393, R395) and the window being gathered. -/
structure TelOwner where
  power     : BitVec 16
  temp      : BitVec 16
  throttle  : BitVec 2
  seq       : BitVec 16
  tick      : Word
  cfg       : TelemetryRec
  winStart  : Word
  perStart  : Word
  sum       : Nat
  num       : Nat
  hot       : Option Int
  deepest   : BitVec 2
  deriving DecidableEq, Repr

structure Tel where
  /-- TC's internal register (R392). -/
  raw    : Option (BitVec 32 × BitVec 2 × BitVec 16 × List (BitVec 16))
  owners : Tab TelOwner
  deriving DecidableEq, Repr

structure Clocks where
  locked    : Bool
  /-- A release of `CHIP_RST_N` that waits for the lock, as `CHIP_RST_RELEASE` brought it: `RST_KIND`, the self-tests' and the log's verdict (R31, R52). -/
  waits     : Option (Bool × Bool × Bool)
  spreadOff : Bool
  /-- The master tick counter (R33): loaded, count, load tick. -/
  loaded    : Bool
  tick      : Word
  loadTick  : Word
  /-- The timebase is lost (R36). -/
  lost      : Bool
  /-- Strobes sent (R35), newest first. -/
  strobes   : List Word
  deriving DecidableEq, Repr

/-- The `SWY_LC` page (R108) and TC's start (R106). `op` is the operation running; `started` says a start has read the fuses. -/
structure Lc where
  phase     : BitVec 4
  rootSel   : Bool
  op        : Byte
  arg       : Byte
  len       : BitVec 24
  go        : Bool
  addr      : Word
  size      : BitVec 24
  err       : Byte
  overrun   : Bool
  error     : Bool
  done      : Bool
  bundle    : BitVec 52
  bootState : BitVec 4
  bootErr   : Byte
  /-- Measurement 2 and the certificate in use (R107). -/
  patchHash : Digest
  cert      : Bytes
  /-- The identity base and root-port value live in slots 0 and 1. -/
  romRun    : Bool
  deriving DecidableEq, Repr

/-- TC's entropy source and DRBG (R185). `draws` indexes the free values drawn so far; `waiting` holds the commands that wait on withheld values, each with its partition and since when. -/
structure Entropy where
  withheld : Bool
  gens     : Nat
  draws    : Nat
  opens    : Nat
  waiting  : List (CmdCtx × Part × Word)
  deriving DecidableEq, Repr

/-! ### The whole -/

/-- Everything a chip reset can reach. -/
structure Block where
  clk      : Clocks
  islands  : Tab IslandSt
  shim     : List (Lane × Pinned)
  log      : TroubleLog
  ic       : Ic
  ks       : KeyStore
  parts    : Tab PartSt
  tcLoad   : Option JigLoad
  tcQueue  : List JigLoad
  adm      : Tab Adm
  ports    : Tab PortSt
  /-- Key port × 8 + partition. -/
  pports   : Tab PortPart
  /-- Key LE × 8 + partition. -/
  lparts   : Tab LePart
  epochs   : Tab EpochSt
  vgroups  : List VGroup
  regions  : Tab Region
  mirrors  : List MirrorEnt
  marks    : List ClosedMark
  mes      : Tab MeSt
  /-- Key ME × 8 + partition. -/
  meparts  : Tab MePart
  memReqs  : List MemReq
  bundles  : List Bundle
  nextReq  : Nat
  /-- Objects fetched and not yet come back, as (region handle, object). -/
  fetches  : List (Nat × MemObj)
  work     : List Work
  ahu      : Tab AhuPart
  ptu      : Tab PtuPart
  host     : HostIf
  rst      : Rst
  sup      : Supply
  i3c      : I3c
  jtag     : Jtag
  tel      : Tel
  lc       : Lc
  ent      : Entropy
  /-- What the block sent, newest first (the model's own field, log entry 7). -/
  out      : List Out
  deriving DecidableEq, Repr

/-- The state. `pending` is the queue of waiting commands, the front first. -/
structure State where
  pending : List Instr
  hard    : Hard
  b       : Block
  deriving DecidableEq, Repr

/-- The ways a step can fault. -/
inductive Fault where
  /-- Raised by no command: the spec names no event that stops the block's step; a Clamp (R369) is a state. Safe. -/
  | none
  deriving DecidableEq, Repr

/-- The ways a step can be refused. -/
inductive Refusal where
  /-- Raised by an arm of `exec` that has no meaning yet. Safe. -/
  | notModelled (mnemonic : String)
  deriving DecidableEq, Repr

/-! ### Defaults and reset -/

def LogPage.reset : LogPage := { wr := 0, rd := 0, lost := 0, gone := false }
def IcPage.reset : IcPage := { pmask := false, thresh := 0, stray := 0, sel := 0 }
def Attr.zero : Attr := { st := 0, limitExp := 0, generation := 0, parent := 0, owner := 0, testRoot := false, exportable := false, uses := 0, type := 0 }
def KeySlot.free : KeySlot := { value := 0, attr := Attr.zero, count := 0, pasid := 0, label := 0, heldBy := [], told := 0 }
def IslandSt.reset : IslandSt :=
  { asleep := false, inReset := false, suspended := false, work := 0, copy := 0, latched := [], cache := [], kdrIn := [], reqs := [], held := [], groups := [],
    grid := { basis := [], cells := [], gen := 0, next := [], column := 0, foreign := [], issued := [], waiting := [], moved := [] }, mmFirst := 0, mmRecomp := 0, mmDisp := 0, mmForced := 0, mmTicks := [],
    selCore := 0, selColumn := 0, tests := [], stubLatch := [], stubLevel := [], retained := false }
def Mbox.reset : Mbox := { arg := 0, op := 0, go := false, words := [], overrun := false, error := false, done := false }
def PartSt.reset : PartSt :=
  { state := 0, held := false, createTick := 0, jig := none, loadTick := 0, gridOff := false, pending := none, rejType := 0, rejOffset := 0, rejReason := 0,
    verifying := false, mbox := Mbox.reset, release := none, qVector := 0, qCqLog := 0, qSqLog := 0, qPasid := 0, qSqBase := 0, qCqBase := 0,
    qDone := false, qStatus := 0, qQueue := 0 }
def Adm.reset : Adm :=
  { peers := [], reasm := [], msgIds := [], term := 0, anchor := 0, keyed := false, domainSlot := 0, groupSlots := [], roster := [],
    rosterSeq := 0, rosterPend := [], departing := [], departed := [], manual := false, selfOff := false, groupLog := 8, announceAt := 0,
    heard := [], wantGroups := [], drawn := [], lost := [], byAnchor := false, noAnchor := false, formStart := 0, nextSid := 1, notices := [] }
def Peer.reset : Peer :=
  { state := 0, sessionId := 0, reason := 0, epoch := 0, admEpoch := 0, requester := false, rejoin := false, step := 0, image := none, groupLog := 8, script := [], kem := 0,
    ecdh := 0, dhe := 0, th := 0, asking := none, answered := none, overtaken := false, resent := false, asked := 0, delegate := false,
    keyed := false, anchor := false, standby := false, leaf := 0, meas := [], tag := 0, secret := 0, sent := 0, received := 0, authFails := 0,
    probes := 0, probeTick := 0, wrapOut := 0, wrapIn := none, joinIn := false, ackOut := false, ackIn := false, ackHeld := false,
    refusedAt := 0, admitCtx := none, relay := none, port := none }
/-- R211: `C0_BURST` 4, `C0_RATE` 4, `OVERHEAD` 24, `KEY_SLOT` 2; the class 0 bucket full (R204). -/
def PortSt.reset : PortSt :=
  { c0Burst := 0x04, c0Rate := 0x04, overhead := 0x18, lenMode := false, mode := 0, modeReg := 0, malformed := 0, noPart := 0, drain := none,
    linkUp := false, downSince := 0, bgRate := 0, keySlot := 2, inject := false, pattern := 0, chkEn := false, genEn := false,
    bitErr := 0, tagFail := 0, missing := 0, refused := false, lock := false, frames := 0, patSeq := 0, patReg := 1, patWant := none,
    patBad := 0, tokens := 4096 * 1000, bgTokens := 0, queue0 := [], wait0 := [], turn0 := 0 }
/-- R212: `C3_BURST` 16; the class 3 bucket full (R204). Tokens are counted in thousandths of a byte. -/
def PortPart.reset : PortPart :=
  { c3Burst := 0x10, c3Rate := 0, tagFail := 0, replay := 0, epochRej := 0, other := 0, cmark := 0, accepted := 0, tokens := 16384 * 1000,
    queue3 := [], wait3 := [], egressKey := none, hold := false, resumeAt := none, failed := none, tried := none, seqs := [], carried3 := false }
def LePart.reset : LePart := { qsel := 0, samples := [], maxima := [], sampSeq := 0, records := [], contexts := [], inbuf := [], vnSel := 0 }
def EpochSt.reset : EpochSt := { epoch := 0, kerf := false, start := 0, keys := [] }
/-- R274: `SCRUB_PERIOD` 3,600, `PLANE_SHARE` 8. -/
def MePart.reset : MePart :=
  { scrubPeriod := 0xE10, planeShare := 8, corrected := 0, uncorr := 0, slips := 0, reenc := 0, hits := 0, misses := 0, passes := 0,
    page := 0, scrubRegion := 0, cache := [], fills := [], staging := [], slots := [] }
def MeSt.reset : MeSt := { ready := false, placed := [] }
def PairReq.reset : PairReq := { next := 1, accepted := 0, visible := 0, port := none, target := 0, fenceTag := none, asked := 0, atoms := [] }
def PairKeep.reset : PairKeep := { accepted := 0, floor := 0, busy := false, target := 0, fence := none, reorder := [], window := [], unseen := [] }
/-- R304: `RTO` 16. -/
def AhuPart.reset : AhuPart :=
  { trayNode := 0, trayValid := false, atomLimit := 0, rto := 0x10, peak := 0, retransmit := 0, staleRsp := 0, abandoned := 0,
    applied := 0, cached := 0, unknown := 0, duplicate := 0, reorderDrop := 0, refused := 0, tags := [], req := [], keep := [],
    acqs := [], fences := [], hops := [], dirty := [] }
def Pte.home : Pte := { res := 0, ro := false, busy := false, wd := false, evict := false, rgn := 0, frame := 0 }
/-- R324: one live epoch. -/
def PtuPart.reset : PtuPart :=
  { base := 0, en := false, wr := 0, rd := 0, overflow := false, dmaErr := false, nextId := 0, faults := [], stalls := [], epoch := 0,
    uses := [(0, 0)], hits := 0, misses := 0, cache := [], ptes := [], table := none, reading := [], frames := [], selKind := 0, selDest := 0,
    pins := [], chosen := [], changes := [], nextChg := 0 }
def Slice.reset : Slice := { valid := false, part := 0, pasid := 0, q := 0, rgn := 0, fence := 0, bw := 0 }
/-- R389: `LAST_LEVEL` 0xF. -/
def RstPart.reset : RstPart :=
  { engine := 0, level := 0, go := false, resets := 0, lastLevel := 0xF, dumpBase := 0, dumpEn := false, dumpPasid := 0,
    ranges := [0, 0, 0, 0], dumpResult := 0, dumpCount := 0, dumpBytes := 0, sealedAt := none, sampling := none }
/-- R389: `COUNT` 3, `WINDOW` 600. -/
def Compat.reset : Compat := { oos := false, active := false, count := 3, window := 0x258, resets := [] }
/-- R74: the defaults 1, 1, 2, 1. -/
def TelemetryRec.finest : TelemetryRec := { powerStep := 1, powerAvg := 1, tempStep := 2, throttlePeriod := 1 }
def TelOwner.reset : TelOwner :=
  { power := 0, temp := 0, throttle := 0, seq := 0, tick := 0, cfg := TelemetryRec.finest, winStart := 0, perStart := 0, sum := 0,
    num := 0, hot := none, deepest := 0 }
def Lc.reset : Lc :=
  { phase := 0, rootSel := false, op := 0, arg := 0, len := 0, go := false, addr := 0, size := 0, err := 0, overrun := false,
    error := false, done := false, bundle := 0, bootState := 0, bootErr := 0, patchHash := 0, cert := [], romRun := false }

/-- Fuses as they leave the fab: no mark, no certificate, floor 0; the serial of a chip is its own (DESIGN CHOICE 0, log entry 8). -/
def Fuses.blank : Fuses := { records := [], certSlots := [], serial := 0, floor := 0 }

/-- The battery domain with no history: root absent, nothing armed (R86, R89; log entry 8). -/
def Battery.blank : Battery :=
  { entropy := 0, check := 0, inverted := false, armMask := 0, latch := 0, first := 0xFF, zeroCount := 0, tickFloor := 0,
    onVbat := false, zeroised := false, unreported := false }

/-- The block at power-on with `CHIP_RST_N` asserted by the chip reset controller (R46): the spec's reset values. -/
def Block.reset : Block :=
  { clk := { locked := false, waits := none, spreadOff := false, loaded := false, tick := 0, loadTick := 0, lost := false, strobes := [] }
    islands := [], shim := [], log := { rings := [], pages := [], limits := [] }
    ic := { srcs := [], pages := [], strayTotal := 0, turn := 0 }
    ks := { slots := [], repls := [], invals := [], sel := [] }
    parts := [], tcLoad := none, tcQueue := [], adm := [], ports := [], pports := [], lparts := [], epochs := [], vgroups := []
    regions := [], mirrors := [], marks := [], mes := [], meparts := [], memReqs := [], bundles := [], nextReq := 0, fetches := [], work := [], ahu := [], ptu := []
    host := { slices := [], queues := [], fences := [], fenceGen := [], bounces := [], bwGen := [], bwSess := [] }
    rst := { parts := [], running := [], history := [], halted := false, haltTick := 0, clampCause := 0, clampPart := none,
             suspects := [], chipRstReq := false, chipRstN := true, opLevel := 0, opIsland := 0, chipCause := 0, chipClamp := 0,
             chipTick := 0, nextCause := 0, compat := Compat.reset }
    sup := { warn := 0, period := 0, released := [], start := [], warnCount := 0, tripLast := 0, checking := 0 }
    i3c := { addr := none, ibiEn := false, rstAction := 0, request := 0, reqTick := 0, cycleWant := false, lastIbi := 0 }
    jtag := { ir := 0x01, tcHalt := false }
    tel := { raw := none, owners := [] }
    lc := Lc.reset
    ent := { withheld := false, gens := 0, draws := 0, opens := 0, waiting := [] }
    out := [] }

/-- The machine right after reset: configuration X (R1), nothing waiting. -/
def State.reset : State :=
  { pending := [], hard := { cfg := .x, fuse := Fuses.blank, bat := Battery.blank }, b := Block.reset }

end Sys2Proof.Machine
end

