-- ==== Sys2Proof/Machine/Bits.lean ====
section
/-! DEFINITION. Byte strings and bit fields: little-endian order everywhere (R5), fields of a register word (R6, R7), saturating counters (R413). -/

namespace Sys2Proof.Machine

/-- The `n` low bytes of `v`, least significant first (R5). -/
def leBytes : Nat → Nat → Bytes
  | 0, _ => []
  | n + 1, v => BitVec.ofNat 8 v :: leBytes n (v / 256)

/-- The value of a byte string, least significant byte first (R5). -/
def leVal : Bytes → Nat
  | [] => 0
  | x :: t => x.toNat + 256 * leVal t

/-- `len` bytes of `bs` at offset `off`. -/
def bytesAt (bs : Bytes) (off len : Nat) : Bytes := (bs.drop off).take len

/-- The `len`-byte field of `bs` at offset `off`. -/
def fieldAt (bs : Bytes) (off len : Nat) : Nat := leVal (bytesAt bs off len)

/-- Bits [lo + len − 1 : lo] of `v`. -/
def bitsOf (v lo len : Nat) : Nat := v / 2 ^ lo % 2 ^ len

/-- Bits of a register word. -/
def wbits (w : Word) (lo len : Nat) : Nat := bitsOf w.toNat lo len

/-- Bit `i` of a register word. -/
def wbit (w : Word) (i : Nat) : Bool := w.getLsbD i

/-- A register word from its fields as (low bit, width, value). -/
def wordOf (fs : List (Nat × Nat × Nat)) : Word :=
  BitVec.ofNat 64 (fs.foldl (fun a f => a + (f.2.2 % 2 ^ f.2.1) * 2 ^ f.1) 0)

/-- A truth value as a bit. -/
def bit (c : Bool) : Nat := if c then 1 else 0

/-- `bs` as 64 B lines, the last one padded with zero. -/
def lineOf (bs : Bytes) : Line := BitVec.ofNat 512 (leVal (bs.take 64))

/-- The 64 bytes of a line. -/
def lineBytes (l : Line) : Bytes := leBytes 64 l.toNat

/-- A value saturated at `w` bits. -/
def satNat (w n : Nat) : Nat := min n (2 ^ w - 1)

/-- A counter raised by one, stopping at all ones. -/
def satInc {w : Nat} (v : BitVec w) : BitVec w := if v = BitVec.allOnes w then v else v + 1

/-- A counter raised by `n`, stopping at all ones. -/
def satAdd {w : Nat} (v : BitVec w) (n : Nat) : BitVec w := BitVec.ofNat w (satNat w (v.toNat + n))

/-- Cuts a byte string into pieces of `n` bytes (at most `fuel` pieces). -/
def chunks (n : Nat) : Nat → Bytes → List Bytes
  | 0, _ => []
  | fuel + 1, bs => if bs.isEmpty then [] else bs.take n :: chunks n fuel (bs.drop n)

/-- A byte string padded with zero to `n` bytes. -/
def padTo (n : Nat) (bs : Bytes) : Bytes := bs ++ List.replicate (n - bs.length) 0

/-- A list in rising order of `f`, equals in their old order. -/
def insertBy {α : Type} (f : α → Nat) (x : α) : List α → List α
  | [] => [x]
  | y :: t => if f x ≤ f y then x :: y :: t else y :: insertBy f x t
def sortBy {α : Type} (f : α → Nat) (xs : List α) : List α := xs.foldr (insertBy f) []

/-- Whether two ticks lie within `d` of one another. -/
def within (a b : Word) (d : Nat) : Bool := decide (a.toNat ≤ b.toNat + d ∧ b.toNat ≤ a.toNat + d)

/-- The index part of a member reference and its kind (R13). -/
def memberIndex (m : MemberRef) : BitVec 16 := m.setWidth 16
def memberKind (m : MemberRef) : Nat := bitsOf m.toNat 16 2
/-- The reference of accelerator member `i` (R13). -/
def accel (i : BitVec 16) : MemberRef := i.setWidth 32
/-- The reference of switch member `i` (R13). -/
def switchRef (i : BitVec 16) : MemberRef := 0x20000 ||| i.setWidth 32

end Sys2Proof.Machine
end

