-- ==== Sys2Proof/Machine/Crypto.lean ====
section
/-! DEFINITION. The modes the block builds from the forward AES-256 cipher (R167): counter mode, GHASH, GCM and GMAC of SP 800-38D; and KMAC256 in the forms the chapters call (R116). The cipher, KMAC256 and the signature schemes themselves are constants of Config (log entry 2). -/

namespace Sys2Proof.Machine

/-- A 16-byte string as a cipher block, the first byte most significant (SP 800-38D). -/
def blockOf (bs : Bytes) : BitVec 128 := BitVec.ofNat 128 (leVal (padTo 16 (bs.take 16)).reverse)

/-- The 16 bytes of a cipher block. -/
def blockBytes (v : BitVec 128) : Bytes := (leBytes 16 v.toNat).reverse

/-- The next counter block: the low 32 bits count (R175). -/
def ctrNext (c : BitVec 128) : BitVec 128 := (c.extractLsb' 32 96 ++ (c.extractLsb' 0 32 + 1) : BitVec 128)

/-- `n` blocks of keystream from counter block `c` (R175). -/
def keystream (k : Key) : Nat → BitVec 128 → Bytes
  | 0, _ => []
  | n + 1, c => blockBytes (Config.aes256 k c) ++ keystream k n (ctrNext c)

def xorBytes (a b : Bytes) : Bytes := List.zipWith (fun x y => x ^^^ y) a b

/-- Counter mode from counter block `c`. -/
def ctrMode (k : Key) (c : BitVec 128) (bs : Bytes) : Bytes := xorBytes bs (keystream k ((bs.length + 15) / 16) c)

/-- The product of GF(2^128) in the bit order of SP 800-38D: `n` bits of `x` are still to take, from the most significant. -/
def gfMul (x : BitVec 128) : Nat → BitVec 128 → BitVec 128 → BitVec 128
  | 0, _, z => z
  | n + 1, v, z =>
    let z := if x.getLsbD n then z ^^^ v else z
    let v' := v >>> 1
    gfMul x n (if v.getLsbD 0 then v' ^^^ (0xE1#128 <<< 120) else v') z

/-- GHASH of a string already padded to whole blocks. -/
def ghashBlocks (hk : BitVec 128) : Nat → Bytes → BitVec 128 → BitVec 128
  | 0, _, y => y
  | n + 1, bs, y => ghashBlocks hk n (bs.drop 16) (gfMul (y ^^^ blockOf bs) 128 hk 0)

def pad16 (bs : Bytes) : Bytes := bs ++ List.replicate ((16 - bs.length % 16) % 16) 0

/-- GHASH over additional data and ciphertext with their bit lengths. -/
def ghash (hk : BitVec 128) (aad ct : Bytes) : BitVec 128 :=
  let s := pad16 aad ++ pad16 ct ++ (leBytes 8 (8 * aad.length)).reverse ++ (leBytes 8 (8 * ct.length)).reverse
  ghashBlocks hk (s.length / 16) s 0

/-- The first counter block of GCM for a 96-bit IV. -/
def gcmJ0 (iv : Bytes) : BitVec 128 := blockOf (iv ++ [0, 0, 0, 1])

/-- The GCM tag of a ciphertext. -/
def gcmTag (k : Key) (iv aad ct : Bytes) : BitVec 128 :=
  ghash (Config.aes256 k 0) aad ct ^^^ Config.aes256 k (gcmJ0 iv)

/-- AES-256-GCM: ciphertext and tag. -/
def gcmSeal (k : Key) (iv aad pt : Bytes) : Bytes × BitVec 128 :=
  let ct := ctrMode k (ctrNext (gcmJ0 iv)) pt
  (ct, gcmTag k iv aad ct)

/-- Opens a GCM record: the plaintext when the tag verifies. -/
def gcmOpen (k : Key) (iv aad ct : Bytes) (tag : BitVec 128) : Option Bytes :=
  if gcmTag k iv aad ct = tag then some (ctrMode k (ctrNext (gcmJ0 iv)) ct) else none

/-- A 128-bit tag as 16 bytes, and back, in the order of the wire. -/
def tagBytes (t : BitVec 128) : Bytes := blockBytes t
def tagOf (bs : Bytes) : BitVec 128 := blockOf bs

/-- The bytes of a key value, as KMAC256 takes them. -/
def keyBytes (k : Key) : Bytes := leBytes 32 k.toNat

/-- A derivation of R116. -/
def kdf (k : Key) (data : Bytes) (custom : String) : Key := (Config.kmac256 (keyBytes k) data custom).setWidth 256

/-- A MAC of 128 bits under a key (R372, R261). -/
def kmac128 (k : Key) (data : Bytes) (custom : String) : BitVec 128 := (Config.kmac256 (keyBytes k) data custom).setWidth 128

/-- The key check value (R116). -/
def kcvOf (k : Key) : Word := (Config.kmac256 (keyBytes k) [] "SWY-KCV").setWidth 64

end Sys2Proof.Machine
end

