-- ==== Sys2Proof/Machine/Params.lean ====
section
/-! DEFINITION. The counts of the four configurations (R1, R2) and which islands, ports and register windows exist in each (R3). -/

namespace Sys2Proof.Machine

/-- `LE_COUNT` (R2). -/
def leCount : Cfg → Nat | .s => 1 | .m => 2 | .l => 8 | .x => 16
/-- `ME_COUNT` (R2). -/
def meCount : Cfg → Nat | .s => 1 | .m => 2 | .l => 4 | .x => 8
/-- `PORT_COUNT` (R2). -/
def portCount : Cfg → Nat | .s => 2 | .m => 8 | .l => 32 | .x => 64
/-- `CORE_COUNT` (R2). -/
def coreCount : Cfg → Nat | .s => 6 | .m => 40 | .l => 292 | .x => 580
/-- `IC_PAP` (R2): active-and-pending in L and X. -/
def icPap : Cfg → Bool | .s => false | .m => false | .l => true | .x => true
/-- `ISL_CLK` (R2), in units of 100 MHz. -/
def islClk : Cfg → Nat | .s => 4 | .m => 16 | .l => 16 | .x => 16
/-- `CFG` (R2). -/
def cfgCode : Cfg → Nat | .s => 1 | .m => 2 | .l => 3 | .x => 4
/-- The small configuration runs everything at 400 MHz (R28). -/
def isS (c : Cfg) : Bool := decide (c = .s)

/-- The LE that serves a port (R358). -/
def portLe (k : Port) : Fin 16 := ⟨k.val / 4, by omega⟩

/-- Whether an island exists in the configuration (R2, R3). -/
def islandPresent (c : Cfg) : Island → Bool
  | .le n => decide (n.val < leCount c)
  | .me n => decide (n.val < meCount c)
  | _ => true

/-- Whether a port exists in the configuration. -/
def portPresent (c : Cfg) (k : Port) : Bool := decide (k.val < portCount c)

/-- The island code of a log entry (R387). -/
def islandCode : Island → Nat
  | .le n => n.val
  | .me n => 16 + n.val
  | .hbe => 24
  | .ptu => 25
  | .ahu => 26
  | .tc => 27
  | .kdr => 28
  | .battery => 29

/-- The island a code names (R387). -/
def islandOfCode (n : Nat) : Option Island :=
  if n < 16 then some (.le (Fin.ofNat 16 n))
  else if n < 24 then some (.me (Fin.ofNat 8 (n - 16)))
  else match n with
    | 24 => some .hbe
    | 25 => some .ptu
    | 26 => some .ahu
    | 27 => some .tc
    | 28 => some .kdr
    | 29 => some .battery
    | _ => none

/-- The LEs and MEs of the configuration and the islands it always has, except the battery domain, in the order of their codes. -/
def allIslands (c : Cfg) : List Island :=
  (((List.range (leCount c)).map fun n => Island.le (Fin.ofNat 16 n)) ++ ((List.range (meCount c)).map fun n => Island.me (Fin.ofNat 8 n)))
    ++ [.hbe, .ptu, .ahu]

/-- The islands that compute under cipher keys: they hold a key cache and a scheduler. -/
def cipherIslands (c : Cfg) : List Island :=
  (((List.range (leCount c)).map fun n => Island.le (Fin.ofNat 16 n)) ++ ((List.range (meCount c)).map fun n => Island.me (Fin.ofNat 8 n)))
    ++ [.hbe]

/-- N, W and u of R176: cores of an island, window columns of its share frame, cells of a share unit. -/
def coresOf (c : Cfg) : Island → Nat
  | .le _ => match c with | .s => 2 | .m => 12 | _ => 24
  | .me _ => match c with | .s => 2 | .m => 6 | _ => 24
  | .hbe => match c with | .s => 2 | _ => 4
  | _ => 0
def columnsOf (c : Cfg) (i : Island) : Nat := if coresOf c i = 0 then 0 else 64 / Nat.gcd (coresOf c i) 64
def unitCells (c : Cfg) (i : Island) : Nat := coresOf c i * columnsOf c i / 64
/-- The least share that holds a cell in every window column (R176, R178). -/
def leastShare (c : Cfg) (i : Island) : Nat := if unitCells c i = 0 then 0 else (columnsOf c i + unitCells c i - 1) / unitCells c i
/-- Veneer multipliers of an LE (R241). -/
def multipliers : Cfg → Nat | .s => 128 | _ => 512
/-- Slowest island rate in cycles per 1,000 ticks (R233). -/
def slowRate : Cfg → Nat | .s => 398 | _ => 1592

/-- The islands in the order of `SHARES` (R65): LE0 to LE15, ME0 to ME7, the HBE. -/
def shareIsland (n : Nat) : Island := if n < 16 then .le (Fin.ofNat 16 n) else if n < 24 then .me (Fin.ofNat 8 (n - 16)) else .hbe
def shareIndex : Island → Nat | .le n => n.val | .me n => 16 + n.val | _ => 24

def allParts : List Part := [0, 1, 2, 3, 4, 5, 6, 7]

/-- Ticks of a second and of the bounds the chapters repeat. -/
def second : Nat := 1000000000

end Sys2Proof.Machine
end

