-- ==== Sys2Proof/Machine/Ops.lean ====
section
/-! DEFINITION. The named operations every family uses: how a command's effect becomes an outcome, what leaves the block, sources and interrupts (R358 to R367), the trouble log (R386 to R388, R413, R213), completion records (R332, R335) and the checks a command meets before it runs (R20, R333, R337, R344, R381). -/

namespace Sys2Proof.Machine

/-! ### Outcomes -/

/-- A command whose effect lies in the block alone: fuses, battery domain, configuration and queue stay. -/
def onB (f : Hard → Block → Block) (s : State) : Host.Outcome State Fault Refusal :=
  .next { s with b := f s.hard s.b }

/-- A command that also reaches the parts no reset reaches. -/
def onHB (f : Hard → Block → Hard × Block) (s : State) : Host.Outcome State Fault Refusal :=
  .next { s with hard := (f s.hard s.b).1, b := (f s.hard s.b).2 }

/-- Out of chip reset: `CHIP_RST_N` is released and the clocks are locked; no island leaves reset before (R31, R52). -/
def Block.up (b : Block) : Bool := !b.rst.chipRstN && b.clk.locked

/-- The islands take work: out of chip reset, not halted, tick counter loaded (R52, R371). -/
def Block.live (b : Block) : Bool := b.up && !b.rst.halted && b.clk.loaded

/-- The registers respond: out of chip reset, TC's patch running, not halted (R106, R371, R407). -/
def Block.regs (b : Block) : Bool := b.up && !b.rst.halted && decide (b.lc.bootState = 2)

/-- An effect that needs the block out of chip reset. -/
def whenUp (f : Block → Block) (b : Block) : Block := if b.up then f b else b

/-- An effect on a page that answers while the block is halted: it needs the block out of chip reset and TC's patch running (R106, R371). -/
def whenPages (f : Block → Block) (b : Block) : Block := if b.up && decide (b.lc.bootState = 2) then f b else b

/-- An effect that needs the islands at work. -/
def whenLive (f : Block → Block) (b : Block) : Block := if b.live then f b else b

/-! ### What leaves the block, time, islands, free values -/

def emit (o : Out) (b : Block) : Block := { b with out := o :: b.out }

/-- Emits several things, the first of the list first. -/
def emits (os : List Out) (b : Block) : Block := { b with out := os.reverse ++ b.out }

/-- The master count (R8, R33). -/
def Block.now (b : Block) : Word := b.clk.tick

/-- Ticks since `t`. -/
def since (b : Block) (t : Word) : Nat := b.clk.tick.toNat - t.toNat

def Block.island (b : Block) (i : Island) : IslandSt := Tab.getD b.islands (islandCode i) IslandSt.reset
def modIsland (i : Island) (f : IslandSt → IslandSt) (b : Block) : Block :=
  { b with islands := Tab.upd b.islands (islandCode i) IslandSt.reset f }

def Block.part (b : Block) (p : Part) : PartSt := Tab.getD b.parts p.val PartSt.reset
def modPart (p : Part) (f : PartSt → PartSt) (b : Block) : Block := { b with parts := Tab.upd b.parts p.val PartSt.reset f }
def Block.jigOf (b : Block) (p : Part) : Option Jig := (b.part p).jig
def Block.adm' (b : Block) (p : Part) : Adm := Tab.getD b.adm p.val Adm.reset
def modAdm (p : Part) (f : Adm → Adm) (b : Block) : Block := { b with adm := Tab.upd b.adm p.val Adm.reset f }
def Block.rstPart (b : Block) (p : Part) : RstPart := Tab.getD b.rst.parts p.val RstPart.reset
def modRst (f : Rst → Rst) (b : Block) : Block := { b with rst := f b.rst }
def modRstPart (p : Part) (f : RstPart → RstPart) (b : Block) : Block :=
  modRst (fun r => { r with parts := Tab.upd r.parts p.val RstPart.reset f }) b

/-- A partition exists from `CMD_PART_CREATE` to the end of its release (R337, R344). -/
def Block.partExists (b : Block) (p : Part) : Bool := decide ((b.part p).state ≠ 0)

/-- The member index of a partition's Jig, 0 with none. -/
def Block.selfIndex (b : Block) (p : Part) : BitVec 16 := match b.jigOf p with | some j => j.memberIndex | none => 0

/-- The next value of TC's DRBG (R185), a free value (log entry 3). -/
def Block.draw (b : Block) : BitVec 512 := Config.drbg b.ent.draws
/-- No random value is to be had: withheld, or 2^20 generate requests without a reseed (R185). -/
def Block.noRandom (b : Block) : Bool := b.ent.withheld || decide (2 ^ 20 ≤ b.ent.gens)
def drawn (b : Block) : Block := { b with ent := { b.ent with draws := b.ent.draws + 1, gens := b.ent.gens + 1 } }

/-- The next value the spec leaves open (log entry 3). -/
def Block.openVal (b : Block) : BitVec 512 := Config.openValue b.ent.opens
def opened (b : Block) : Block := { b with ent := { b.ent with opens := b.ent.opens + 1 } }

/-! ### Interrupt sources (R358 to R367) -/

/-- Level sources (R358); the others are event sources. -/
def srcIsLevel (x : Nat) : Bool := (decide (256 ≤ x) && decide (x < 264)) || (decide (344 ≤ x) && decide (x ≤ 418))

/-- The owner a source has without an object (R358); absent islands and ports have none (R3). -/
def srcFixedOwner (c : Cfg) (x : Nat) : Option Owner :=
  if x < 256 then none
  else if x < 264 then some (.part (Fin.ofNat 8 (x - 256)))
  else if x < 272 then some (.part (Fin.ofNat 8 (x - 264)))
  else if x < 280 then some (.part (Fin.ofNat 8 (x - 272)))
  else if x < 344 then none
  else if x < 352 then (if x - 344 < meCount c then some .operator else none)
  else if x < 416 then (if x - 352 < portCount c then some .operator else none)
  else if x ≤ 420 then some .operator
  else none

/-- First vector and size of an owner's range (R360). -/
def vectorBase : Owner → Nat | .part p => 224 * p.val | .operator => 1792
def vectorCount : Owner → Nat | .part _ => 224 | .operator => 256

/-- A vector outside the owner's range is folded into it (R360). -/
def foldVector (o : Owner) (v : Nat) : BitVec 11 :=
  if vectorBase o ≤ v ∧ v < vectorBase o + vectorCount o then BitVec.ofNat 11 v
  else BitVec.ofNat 11 (vectorBase o + v % vectorCount o)

/-- A source at reset (R368): the stacks are not ready and the links are down, so those level conditions hold from the start. -/
def srcDefault (c : Cfg) (x : Nat) : Src :=
  { state := 0, vector := match srcFixedOwner c x with | some o => BitVec.ofNat 11 (vectorBase o) | none => 0,
    prio := 1, mask := false, cond := decide (344 ≤ x ∧ x < 416) && (srcFixedOwner c x).isSome, requeued := false, owner := srcFixedOwner c x }

def Block.src (b : Block) (c : Cfg) (x : Nat) : Src := Tab.getD b.ic.srcs x (srcDefault c x)
def setSrc (x : Nat) (s : Src) (b : Block) : Block := { b with ic := { b.ic with srcs := Tab.set b.ic.srcs x s } }

/-- What a firing does to a source (R361). -/
def Src.fired (pap level : Bool) (s : Src) : Src :=
  if s.state = 0 then { s with state := 1, requeued := false }
  else if s.state = 2 then
    if pap then { s with state := 3 } else if level then s else { s with cond := true }
  else s

/-- What a completion does to an active source (R361, R363). -/
def Src.completed (pap : Bool) (s : Src) : Src :=
  if pap then
    if s.state = 3 then { s with state := 1, requeued := true } else { s with state := 0 }
  else if s.cond then { s with state := 1 } else { s with state := 0 }

/-- From the assertion of `HALT`, only these sources fire (R365). -/
def srcFiresHalted (x : Nat) : Bool := (decide (272 ≤ x) && decide (x < 280)) || decide (x = 418)

/-- The island whose stub carries a source (R358). -/
def srcStub (x : Nat) : Option Island :=
  if 280 ≤ x ∧ x < 344 then some .hbe
  else if 344 ≤ x ∧ x < 352 then some (.me (Fin.ofNat 8 (x - 344)))
  else if 352 ≤ x ∧ x < 416 then some (.le (Fin.ofNat 16 ((x - 352) / 4)))
  else none

/-- One firing of source `x` (R358, R361, R365). -/
def fire (h : Hard) (x : Nat) (b : Block) : Block :=
  let s := b.src h.cfg x
  if s.owner.isNone || (b.rst.halted && !srcFiresHalted x) then b
  else setSrc x (s.fired (icPap h.cfg) (srcIsLevel x)) b

/-- An event arising on an island: its stub latches it while it sleeps, else it fires (R366). -/
def fireStub (h : Hard) (i : Island) (x : Nat) (b : Block) : Block :=
  if (b.island i).asleep then modIsland i (fun s => { s with stubLatch := s.stubLatch ++ [x] }) b else fire h x b

/-- The condition of a level source takes a value; it fires when the condition rises (R358). -/
def setLevel (h : Hard) (x : Nat) (c : Bool) (b : Block) : Block :=
  let s := b.src h.cfg x
  let b := setSrc x { s with cond := c } b
  let b := match srcStub x with
    | some i => modIsland i (fun st => { st with stubLevel := Tab.set st.stubLevel x c }) b
    | none => b
  if c && !s.cond then fire h x b else b

/-- A source takes an owner and starts inactive (R359). -/
def ownSrc (h : Hard) (x : Nat) (p : Part) (v : Nat) (b : Block) : Block :=
  setSrc x { srcDefault h.cfg x with owner := some (.part p), vector := foldVector (.part p) v } b

/-- A source loses its owner (R359). -/
def dropSrc (h : Hard) (x : Nat) (b : Block) : Block := setSrc x (srcDefault h.cfg x) b

/-- A source returns to inactive and keeps its routing (R359). -/
def idleSrc (h : Hard) (x : Nat) (b : Block) : Block :=
  let s := b.src h.cfg x
  setSrc x { s with state := 0, cond := if srcIsLevel x then s.cond else false, requeued := false } b

/-! ### The trouble log (R386 to R388, R413) -/

/-- The arguments of an entry: each of its width in bytes, back to back; what would pass byte 31 is left out with all that follows (R387). -/
def packArgs : Nat → List (Nat × Nat) → Nat
  | _, [] => 0
  | at', (w, v) :: t => if at' + w ≤ 16 then (v % 2 ^ (8 * w)) * 2 ^ (8 * at') + packArgs (at' + w) t else 0

/-- Argument widths of R413. -/
def aTick (t : Word) : Nat × Nat := (6, t.toNat)
def aCount (n : Nat) : Nat × Nat := (2, satNat 16 n)
def aByte (n : Nat) : Nat × Nat := (1, n)
def aHalf (n : Nat) : Nat × Nat := (2, n)
def aW3 (n : Nat) : Nat × Nat := (3, n)
def aW4 (n : Nat) : Nat × Nat := (4, n)
def aW6 (n : Nat) : Nat × Nat := (6, n)
def aW8 (n : Nat) : Nat × Nat := (8, n)

/-- The view of an event that names none (R387). -/
def evView (code : Nat) : Nat :=
  if code = 0x040C ∨ code = 0x0801 ∨ code = 0x0803 ∨ code / 256 = 1 ∨ code / 256 = 0x0B then 1 else 0

/-- The severity of an event that names none (R387). -/
def evSev (code : Nat) : Nat :=
  if code = 0x0504 ∨ code = 0x050A ∨ code = 0x050B then 3
  else if code / 256 ≤ 3 then 1 else if code / 256 = 0x0B then 3 else 2

def Block.logPage (b : Block) (v : Nat) : LogPage := Tab.getD b.log.pages v LogPage.reset
def Block.ring (b : Block) (r : Nat) : List LogEntry := Tab.getD b.log.rings r []

/-- Ring capacities (R386). -/
def ringCap (r : Nat) : Nat := if r = 8 then 512 else 448

/-- The views an entry enters (R388): 8 is the operator's; partitions' views exist while the partition does (R407). -/
def viewsOf (b : Block) (view : Nat) (p : Option Part) : List Nat :=
  let ex := allParts.filter b.partExists
  match view with
  | 0 => match p with | some p => if b.partExists p then [p.val] else [] | none => []
  | 1 => [8]
  | 2 => (match p with | some p => if b.partExists p then [p.val] else [] | none => []) ++ [8]
  | _ => ex.map (fun p => p.val) ++ [8]

/-- Counts entry and loss in the views (R388, R390). -/
def viewsTake (h : Hard) (vs : List Nat) (b : Block) : Block :=
  vs.foldl (fun b v =>
    let pg := b.logPage v
    fire h (if v = 8 then 419 else 264 + v) { b with log := { b.log with pages := Tab.set b.log.pages v { pg with wr := pg.wr + 1 } } }) b

def viewsLose (ns : Tab Nat) (b : Block) : Block :=
  ns.foldl (fun b n =>
    let pg := b.logPage n.1
    { b with log := { b.log with pages := Tab.set b.log.pages n.1 { pg with lost := satInc pg.lost } } }) b

/-- Records one entry (R386 to R388). -/
def logEv (h : Hard) (code : Nat) (isl : Nat) (p : Option Part) (view sev : Nat) (args : List (Nat × Nat)) (b : Block) : Block :=
  let vs := viewsOf b view p
  let e : LogEntry :=
    { tick := b.now, code := BitVec.ofNat 16 code, island := BitVec.ofNat 8 isl,
      part := match p with | some p => BitVec.ofNat 8 p.val | none => 0xFF,
      sev := BitVec.ofNat 4 sev, view := BitVec.ofNat 4 view, args := BitVec.ofNat 128 (packArgs 0 args),
      nums := vs.foldl (fun t v => Tab.set t v (b.logPage v).wr.toNat) [] }
  let r := match view, p with | 0, some p => p.val | _, _ => 8
  let old := b.ring r
  let isFull := decide (ringCap r ≤ old.length)
  let b := if isFull then viewsLose (match old with | x :: _ => x.nums | [] => []) b else b
  let kept := if isFull then old.drop 1 else old
  viewsTake h vs { b with log := { b.log with rings := Tab.set b.log.rings r (kept ++ [e]) } }

/-- An event of the class defaults of R387. -/
def note (h : Hard) (code : Nat) (isl : Nat) (p : Option Part) (args : List (Nat × Nat)) (b : Block) : Block :=
  logEv h code isl p (evView code) (evSev code) args b

/-- An event that is limited and counted as R213 sets out: per code, partition and object, once in 1,000,000 ticks. -/
def noteLimited (h : Hard) (code : Nat) (isl : Nat) (p : Option Part) (obj : Nat) (args : Nat → List (Nat × Nat)) (b : Block) : Block :=
  let pn := match p with | some p => p.val | none => 0xFF
  let same (l : Limit) : Bool := decide (l.code.toNat = code ∧ l.part = pn ∧ l.obj = obj)
  let put (l : Limit) (b : Block) : Block := { b with log := { b.log with limits := l :: b.log.limits.filter fun x => !same x } }
  match b.log.limits.find? same with
  | none => put { code := BitVec.ofNat 16 code, part := pn, obj := obj, tick := b.now, count := 0 } (note h code isl p (args 1) b)
  | some l =>
    if l.tick.toNat + 1000000 ≤ b.now.toNat then
      put { l with tick := b.now, count := 0 } (note h code isl p (args (l.count + 1)) b)
    else put { l with count := l.count + 1 } b

/-! ### Status codes (R9) -/

def stOk : Byte := 0x00
def stAborted : Byte := 0x01
def stNothingToAbort : Byte := 0x02
def stObjectGone : Byte := 0x03
def stFaultPending : Byte := 0x04
def stAtomicUnknown : Byte := 0x05
def stMemUncorrectable : Byte := 0x06
def stRegionRevoked : Byte := 0x07
def stPeerDeparted : Byte := 0x08
def stKeyOrphaned : Byte := 0x09
def stUsageLimit : Byte := 0x0A
def stJigRejected : Byte := 0x0B
def stAbandoned : Byte := 0x0C
def stNoSlot : Byte := 0x0D
def stNotOwner : Byte := 0x0E
def stSaturated : Byte := 0x0F

/-! ### Completion records (R331, R332, R335) -/

/-- The 32 bytes of a record (R335). -/
def recBytes (r : Rec) (phase : Bool) : Bytes :=
  leBytes 1 r.status.toNat ++ leBytes 1 (r.kind.toNat + 128 * bit phase) ++ leBytes 2 r.reason.toNat ++ leBytes 4 r.cmdId.toNat
    ++ leBytes 8 r.cookie.toNat ++ leBytes 8 r.result.toNat ++ leBytes 8 r.result2.toNat

def setQueue (n : Nat) (q : Queue) (b : Block) : Block := { b with host := { b.host with queues := Tab.set b.host.queues n q } }
def Block.queue (b : Block) (n : BitVec 8) : Option Queue := Tab.get? b.host.queues n.toNat

/-- The completion ring has room (R332). -/
def Queue.room (q : Queue) : Bool := decide ((q.cqTail - q.cqHead).toNat < 2 ^ q.cqLog)

/-- Writes a record at `CQ_TAIL` and raises the queue's source (R335). -/
def pushRec (h : Hard) (n : Nat) (r : Rec) (b : Block) : Block :=
  match Tab.get? b.host.queues n with
  | none => b
  | some q =>
    let addr : Word := (q.cqBase.setWidth 64) <<< 12 + BitVec.ofNat 64 (32 * (q.cqTail.toNat % 2 ^ q.cqLog))
    let b := setQueue n { q with cqTail := q.cqTail + 1 } b
    let b := emit (.dmaWrite addr (recBytes r (q.cqTail.getLsbD q.cqLog))) b
    if r.intr then fire h n b else b

/-- A final record of a Veneer group (R235). -/
def Rec.isFinal (r : Rec) : Bool := decide (r.kind = 1) && r.result2.getLsbD 63

/-- Where a step record's status stands in the order of R235. -/
def stepRank (st : Byte) : Nat := if st = stPeerDeparted then 0 else if st = stAborted then 1 else if st = stSaturated then 2 else 3

/-- The newer step record `r` over the held `x` (R332): saturated blocks add up, the first status that applies stands, the merges are counted. -/
def mergeStep (x r : Rec) : Rec :=
  { r with result := BitVec.ofNat 64 (bitsOf r.result.toNat 0 32 + 2 ^ 32 * satNat 24 (bitsOf x.result.toNat 32 24 + bitsOf r.result.toNat 32 24)),
           reason := satAdd (if x.reason = 0 then 1 else x.reason) 1,
           status := if stepRank x.status < stepRank r.status then x.status else r.status }

/-- Adds a record to those a queue holds: a step record replaces a held one of its group, a final record replaces nothing, a relay event replaces one of its admission (R332). -/
def mergeHeld (r : Rec) : List Rec → List Rec
  | [] => [r]
  | x :: t =>
    if r.kind = 1 ∧ x.kind = 1 ∧ x.cmdId = r.cmdId ∧ r.isFinal = false ∧ x.isFinal = false then mergeStep x r :: t
    else if r.kind = 2 ∧ x.kind = 2 ∧ x.cmdId = r.cmdId then r :: t
    else x :: mergeHeld r t

/-- Writes a record or holds it (R331, R332); a destroyed queue and a halted block write none (R342, R371). -/
def writeRec (h : Hard) (n : Nat) (r : Rec) (b : Block) : Block :=
  match Tab.get? b.host.queues n with
  | none => b
  | some q =>
    if q.state = 2 ∨ b.rst.halted = true then b
    else if q.state = 1 ∧ q.held = [] ∧ q.room = true then pushRec h n r b
    else
      let b := setQueue n { q with held := mergeHeld r q.held } b
      if q.state = 1 ∧ q.held = [] then note h 0x0808 24 (some q.part) [aByte n] b else b

/-- Writes held records while there is room (R332). -/
def drainHeld (h : Hard) (n : Nat) : Nat → Block → Block
  | 0, b => b
  | fuel + 1, b =>
    match Tab.get? b.host.queues n with
    | none => b
    | some q =>
      match q.held with
      | [] => b
      | r :: t => if q.state = 1 ∧ q.room = true then drainHeld h n fuel (pushRec h n r (setQueue n { q with held := t } b)) else b

/-- A dying queue's slot is free once no command of it is left (R344). -/
def queueSettle (h : Hard) (n : Nat) (b : Block) : Block :=
  match Tab.get? b.host.queues n with
  | none => b
  | some q => if q.state = 2 ∧ q.flight = [] then dropSrc h n { b with host := { b.host with queues := Tab.del b.host.queues n } } else b

/-- Removes a command from its queue's list of commands taken. -/
def unflight (h : Hard) (ctx : CmdCtx) (b : Block) : Block :=
  let b := { b with ent := { b.ent with waiting := b.ent.waiting.filter fun w => decide (w.1 ≠ ctx) } }
  match b.queue ctx.queue with
  | none => b
  | some q => queueSettle h ctx.queue.toNat (setQueue ctx.queue.toNat { q with flight := q.flight.filter fun f => f.ctx.cmdId != ctx.cmdId } b)

/-- Completes a command with its record of kind 0 (R335). -/
def complete (h : Hard) (ctx : CmdCtx) (st : Byte) (reason : Nat) (r1 r2 : Nat) (b : Block) : Block :=
  writeRec h ctx.queue.toNat
    { status := st, kind := 0, reason := BitVec.ofNat 16 reason, cmdId := ctx.cmdId, cookie := ctx.cookie,
      result := BitVec.ofNat 64 r1, result2 := BitVec.ofNat 64 r2, intr := ctx.intr } (unflight h ctx b)

/-- Completes the command an operation serves, if one does. -/
def completeOpt (h : Hard) (ctx : Option CmdCtx) (st : Byte) (reason : Nat) (r1 r2 : Nat) (b : Block) : Block :=
  match ctx with
  | none => b
  | some c => complete h c st reason r1 r2 b

/-! ### What a command meets before it runs (R20, R333, R337, R344, R381) -/

/-- The valid slice entry that names a PASID (R19). -/
def Block.sliceOf (b : Block) (pasid : BitVec 20) : Option Slice :=
  (b.host.slices.find? fun e => e.2.valid && decide (e.2.pasid = pasid)).map fun e => e.2

/-- Commands taken in each state of the partition (R337, R344, R381). `otype` matters for `CMD_OBJ_FREE` alone. -/
def stateTakes (st : PartSt) (opcode otype : Nat) : Bool :=
  if st.held then opcode = 0x13 || (opcode = 0x12 && otype = 5)
  else match st.state.toNat with
    | 0 => opcode = 0x01 || opcode = 0x13 || opcode = 0x0D || opcode = 0x11 || (opcode = 0x12 && (otype = 1 || otype = 3))
    | 1 => opcode = 0x01 || opcode = 0x13 || opcode = 0x0D || opcode = 0x11 || opcode = 0x02
             || (opcode = 0x12 && (otype = 1 || otype = 3 || otype = 5))
    | 2 => true
    | _ => opcode = 0x13

/-- The status a command ends with before it runs, if one applies: ownership first, then the partition's state. -/
def cmdGate (b : Block) (q : Queue) (opcode otype : Nat) : Option (Byte × Nat) :=
  match b.sliceOf q.pasid with
  | none => some (stNotOwner, 0)
  | some sl =>
    if sl.part ≠ BitVec.ofNat 3 q.part.val then some (stNotOwner, 0)
    else if stateTakes (b.part q.part) opcode otype then none
    else some (stObjectGone, 0x0103)

/-- The entry of a fetched command that TC may start now (R333): not started, every earlier one of its queue started, and completed when it is `ORDERED`. -/
def Queue.startable (q : Queue) (ctx : CmdCtx) (opcode : Nat) : Bool :=
  q.flight.any fun f => decide (f.ctx = ctx) && !f.started && decide (f.opcode.toNat = opcode)
    && (q.flight.all fun g => decide (g.ctx.cmdId = ctx.cmdId) || decide ((ctx.cmdId - g.ctx.cmdId).toNat ≥ 2 ^ 31) || (g.started && !f.ordered))

def markStarted (ctx : CmdCtx) (b : Block) : Block :=
  match b.queue ctx.queue with
  | none => b
  | some q =>
    setQueue ctx.queue.toNat { q with flight := q.flight.map fun f => if f.ctx.cmdId = ctx.cmdId then { f with started := true } else f } b

/-- A command that needs random values TC withholds waits (R185): it is to start again once they are released. -/
def awaitEntropy (ctx : CmdCtx) (p : Part) (b : Block) : Block :=
  let b := if b.ent.waiting.any fun w => decide (w.1 = ctx) then b
    else { b with ent := { b.ent with waiting := b.ent.waiting ++ [(ctx, p, b.now)] } }
  match b.queue ctx.queue with
  | none => b
  | some q =>
    setQueue ctx.queue.toNat { q with flight := q.flight.map fun f => if f.ctx.cmdId = ctx.cmdId then { f with started := false } else f } b

/-- The command no longer waits for random values. -/
def entropyServed (ctx : CmdCtx) (b : Block) : Block :=
  { b with ent := { b.ent with waiting := b.ent.waiting.filter fun w => decide (w.1 ≠ ctx) } }

/-- A fetched command names an object, by type and handle, that was not dying when it was fetched (R343). -/
def Block.holdsName (b : Block) (ctx : CmdCtx) (otype : Byte) (handle : BitVec 32) : Bool :=
  match b.queue ctx.queue with
  | some q => q.flight.any fun f => decide (f.ctx = ctx) && f.names.contains (otype, handle)
  | none => false

/-- A command of any queue still names an object. -/
def Block.isNamed (b : Block) (otype : Byte) (handle : BitVec 32) : Bool := b.host.queues.any fun e => e.2.flight.any fun f => f.names.contains (otype, handle)

/-- Starts a fetched command, once no partition reset runs (R378) and no debugger holds TC (R103): the checks, then its own effect `k` with the queue it came from. A row that names no such command has no effect (log entry 5). -/
def runCmd (h : Hard) (ctx : CmdCtx) (opcode otype : Nat) (k : Queue → Block → Block) (b : Block) : Block :=
  match b.queue ctx.queue with
  | none => b
  | some q =>
    if !b.live || b.jtag.tcHalt || !q.startable ctx opcode || (b.rst.running.any fun r => decide (r.scope = .partition q.part)) then b
    else match cmdGate b q opcode otype with
      | some (st, r) => complete h ctx st r 0 0 (markStarted ctx b)
      | none => k q (markStarted ctx b)

end Sys2Proof.Machine
end

