-- ==== Sys2Proof/Machine/KeyOps.lean ====
section
/-! DEFINITION. The key store's shared operations: attribute words (R113, R114), the derivation tree (R115, R116), orphaning and kills (R117 to R119), the end of a replacement (R123), and the island key caches (R129 to R131). -/

namespace Sys2Proof.Machine

/-- The slot `s` (R111). -/
def Block.slot (b : Block) (s : Nat) : KeySlot := Tab.getD b.ks.slots s KeySlot.free
def setSlot (s : Nat) (k : KeySlot) (b : Block) : Block := { b with ks := { b.ks with slots := Tab.set b.ks.slots s k } }
def modSlot (s : Nat) (f : KeySlot → KeySlot) (b : Block) : Block := setSlot s (f (b.slot s)) b
def freeSlot (s : Nat) (b : Block) : Block := { b with ks := { b.ks with slots := Tab.del b.ks.slots s } }
/-- The value a slot holds. -/
def Block.keyVal (b : Block) (s : Slot) : Key := (b.slot s.toNat).value

/-- The attribute word (R113). -/
def attrWord (a : Attr) : Word :=
  wordOf [(50, 2, a.st.toNat), (44, 6, a.limitExp.toNat), (28, 16, a.generation.toNat), (16, 12, a.parent.toNat), (12, 4, a.owner.toNat),
    (11, 1, bit a.testRoot), (10, 1, bit a.exportable), (4, 6, a.uses.toNat), (0, 4, a.type.toNat)]

/-- The attribute word read back from its bits (R113). -/
def attrOfWord (w : Word) : Attr :=
  { st := BitVec.ofNat 2 (wbits w 50 2), limitExp := BitVec.ofNat 6 (wbits w 44 6), generation := BitVec.ofNat 16 (wbits w 28 16),
    parent := BitVec.ofNat 12 (wbits w 16 12), owner := BitVec.ofNat 4 (wbits w 12 4), testRoot := wbit w 11, exportable := wbit w 10,
    uses := BitVec.ofNat 6 (wbits w 4 6), type := BitVec.ofNat 4 (wbits w 0 4) }

/-- Uses by type (R114): bit 0 encrypt, 1 decrypt, 2 derive, 3 wrap, 4 MAC, 5 Veneer. Type 13 takes the uses named at derivation. -/
def typeUses (t : Nat) : BitVec 6 :=
  match t with
  | 1 | 2 | 3 | 5 | 12 => 0b000100
  | 4 => 0b001100
  | 6 | 8 | 9 | 10 => 0b010011
  | 7 => 0b100100
  | 11 => 0b010001
  | 14 => 0b010111
  | _ => 0

def typeExport (t : Nat) : Bool := t = 5 || t = 7
def typeLimit (t : Nat) : BitVec 6 := match t with | 6 => 31 | 8 | 9 => 40 | _ => 0

def useEncrypt : Nat := 0
def useDecrypt : Nat := 1
def useDerive : Nat := 2
def useWrap : Nat := 3
def useMac : Nat := 4
def useVeneer : Nat := 5

/-- Depth of a slot in the tree (R115). -/
def depthOf (b : Block) : Nat → Nat → Nat
  | 0, _ => 0
  | fuel + 1, s => if s = 0 then 0 else 1 + depthOf b fuel (b.slot s).attr.parent.toNat

/-- The slot or one above it is orphaned or free: the walk of R117, at most seven lookups. -/
def chainOrphaned (b : Block) : Nat → Nat → Bool
  | 0, _ => false
  | fuel + 1, s =>
    let a := (b.slot s).attr
    decide (a.st = 3 ∨ a.st = 0) || (decide (s ≠ 0) && chainOrphaned b fuel a.parent.toNat)

/-- A slot whose key the block may use. -/
def Block.slotLive (b : Block) (s : Nat) : Bool := decide ((b.slot s).attr.st = 1) && !chainOrphaned b 8 s

/-- The lowest free general slot (R112). -/
def Block.lowestFreeSlot (b : Block) : Option Nat := Tab.lowestFree b.ks.slots 64 4032

/-- An attribute word for a key of type `t` that descends from `parent` (R114, R115). -/
def childAttr (b : Block) (t : Nat) (owner : BitVec 4) (parent : Nat) (gen : Nat) : Attr :=
  { st := 1, limitExp := typeLimit t, generation := BitVec.ofNat 16 gen, parent := BitVec.ofNat 12 parent, owner := owner,
    testRoot := (b.slot parent).attr.testRoot, exportable := typeExport t, uses := typeUses t, type := BitVec.ofNat 4 t }

def putKey (s : Nat) (v : Key) (a : Attr) (b : Block) : Block :=
  setSlot s { value := v, attr := a, count := 0, pasid := 0, label := 0, heldBy := [], told := 0 } b

/-- Puts a key into the lowest free general slot, with the slot taken (R112). -/
def takeSlot (v : Key) (a : Attr) (b : Block) : Option (Slot × Block) :=
  match b.lowestFreeSlot with
  | none => none
  | some s => some (BitVec.ofNat 12 s, putKey s v a b)

/-- A derivation by the block itself into a general slot (R116). -/
def deriveKey (t : Nat) (p : Part) (parent : Slot) (gen : Nat) (data : Bytes) (custom : String) (b : Block) : Option (Slot × Block) :=
  takeSlot (kdf (b.keyVal parent) data custom) (childAttr b t (BitVec.ofNat 4 p.val) parent.toNat gen) b

/-- The partition an owner field names. -/
def ownerPart (o : BitVec 4) : Option Part := if o.toNat < 8 then some (Fin.ofNat 8 o.toNat) else none

/-- A key class event (R134): slot, generation, then the further arguments. -/
def keyNote (h : Hard) (code : Nat) (isl : Nat) (s : Nat) (args : List (Nat × Nat)) (b : Block) : Block :=
  let a := (b.slot s).attr
  note h code isl (ownerPart a.owner) ([aHalf s, aHalf a.generation.toNat] ++ args) b

/-! ### Orphaning (R117) -/

/-- One pass of the scan: every live or shadow slot whose parent is orphaned or free becomes orphaned. Slots 0 to 7 never do (R118). -/
def orphanPass (b : Block) : Block :=
  { b with ks := { b.ks with slots := Tab.mapV b.ks.slots fun s k =>
      let ps := (b.slot k.attr.parent.toNat).attr.st
      if 8 ≤ s ∧ (k.attr.st = 1 ∨ k.attr.st = 2) ∧ (ps = 3 ∨ ps = 0) then { k with attr := { k.attr with st := 3 } } else k } }

def orphanPasses : Nat → Block → Block
  | 0, b => b
  | n + 1, b => orphanPasses n (orphanPass b)

def markOrphan (s : Nat) (b : Block) : Block := modSlot s (fun k => { k with attr := { k.attr with st := 3 } }) b

/-- How many slots are orphaned. -/
def Block.orphans (b : Block) : Nat := Tab.count b.ks.slots fun _ k => decide (k.attr.st = 3)

def Block.repl (b : Block) (s : Nat) : Option Repl := Tab.get? b.ks.repls s
def setRepl (s : Nat) (r : Repl) (b : Block) : Block := { b with ks := { b.ks with repls := Tab.set b.ks.repls s r } }
def dropRepl (s : Nat) (b : Block) : Block := { b with ks := { b.ks with repls := Tab.del b.ks.repls s } }

/-- A message on the KDR to an island (R129). -/
def sendKdr (i : Island) (m : KdrMsg) (b : Block) : Block :=
  emit (.kdr i m) (modIsland i (fun st => { st with kdrIn := st.kdrIn ++ [m] }) b)

/-- Kills an orphaned slot in every island that caches it; the islands to wait for. -/
def sendKills (ss : List Nat) (b : Block) : Block × List (Island × Slot) :=
  ss.foldl (fun acc s =>
    let hs := (acc.1.slot s).heldBy
    (hs.foldl (fun b i => sendKdr i (.kill (BitVec.ofNat 12 s)) b) acc.1, acc.2 ++ hs.map fun i => (i, BitVec.ofNat 12 s))) (b, [])

/-- A failed change of an egress link key leaves its port to be tried again (R201). -/
def noteLinkFail (owner : BitVec 4) (l : Option LinkRef) (cause : Nat) (b : Block) : Block :=
  match l with
  | none => b
  | some r =>
    if r.egress && decide (owner.toNat < 8) then
      { b with pports := Tab.upd b.pports (8 * r.port.toNat + owner.toNat) PortPart.reset fun x => { x with failed := some (r.epoch, cause) } }
    else b

/-- The replacements whose slot or its tree was orphaned fail with it (R119). -/
def orphanRepls (h : Hard) (b : Block) : Block :=
  b.ks.repls.foldl (fun b e =>
    if (b.slot e.1).attr.st = 3 ∧ e.2.stage ≠ .committed then
      let b := keyNote h 0x0206 27 e.1 [aByte 6] (markOrphan e.2.shadow.toNat (dropRepl e.1 (noteLinkFail (b.slot e.1).attr.owner e.2.link 6 b)))
      completeOpt h e.2.ctx stKeyOrphaned 0 0 0 b
    else if (b.slot e.1).attr.st = 3 then markOrphan e.2.shadow.toNat (dropRepl e.1 b)
    else b) b

/-- Completes an invalidation (R117, R134). -/
def invalDone (h : Hard) (v : Inval) (b : Block) : Block :=
  completeOpt h v.ctx stOk 0 v.count 0
    (note h 0x0201 27 (ownerPart v.part) [aHalf v.root.toNat, aHalf v.gen.toNat, aHalf v.root.toNat, aCount v.count] b)

/-- Slot `x` is `root` or lies below it (R115). -/
def slotUnder (b : Block) (root : Nat) : Nat → Nat → Bool
  | 0, _ => false
  | fuel + 1, x => decide (x = root) || (decide (x ≠ 0) && slotUnder b root fuel (b.slot x).attr.parent.toNat)

/-- Invalidates slot `s` and everything below it (R117): it waits for the kills it sends and for those still out for slots below it. `count` includes the root. -/
def invalidate (h : Hard) (s : Nat) (ctx : Option CmdCtx) (b : Block) : Block :=
  let before := b.orphans
  let old := b.ks.slots.filterMap fun e => if e.2.attr.st = 3 then some e.1 else none
  let b := orphanRepls h (orphanPasses 7 (markOrphan s b))
  let fresh := (b.ks.slots.filterMap fun e => if e.2.attr.st = 3 then some e.1 else none).filter fun x => !old.contains x
  let n := b.orphans - before
  let out := (b.ks.invals.flatMap fun v => v.waits).filter fun w => slotUnder b s 9 w.2.toNat
  let r := sendKills fresh b
  let v : Inval := { root := BitVec.ofNat 12 s, count := n, waits := (out ++ r.2).dedup, ctx := ctx, part := (b.slot s).attr.owner, gen := (b.slot s).attr.generation }
  if v.waits.isEmpty then invalDone h v r.1
  else { r.1 with ks := { r.1.ks with invals := r.1.ks.invals ++ [v] } }

/-- Invalidates a slot the block ends itself, when it is live. -/
def endKey (h : Hard) (s : Slot) (b : Block) : Block :=
  if s ≠ 0 ∧ ((b.slot s.toNat).attr.st = 1 ∨ (b.slot s.toNat).attr.st = 2) then invalidate h s.toNat none b else b

/-- An island's acknowledgement of a kill (R117, R129). -/
def ackKill (h : Hard) (i : Island) (s : Slot) (b : Block) : Block :=
  let b := modSlot s.toNat (fun k => { k with heldBy := k.heldBy.filter (· ≠ i) }) b
  let vs := b.ks.invals.map fun v => { v with waits := v.waits.filter (· ≠ (i, s)) }
  let b := { b with ks := { b.ks with invals := vs.filter fun v => !v.waits.isEmpty } }
  (vs.filter fun v => v.waits.isEmpty).foldl (fun b v => invalDone h v b) b

/-- A replacement fails (R123): the shadow is orphaned, the old value stays live. -/
def failRepl (h : Hard) (s : Nat) (cause : Nat) (st : Byte) (b : Block) : Block :=
  match b.repl s with
  | none => b
  | some r =>
    let b := keyNote h 0x0206 27 s [aByte cause] (markOrphan r.shadow.toNat (dropRepl s (noteLinkFail (b.slot s).attr.owner r.link cause b)))
    completeOpt h r.ctx st 0 0 0 b

/-! ### Island key caches (R130, R131) -/

/-- Entries of one partition's part of an island's cache (R130). -/
def cachePart (c : Cfg) : Island → Nat
  | .le _ => if c = .s ∨ c = .m then 16 else 64
  | .me _ => 32
  | .hbe => 16
  | _ => 0

/-- The entry an island has in use for a slot in a role. -/
def IslandSt.entry (st : IslandSt) (s : Slot) (previous : Bool) : Option CacheEnt :=
  st.cache.find? fun e => decide (e.slot = s) && decide (e.previous = previous) && decide (e.commit = 0) && decide (e.what = .own)

/-- The value an island holds derived from a slot (R222). -/
def IslandSt.derived (st : IslandSt) (s : Slot) (what : KeyFor) : Option CacheEnt := st.cache.find? fun e => decide (e.slot = s) && decide (e.what = what)

/-- TC records that an island holds a slot (R130). -/
def holdSlot (i : Island) (s : Slot) (b : Block) : Block :=
  modSlot s.toNat (fun k => if k.heldBy.contains i then k else { k with heldBy := k.heldBy ++ [i] }) b

/-- The island holds nothing of the slot any longer: TC's record goes (R130). -/
def unholdSlot (i : Island) (s : Slot) (b : Block) : Block :=
  let st := b.island i
  let on (m : KdrMsg) : Bool := match m with | .load x h _ pr _ _ _ _ _ _ => decide ((if pr then h else x) = s) | .kill _ => false
  if (st.cache.any fun e => decide ((if e.previous then e.home else e.slot) = s)) || st.kdrIn.any on then b
  else modSlot s.toNat (fun k => { k with heldBy := k.heldBy.filter (· ≠ i) }) b

/-- TC sends a slot's key to an island and records that it holds it (R129, R130). -/
def loadKey (i : Island) (s : Slot) (commit : Word) (b : Block) : Block :=
  let k := b.slot s.toNat
  holdSlot i s (sendKdr i (.load s s k.attr.generation false k.value k.count commit k.attr.owner .own 0) b)

/-- TC sends a value derived from a slot to an island (R222). -/
def loadDerived (i : Island) (s : Slot) (what : KeyFor) (value : Key) (alpha : BitVec 2048) (b : Block) : Block :=
  let k := b.slot s.toNat
  holdSlot i s (sendKdr i (.load s s k.attr.generation false value 0 0 k.attr.owner what alpha) b)

/-- A load from the KDR enters the partition's part of the cache, least recently used out; a key with a pending retire tick is never evicted (R130). The count of the entry put out returns to TC. DESIGN CHOICE (log entry 84): where no entry may go, the load is dropped. -/
def cacheInsert (c : Cfg) (i : Island) (e : CacheEnt) (b : Block) : Block :=
  let rest := (b.island i).cache.filter fun x => !(decide (x.slot = e.slot) && decide (x.gen = e.gen) && decide (x.what = e.what))
  let mine := rest.filter fun x => decide (x.part = e.part)
  if mine.length < cachePart c i then modIsland i (fun st => { st with cache := e :: rest }) b
  else match (mine.filter fun x => !x.previous).getLast? with
    | none => unholdSlot i (if e.previous then e.home else e.slot) b
    | some v =>
      let b := modIsland i (fun st => { st with cache := e :: rest.filter (· ≠ v) }) b
      unholdSlot i v.slot (modSlot v.slot.toNat (fun k => { k with count := max k.count v.count }) b)

/-- A use of a slot's entries makes them the most recent (R130). -/
def touchKey (i : Island) (s : Slot) (b : Block) : Block :=
  modIsland i (fun st => { st with cache := (st.cache.filter fun e => decide (e.slot = s)) ++ st.cache.filter fun e => decide (e.slot ≠ s) }) b

/-- Zeroes an island's cache (R44, R370). -/
def cacheZero (i : Island) (b : Block) : Block := modIsland i (fun st => { st with cache := [], kdrIn := [] }) b

/-- The slot whose committed replacement keeps its old value in shadow slot `x`. -/
def Block.shadowed (b : Block) (x : Nat) : Option Slot :=
  (b.ks.repls.find? fun r => decide (r.2.shadow.toNat = x ∧ r.2.stage = .committed)).map fun r => BitVec.ofNat 12 r.1

/-- TC sends a previous value, which its shadow slot holds, to an island (R124). -/
def loadPrevious (i : Island) (s shadow : Slot) (b : Block) : Block :=
  let k := b.slot shadow.toNat
  holdSlot i shadow (sendKdr i (.load s shadow k.attr.generation true k.value k.count 0 k.attr.owner .own 0) b)

/-- TC sends the new value of a confirmed replacement to an island, unused until the commit tick (R120, R124). -/
def loadNext (i : Island) (s shadow : Slot) (commit : Word) (b : Block) : Block :=
  let k := b.slot shadow.toNat
  holdSlot i s (sendKdr i (.load s s k.attr.generation false k.value 0 commit k.attr.owner .own 0) b)

/-- TC sends every slot it records as held by the island again (R131); what is derived from a Veneer group key goes apart (R222). -/
def cacheRefill (i : Island) (b : Block) : Block :=
  b.ks.slots.foldl (fun b e =>
    if !e.2.heldBy.contains i || decide (e.2.attr.type = (7 : BitVec 4)) then b
    else if e.2.attr.st = (1 : BitVec 2) then
      let b := loadKey i (BitVec.ofNat 12 e.1) 0 b
      match b.repl e.1 with
      | some r => if r.stage = .confirmed then loadNext i (BitVec.ofNat 12 e.1) r.shadow r.commitTick b else b
      | none => b
    else match b.shadowed e.1 with
      | some s => loadPrevious i s (BitVec.ofNat 12 e.1) b
      | none => b) b

/-- TC's allowance for counts lost at a reset of the island (R131). -/
def lostCounts (i : Island) (b : Block) : Block :=
  { b with ks := { b.ks with slots := Tab.mapV b.ks.slots fun _ k =>
      if (k.heldBy.contains i && decide (k.attr.limitExp ≠ 0)) = true then
        { k with count := k.count + (if k.attr.limitExp.toNat < 8 then 2 else 2 ^ (k.attr.limitExp.toNat - 7)) } else k } }

/-- The island has the key usable (R130): the value in the cache, current role. -/
def Block.cached (b : Block) (i : Island) (s : Slot) : Option CacheEnt := (b.island i).entry s false

/-- The cache entry `e` with its new count, the others as they are. -/
def bumped (e : CacheEnt) (c : Nat) (due : Bool) (x : CacheEnt) : CacheEnt :=
  if x = e then { e with count := c, reported := if due then c else e.reported } else x

/-- Counts `n` uses of a key on an island (R125), reporting to TC at every interval of R131. -/
def countUses (i : Island) (s : Slot) (n : Nat) (b : Block) : Block :=
  let k := b.slot s.toNat
  let step := if k.attr.limitExp.toNat < 8 then 1 else 2 ^ (k.attr.limitExp.toNat - 8)
  match b.cached i s with
  | none => modSlot s.toNat (fun k => { k with count := k.count + n }) b
  | some e =>
    let c := e.count + n
    let due := decide (k.attr.limitExp ≠ 0 ∧ e.reported + step ≤ c)
    let b := touchKey i s (modIsland i (fun st => { st with cache := st.cache.map (bumped e c due) }) b)
    if due then modSlot s.toNat (fun k => { k with count := max k.count c }) b else b

/-- The use count that governs the limit at an island (R125, R126). -/
def Block.useCount (b : Block) (i : Island) (s : Slot) : Nat :=
  match b.cached i s with
  | some e => max e.count (b.slot s.toNat).count
  | none => (b.slot s.toNat).count

/-- `n` more counted uses fit at or below the limit (R126). -/
def Block.usesFit (b : Block) (i : Island) (s : Slot) (n : Nat) : Bool :=
  let e := (b.slot s.toNat).attr.limitExp.toNat
  e = 0 || decide (b.useCount i s + n ≤ 2 ^ e)

end Sys2Proof.Machine
end

