-- ==== Sys2Proof/Machine/Envelope.lean ====
section
/-! DEFINITION. Envelopes and what carries them (R135, R136, R411): the ports and their class 0 and class 3 queues (R203), the port of a member's envelopes, an envelope's bytes, its fragments as class 0 admission frames, and the relay area of a host member (R346, R347). -/

namespace Sys2Proof.Machine

/-! ### Access -/

def Block.port (b : Block) (k : Port) : PortSt := Tab.getD b.ports k.val PortSt.reset
def modPort (k : Port) (f : PortSt → PortSt) (b : Block) : Block := { b with ports := Tab.upd b.ports k.val PortSt.reset f }
def Block.portPart (b : Block) (k : Port) (p : Part) : PortPart := Tab.getD b.pports (8 * k.val + p.val) PortPart.reset
def modPortPart (k : Port) (p : Part) (f : PortPart → PortPart) (b : Block) : Block :=
  { b with pports := Tab.upd b.pports (8 * k.val + p.val) PortPart.reset f }
def Block.ptuPart (b : Block) (p : Part) : PtuPart := Tab.getD b.ptu p.val PtuPart.reset
def modPtu (p : Part) (f : PtuPart → PtuPart) (b : Block) : Block := { b with ptu := Tab.upd b.ptu p.val PtuPart.reset f }

/-- A session-table entry by its key: a member reference, or that plus 2^32 for an attempt beside the session it is to replace. -/
def Block.peerAt (b : Block) (p : Part) (k : Nat) : Peer := Tab.getD (b.adm' p).peers k Peer.reset
def modPeerAt (p : Part) (k : Nat) (f : Peer → Peer) (b : Block) : Block :=
  modAdm p (fun a => { a with peers := Tab.upd a.peers k Peer.reset f }) b
def Block.peer (b : Block) (p : Part) (m : MemberRef) : Peer := b.peerAt p m.toNat
def modPeer (p : Part) (m : MemberRef) (f : Peer → Peer) (b : Block) : Block := modPeerAt p m.toNat f b

/-- A session is up: admitted, or departing and still sending (R147, R159). -/
def Peer.inSession (q : Peer) : Bool := decide ((q.state = 7 ∨ q.state = 8) ∧ q.secret ≠ 0)

def isAccel (m : MemberRef) : Bool := decide (memberKind m = 0)

/-- The partition's own member reference. -/
def Block.selfRef (b : Block) (p : Part) : MemberRef := accel (b.selfIndex p)

/-- A partition's share on an island (R65). -/
def Jig.share (j : Jig) (i : Island) : Nat := j.shares.getD (shareIndex i) 0

/-- The island of a port. -/
def portIsland (k : Port) : Island := .le (portLe k)

def allPorts : List Port := (List.range 64).map fun n => Fin.ofNat 64 n

/-- The schedule of a partition's Jig and its entries. -/
def Block.schedule (b : Block) (p : Part) : Option Schedule := (b.jigOf p).bind fun j => j.schedule
def Block.entries (b : Block) (p : Part) : List SchedEntry := match b.schedule p with | some s => s.entries | none => []

/-- Entries on a port, in one direction. -/
def Block.entriesOn (b : Block) (p : Part) (k : Port) (egress : Bool) : List SchedEntry :=
  (b.entries p).filter fun e => decide (e.port = k.val) && decide (e.egress = egress)

/-! ### Queues (R203) -/

/-- Bytes of a queued frame. -/
def qBytes (q : QFrame) : Nat := q.payload.length + 32
def queueBytes (qs : List QFrame) : Nat := (qs.map qBytes).sum

/-- Capacities of the class 0 and class 3 queues. -/
def cap0 : Nat := 65536
def cap3 : Nat := 262144

/-- Frames at their crossing enter a queue in order while they fit; the others stay there. -/
def enterQueue (cap : Nat) (now : Word) : List QFrame → List QFrame → List QFrame × List QFrame
  | qs, [] => (qs, [])
  | qs, w :: ws => if queueBytes qs + qBytes w ≤ cap then enterQueue cap now (qs ++ [{ w with tick := now }]) ws else (qs, w :: ws)

/-- Class 0 frames come to the port at tick `now`, behind those that wait at their crossing. -/
def PortSt.put0 (now : Word) (new : List QFrame) (x : PortSt) : PortSt :=
  let r := enterQueue cap0 now x.queue0 (x.wait0 ++ new)
  { x with queue0 := r.1, wait0 := r.2 }

/-- Class 3 frames of the partition come to the port. -/
def PortPart.put3 (now : Word) (new : List QFrame) (x : PortPart) : PortPart :=
  let r := enterQueue cap3 now x.queue3 (x.wait3 ++ new)
  { x with queue3 := r.1, wait3 := r.2 }

/-- A frame comes to the class 0 queue of a port, or to the partition's class 3 queue on it. -/
def push0 (k : Port) (q : QFrame) (b : Block) : Block := modPort k (PortSt.put0 b.now [q]) b
def push3 (k : Port) (q : QFrame) (b : Block) : Block := modPortPart k q.part (PortPart.put3 b.now [q]) b

/-! ### The port of a member's envelopes (R411) -/

/-- A port R321 may choose for the partition, and rule 3 of R411: mode 0 or 1, link up, a share on its LE. -/
def portOpen (c : Cfg) (b : Block) (p : Part) (k : Port) : Bool :=
  portPresent c k && decide ((b.port k).mode.toNat < 2) && (b.port k).linkUp
    && (match b.jigOf p with | some j => decide (j.share (portIsland k) ≠ 0) | none => false)

def PinEnt.names (e : PinEnt) (dkind : BitVec 2) (dest : BitVec 16) : Bool := decide (e.dkind = dkind ∧ e.dest = dest)

/-- The ports for a member's envelopes, the first to be taken first. A schedule's `PEER` is an accelerator member (R70). -/
def envPorts (c : Cfg) (b : Block) (p : Part) (m : MemberRef) : List Port :=
  let i := memberIndex m
  let own := allPorts.filter fun k => (b.entriesOn p k true).any fun e => decide (e.peer = i ∧ isAccel m)
  let dk : BitVec 2 := if isAccel m then 0 else 1
  let x := b.ptuPart p
  let placed := ((x.pins ++ x.chosen).filter fun e => e.names dk i).map fun e => e.port
  (own ++ placed ++ allPorts.filter (portOpen c b p)).dedup

/-- The port a member's envelopes leave on: the one a failover took, else the first. -/
def envPort (c : Cfg) (b : Block) (p : Part) (m : MemberRef) : Option Port :=
  match (b.peer p m).port with
  | some k => some k
  | none => (envPorts c b p m).head?

/-- The port that announcements leave on. -/
def announcePort (c : Cfg) (b : Block) (p : Part) : Option Port := allPorts.find? (portOpen c b p)

/-! ### Bytes (R135, R136, R147) -/

/-- The 32 B header of a fragment. -/
def envHeader (kind : Nat) (id : BitVec 16) (domain : BitVec 32) (src dst : MemberRef) (total off len spdm : Nat) : Bytes :=
  leBytes 1 1 ++ leBytes 1 kind ++ leBytes 2 id.toNat ++ leBytes 4 domain.toNat ++ leBytes 4 src.toNat ++ leBytes 4 dst.toNat
    ++ leBytes 2 total ++ leBytes 2 off ++ leBytes 2 len ++ leBytes 2 spdm ++ leBytes 8 0

def padTo8 (bs : Bytes) : Bytes := padTo ((bs.length + 7) / 8 * 8) bs

/-- The fragments of a message as payloads of admission frames: at most 480 B of data each, the payload a multiple of 8. -/
def envFragments (kind : Nat) (id : BitVec 16) (domain : BitVec 32) (src dst : MemberRef) (spdm : Nat) (msg : Bytes) : List Bytes :=
  (chunks 480 128 msg).zipIdx.map fun x => padTo8 (envHeader kind id domain src dst msg.length (480 * x.2) x.1.length spdm ++ x.1)

/-- An envelope as one fragment of the whole message, as the relay area holds it. -/
def envWhole (kind : Nat) (id : BitVec 16) (domain : BitVec 32) (src dst : MemberRef) (spdm : Nat) (msg : Bytes) : Bytes :=
  envHeader kind id domain src dst msg.length 0 msg.length spdm ++ msg

/-- Dovetail messages are secured, and the SPDM messages from FINISH on, for the handshake is not in the clear (R139); the others are not (log entry 6). -/
def Env.secured : Env → Bool
  | .dove _ _ => true
  | .spdm c _ _ => decide (c = 0xE5 ∨ c = 0x65 ∨ c = 0xE9 ∨ c = 0x69 ∨ c = 0xEC ∨ c = 0x6C)

/-- The message before it is secured: the head of R147 and a body, or an SPDM message and its companion. -/
def Env.plain : Env → Bytes
  | .dove t body => leBytes 2 t.toNat ++ leBytes 2 0 ++ leBytes 4 body.length ++ body
  | .spdm c body comp => Config.spdmBytes c body ++ comp

/-- The key of a session's secured messages: the peer session secret, before it stands what it is derived from (log entry 6). -/
def sessionKey (b : Block) (q : Peer) : Key := if q.secret = 0 then Config.exportSecret q.dhe q.th else b.keyVal q.secret

/-- `KIND`, `SPDM_LEN` and the message of an envelope sent in the session-table entry `q`. -/
def envMessage (b : Block) (q : Peer) (s : Sent) : Nat × Nat × Bytes :=
  if s.env.secured then
    let msg := Config.securedMessage (sessionKey b q) q.sessionId q.requester s.num s.env.plain
    (3, msg.length, msg)
  else (2, match s.env with | .spdm c body _ => (Config.spdmBytes c body).length | .dove _ _ => 0, s.env.plain)

/-- The envelope as it is handed to the path that carries it. -/
def envOut (p : Part) (m : MemberRef) : Env → Out
  | .dove t body => .dove p m t body
  | .spdm c body comp => .spdm p m c body comp

/-- It carries a clamp notice (R372). -/
def Env.notice : Env → Bool
  | .dove t _ => decide (t = 0x11)
  | .spdm _ _ _ => false

/-! ### Sending -/

/-- Admission frames for a member come to the class 0 queue of its port; with no port they are lost (log entry 87). -/
def sendFrames (c : Cfg) (p : Part) (m : MemberRef) (notice : Bool) (frags : List Bytes) (b : Block) : Block :=
  match envPort c b p m with
  | none => b
  | some k =>
    modPort k (PortSt.put0 b.now (frags.map fun f =>
      { part := p, ftype := 4, stream := 0, dest := memberIndex m, switch := !isAccel m, node := 0, payload := f, tick := b.now, notice := notice, tag := none })) b

/-- Writes one envelope into a host member's relay area: the OUT slot, then `OUT_PROD`, then the relay event (R346, R347). -/
def relayWrite (h : Hard) (p : Part) (m : MemberRef) (j : Jig) (r : Relay) (s : Sent) (b : Block) : Block :=
  let e := envMessage b (b.peer p m) s
  let slot : Word := r.addr + BitVec.ofNat 64 (0x1000 + 0x10000 * (r.outProd.toNat % 8))
  let b := emits [envOut p m s.env, .dmaWrite slot (envWhole e.1 s.msgId j.domainId (accel j.memberIndex) m e.2.1 e.2.2), .dmaWrite r.addr (leBytes 4 (r.outProd + 1).toNat)] b
  let b := modPeer p m (fun q => { q with relay := some { r with outProd := r.outProd + 1 } }) b
  match r.ctx with
  | some c => writeRec h c.queue.toNat { status := stOk, kind := 2, reason := 0, cmdId := c.cmdId, cookie := c.cookie, result := 0, result2 := 0, intr := c.intr } b
  | none => b

/-- Writes what waits while the area has free OUT slots. -/
def relayDrain (h : Hard) (p : Part) (m : MemberRef) (j : Jig) : Nat → Block → Block
  | 0, b => b
  | n + 1, b =>
    match (b.peer p m).relay with
    | none => b
    | some r => match r.outq with
      | [] => b
      | e :: t => if 8 ≤ (r.outProd - r.outCons).toNat then b else relayDrain h p m j n (relayWrite h p m j { r with outq := t } e b)

/-- Sends an envelope, again or for the first time: through the relay area of a host member, else over the fabric (R411). -/
def sendSent (h : Hard) (p : Part) (m : MemberRef) (k : Nat) (s : Sent) (b : Block) : Block :=
  match b.jigOf p with
  | none => b
  | some j =>
    match (b.peer p m).relay with
    | some r => relayDrain h p m j (r.outq.length + 1) (modPeer p m (fun q => { q with relay := some { r with outq := r.outq ++ [s] } }) b)
    | none =>
      let e := envMessage b (b.peerAt p k) s
      sendFrames h.cfg p m s.env.notice (envFragments e.1 s.msgId j.domainId (accel j.memberIndex) m e.2.1 e.2.2) (emit (envOut p m s.env) b)

/-- The next `MSG_ID` towards a destination. -/
def Block.nextMsgId (b : Block) (p : Part) (m : MemberRef) : BitVec 16 := Tab.getD (b.adm' p).msgIds m.toNat 0

/-- The envelope of a new message in the session-table entry `k`: its `MSG_ID`, and its number if it is secured. -/
def newSent (b : Block) (p : Part) (m : MemberRef) (k : Nat) (e : Env) : Sent :=
  { msgId := b.nextMsgId p m, num := (b.peerAt p k).sent, env := e }

/-- Counts a new message: the next `MSG_ID`, and the secured messages sent (R147). -/
def countSent (p : Part) (m : MemberRef) (k : Nat) (e : Env) (b : Block) : Block :=
  let b := modAdm p (fun a => { a with msgIds := Tab.upd a.msgIds m.toNat 0 (fun n => n + 1) }) b
  if e.secured then modPeerAt p k (fun q => { q with sent := q.sent + 1 }) b else b

/-- Sends a new message in the session-table entry `k` of a member. -/
def sendAt (h : Hard) (p : Part) (m : MemberRef) (k : Nat) (e : Env) (b : Block) : Block :=
  sendSent h p m k (newSent b p m k e) (countSent p m k e b)

/-- Sends a new message to a member. -/
def sendEnv (h : Hard) (p : Part) (m : MemberRef) (e : Env) (b : Block) : Block := sendAt h p m m.toNat e b

/-- A Dovetail message in the session with a member (R147). -/
def sendTo (h : Hard) (p : Part) (m : MemberRef) (type : Nat) (body : Bytes) (b : Block) : Block :=
  sendEnv h p m (.dove (BitVec.ofNat 8 type) body) b

/-- Sends an announcement (R135, R137): an envelope of kind 1 to destination 0. -/
def sendAnnouncement (c : Cfg) (p : Part) (j : Jig) (body : Bytes) (b : Block) : Block :=
  let out := announcePort c b p
  let frags := envFragments 1 (b.nextMsgId p 0) j.domainId (accel j.memberIndex) 0 body.length body
  let b := emit (.announce p out body) (modAdm p (fun a => { a with msgIds := Tab.upd a.msgIds 0 0 (fun n => n + 1) }) b)
  match out with
  | none => b
  | some k =>
    modPort k (PortSt.put0 b.now (frags.map fun f =>
      { part := p, ftype := 4, stream := 0, dest := 0, switch := false, node := 0, payload := f, tick := b.now, notice := false, tag := none })) b

end Sys2Proof.Machine
end

