-- ==== Sys2Proof/Machine/Clamp.lean ====
section
/-! DEFINITION. The Clamp (R369 to R375), the sample's taking (R376), the taking of a chip reset and of a power cycle (R378, R382, R383): the shared operations every detecting family calls. -/

namespace Sys2Proof.Machine

/-- An in-band interrupt, sent only while enabled (R49, R383). -/
def sendIbi (code : Byte) (b : Block) : Block :=
  if b.i3c.addr.isSome && b.i3c.ibiEn then emit (.ibi code) b else b

def setRequest (code : Byte) (b : Block) : Block := { b with i3c := { b.i3c with request := code, reqTick := b.now } }

/-! ### Samples (R376) -/

/-- A sample of partition `p` becomes due: without a Jig or a buffer `RESULT` reads 2; one sealed within the last second is not sealed again. -/
def startSample (level cause : Byte) (p : Part) (b : Block) : Block :=
  if !b.partExists p then b
  else
    let r := b.rstPart p
    let recent := match r.sealedAt with | some t => decide (since b t ≤ 1000000000) | none => false
    if (b.jigOf p).isNone || !r.dumpEn then modRstPart p (fun r => { r with dumpResult := 2 }) b
    else if recent || r.sampling.isSome then b
    else modRstPart p (fun r => { r with sampling := some (level, cause, b.now) }) b

def Block.samplingAny (b : Block) : Bool := b.rst.parts.any fun e => e.2.sampling.isSome

/-! ### Chip reset and power cycle -/

/-- Resets of a scope now running. -/
def Block.runs (b : Block) (sc : ResetScope) : Bool := b.rst.running.any fun r => decide (r.scope = sc)

/-- Asserts `CHIP_RST_REQ` (R52). -/
def assertChipReq (b : Block) : Block := modRst (fun r => { r with chipRstReq := true }) b

/-- Sends the power-cycle request (R383): in-band interrupt 0x01, repeated each second. -/
def requestPowerCycle (h : Hard) (b : Block) : Block :=
  let b := logEv h 0x090B 27 none 1 3 [] b
  let b := setRequest 1 { b with i3c := { b.i3c with cycleWant := true, lastIbi := b.now } }
  sendIbi 0x01 b

/-- A chip reset has been taken and `CHIP_RST_N` not yet asserted for it; one taken before the last start only waits for its completion (R378). -/
def Block.chipPending (b : Block) : Bool :=
  b.rst.chipRstReq || (b.clk.loaded && b.rst.running.any fun r => decide (r.scope = .chip) && decide (b.clk.loadTick.toNat ≤ r.taken.toNat))

/-- What waits for the samples goes on when the last one has ended (R376, R379, R383). -/
def afterSamples (h : Hard) (b : Block) : Block :=
  if b.samplingAny || b.rst.halted then b
  else
    let b := if b.chipPending then assertChipReq b else b
    if b.runs .powerCycle && !b.i3c.cycleWant then requestPowerCycle h b else b

/-- Records a reset as taken, with its scope, requester and the partition an escalation began with (R381). -/
def pushRunning (sc : ResetScope) (requester : Byte) (origin : Option Part) (b : Block) : Block :=
  modRst (fun r => { r with running := r.running ++ [{ scope := sc, taken := b.now, requester := requester, origin := origin }],
                            history := (sc, b.now) :: r.history }) b

/-- Counts a chip reset in the window of the count-in-window mode (R382). -/
def countChipReset (b : Block) : Block :=
  let c := b.rst.compat
  let keep := c.resets.filter fun t => decide (since b t ≤ c.window.toNat * 1000000000)
  modRst (fun r => { r with compat := { c with resets := if c.active then b.now :: keep else keep } }) b

/-- Causes of `SWY_RST_CHIP` (R389). -/
def chipByClamp : Nat := 1
def chipByTrip : Nat := 2
def chipByTimebase : Nat := 3
def chipByEscalation : Nat := 4
def chipByOperator : Nat := 5
def chipBySideband : Nat := 6

/-- While out of service the block takes a chip reset for a Clamp, a trip, the operator or the sideband alone (R382). -/
def chipAllowed (b : Block) (cause : Nat) : Bool :=
  !b.rst.compat.oos || cause = chipByClamp || cause = chipByTrip || cause = chipByOperator || cause = chipBySideband

/-- Takes a power cycle (R376, R383): samples of level 4 first, then the request; suppressed while out of service unless the operator asks (R382). -/
def takePowerCycle (h : Hard) (requester : Byte) (b : Block) : Block :=
  if b.runs .powerCycle || (b.rst.compat.oos && decide (requester ≠ 0xFE)) then b
  else afterSamples h (allParts.foldl (fun b p => startSample 4 0 p b) (pushRunning .powerCycle requester none b))

/-- Resets of one scope taken within the last `w` ticks. -/
def Block.taken (b : Block) (sc : ResetScope) (w : Nat) : Nat := (b.rst.history.filter fun e => decide (e.1 = sc) && decide (since b e.2 ≤ w)).length

/-- The third chip reset within 600 s is a power cycle, unless the count-in-window mode is active or it ends a Clamp or a trip (R381, R382, R384). -/
def chipRepeats (b : Block) (cause : Nat) : Bool :=
  decide (cause ≠ chipByClamp) && decide (cause ≠ chipByTrip) && decide (2 ≤ b.taken .chip (600 * second)) && !b.rst.compat.active && !b.rst.compat.oos

/-- Records an escalation (R381): from which level, to which, by which rule, begun with whose context. -/
def noteEscalate (h : Hard) (origin : Option Part) (low high rule : Nat) (b : Block) : Block :=
  logEv h 0x0907 27 origin 2 3 [aByte low, aByte high, aByte rule] b

/-- Takes a chip reset (R378, R382, R384): recorded, counted, samples made due unless a trip or a lost timebase forces it, then `CHIP_RST_REQ`. -/
def takeChip (h : Hard) (cause : Nat) (requester : Byte) (origin : Option Part) (b : Block) : Block :=
  if b.chipPending || !chipAllowed b cause then b
  else if chipRepeats b cause then takePowerCycle h requester (noteEscalate h origin 3 4 2 b)
  else
    let b := modRst (fun r => { r with running := r.running.filter fun x => decide (x.scope ≠ .chip) }) b
    let b := logEv h 0x0906 27 none 3 3 [aByte cause] (pushRunning .chip requester origin b)
    let b := countChipReset (modRst (fun r => { r with nextCause := BitVec.ofNat 8 cause, chipTick := b.now }) b)
    let b := allParts.foldl (fun b p => if b.partExists p then modRstPart p (fun r => { r with resets := r.resets + 1, lastLevel := 3 }) b else b) b
    if cause = chipByTrip ∨ cause = chipByTimebase then
      assertChipReq (modRst (fun r => { r with parts := Tab.mapV r.parts fun _ q =>
        if q.sampling.isSome then { q with sampling := none, dumpResult := 4 } else q }) b)
    else if cause = chipByClamp then b
    else afterSamples h (allParts.foldl (fun b p => startSample 3 0 p b) b)

/-! ### The Clamp -/

/-- The body of a clamp notice (R372). -/
def noticeHead (tick : Word) (domain : BitVec 32) (self : MemberRef) (cause : Nat) (ss : List (BitVec 32 × Word)) : Bytes :=
  leBytes 8 tick.toNat ++ leBytes 4 domain.toNat ++ leBytes 4 self.toNat ++ leBytes 1 cause ++ leBytes 1 ss.length ++ leBytes 6 0
    ++ ss.flatMap fun s => leBytes 4 s.1.toNat ++ leBytes 4 0 ++ leBytes 8 s.2.toNat

def noticeBody (key : Key) (tick : Word) (domain : BitVec 32) (self : MemberRef) (cause : Nat) (ss : List (BitVec 32 × Word)) : Bytes :=
  let hd := noticeHead tick domain self cause ss
  hd ++ leBytes 16 (kmac128 key hd "SWY-CLAMP").toNat

/-- First-tier receivers of partition `p`'s notice (R373): keepers of the suspect regions, mirrors of the regions it keeps, anchor and standbys. -/
def firstTier (b : Block) (p : Part) (ss : List (BitVec 32 × Word)) : List MemberRef :=
  match b.jigOf p with
  | none => []
  | some j =>
    let keepers := (j.regions.filter fun r => ss.any fun s => decide (s.1 = r.regionId)).map fun r => r.keeper
    let mirrors := (j.regions.filter fun r => decide (r.keeper = j.memberIndex)).map fun r => r.mirror
    (keepers ++ mirrors ++ j.anchors ++ [(b.adm' p).anchor]).map accel

/-- Sends partition `p`'s notice over every peer session it holds, the first tier before the second, in ascending member reference (R373). -/
def sendNotices (h : Hard) (p : Part) (cause : Nat) (ss : List (BitVec 32 × Word)) (b : Block) : Block :=
  match b.jigOf p with
  | none => b
  | some j =>
    let a := b.adm' p
    let body := noticeBody (b.keyVal a.domainSlot) b.rst.haltTick j.domainId (accel j.memberIndex) cause ss
    let peers := (a.peers.filter fun e => e.2.inSession).map fun e => BitVec.ofNat 32 e.1
    let tier := firstTier b p ss
    let order := (peers.filter fun m => tier.contains m) ++ peers.filter fun m => !tier.contains m
    order.foldl (fun b m => sendTo h p m 0x11 body b) b

/-- The log entries of a Clamp (R374). -/
def logClamp (h : Hard) (cause : Nat) (isl : Nat) (part : Option Part) (ss : List (BitVec 32 × Word)) (b : Block) : Block :=
  let b := match part with
    | some p => logEv h 0x0901 isl (some p) 0 4 (aByte cause :: ss.flatMap fun s => [aW4 s.1.toNat, (5, s.2.toNat)]) b
    | none => b
  logEv h 0x0901 isl none 1 4 [aByte cause] b

/-- A Clamp (R369, R370, R371, R374, R375): `cause` of R369, the detecting island, the attributed partition or none for the chip, the suspects. -/
def clamp (h : Hard) (cause : Nat) (isl : Nat) (part : Option Part) (ss : List (BitVec 32 × Word)) (b : Block) : Block :=
  if b.rst.halted then logClamp h cause isl part ss b
  else
    let b := logClamp h cause isl part ss b
    let b := logEv h 0x0902 isl none 3 4 [] b
    let b := modRst (fun r => { r with halted := true, haltTick := b.now, clampCause := BitVec.ofNat 8 cause, clampPart := part,
                                       suspects := if cause = 8 then [] else ss,
                                       running := r.running.filter fun x => decide (x.scope = .chip ∨ x.scope = .powerCycle) }) b
    let b := setLevel h 418 true b
    let b := allParts.foldl (fun b p => fire h (272 + p.val) b) b
    let b := (cipherIslands h.cfg).foldl (fun b i => cacheZero i b) b
    let b := allParts.foldl (fun b p => if (b.slot (32 + p.val)).attr.st = 1 then loadKey .hbe (BitVec.ofNat 12 (32 + p.val)) 0 b else b) b
    let b := sendIbi 0x02 (setRequest 2 b)
    allParts.foldl (fun b p =>
      let mine := decide (part = some p)
      let b := sendNotices h p (if mine then cause else 0) (if mine && decide (cause ≠ 8) then ss else []) b
      startSample 3 (if mine then BitVec.ofNat 8 cause else 0) p b) b

end Sys2Proof.Machine
end

