-- ==== Sys2Proof/Machine/Supply.lean ====
section
/-! DEFINITION. Supply dips (R169, R384) and the key-store check that ends a warning period. -/

namespace Sys2Proof.Machine

/-- The supply that feeds an island (R43, R169): 0 `VDD_FAB`, 1 to 4 `VDD_CMP0` to `VDD_CMP3`. -/
def supplyOf : Island → Nat
  | .me n => 1 + n.val / 2
  | _ => 0

/-- The island is in a supply-warning period (R169). -/
def Block.inWarning (b : Block) (i : Island) : Bool := b.sup.period.getLsbD (supplyOf i)

/-- Key commands pause: a period runs, or the check after one (R169, R384). -/
def Block.keysPaused (b : Block) : Bool := decide (b.sup.period ≠ 0) || decide (b.sup.checking ≠ 0)

def modSup (f : Supply → Supply) (b : Block) : Block := { b with sup := f b.sup }
def supBit (k : Fin 5) : BitVec 5 := 1#5 <<< k.val

/-- The supplies of `bits` begin their periods at `t`. -/
def startPeriods (bits : BitVec 5) (t : Word) (u : Tab Word) : Tab Word :=
  (List.finRange 5).foldl (fun u k => if bits.getLsbD k.val then Tab.set u k.val t else u) u

/-- SUPPLY_WARN (R384): the period begins, once recorded; a new warning during the check restarts it at the end of the new period. -/
def execSupplyWarn (bits : BitVec 5) (s : State) : Host.Outcome State Fault Refusal :=
  onB (fun h => whenUp fun b =>
    let fresh := bits &&& ~~~ b.sup.period
    let b := modSup (fun u => { u with warn := u.warn ||| bits, period := u.period ||| bits, checking := u.checking &&& ~~~ bits,
                                       start := startPeriods fresh b.now u.start,
                                       warnCount := if fresh = 0 then u.warnCount else u.warnCount + 1 }) b
    let b := setLevel h 416 (decide (b.sup.warn ≠ 0)) b
    if fresh = 0 then b else logEv h 0x0A01 27 none 3 2 [aByte fresh.toNat] b) s

/-- SM_WARN_RELEASE (R169). -/
def execSmWarnRelease (supply : Fin 5) (s : State) : Host.Outcome State Fault Refusal :=
  onB (fun h => whenUp fun b =>
    if (b.sup.warn &&& supBit supply) = 0 then b
    else
      let b := modSup (fun u => { u with warn := u.warn &&& ~~~ supBit supply, released := Tab.set u.released supply.val b.now }) b
      setLevel h 416 (decide (b.sup.warn ≠ 0)) b) s

/-- SUPPLY_WARN_END (R169, R384): 10 µs after the release the period ends and the key-store check starts. -/
def execSupplyWarnEnd (supply : Fin 5) (s : State) : Host.Outcome State Fault Refusal :=
  onB (fun _ => whenUp fun b =>
    let due := (Tab.getD b.sup.released supply.val b.now).toNat + 10000 ≤ b.now.toNat
    if (b.sup.period &&& supBit supply) ≠ 0 ∧ (b.sup.warn &&& supBit supply) = 0 ∧ due then
      modSup (fun u => { u with period := u.period &&& ~~~ supBit supply, checking := u.checking ||| supBit supply }) b
    else b) s

/-- The length of the period just ended in µs (R391), the longest of those under check: from a supply's first warning to 10 µs after its last release. -/
def periodMicros (u : Supply) : Nat :=
  u.released.foldl (fun a e => if u.checking.getLsbD e.1 then max a ((e.2.toNat + 10000 - (Tab.getD u.start e.1 0).toNat) / 1000) else a) 0

/-- SUPPLY_RECOVER (R384): a pass resumes key commands, a failure Clamps with cause 0x0A. -/
def execSupplyRecover (pass : Bool) (s : State) : Host.Outcome State Fault Refusal :=
  onB (fun h => whenUp fun b =>
    if b.sup.checking = 0 then b
    else
      let bits := b.sup.checking
      let us := periodMicros b.sup
      let b := modSup (fun u => { u with checking := 0 }) b
      if pass then logEv h 0x0A02 27 none 3 1 [aByte bits.toNat, aW4 us] b else clamp h 0x0A 27 none [] b) s

/-- Cuts short every sample in progress (R375, R384). -/
def cutSamples (b : Block) : Block :=
  modRst (fun r => { r with parts := Tab.mapV r.parts fun _ q => if q.sampling.isSome then { q with sampling := none, dumpResult := 4 } else q }) b

/-- SUPPLY_TRIP (R384, R375). -/
def execSupplyTrip (bits : BitVec 5) (s : State) : Host.Outcome State Fault Refusal :=
  onB (fun h => whenUp fun b =>
    if bits = 0 then b
    else
      let b := logEv h 0x0A03 27 none 3 3 [aByte bits.toNat] (modSup (fun u => { u with tripLast := bits }) b)
      assertChipReq (cutSamples (takeChip h chipByTrip 0xFF none b))) s

end Sys2Proof.Machine
end

