-- ==== Sys2Proof/Machine/Sideband.lean ====
section
/-! DEFINITION. The I3C sideband (R49, R383). -/

namespace Sys2Proof.Machine

def modI3c (f : I3c → I3c) (b : Block) : Block := { b with i3c := f b.i3c }

/-- Bytes the target returns, most significant first, once it has an address (R49). -/
def i3cReply (n : Nat) (v : Nat) (b : Block) : Block :=
  if b.i3c.addr.isSome then emit (.i3c (leBytes n v).reverse) b else b

/-- I3C_ENTDAA (R49): a target that has an address takes no other. -/
def execI3cEntdaa (addr : BitVec 7) (s : State) : Host.Outcome State Fault Refusal :=
  onB (fun _ => whenUp fun b => if b.i3c.addr.isNone then modI3c (fun i => { i with addr := some addr }) b else b) s

/-- I3C_RSTDAA (R49). -/
def execI3cRstdaa (s : State) : Host.Outcome State Fault Refusal := onB (fun _ => whenUp (modI3c fun i => { i with addr := none })) s

/-- I3C_ENEC (R49). -/
def execI3cEnec (s : State) : Host.Outcome State Fault Refusal := onB (fun _ => whenUp (modI3c fun i => { i with ibiEn := true })) s

/-- I3C_DISEC (R49). -/
def execI3cDisec (s : State) : Host.Outcome State Fault Refusal := onB (fun _ => whenUp (modI3c fun i => { i with ibiEn := false })) s

/-- I3C_GETPID (R49). -/
def execI3cGetpid (s : State) : Host.Outcome State Fault Refusal := onB (fun _ => whenUp (i3cReply 6 Config.i3cPid.toNat)) s

/-- I3C_GETBCR (R49). -/
def execI3cGetbcr (s : State) : Host.Outcome State Fault Refusal := onB (fun _ => whenUp (i3cReply 1 Config.i3cBcr.toNat)) s

/-- I3C_GETDCR (R49). -/
def execI3cGetdcr (s : State) : Host.Outcome State Fault Refusal := onB (fun _ => whenUp (i3cReply 1 Config.i3cDcr.toNat)) s

/-- I3C_GETSTATUS (R49): the word's layout is not the spec's (log entry 10). -/
def execI3cGetstatus (s : State) : Host.Outcome State Fault Refusal :=
  onB (fun _ => whenUp fun b => i3cReply 2 (Config.i3cStatus b.i3c.request).toNat b) s

/-- I3C_RSTACT (R49). -/
def execI3cRstact (action : Byte) (s : State) : Host.Outcome State Fault Refusal :=
  onB (fun _ => whenUp (modI3c fun i => { i with rstAction := action })) s

/-- Chip resets counted in the current window (R382). -/
def Block.inWindow (b : Block) : Nat :=
  (b.rst.compat.resets.filter fun t => decide (since b t ≤ b.rst.compat.window.toNat * 1000000000)).length

/-- The 16 B sideband status (R383). -/
def i3cStatusBytes (b : Block) : Bytes :=
  leBytes 1 b.i3c.request.toNat ++ leBytes 1 (if b.rst.halted then b.rst.clampCause.toNat else 0) ++ leBytes 2 (satNat 16 b.inWindow)
    ++ leBytes 4 0 ++ leBytes 8 b.i3c.reqTick.toNat

/-- I3C_PRIVATE_READ (R383, R49). -/
def execI3cPrivateRead (s : State) : Host.Outcome State Fault Refusal :=
  onB (fun _ => whenUp fun b => if b.i3c.addr.isSome then emit (.i3c (i3cStatusBytes b)) b else b) s

/-- The request that stands when the power-cycle request is acknowledged. -/
def restingRequest (b : Block) : Byte := if b.rst.halted then 2 else if b.rst.compat.oos then 3 else 0

/-- I3C_POWER_CYCLE_ACK (R383). -/
def execI3cPowerCycleAck (s : State) : Host.Outcome State Fault Refusal :=
  onB (fun _ => whenUp fun b =>
    if b.i3c.addr.isSome && b.i3c.cycleWant then modI3c (fun i => { i with cycleWant := false, request := restingRequest b }) b else b) s

/-- I3C_CHIP_RESET_REQUEST (R380, R383): a Clamp in progress ends in its own reset (R370). -/
def execI3cChipResetRequest (s : State) : Host.Outcome State Fault Refusal :=
  onB (fun h => whenUp fun b => if b.i3c.addr.isSome && !b.rst.halted then takeChip h chipBySideband 0xFD none b else b) s

/-- POWER_CYCLE_IBI_REPEAT (R383). -/
def execPowerCycleIbiRepeat (s : State) : Host.Outcome State Fault Refusal :=
  onB (fun _ => whenUp fun b =>
    if b.i3c.cycleWant ∧ b.i3c.lastIbi.toNat + 1000000000 ≤ b.now.toNat then sendIbi 0x01 (modI3c (fun i => { i with lastIbi := b.now }) b)
    else b) s

end Sys2Proof.Machine
end

