-- ==== Sys2Proof/Machine/Lifecycle.lean ====
section
/-! DEFINITION. Root secret, tamper and lifecycle (R85 to R110): the battery domain's events, the lifecycle operations, the start of TC, and the test access port (R50, R102, R103). -/

namespace Sys2Proof.Machine

/-! ### Root (R85 to R87, R94) -/

/-- `ENTROPY` as the 4,064 key bytes of KMAC256 (R85). -/
def entropyBytes (ba : Battery) : Bytes := leBytes 4064 ba.entropy.toNat

/-- `CHECK` of an entropy (R85). -/
def rootCheck (e : BitVec 32512) : BitVec 256 := (Config.kmac256 (leBytes 4064 e.toNat) [] "SWY-ROOT-CHECK").setWidth 256

/-- The root is present (R86); an array all zero is absent. -/
def rootPresent (ba : Battery) : Bool :=
  (decide (ba.entropy ≠ 0) || decide (ba.check ≠ 0)) && decide (ba.check = rootCheck ba.entropy)

/-- K_dev (R87). -/
def deviceRoot (h : Hard) : Key := (Config.kmac256 (entropyBytes h.bat) (leBytes 8 h.fuse.serial.toNat) "SWY-DEV-ROOT").setWidth 256
/-- K_test (R87). -/
def testRoot (h : Hard) : Key := kdf Config.testRootKey (leBytes 8 h.fuse.serial.toNat) "SWY-TEST-ROOT"
/-- What the root port carries (R87, R93). -/
def rootPort (h : Hard) (sel : Bool) : Key := if sel then deviceRoot h else testRoot h

/-- The order of the P-384 group, n of R94 (FIPS 186). -/
def p384Order : Nat := 0xFFFFFFFFFFFFFFFFFFFFFFFFFFFFFFFFFFFFFFFFFFFFFFFFC7634D81F4372DDF581A0DB248B0A77AECEC196ACCC52973

/-- The ML-DSA-87 seed ξ, the ECDSA P-384 private key d and the ML-KEM-1024 seeds d ‖ z of a root-port value (R94). -/
def idMldsa (k : Key) : Key := kdf k [] "SWY-ID-MLDSA"
def idEcdsa (k : Key) : Nat := (Config.kmac256 (keyBytes k) [] "SWY-ID-ECDSA").toNat % (p384Order - 1) + 1
def idMlkem (k : Key) : BitVec 512 := Config.kmac256 (keyBytes k) [] "SWY-ID-MLKEM"

/-- The identity public keys of a root-port value in the `OWNER_KEYS` layout (R94, R58): ML-DSA-87 at 0, ECDSA P-384 X then Y at 2,592, ML-KEM-1024 at 2,688. -/
def identityKeys (k : Key) : Bytes :=
  leBytes 2592 (Config.mldsaPublic (idMldsa k)).toNat ++ leBytes 96 (Config.ecdsaPublic (idEcdsa k)).toNat ++ leBytes 1568 (Config.mlkemPublic (idMlkem k)).toNat

/-- The 16 hexadecimal digits of a serial, the most significant first (R95; upper case, log entry 82). -/
def hexDigit (n : Nat) : Byte := BitVec.ofNat 8 (if n < 10 then 48 + n else 55 + n)
def hexSerial (w : Word) : Bytes := (List.range 16).map fun i => hexDigit (bitsOf w.toNat (60 - 4 * i) 4)

/-- The certificate TC issues to itself on an Open chip, signed with the test identity (R95). -/
def selfCert (h : Hard) : Bytes := Config.certOf (hexSerial h.fuse.serial) (identityKeys (testRoot h)) (idMldsa (testRoot h))

/-! ### Fuse records (R96 to R99) -/

def Fuses.record (f : Fuses) (k : Nat) : Word := Tab.getD f.records k 0
def Fuses.certSlot (f : Fuses) (j : Nat) : Digest := Tab.getD f.certSlots j 0
/-- Burning sets cells and clears none (R96, R99). -/
def Fuses.burn (f : Fuses) (k : Nat) (w : Word) : Fuses := { f with records := Tab.set f.records k (f.record k ||| w) }
def Fuses.burnSlot (f : Fuses) (j : Nat) (d : Digest) : Fuses := { f with certSlots := Tab.set f.certSlots j (f.certSlot j ||| d) }

/-- Mark m of record k reads set when either of its cells is set (R96). -/
def Fuses.mark (f : Fuses) (k m : Nat) : Bool := (f.record k).getLsbD (2 * m) || (f.record k).getLsbD (2 * m + 1)
/-- Both cells of mark m. -/
def markCells (m : Nat) : Word := BitVec.ofNat 64 (3 * 4 ^ m)
/-- M3 to M0 of a record. -/
def Fuses.marks (f : Fuses) (k : Nat) : Nat := bit (f.mark k 0) + 2 * bit (f.mark k 1) + 4 * bit (f.mark k 2) + 8 * bit (f.mark k 3)

/-- The highest record below `n` with any mark (R98). -/
def Fuses.highest (f : Fuses) : Nat → Option Nat
  | 0 => none
  | n + 1 => if f.marks n ≠ 0 then some n else f.highest n

/-- The highest set mark of a record. -/
def Fuses.topMark (f : Fuses) (k : Nat) : Nat := if f.mark k 3 then 3 else if f.mark k 2 then 2 else if f.mark k 1 then 1 else 0

/-- The slot of the completed close record: the highest record, or the one below a reopen that has not completed (R98, R105, R108). -/
def Fuses.closedSlot (f : Fuses) : Option Nat :=
  match f.highest 16 with
  | some k =>
    if k % 2 = 0 then (if f.mark k 3 then some (k / 2) else none)
    else if !f.mark k 3 && f.mark (k - 1) 3 then some ((k - 1) / 2) else none
  | none => none

/-- `PHASE` 0 by the fuses alone: no record, or a completed reopen (R98, R103). -/
def Fuses.open' (f : Fuses) : Bool :=
  match f.highest 16 with
  | none => true
  | some k => decide (k % 2 = 1) && f.mark k 3

/-- A record has M0 set but not M3 (R97). -/
def transitionOpen (f : Fuses) : Bool := match f.highest 16 with | some k => !f.mark k 3 | none => false

/-- What a start does to the fuses and the root array (R99): the new fuses and battery domain, `PHASE`, the mark resumed from when any changed, M3 burned, stalled. -/
structure Resume where
  fuse    : Fuses
  bat     : Battery
  phase   : Nat
  from'   : Option Nat
  burnt3  : Bool
  stalled : Bool

/-- LIFECYCLE_RESUME (R99). DESIGN CHOICE (log entry 82): a half-burned mark that is repaired counts as a mark changed; a complete close starts in `PHASE` 4 whatever the root array holds (R98, R99), against R100's words for a trip in `PHASE` 3. -/
def resume (f : Fuses) (ba : Battery) : Resume :=
  match f.highest 16 with
  | none => { fuse := f, bat := ba, phase := 0, from' := none, burnt3 := false, stalled := false }
  | some k =>
    if f.mark k 3 then { fuse := f, bat := ba, phase := if k % 2 = 0 then 4 else 0, from' := none, burnt3 := false, stalled := false }
    else
      let m := f.topMark k
      let g := f.burn k (markCells m)
      if k % 2 = 1 then
        let ba' := if m < 1 then { ba with entropy := 0, check := 0 } else ba
        let g := if m < 1 then g.burn k (markCells 1) else g
        let g := if m < 2 then (g.burnSlot ((k - 1) / 2) (BitVec.allOnes 384)).burn k (markCells 2) else g
        { fuse := g.burn k (markCells 3), bat := ba', phase := 0, from' := some m, burnt3 := true, stalled := false }
      else
        let from' (g : Fuses) : Option Nat := if g.record k = f.record k then none else some m
        if !rootPresent ba then { fuse := g, bat := ba, phase := 6, from' := from' g, burnt3 := false, stalled := true }
        else if m < 1 then
          let g := g.burn k (markCells 1)
          { fuse := g, bat := ba, phase := 2, from' := from' g, burnt3 := false, stalled := false }
        else if m = 1 then { fuse := g, bat := ba, phase := 2, from' := from' g, burnt3 := false, stalled := false }
        else { fuse := g.burn k (markCells 3), bat := ba, phase := 3, from' := some m, burnt3 := true, stalled := false }

/-- The effective state is Closed (R98). -/
def lcClosed (b : Block) : Bool := decide (b.lc.phase = 4 ∨ b.lc.phase = 5)

/-- The root port carries K_dev: Closed, or a close record incomplete with M0 set (R93). -/
def rootSelOf (f : Fuses) (phase : Nat) : Bool :=
  decide (phase = 4 ∨ phase = 5) || (match f.highest 16 with | some k => decide (k % 2 = 0) && !f.mark k 3 | none => false)

def setLc (f : Lc → Lc) (b : Block) : Block := { b with lc := f b.lc }

/-- A lifecycle event (R110): `RECORD` and `MARKS`, then what else it carries. -/
def lcNote (h : Hard) (code : Nat) (extra : List (Nat × Nat)) (b : Block) : Block :=
  let k := h.fuse.highest 16
  note h code 27 none ([aByte (k.getD 0x1F), aByte (match k with | some k => h.fuse.marks k | none => 0)] ++ extra) b

/-- Counts set bits among the low `n`. -/
def popCount (w : Word) : Nat → Nat
  | 0 => 0
  | n + 1 => bit (w.getLsbD n) + popCount w n

/-- The firmware floor (R96). -/
def fwFloor (f : Fuses) : Nat := popCount f.floor 64

/-- Burns zero bits of the floor word, lowest first, until `n` are set (R107). -/
def floorBurn (w : Word) (n : Nat) : Nat → Word
  | 0 => w
  | fuel + 1 =>
    let w := floorBurn w n fuel
    if popCount w 64 < n then w ||| BitVec.ofNat 64 (2 ^ fuel) else w

/-! ### Words of `SWY_LC` (R108) -/

def lcStateWord (h : Hard) (b : Block) : Word :=
  let k := h.fuse.highest 16
  wordOf [(48, 8, fwFloor h.fuse), (40, 8, h.bat.armMask.toNat), (32, 8, h.fuse.closedSlot.getD 0xFF), (24, 5, k.getD 0x1F),
    (20, 4, match k with | some k => h.fuse.marks k | none => 0), (12, 4, b.lc.phase.toNat), (9, 1, bit b.lc.rootSel),
    (8, 1, bit (rootPresent h.bat)), (1, 1, bit (decide (b.lc.phase = 0) && h.fuse.open')), (0, 1, bit (lcClosed b))]

/-! ### Battery domain events (R45, R86, R88 to R91) -/

/-- Latches a sensor, and records it as the first when nothing was latched (R90, R108). -/
def latchBat (k : Nat) (ba : Battery) : Battery :=
  { ba with latch := ba.latch ||| BitVec.ofNat 8 (2 ^ k), first := if ba.latch = 0 then BitVec.ofNat 8 k else ba.first }

/-- Zeroes the root array, latches the sensor, counts; during another trip's overwrite it only latches (R90). Such an overwrite can run only until TC has acted on the zeroisation (log entry 82). -/
def tripBat (k : Nat) (overwriting : Bool) (ba : Battery) : Battery :=
  if overwriting && ba.zeroised then latchBat k ba
  else { latchBat k ba with entropy := 0, check := 0, zeroCount := ba.zeroCount + 1, zeroised := true }

/-- Ends an operation with its error, or 0 (R108, R109). -/
def lcEnd (err size : Nat) (b : Block) : Block :=
  setLc (fun l => { l with go := false, done := true, error := decide (err ≠ 0), err := BitVec.ofNat 8 err, size := BitVec.ofNat 24 size }) b

/-- TAMPER_TRIP (R88, R90): a trip ends a running `GEN_ROOT` with `ERR` 0x03 (R109). -/
def execTamperTrip (sensor : Fin 8) (overwriting : Bool) (s : State) : Host.Outcome State Fault Refusal :=
  onHB (fun h b =>
    if h.bat.armMask.getLsbD sensor.val then
      ({ h with bat := tripBat sensor.val overwriting h.bat },
        whenUp (fun b => setLevel h 417 true (if b.lc.go && decide (b.lc.op = 0x01) then lcEnd 0x03 0 b else b)) b)
    else (h, b)) s

/-- Writes slots 0 and 1 from the root port (R94, R111). -/
def writeIdentity (h : Hard) (sel : Bool) (b : Block) : Block :=
  let k := rootPort h sel
  let root : Attr := { Attr.zero with st := 1, owner := 0xF, testRoot := !sel, uses := typeUses 1, type := 1 }
  let base : Attr := { root with uses := typeUses 2, type := 2 }
  putKey 1 (kdf k [] "SWY-ID-BASE") base (putKey 0 k root b)

/-- Writes slots 2 to 7 from mask ROM (R111). -/
def writeKatKeys (b : Block) : Block :=
  [2, 3, 4, 5, 6, 7].foldl (fun b n =>
    putKey n (Config.katKey n) { Attr.zero with st := 1, owner := 0xF, uses := typeUses 14, type := 14 } b) b

/-- Pending key commands end with `ST_ABORTED` at a zeroisation (R119). -/
def abortKeyCommands (h : Hard) (b : Block) : Block :=
  let b := b.ks.repls.foldl (fun b e => completeOpt h e.2.ctx stAborted 0 0 0 b) b
  b.ks.invals.foldl (fun b v => completeOpt h v.ctx stAborted 0 0 0 b) b

/-- The sensor events that follow `EV_TAMPER_ZEROISED` (R91). -/
def sensorEvents (h : Hard) (b : Block) : Block :=
  (List.range 8).foldl (fun b k =>
    if h.bat.latch.getLsbD k then
      note h (if k < 4 then 0x0B01 else if k < 6 then 0x0B02 else if k = 6 then 0x0B03 else 0x0B04) 29 none [aByte h.bat.latch.toNat] b
    else b) b

/-- `EV_TAMPER_ZEROISED` and one event per latched sensor (R91). -/
def tamperEvents (h : Hard) (b : Block) : Block := sensorEvents h (note h 0x0B05 29 none [aByte h.bat.latch.toNat] b)

/-- TC zeroes every key slot and key cache, and writes the fixed slots again; slots 0 and 1 from the test root alone (R91). -/
def zeroKeys (h : Hard) (b : Block) : Block :=
  let b := abortKeyCommands h b
  let b := { b with ks := { slots := [], repls := [], invals := [], sel := b.ks.sel } }
  let b := (cipherIslands h.cfg).foldl (fun b i => cacheZero i b) b
  if !b.lc.romRun then b
  else if b.lc.rootSel then writeKatKeys b
  else writeIdentity h false (writeKatKeys b)

/-- TAMPER_ZEROISED (R91, R375): a Clamp while a partition exists; else the key slots and caches are zeroed. The events wait until the tick counter is loaded. DESIGN CHOICE (log entry 82): a Clamp records none of them. -/
def execTamperZeroised (s : State) : Host.Outcome State Fault Refusal :=
  onHB (fun h b =>
    if !h.bat.zeroised || !b.up then (h, b)
    else
      let h' := { h with bat := { h.bat with zeroised := false, unreported := false } }
      if allParts.any b.partExists then (h', clamp h' 9 29 none [] b)
      else if b.clk.loaded then (h', tamperEvents h' (zeroKeys h' b))
      else ({ h' with bat := { h'.bat with unreported := true } }, zeroKeys h' b)) s

/-- ROOT_FLIP (R86): true and inverted form by turns. -/
def execRootFlip (s : State) : Host.Outcome State Fault Refusal :=
  onHB (fun h b => ({ h with bat := { h.bat with inverted := !h.bat.inverted } }, b)) s

/-- BATTERY_SUPPLY_SWITCH (R45): nothing is lost. -/
def execBatterySupplySwitch (toVbat : Bool) (s : State) : Host.Outcome State Fault Refusal :=
  onHB (fun h b => ({ h with bat := { h.bat with onVbat := toVbat } }, b)) s

/-- BATTERY_POWER_LOSS (R34, R89): root absent, arm mask, floor and the battery-kept report fields gone. -/
def execBatteryPowerLoss (s : State) : Host.Outcome State Fault Refusal :=
  onHB (fun h b => ({ h with bat := Battery.blank }, whenUp (setLevel h 417 false) b)) s

/-- TAMPER_LATCH_CLEAR (R108). -/
def execTamperLatchClear (mask : Byte) (s : State) : Host.Outcome State Fault Refusal :=
  onHB (fun h b =>
    if !b.up then (h, b)
    else
      let l := h.bat.latch &&& ~~~ mask
      ({ h with bat := { h.bat with latch := l, first := if l = 0 then 0xFF else h.bat.first } }, setLevel h 417 (decide (l ≠ 0)) b)) s

/-! ### Lifecycle operations (R97, R100, R101, R109) -/

/-- TC takes lifecycle operations once its start has read the fuses and the tick counter is loaded (R52, R106). -/
def lcReady (b : Block) : Bool := b.up && b.clk.loaded && b.lc.romRun

/-- The operation `op` was started by `GO` and has not ended (R108). -/
def lcRuns (op : Nat) (b : Block) : Bool := lcReady b && b.lc.go && decide (b.lc.op.toNat = op)

def anyPart (b : Block) : Bool := allParts.any b.partExists

/-- 32,512 bits of entropy from the DRBG: draws n and on. -/
def drawEntropy (n : Nat) : Nat → Nat
  | 0 => 0
  | k + 1 => drawEntropy n k + (Config.drbg (n + k)).toNat * 2 ^ (512 * k)

/-- GEN_ROOT (R109). DESIGN CHOICE (log entry 82): the new array is stored in true form. -/
def execGenRoot (vbatOk : Bool) (s : State) : Host.Outcome State Fault Refusal :=
  onHB (fun h b =>
    if !lcRuns 0x01 b || b.noRandom then (h, b)
    else if b.lc.phase ≠ 0 then (h, lcEnd 0x01 0 b)
    else if anyPart b then (h, lcEnd 0x02 0 b)
    else if !vbatOk then (h, lcEnd 0x09 0 b)
    else
      let e : BitVec 32512 := BitVec.ofNat 32512 (drawEntropy b.ent.draws 64)
      ({ h with bat := { h.bat with entropy := e, check := rootCheck e, inverted := false } },
        lcEnd 0 0 { b with ent := { b.ent with draws := b.ent.draws + 64, gens := b.ent.gens + 64 } })) s

/-- ARM (R89, R109). -/
def execArm (mask : Byte) (s : State) : Host.Outcome State Fault Refusal :=
  onHB (fun h b => if !lcReady b then (h, b) else ({ h with bat := { h.bat with armMask := h.bat.armMask ||| mask } }, lcEnd 0 0 b)) s

/-- The next record (R97): one above the highest with any mark. -/
def nextRecord (f : Fuses) : Nat := match f.highest 16 with | some k => k + 1 | none => 0

/-- The first failed check of `CLOSE`, in the order of R97. -/
def closeErr (h : Hard) (b : Block) : Nat :=
  if b.lc.phase ≠ 0 then 0x01
  else if !rootPresent h.bat then 0x03
  else if h.bat.armMask ≠ 0xFF then 0x04
  else if nextRecord h.fuse > 14 ∨ h.fuse.certSlot (nextRecord h.fuse / 2) ≠ 0 then 0x05
  else if anyPart b then 0x02
  else 0

/-- Outside `PHASE` 0 an Open-only instruction that stands selected falls to `BYPASS`, and TC runs again (R103). -/
def dropOpenIr (b : Block) : Block :=
  { b with jtag := { ir := if 0x10 ≤ b.jtag.ir.toNat ∧ b.jtag.ir.toNat ≤ 0x13 then 0xFF else b.jtag.ir, tcHalt := false } }

/-- CLOSE (R97): burns M0 of the next even record; the root port follows at once (R93). -/
def execClose (s : State) : Host.Outcome State Fault Refusal :=
  onHB (fun h b =>
    if !lcReady b then (h, b)
    else if closeErr h b ≠ 0 then (h, lcEnd (closeErr h b) 0 b)
    else
      let h' := { h with fuse := h.fuse.burn (nextRecord h.fuse) (markCells 0) }
      (h', dropOpenIr (lcNote h' 0x0101 [] (setLc (fun l => { l with phase := 1, rootSel := true }) (lcEnd 0 0 b))))) s

/-- Both signatures of a SIGNATURE block over a digest (R60, R101, R104). -/
def sigsOk (keys : Bytes × Bytes) (d : Digest) (ctx : String) (ecdsa mldsa : Bytes) : Bool :=
  Config.ecdsaVerify keys.1 (leBytes 48 d.toNat) ecdsa && Config.mldsaVerify keys.2 (leBytes 48 d.toNat) ctx mldsa

/-- An aligned host address, as `ADDR` must hold (R108, R109). -/
def addrBad (b : Block) : Bool := decide (b.lc.addr.toNat % 8 ≠ 0)

/-- The first failed check of `REOPEN` (R97, R101, R109). -/
def reopenErr (h : Hard) (b : Block) (token : Option Bytes) : Nat :=
  if b.lc.phase ≠ 4 ∧ b.lc.phase ≠ 6 then 0x01
  else if b.lc.len ≠ 4760 ∨ addrBad b = true then 0x0A
  else match token with
    | none => 0x0A
    | some t =>
      if t.length ≠ 4760 then 0x0A
      else if fieldAt t 0 4 ≠ 0x314E504F ∨ fieldAt t 4 2 ≠ 1 ∨ fieldAt t 7 1 ≠ 0 ∨ fieldAt t 22 10 ≠ 0 ∨ fieldAt t 4755 5 ≠ 0 then 0x06
      else if !sigsOk Config.lifecycleKeys (Config.sha384 (t.take 32)) "swiwyn-rma" (bytesAt t 32 96) (bytesAt t 128 4627) then 0x06
      else if fieldAt t 6 1 ≠ nextRecord h.fuse ∨ nextRecord h.fuse % 2 ≠ 1 ∨ fieldAt t 8 8 ≠ h.fuse.serial.toNat then 0x07
      else 0

/-- REOPEN (R97, R101): burns the nonce and M0 of the next odd record. -/
def execReopen (token : Option Bytes) (s : State) : Host.Outcome State Fault Refusal :=
  onHB (fun h b =>
    if !lcRuns 0x04 b then (h, b)
    else if reopenErr h b token ≠ 0 then (h, lcEnd (reopenErr h b token) 0 b)
    else
      let nonce := match token with | some t => fieldAt t 16 6 | none => 0
      let h' := { h with fuse := h.fuse.burn (nextRecord h.fuse) (BitVec.ofNat 64 (nonce * 256) ||| markCells 0) }
      (h', lcNote h' 0x0101 [] (setLc (fun l => { l with phase := 5 }) (lcEnd 0 0 b)))) s

/-- READ_ID (R94, R109). -/
def execReadId (dmaOk : Bool) (s : State) : Host.Outcome State Fault Refusal :=
  onB (fun h b =>
    if !lcRuns 0x05 b then b
    else if b.lc.rootSel && !rootPresent h.bat then lcEnd 0x03 0 b
    else if b.lc.len ≠ 4256 ∨ addrBad b = true ∨ dmaOk = false then lcEnd 0x0A 0 b
    else emit (.dmaWrite b.lc.addr (identityKeys (rootPort h b.lc.rootSel))) (lcEnd 0 4256 b)) s

/-- The first failed check of `BURN_CERT` (R97, R109). -/
def burnCertErr (h : Hard) (b : Block) (cert : Option Bytes) : Nat :=
  if b.lc.phase ≠ 2 then 0x01
  else if !rootPresent h.bat then 0x03
  else match cert with
    | none => 0x0A
    | some c =>
      if b.lc.len.toNat > 16384 ∨ c.length ≠ b.lc.len.toNat ∨ addrBad b = true then 0x0A
      else if Config.certKeys c ≠ some (identityKeys (deviceRoot h)) then 0x08
      else 0

/-- BURN_CERT (R97): burns the certificate slot, then M2, then M3. -/
def execBurnCert (cert : Option Bytes) (s : State) : Host.Outcome State Fault Refusal :=
  onHB (fun h b =>
    if !lcRuns 0x06 b then (h, b)
    else if burnCertErr h b cert ≠ 0 then (h, lcEnd (burnCertErr h b cert) 0 b)
    else
      let k := (h.fuse.highest 16).getD 0
      let f := ((h.fuse.burnSlot (k / 2) (Config.sha384 (cert.getD []))).burn k (markCells 2)).burn k (markCells 3)
      let h' := { h with fuse := f }
      (h', lcNote h' 0x0102 [] (setLc (fun l => { l with phase := 3 }) (lcEnd 0 0 b)))) s

/-- READ_CERT (R109). -/
def execReadCert (dmaOk : Bool) (s : State) : Host.Outcome State Fault Refusal :=
  onB (fun _ b =>
    if !lcRuns 0x07 b then b
    else if b.lc.len.toNat < b.lc.cert.length ∨ addrBad b = true ∨ dmaOk = false then lcEnd 0x0A 0 b
    else emit (.dmaWrite b.lc.addr b.lc.cert) (lcEnd 0 b.lc.cert.length b)) s

/-- What a GO write of `SWY_LC_REQ` runs by itself: the operations that need nothing from outside the page; the others stay busy until what they need arrives, and an unknown `OP` ends with 0x0B (R109, log entry 11). -/
def lcGo (op : Nat) (arg : Byte) (s : State) : Host.Outcome State Fault Refusal :=
  match op with
  | 0x02 => execArm arg s
  | 0x03 => execClose s
  | 0x01 | 0x04 | 0x05 | 0x06 | 0x07 => .next s
  | _ => onB (fun _ b => if lcReady b then lcEnd 0x0B 0 b else b) s

/-! ### TC's start (R106, R107) -/

/-- Steps 2 to 4 of the start: fuses, R99, root check, identity, fixed slots. -/
def romStart (h : Hard) (b : Block) : Hard × Block :=
  let r := resume h.fuse h.bat
  let h' := { h with fuse := r.fuse, bat := r.bat }
  let sel := rootSelOf r.fuse r.phase
  let b := setLc (fun l => { l with phase := BitVec.ofNat 4 r.phase, rootSel := sel, romRun := true }) b
  let b := if r.phase = 0 then b else dropOpenIr b
  let b := if r.stalled then lcNote h' 0x0104 [] b else b
  let b := match r.from' with | some m => lcNote h' 0x0103 [aByte m] b | none => b
  let b := if r.burnt3 then lcNote h' 0x0102 [] b else b
  let b := if r.phase = 4 ∧ rootPresent r.bat = false then lcNote h' 0x0105 [] b else b
  let b := writeKatKeys b
  (h', if sel && !rootPresent r.bat then b else writeIdentity h' sel b)

/-- The start fails: `BOOT_STATE` 3 (R106, R110). -/
def bootFail (h : Hard) (err : Nat) (b : Block) : Block :=
  lcNote h 0x0106 [aByte err] (setLc (fun l => { l with bootState := 3, bootErr := BitVec.ofNat 8 err }) b)

/-- The bundle named in `SWY_LC_BOOT` is fetched once the tick counter is loaded: no island takes work before (R52, R106). -/
def fetchBundle (b : Block) : Block :=
  if b.clk.loaded && decide (b.lc.bootState = 1) then emit (.dmaRead (BitVec.ofNat 64 (b.lc.bundle.toNat * 4096)) 4194304) b else b

/-- LC_BOOT_WRITE (R106, R108, R184): taken while `BOOT_STATE` is 0 or 3; after a failed self-test every test runs again first, with an outcome the spec leaves to the chip (log entry 12). -/
def execLcBootWrite (val : Word) (s : State) : Host.Outcome State Fault Refusal :=
  onHB (fun h b =>
    if !b.up || !(decide (b.lc.bootState = 0) || decide (b.lc.bootState = 3)) then (h, b)
    else
      let b := setLc (fun l => { l with bundle := BitVec.ofNat 52 (wbits val 12 52) }) b
      let retest := !b.lc.romRun
      if retest && !b.openVal.getLsbD 0 then (h, bootFail h 0 (opened b))
      else
        let r := if retest then romStart h (opened b) else (h, b)
        (r.1, fetchBundle (setLc (fun l => { l with bootState := 1, bootErr := 0 }) r.2))) s

/-- Where the certificate and the signature block of a bundle stand (R104). -/
def certOff (d : Bytes) : Nat := (64 + fieldAt d 12 4 + 7) / 8 * 8
def sigOff (d : Bytes) : Nat := certOff d + fieldAt d 16 4

/-- The header of a boot bundle is good (R104). -/
def bundleHeadOk (d : Bytes) : Bool :=
  decide (64 ≤ d.length) && decide (fieldAt d 0 4 = 0x31425753) && decide (fieldAt d 4 2 = 1) && decide (fieldAt d 6 2 = 0)
    && decide (fieldAt d 8 4 ≤ 4194304) && decide (fieldAt d 8 4 = sigOff d + 4728) && decide (fieldAt d 8 4 ≤ d.length)
    && decide (fieldAt d 12 4 % 8 = 0 ∧ 8 ≤ fieldAt d 12 4 ∧ fieldAt d 12 4 ≤ 2097152)
    && decide (fieldAt d 16 4 ≤ 16384)
    && decide (1 ≤ fieldAt d 20 1 ∧ fieldAt d 20 1 ≤ 64) && decide (fieldAt d 21 1 ≤ 1) && decide (fieldAt d 22 42 = 0)

/-- The error a bundle ends with (R104 to R107), 0 when it starts. -/
def bundleErr (h : Hard) (b : Block) (bundle : Option Bytes) : Nat :=
  match bundle with
  | none => 0x02
  | some d =>
    let cert := bytesAt d (certOff d) (fieldAt d 16 4)
    if !bundleHeadOk d then 0x01
    else if !sigsOk Config.firmwareKeys (Config.sha384 (d.take (64 + fieldAt d 12 4))) "swiwyn-patch" (bytesAt d (sigOff d) 96) (bytesAt d (sigOff d + 96) 4627) then 0x03
    else if fieldAt d 20 1 < fwFloor h.fuse then 0x04
    else if fieldAt d 16 4 = 0 ∧ 3 < b.lc.phase.toNat then 0x05
    else if lcClosed b && (decide (some (Config.sha384 cert) ≠ (h.fuse.closedSlot.map h.fuse.certSlot))
        || decide (Config.certKeys cert ≠ some (identityKeys (rootPort h b.lc.rootSel)))) then 0x05
    else 0

/-- The certificate in use: the bundle's on a Closed chip, TC's own in `PHASE` 0, and none while a record is incomplete, when nothing of the Open state but the root port and the jig field is available (R95, R98). -/
def certInUse (h : Hard) (b : Block) (d : Bytes) : Bytes :=
  if lcClosed b then bytesAt d (certOff d) (fieldAt d 16 4) else if b.lc.phase = 0 then selfCert h else []

/-- BOOT_BUNDLE_FETCHED (R104 to R107): TC's start ends once the tick counter is loaded (R34, R52). -/
def execBootBundleFetched (bundle : Option Bytes) (s : State) : Host.Outcome State Fault Refusal :=
  onHB (fun h b =>
    if !b.up || !b.clk.loaded || decide (b.lc.bootState ≠ 1) then (h, b)
    else if bundleErr h b bundle ≠ 0 then (h, bootFail h (bundleErr h b bundle) b)
    else
      let d := bundle.getD []
      let cert := certInUse h b d
      let b := setLc (fun l => { l with bootState := 2, bootErr := 0, patchHash := Config.sha384 (d.take (64 + fieldAt d 12 4)), cert := cert }) b
      if wbit (BitVec.ofNat 64 (fieldAt d 21 1)) 0 && decide (b.lc.phase = 4) then
        ({ h with fuse := { h.fuse with floor := floorBurn h.fuse.floor (fieldAt d 20 1) 64 } }, b)
      else (h, b)) s

/-! ### Chip reset (R52, R378, R382, R384, R386) -/

/-- What a chip reset keeps: trouble log and compatibility state, the operator's fields of `SWY_RST` and the sample results, the model's own records (R52, R389). -/
def keepThroughReset (b : Block) : Block :=
  { Block.reset with
    log := b.log, jtag := b.jtag, out := b.out
    ent := { Block.reset.ent with draws := b.ent.draws, opens := b.ent.opens }
    sup := { Block.reset.sup with warnCount := b.sup.warnCount, tripLast := b.sup.tripLast }
    rst := { Block.reset.rst with
      parts := Tab.mapV b.rst.parts fun _ q => { RstPart.reset with dumpResult := q.dumpResult, dumpCount := q.dumpCount, dumpBytes := q.dumpBytes }
      opLevel := b.rst.opLevel, opIsland := b.rst.opIsland, compat := b.rst.compat, nextCause := b.rst.nextCause, chipTick := b.rst.chipTick
      clampCause := b.rst.clampCause, clampPart := none, chipRstN := true,
      running := b.rst.running.filter fun r => decide (r.scope = .chip)
      history := b.rst.history.filter fun e => decide (e.1 = .chip) } }

/-- CHIP_RST_ASSERT (R52): the request ends and the block is held in reset. -/
def execChipRstAssert (s : State) : Host.Outcome State Fault Refusal := onB (fun _ b => keepThroughReset b) s

/-- The trouble log with nothing in it. -/
def emptyLog (b : Block) : Block := { b with log := { rings := [], pages := [], limits := [] } }

/-- Levels are sampled as the block comes out of reset (R367). -/
def sampleLevels (h : Hard) (b : Block) : Block :=
  let b := (List.range (meCount h.cfg)).foldl (fun b n => setLevel h (344 + n) (!(Tab.getD b.mes n MeSt.reset).ready) b) b
  let b := (List.range (portCount h.cfg)).foldl (fun b k => setLevel h (352 + k) (!(Tab.getD b.ports k PortSt.reset).linkUp) b) b
  setLevel h 417 (decide (h.bat.latch ≠ 0)) b

/-- The reset registers at a start (R382, R389): a start from power-on ends the compatibility state. -/
def startRegs (h : Hard) (kind : Bool) (b : Block) : Block :=
  if !kind then
    let b := emptyLog b
    { b with rst := { Block.reset.rst with chipRstN := false }, sup := Block.reset.sup }
  else
    let c := b.rst.compat
    let oos := c.oos || (c.active && decide (c.count.toNat ≤ b.inWindow))
    let b := modRst (fun r => { r with chipRstN := false, chipCause := r.nextCause, chipClamp := if r.nextCause = 1 then r.clampCause else 0,
                                       compat := { c with oos := oos } }) b
    if oos then sendIbi 0x03 (setRequest 3 (logEv h 0x090A 27 none 3 4 [aCount c.resets.length] b)) else b

/-- TC leaves reset: `RST_KIND`, the log's check, the levels, and its start from mask ROM (R52, R106, R184, R382, R384). -/
def leaveReset (h : Hard) (kind testsOk logOk : Bool) (b : Block) : Hard × Block :=
  let b := startRegs h kind b
  let b := if kind && !logOk then logEv h 0x0911 27 none 1 3 [] (emptyLog b) else b
  let b := sampleLevels h b
  if testsOk then romStart h b else (h, bootFail h 0 b)

/-- CHIP_RST_RELEASE (R52): before the lock the release waits for it (R31). -/
def execChipRstRelease (kind : Bool) (testsOk logOk : Bool) (s : State) : Host.Outcome State Fault Refusal :=
  onHB (fun h b =>
    if !b.rst.chipRstN then (h, b)
    else if b.clk.locked then leaveReset h kind testsOk logOk b
    else (h, modRst (fun r => { r with chipRstN := false }) { b with clk := { b.clk with waits := some (kind, testsOk, logOk) } })) s

/-- CLOCK_LOCK (R31, R52): a release that waited for it takes effect. -/
def execClockLock (s : State) : Host.Outcome State Fault Refusal :=
  onHB (fun h b =>
    let first := !b.clk.locked && !b.rst.chipRstN
    let b' := { b with clk := { b.clk with locked := true } }
    match first, b.clk.waits with
    | true, some w => leaveReset h w.1 w.2.1 w.2.2 { b' with clk := { b'.clk with waits := none } }
    | _, _ => (h, b')) s

/-- CLAMP_END (R370): slots 16 to 4,095 zeroed, then the chip reset; after a lost timebase that reset is R36's (R375). -/
def execClampEnd (s : State) : Host.Outcome State Fault Refusal :=
  onB (fun h => whenUp fun b =>
    if !b.rst.halted then b
    else
      let b := cutSamples { b with ks := { b.ks with slots := Tab.keep b.ks.slots fun n _ => decide (n < 16), repls := [], invals := [] } }
      let b := modRst (fun r => { r with running := [] }) b
      assertChipReq (takeChip h (if b.clk.lost then chipByTimebase else chipByClamp) 0xFF none b)) s

/-- HALT_ACK (R51). -/
def execHaltAck (s : State) : Host.Outcome State Fault Refusal :=
  onB (fun h => whenUp fun b => if b.rst.halted then logEv h 0x090F 27 none 1 1 [] b else b) s

/-! ### Test access port (R50, R102, R103) -/

/-- Selects an instruction. -/
def setIr (c : Byte) (b : Block) : Block := { b with jtag := { b.jtag with ir := c } }

/-- An Open-only instruction selects `BYPASS` in any `PHASE` other than 0 (R103). -/
def openIr (h : Hard) (c : Byte) (b : Block) : Block := setIr (if h.fuse.open' then c else 0xFF) b

/-- The `IDCODE` value (R50). -/
def idcode : BitVec 32 := BitVec.ofNat 32 (Config.siliconRev.toNat * 2 ^ 28 + 0x5A17 * 2 ^ 12 + Config.manufacturer.toNat * 2 + 1)

/-- JTAG_EXTEST (R50). -/
def execJtagExtest (s : State) : Host.Outcome State Fault Refusal := onB (fun _ => setIr 0x00) s

/-- JTAG_IDCODE (R50). -/
def execJtagIdcode (s : State) : Host.Outcome State Fault Refusal :=
  onB (fun _ b => emit (.jtag (leBytes 4 idcode.toNat)) (setIr 0x01 b)) s

/-- JTAG_SAMPLE_PRELOAD (R50). -/
def execJtagSamplePreload (s : State) : Host.Outcome State Fault Refusal := onB (fun _ => setIr 0x02) s

/-- JTAG_BYPASS (R50): `BYPASS` and every code unassigned or unavailable. -/
def execJtagBypass (_code : Byte) (s : State) : Host.Outcome State Fault Refusal := onB (fun _ => setIr 0xFF) s

/-- Shifts out what the spec gives no value: a free value (log entry 83). -/
def shiftOpen (b : Block) : Block := emit (.jtag (leBytes 64 b.openVal.toNat)) (opened b)

/-- JTAG_INT_SCAN (R103): the scan chains of every island but the battery domain shift out; their length and order are the chip's (log entry 83). -/
def execJtagIntScan (s : State) : Host.Outcome State Fault Refusal :=
  onB (fun h b => let b := openIr h 0x10 b; if h.fuse.open' then shiftOpen b else b) s

/-- What a debugger does to TC (R103): memory is read as free values, and what a step or a write does to TC's own program is not in the spec (log entry 83). -/
def tcDebug : TcDbg → Block → Block
  | .halt, b => { b with jtag := { b.jtag with tcHalt := true } }
  | .resume, b => { b with jtag := { b.jtag with tcHalt := false } }
  | .step, b => b
  | .memRead _, b => shiftOpen b
  | .memWrite _ _, b => b

/-- JTAG_TC_DBG (R103). -/
def execJtagTcDbg (op : TcDbg) (s : State) : Host.Outcome State Fault Refusal :=
  onB (fun h b => let b := openIr h 0x11 b; if h.fuse.open' then tcDebug op b else b) s

/-- JTAG_CLK_CTL (R32, R103). -/
def execJtagClkCtl (spreadOff : Bool) (s : State) : Host.Outcome State Fault Refusal :=
  onB (fun h b => let b := openIr h 0x12 b; if h.fuse.open' then { b with clk := { b.clk with spreadOff := spreadOff } } else b) s

/-- The fuse words `FUSE_READ` shifts out (R96, R103). -/
def fuseBytes (f : Fuses) : Bytes :=
  ((List.range 16).flatMap fun k => leBytes 8 (f.record k).toNat) ++ ((List.range 8).flatMap fun j => leBytes 48 (f.certSlot j).toNat)
    ++ leBytes 8 f.serial.toNat ++ leBytes 8 f.floor.toNat

/-- JTAG_FUSE_READ (R103). -/
def execJtagFuseRead (s : State) : Host.Outcome State Fault Refusal :=
  onB (fun h b => let b := openIr h 0x13 b; if h.fuse.open' then emit (.jtag (fuseBytes h.fuse)) b else b) s

end Sys2Proof.Machine
end

