-- ==== Sys2Proof/Machine/JigParse.lean ====
section
/-! DEFINITION. The structure image as bytes (R53 to R74, R216, R220, R230): its records, the checks of R76 steps 1 to 5, 7 and 8, and the image it stands for. -/

namespace Sys2Proof.Machine

/-- A rejection: reason, record type, record offset (R76, R83). -/
structure Rej where
  reason : Nat
  type   : Nat
  off    : Nat
  deriving DecidableEq, Repr

/-- A record of an image (R53). -/
structure JRec where
  type  : Nat
  off   : Nat
  flags : Nat
  len   : Nat
  body  : Bytes
  deriving DecidableEq, Repr

/-- The records in image order up to `SIGNATURE`, the end, or a record that runs past the end. DESIGN CHOICE (log entry 86): what follows the first `SIGNATURE` is no record, so it breaks the length rule (0x0005), not the order. -/
def recordsFrom (img : Bytes) : Nat → Nat → List JRec
  | 0, _ => []
  | fuel + 1, pos =>
    if img.length < pos + 8 then []
    else
      let r : JRec := { type := fieldAt img pos 2, off := pos, len := fieldAt img (pos + 2) 4, flags := fieldAt img (pos + 6) 2,
                        body := bytesAt img (pos + 8) (fieldAt img (pos + 2) 4) }
      if r.type = 0xFFFF ∨ img.length < pos + 8 + r.len then [r] else r :: recordsFrom img fuel (pos + 8 + r.len)

def records (img : Bytes) : List JRec := recordsFrom img (img.length / 8 + 1) 0

/-- Records of one type. -/
def ofType (rs : List JRec) (t : Nat) : List JRec := rs.filter fun r => decide (r.type = t)
def firstOf (rs : List JRec) (t : Nat) : Option JRec := rs.find? fun r => decide (r.type = t)
def bodyOf (rs : List JRec) (t : Nat) : Bytes := match firstOf rs t with | some r => r.body | none => []
def offOf (rs : List JRec) (t : Nat) : Nat := match firstOf rs t with | some r => r.off | none => 0

/-- A bit of the byte at `off`. -/
def bitAt (b : Bytes) (off i : Nat) : Bool := decide (bitsOf (fieldAt b off 1) i 1 = 1)
def zeroAt (b : Bytes) (off len : Nat) : Bool := decide (fieldAt b off len = 0)
def pad8 (n : Nat) : Nat := (n + 7) / 8 * 8

/-- Known types (R56). -/
def typeKnown (t : Nat) : Bool := [1, 2, 3, 4, 5, 6, 0x10, 0x11, 0x20, 0x21, 0x30, 0x40, 0x41, 0x42, 0x50, 0x51, 0xFFFF].contains t

/-- Most records of a type (R56). -/
def typeMax (t : Nat) : Nat := match t with | 6 => 16384 | 0x20 => 16 | 0x21 => 1024 | 0x40 | 0x41 | 0x42 => 256 | _ => 1

/-- Elements of a body: `n` pieces of `size` bytes from `off`. -/
def pieces (b : Bytes) (off size n : Nat) : List Bytes := (List.range n).map fun i => bytesAt b (off + size * i) size

/-- Length and reserved fields of a body of a known type (R53, R57 to R74, R220, R230). DESIGN CHOICE (log entry 86): the bits 25 to 31 of `KEEP_AWAKE`, which R65 gives no meaning, are reserved and zero. -/
def shapeOk (t : Nat) (b : Bytes) : Bool :=
  match t with
  | 1 => b.length = 128 && decide (fieldAt b 6 2 / 32 = 0) && zeroAt b 14 2
  | 2 => b.length = 4256
  | 3 => b.length = 1616
  | 4 => b.length = 32 && decide (fieldAt b 0 4 / 2 = 0) && zeroAt b 20 12
  | 5 => b.length = 8 && zeroAt b 6 2
  | 6 => b.length = 104 && decide (fieldAt b 0 1 / 4 = 0) && zeroAt b 4 4
  | 0x10 => b.length = 32 && decide (fieldAt b 25 4 < 2 ^ 25) && zeroAt b 29 3
  | 0x11 => b.length = 104 && zeroAt b 1 3 && ((List.range 24).all fun i => zeroAt b (7 + 4 * i) 1) && decide (fieldAt b 100 4 < 16)
  | 0x20 => b.length = 32 && decide (fieldAt b 1 3 / 4 = 0) && zeroAt b 26 6
  | 0x21 => b.length = 32 && decide (fieldAt b 8 2 / 4 = 0) && zeroAt b 12 4
  | 0x30 => decide (32 ≤ b.length) && b.length = 32 + 16 * fieldAt b 24 4 && decide (fieldAt b 16 2 < 1024 ∧ fieldAt b 18 2 < 1024 ∧ fieldAt b 20 2 < 1024)
      && zeroAt b 22 2 && zeroAt b 28 4 && ((pieces b 32 16 (fieldAt b 24 4)).all fun e => decide (fieldAt e 6 1 < 8) && zeroAt e 7 1 && zeroAt e 10 6)
  | 0x40 => b.length = 32 && decide (fieldAt b 10 1 < 2) && decide (fieldAt b 14 2 < 2) && zeroAt b 16 16
  | 0x41 => decide (16 ≤ b.length) && decide (fieldAt b 9 1 < 2) && zeroAt b 11 5
      && (if bitAt b 9 0 then b.length = 16 + pad8 (fieldAt b 4 4) && zeroAt b (16 + fieldAt b 4 4) 8 else b.length = 16)
  | 0x42 => decide (32 ≤ b.length) && zeroAt b 6 2 && zeroAt b 28 4 && b.length = 32 + 8 * fieldAt b 5 1 + 8 * fieldAt b 12 4
      && ((pieces b 32 8 (fieldAt b 5 1)).all fun e => zeroAt e 3 1 && zeroAt e 6 2)
  | 0x50 => b.length = 16 && decide (fieldAt b 0 1 < 8) && zeroAt b 4 12
  | 0x51 => b.length = 8 && zeroAt b 4 4
  | 0xFFFF => b.length = 4728 && zeroAt b 4723 5
  | _ => true

/-- The key of a record within its type (R56). -/
def recKey (r : JRec) : List Nat :=
  match r.type with
  | 6 => [fieldAt r.body 0 1, fieldAt r.body 1 1, fieldAt r.body 2 2, fieldAt r.body 8 48]
  | 0x20 => [fieldAt r.body 0 1]
  | 0x21 | 0x40 | 0x41 | 0x42 => [fieldAt r.body 0 4]
  | _ => []

def keyLt : List Nat → List Nat → Bool
  | x :: xs, y :: ys => decide (x < y) || (decide (x = y) && keyLt xs ys)
  | _, _ => false

/-- What a record breaks of step 1 (R53 to R56), the lowest reason (DESIGN CHOICE, log entry 86: an ignorable record of type 0x0000, in ascending order before `IMAGE_HEADER`, breaks nothing): the record before it, how many of its type stand before it, the image's length. -/
def step1Reason (imgLen : Nat) (prev : Option JRec) (before : Nat) (r : JRec) : Option Nat :=
  if r.flags / 4 ≠ 0 ∨ r.len % 8 ≠ 0 ∨ imgLen < r.off + 8 + r.len ∨ (typeKnown r.type = true ∧ shapeOk r.type r.body = false) then some 0x0001
  else if typeKnown r.type = false ∧ r.flags % 2 = 0 then some 0x0002
  else if typeKnown r.type = true ∧ typeMax r.type ≤ before then some 0x0003
  else match prev with
    | none => none
    | some p =>
      if r.type < p.type ∨ (r.type = p.type ∧ typeKnown r.type = true ∧ keyLt (recKey p) (recKey r) = false) then some 0x0004 else none

/-- The first record that breaks step 1. -/
def step1From (imgLen : Nat) : List JRec → Option JRec → List JRec → Option Rej
  | _, _, [] => none
  | seen, prev, r :: t =>
    match step1Reason imgLen prev (ofType seen r.type).length r with
    | some c => some { reason := c, type := r.type, off := r.off }
    | none => step1From imgLen (r :: seen) (some r) t

/-- R76 step 1. DESIGN CHOICE (log entry 86): a required record that is missing is reported after every record present, with its type and `OFFSET` 0. -/
def step1 (img : Bytes) : Option Rej :=
  let rs := records img
  let sizeBad := decide (16777216 < img.length) || (match rs.getLast? with
    | some r => decide (r.off + 8 + r.len < img.length)
    | none => true)
  if sizeBad then some { reason := 0x0005, type := 0, off := 0 }
  else match step1From img.length [] none rs with
    | some e => some e
    | none => match [1, 2, 3, 4, 5, 0x10, 0xFFFF].find? fun t => (firstOf rs t).isNone with
      | some t => some { reason := 0x0003, type := t, off := 0 }
      | none => none

/-! ### The image -/

def bv (w : Nat) (b : Bytes) (off len : Nat) : BitVec w := BitVec.ofNat w (fieldAt b off len)

/-- A signed byte. -/
def sbyte (n : Nat) : Int := (BitVec.ofNat 8 n).toInt

def allowOf (b : Bytes) : AllowEntry :=
  { kind := bv 2 b 0 1, measIndex := bv 8 b 1 1, index := bv 16 b 2 2, measurement := bv 384 b 8 48, identity := bv 384 b 56 48 }

def windowOf (b : Bytes) : KeyWindow :=
  { window := fieldAt b 0 1, kind := bv 2 b 1 1, regionId := bv 32 b 4 4, base := fieldAt b 8 8, size := fieldAt b 16 8, generation := bv 16 b 24 2 }

def regionOf (b : Bytes) : RegionRec :=
  { regionId := bv 32 b 0 4, keeper := bv 16 b 4 2, mirror := bv 16 b 6 2, kind := bv 2 b 8 1, node := bv 16 b 10 2, offset := fieldAt b 16 8, size := fieldAt b 24 8 }

def entryOf (e : Bytes) : SchedEntry :=
  { slot := fieldAt e 0 4, port := fieldAt e 4 1, stream := bv 8 e 5 1, egress := !bitAt e 6 0, cls := BitVec.ofNat 2 (bitsOf (fieldAt e 6 1) 1 2), peer := bv 16 e 8 2 }

def scheduleOf (b : Bytes) : Schedule :=
  { slotTicks := fieldAt b 0 4, cycleSlots := fieldAt b 4 4, cycleZero := fieldAt b 8 8, extEgress := fieldAt b 16 2, extIngress := fieldAt b 18 2,
    extRead := fieldAt b 20 2, entries := (pieces b 32 16 (fieldAt b 24 4)).map entryOf }

def groupOf (b : Bytes) : VGroupRec :=
  { groupId := bv 32 b 0 4, members := fieldAt b 4 4, position := fieldAt b 8 2, admitted := bitAt b 10 0, format := bv 8 b 11 1, switch := bv 16 b 12 2,
    stochastic := bitAt b 14 0 }

def scaleOf (b : Bytes) : ScaleRec :=
  { groupId := bv 32 b 0 4, blocks := fieldAt b 4 4, init := sbyte (fieldAt b 8 1), target := fieldAt b 10 1,
    exps := if bitAt b 9 0 then some ((List.range (fieldAt b 4 4)).map fun i => sbyte (fieldAt b (16 + i) 1)) else none }

def treeOf (b : Bytes) : TreeRec :=
  let nl := fieldAt b 5 1
  { groupId := bv 32 b 0 4, op := fieldAt b 4 1, stepCycles := fieldAt b 8 4, zeroCycle := fieldAt b 16 8, filterArg := bv 32 b 24 4,
    lanes := (pieces b 32 8 nl).map fun e => { port := fieldAt e 0 1, stream := bv 8 e 1 1, frames := fieldAt e 2 1, upNode := bv 16 e 4 2 },
    runs := (pieces b (32 + 8 * nl) 8 (fieldAt b 12 4)).map fun e => { firstPos := fieldAt e 0 2, firstMember := fieldAt e 2 2, count := fieldAt e 4 4 } }

/-- The defaults of an absent `RESET_POLICY` (R73). -/
def policyDefault : ResetPolicy := { compatEn := false, escalateMax := 3, compatCount := 3, compatWindow := 600 }

def policyOf (b : Bytes) : ResetPolicy :=
  { compatEn := bitAt b 0 0, escalateMax := bitsOf (fieldAt b 0 1) 1 2, compatCount := fieldAt b 1 1, compatWindow := fieldAt b 2 2 }

def telemetryOf (b : Bytes) : TelemetryRec :=
  { powerStep := fieldAt b 0 1, powerAvg := fieldAt b 1 1, tempStep := fieldAt b 2 1, throttlePeriod := fieldAt b 3 1 }

/-- The records of the common digest, headers included (R64). -/
def commonBytes (img : Bytes) (rs : List JRec) : Bytes :=
  (rs.filter fun r => [2, 4, 5, 6].contains r.type).flatMap fun r => bytesAt img r.off (8 + r.len)

/-- The image a well-framed string stands for. -/
def jigOfImage (img : Bytes) : Jig :=
  let rs := records img
  let h := bodyOf rs 1
  let d := bodyOf rs 4
  let a := bodyOf rs 5
  let sh := bodyOf rs 0x10
  { header := h, cfg := bitsOf (fieldAt h 6 1) 0 4, lc := bitAt h 6 4, domainId := bv 32 h 8 4, memberIndex := bv 16 h 12 2, serial := bv 64 h 16 8,
    activateTick := bv 64 h 24 8, ownerDigest := bv 384 h 32 48, deviceDigest := bv 384 h 80 48, ownerKeys := bodyOf rs 2, dumpBody := bodyOf rs 3,
    imageDigest := Config.sha384 (img.take (offOf rs 0xFFFF)), commonDigest := Config.sha384 (commonBytes img rs),
    addrNode := bitAt d 0 0, memberCount := fieldAt d 4 4, epochZero := fieldAt d 8 8, rekeyPeriod := fieldAt d 16 4,
    anchors := [bv 16 a 0 2, bv 16 a 2 2, bv 16 a 4 2],
    allow := (ofType rs 6).map fun r => allowOf r.body, shares := (List.range 25).map fun i => fieldAt sh i 1, keepAwake := bv 32 sh 25 4,
    placement := match firstOf rs 0x11 with
      | some r => if bitAt r.body 0 0 then some ((List.range 25).map fun i => bv 32 r.body (4 + 4 * i) 4) else none
      | none => none,
    windows := (ofType rs 0x20).map fun r => windowOf r.body, regions := (ofType rs 0x21).map fun r => regionOf r.body,
    schedule := (firstOf rs 0x30).map fun r => scheduleOf r.body, groups := (ofType rs 0x40).map fun r => groupOf r.body,
    scales := (ofType rs 0x41).map fun r => scaleOf r.body, trees := (ofType rs 0x42).map fun r => treeOf r.body,
    policy := match firstOf rs 0x50 with | some r => policyOf r.body | none => policyDefault,
    telemetry := match firstOf rs 0x51 with | some r => telemetryOf r.body | none => TelemetryRec.finest }

/-! ### Step 8: field rules -/

/-- Pages of a region and the size of its footprint (R246, R252). -/
def pagesOf (size : Nat) : Nat := size / 4096
def ceilDiv (a b : Nat) : Nat := (a + b - 1) / b

/-- L of R252: the least L ≥ 1 with 8^L ≥ P. -/
def levelsFrom (p : Nat) : Nat → Nat → Nat
  | 0, l => l
  | fuel + 1, l => if p ≤ 8 ^ l then l else levelsFrom p fuel (l + 1)
def treeLevels (p : Nat) : Nat := levelsFrom p 20 1
def nodesAt (p k : Nat) : Nat := ceilDiv p (8 ^ k)
def footprintOf (p : Nat) : Nat :=
  4608 * p + 64 * ((List.range (treeLevels p - 1)).foldl (fun a k => a + nodesAt p (k + 1)) 0)

/-- A broken rule: offset of the record charged, reason, record type. -/
abbrev Broken := Nat × Nat × Nat

def need (c : Bool) (off reason type : Nat) : List Broken := if c then [] else [(off, reason, type)]

/-- The report of step 8: the first record in image order, its lowest reason (R76). -/
def worst : List Broken → Option Broken
  | [] => none
  | x :: t => match worst t with
    | none => some x
    | some y => if y.1 < x.1 ∨ (y.1 = x.1 ∧ y.2.1 < x.2.1) then some y else some x

/-- R61 to R63. DESIGN CHOICE (log entry 86): a role's index at or above `MEMBER_COUNT` is an accelerator member's index, and breaks no rule. -/
def commonRules (rs : List JRec) (j : Jig) : List Broken :=
  need (decide (3 ≤ j.memberCount ∧ j.memberCount ≤ 65536 ∧ 100000000 ≤ j.rekeyPeriod)) (offOf rs 4) 0x21 4
    ++ need (decide j.anchors.Nodup) (offOf rs 5) 0x20 5
    ++ (ofType rs 6).flatMap fun r =>
        let e := allowOf r.body
        need (decide (e.kind ≠ 3 ∧ e.measIndex ≠ 0 ∧ e.measIndex ≠ 0xFF)
          && (if e.kind = 0 then decide (e.index = 0 ∧ e.identity = 0) else decide (e.index.toNat ≤ if e.kind = 1 then 4095 else 8191))
          && ((ofType rs 6).all fun q =>
                let f := allowOf q.body
                decide (r.off ≤ q.off) || decide (f.kind ≠ e.kind) || decide (e.kind = 0) || decide (f.index ≠ e.index) || decide (f.identity = e.identity)))
          r.off 0x21 6

/-- Set bits of a core mask below the island's core count. -/
def maskCores (c : Cfg) (i : Island) (m : BitVec 32) : Nat := popCount (m.setWidth 64) (coresOf c i)

/-- R65 to R67, R180. -/
def shareRules (c : Cfg) (rs : List JRec) (j : Jig) : List Broken :=
  need (((List.range 25).all fun n => decide (j.shares.getD n 0 ≤ 64) && (islandPresent c (shareIsland n) || decide (j.shares.getD n 0 = 0)))
      && decide (j.share .hbe ≠ 0) && ((List.range 8).any fun n => decide (j.shares.getD (16 + n) 0 ≠ 0))) (offOf rs 0x10) 0x21 0x10
    ++ (match firstOf rs 0x11 with
      | none => []
      | some r =>
        need (decide (fieldAt r.body 0 1 ≤ 1)
          && (match j.placement with
            | none => true
            | some ms => (List.range 25).all fun n =>
                let i := shareIsland n
                decide (j.share i = 0) || !islandPresent c i ||
                  (decide (ms.getD n 0 ≠ 0) && decide (ceilDiv (unitCells c i * j.share i) (columnsOf c i) ≤ maskCores c i (ms.getD n 0)))))
          r.off 0x21 0x11)

/-- R68, R69, R246, R252, R279, R306, R16. -/
def windowRules (rs : List JRec) (j : Jig) : List Broken :=
  ((ofType rs 0x20).flatMap fun r =>
    let w := windowOf r.body
    let reg := (ofType rs 0x21).find? fun q => decide ((regionOf q.body).regionId = w.regionId)
    need (decide (w.window ≤ 15 ∧ w.kind ≠ 3 ∧ w.regionId ≠ 0 ∧ w.base % 2097152 = 0 ∧ w.size ≠ 0 ∧ w.size % 2097152 = 0 ∧ w.base + w.size ≤ 2 ^ 57 ∧ (w.kind = 0 → pagesOf w.size ≤ 2 ^ 35))) r.off 0x21 0x20
      ++ (match reg with
        | none => need (decide (w.kind = 0)) r.off 0x21 0x20
        | some q => need (decide (w.kind ≠ 0 ∧ w.size ≤ (regionOf q.body).size)) q.off 0x21 0x21)
      ++ need ((ofType rs 0x20).all fun q =>
          let v := windowOf q.body
          decide (r.off ≤ q.off) || decide (v.base + v.size ≤ w.base) || decide (w.base + w.size ≤ v.base)) r.off 0x23 0x20)
  ++ (ofType rs 0x21).flatMap fun r =>
    let g := regionOf r.body
    let p := pagesOf g.size
    need (decide (g.keeper ≠ g.mirror)) r.off 0x20 0x21
      ++ need (decide (g.regionId ≠ 0 ∧ (g.kind = 1 ∨ g.kind = 2) ∧ g.size ≠ 0 ∧ g.size % 4096 = 0 ∧ p ≤ 2 ^ 35 ∧ g.offset < 2 ^ 48)
          && (decide (g.node = 0) || (decide (g.kind = 2) && j.addrNode))
          && (decide (g.kind ≠ 2) || decide (g.offset + footprintOf p ≤ if j.addrNode then 2 ^ 48 else 0x180000000000)))
        r.off 0x21 0x21

/-- The port's LE. -/
def leOfPort (k : Nat) : Island := .le (Fin.ofNat 16 (k / 4))

/-- R66, R70, R178, R199, R283. -/
def scheduleRules (c : Cfg) (rs : List JRec) (j : Jig) : List Broken :=
  match j.schedule with
  | none => []
  | some sc =>
    let key (e : SchedEntry) : List Nat := [e.slot, e.port, if e.egress then 0 else 1]
    need (decide (64 ≤ sc.slotTicks ∧ 1 ≤ sc.cycleSlots ∧ sc.cycleSlots ≤ 2 ^ 24 ∧ 1 ≤ sc.entries.length ∧ sc.entries.length ≤ 65536)
      && (sc.entries.all fun e => decide (e.slot < sc.cycleSlots ∧ e.port < portCount c ∧ (e.cls = 1 ∨ e.cls = 2) ∧ e.stream.toNat < 0xFE)
          && decide (j.share (leOfPort e.port) ≠ 0) && decide (leastShare c (leOfPort e.port) ≤ j.share (leOfPort e.port)))
      && ((sc.entries.zip (sc.entries.drop 1)).all fun p => keyLt (key p.1) (key p.2))
      && (sc.entries.all fun e => sc.entries.all fun f =>
            !e.egress || !f.egress || decide (e.peer ≠ f.peer) || decide (e.stream ≠ f.stream) || decide (e.port = f.port))
      && ((List.range (meCount c)).all fun n =>
            let i := shareIsland (16 + n)
            decide (j.share i = 0) || decide (leastShare c i ≤ j.share i)))
      (offOf rs 0x30) 0x21 0x30

/-- The lane of a group's tree that carries a port and stream. -/
def laneAt (j : Jig) (port : Nat) (stream : Byte) : Option (VGroupRec × TreeRec × LaneRec) :=
  j.groups.findSome? fun g => (j.trees.find? fun t => decide (t.groupId = g.groupId)).bind fun t =>
    (t.lanes.find? fun l => decide (l.port = port) && decide (l.stream = stream)).map fun l => (g, t, l)

/-- Frames an entry counts for: a class 2 entry its lane's `FRAMES`, a class 1 entry one (R232, R233). -/
def entryFrames (j : Jig) (e : SchedEntry) : Nat :=
  if e.cls = (1 : BitVec 2) then 1 else match laneAt j e.port e.stream with | some (_, _, l) => l.frames | none => 0

/-- `CYCLE_SLOTS`, window length ⌈(96 + ext)/SLOT_TICKS⌉ + 1 and the frames of the entries (slot, frames): any window holds at most 64 (R232). -/
def slotFramesOk (cyc win : Nat) (es : List (Nat × Nat)) : Bool :=
  es.all fun a => decide (es.foldl (fun n e =>
    let d := (e.1 + cyc - a.1 % cyc) % cyc
    if d < win then n + e.2 * ((win - d - 1) / cyc + 1) else n) 0 ≤ 64)

def pinWindow (sc : Schedule) : Nat := ceilDiv (96 + sc.extEgress) sc.slotTicks + 1

/-- Egress (slot, frames) of a schedule on a port. -/
def egressFrames (j : Jig) (sc : Schedule) (port : Nat) : List (Nat × Nat) :=
  (sc.entries.filter fun e => e.egress && decide (e.port = port)).map fun e => (e.slot, entryFrames j e)

/-- The demand rule of R233 on the LE `n`. -/
def demandOk (c : Cfg) (j : Jig) (sc : Schedule) (n : Nat) : Bool :=
  let i := shareIsland n
  let es : List SchedEntry := sc.entries.filter fun e => decide (e.port / 4 = n)
  let one := (es.filter fun (e : SchedEntry) => decide (e.cls = (1 : BitVec 2))).length
  let per := j.groups.map fun g =>
    let mine : List SchedEntry := es.filter fun (e : SchedEntry) => decide (e.cls = (2 : BitVec 2)) && (match laneAt j e.port e.stream with | some (q, _, _) => decide (q.groupId = g.groupId) | none => false)
    let tot (eg : Bool) : Nat := (mine.filter fun (e : SchedEntry) => e.egress == eg).foldl (fun a (e : SchedEntry) => a + entryFrames j e) 0
    (g.members, tot true, tot false)
  let ks := 9 * one + per.foldl (fun a p => a + 14 * p.2.1 + 7 * ceilDiv p.2.1 (max p.1 1) + 7 * p.2.2) 0
  let pr := per.foldl (fun a p => a + 192 * (p.2.1 + p.2.2)) 0
  let cyc := sc.slotTicks * sc.cycleSlots
  decide (ks ≤ cyc * slowRate c * coresOf c i * j.share i / 64000) && decide (pr ≤ cyc * slowRate c * (multipliers c * j.share i / 64) / 1000)

/-- Runs of a tree cover positions 0 to n − 1 once, and the run over `POSITION` names this member (R230). -/
def runsOk (j : Jig) (g : VGroupRec) : Nat → List RunRec → Bool
  | next, [] => decide (next = g.members)
  | next, r :: t =>
    decide (r.firstPos = next) && decide (1 ≤ r.count)
      && (!decide (r.firstPos ≤ g.position ∧ g.position < r.firstPos + r.count) || decide (r.firstMember + (g.position - r.firstPos) = j.memberIndex.toNat))
      && runsOk j g (next + r.count) t

def formatOk (n : Nat) : Bool := decide (1 ≤ n ∧ n ≤ 8)

/-- R72, R216, R220, R230 to R233. -/
def veneerRules (c : Cfg) (rs : List JRec) (j : Jig) : List Broken :=
  let offG (t : Nat) (id : BitVec 32) : Nat := match (ofType rs t).find? fun r => decide (fieldAt r.body 0 4 = id.toNat) with | some r => r.off | none => 0
  let hasG (id : BitVec 32) : Bool := j.groups.any fun g => decide (g.groupId = id)
  let lanes := j.trees.flatMap fun t => t.lanes.map fun l => (t.groupId, l)
  (j.scales.flatMap fun x => need (hasG x.groupId) (offG 0x41 x.groupId) 0x21 0x41)
  ++ (j.trees.flatMap fun x => need (hasG x.groupId) (offG 0x42 x.groupId) 0x21 0x42)
  ++ (j.groups.flatMap fun g =>
    let fi := g.format.toNat % 16
    let fo := g.format.toNat / 16
    let off := offG 0x40 g.groupId
    let sc := j.scales.find? fun x => decide (x.groupId = g.groupId)
    let tr := j.trees.find? fun x => decide (x.groupId = g.groupId)
    need (decide (g.groupId ≠ 0 ∧ 2 ≤ g.members ∧ g.members ≤ 65536 ∧ g.position < g.members) && formatOk fi && formatOk fo && (!g.admitted || decide (fi = fo))
        && (if g.admitted then j.allow.any fun a => decide (a.kind = 2 ∧ a.index = g.switch) else decide (g.switch = 0))
        && tr.isSome && (g.admitted || sc.isSome)) off 0x21 0x40
      ++ (match sc with
        | none => []
        | some x => need (!g.admitted && decide (1 ≤ x.blocks ∧ x.blocks ≤ 2 ^ 26 ∧ 1 ≤ x.target ∧ x.target ≤ 29)) (offG 0x41 g.groupId) 0x21 0x41)
      ++ (match tr with
        | none => []
        | some t =>
          let frames := match sc with | some x => ceilDiv x.blocks 3 | none => 0
          let first := match t.runs with | r :: _ => r.firstMember | [] => 0
          need (decide (t.op ≤ 2 ∧ (t.op = 0 ∨ g.admitted = true) ∧ 1 ≤ t.lanes.length ∧ t.lanes.length ≤ 64 ∧ 1 ≤ t.stepCycles ∧ t.stepCycles ≤ 2 ^ 24
                ∧ 1 ≤ t.runs.length ∧ t.runs.length ≤ 65536 ∧ (t.op = 2 ∨ t.filterArg = 0)) && runsOk j g 0 t.runs
              && (t.lanes.all fun l =>
                    let i := leOfPort l.port
                    let mine : List SchedEntry := match j.schedule with
                      | none => []
                      | some s => s.entries.filter fun (e : SchedEntry) => decide (e.cls = (2 : BitVec 2) ∧ e.port = l.port ∧ e.stream = l.stream)
                    let eg := (mine.filter fun e => e.egress).length
                    let slotT := match j.schedule with | some s => s.slotTicks | none => 0
                    decide (l.port < portCount c ∧ 1 ≤ l.frames ∧ l.frames ≤ 32)
                      && decide ((lanes.filter fun x => decide (x.2.port = l.port) && decide (x.2.stream = l.stream)).length = 1)
                      && !(match j.schedule with | none => false | some s => s.entries.any fun e => decide (e.cls = 1 ∧ e.port = l.port ∧ e.stream = l.stream))
                      && decide (1 ≤ eg) && decide (eg < mine.length) && decide (l.frames * 24 ≤ slotT * 10)
                      && decide (l.frames ≤ unitCells c i * j.share i / columnsOf c i)
                      && decide (ceilDiv frames t.lanes.length ≤ eg * t.stepCycles * l.frames)
                      && (mine.all fun e => decide (e.peer.toNat = first))))
            (offG 0x42 g.groupId) 0x21 0x42))
  ++ (match j.schedule with
    | none => []
    | some s =>
      need ((s.entries.all fun e => decide (e.cls ≠ 2) || (laneAt j e.port e.stream).isSome)) (offOf rs 0x30) 0x21 0x30
        ++ need (((List.range (portCount c)).all fun k => slotFramesOk s.cycleSlots (pinWindow s) (egressFrames j s k))
            && ((List.range (leCount c)).all fun n => demandOk c j s n))
          (match (ofType rs 0x42).getLast? with | some r => r.off | none => offOf rs 0x30)
          0x21 (if (ofType rs 0x42).isEmpty then 0x30 else 0x42))

/-- R73, R74. -/
def policyRules (rs : List JRec) (j : Jig) : List Broken :=
  need (decide (1 ≤ j.policy.compatCount ∧ 1 ≤ j.policy.compatWindow)) (offOf rs 0x50) 0x21 0x50
    ++ need (decide (1 ≤ j.telemetry.powerStep ∧ j.telemetry.powerStep ≤ 20 ∧ 1 ≤ j.telemetry.powerAvg ∧ j.telemetry.powerAvg ≤ 100
        ∧ (j.telemetry.tempStep = 2 ∨ j.telemetry.tempStep = 4 ∨ j.telemetry.tempStep = 8) ∧ 1 ≤ j.telemetry.throttlePeriod ∧ j.telemetry.throttlePeriod ≤ 60))
      (offOf rs 0x51) 0x21 0x51

/-- R76 step 8; `ACTIVATE_TICK` is 0 in a first load (R57). -/
def step8 (c : Cfg) (replace : Bool) (img : Bytes) : Option Rej :=
  let rs := records img
  let j := jigOfImage img
  match worst (need (replace || decide (j.activateTick = 0)) (offOf rs 1) 0x21 1 ++ commonRules rs j ++ shareRules c rs j ++ windowRules rs j ++ scheduleRules c rs j ++ veneerRules c rs j ++ policyRules rs j) with
  | some (off, reason, type) => some { reason := reason, type := type, off := off }
  | none => none

/-- R76 steps 2 to 5: magic and format, owner keys, signatures, configuration, lifecycle, device. -/
def steps2to5 (h : Hard) (b : Block) (img : Bytes) : Option Rej :=
  let rs := records img
  let j := jigOfImage img
  let sig := bodyOf rs 0xFFFF
  let d := leBytes 48 j.imageDigest.toNat
  if fieldAt j.header 0 4 ≠ 0x3147494A ∨ fieldAt j.header 4 2 ≠ 1 then some { reason := 0x10, type := 1, off := offOf rs 1 }
  else if Config.sha384 (j.ownerKeys.take 2688) ≠ j.ownerDigest then some { reason := 0x11, type := 2, off := offOf rs 2 }
  else if Config.ecdsaVerify (bytesAt j.ownerKeys 2592 96) d (bytesAt sig 0 96) = false then some { reason := 0x12, type := 0xFFFF, off := offOf rs 0xFFFF }
  else if Config.mldsaVerify (j.ownerKeys.take 2592) d "swiwyn-jig" (bytesAt sig 96 4627) = false then some { reason := 0x13, type := 0xFFFF, off := offOf rs 0xFFFF }
  else if j.cfg ≠ cfgCode h.cfg then some { reason := 0x14, type := 1, off := offOf rs 1 }
  else if j.lc ≠ lcClosed b then some { reason := 0x15, type := 1, off := offOf rs 1 }
  else if j.deviceDigest ≠ Config.sha384 b.lc.cert then some { reason := 0x16, type := 1, off := offOf rs 1 }
  else none

/-- The dump secret an image carries, opened under the chip's identity (R59): none when it does not unwrap. -/
def dumpSecret (h : Hard) (b : Block) (img : Bytes) : Option Key :=
  let j := jigOfImage img
  let w := kdf (Config.mlkemDecap (idMlkem (rootPort h b.lc.rootSel)) (j.dumpBody.take 1568)) [] "SWY-DUMP-WRAP"
  (gcmOpen w (leBytes 12 0) (bytesAt j.header 8 8) (bytesAt j.dumpBody 1568 32) (tagOf (bytesAt j.dumpBody 1600 16))).map fun x => BitVec.ofNat 256 (leVal x)

/-- R76 steps 6 and 7, the latter for partition `p` of the block. -/
def steps6to7 (h : Hard) (b : Block) (p : Part) (replace : Bool) (img : Bytes) : Option Rej :=
  let rs := records img
  let j := jigOfImage img
  if (dumpSecret h b img).isNone then some { reason := 0x17, type := 3, off := offOf rs 3 }
  else if j.domainId = 0 ∨ j.domainId = 0xFFFFFFFF then some { reason := 0x18, type := 1, off := offOf rs 1 }
  else if !replace && (allParts.any fun q => decide (q ≠ p) && (match b.jigOf q with
      | some k => decide (k.domainId = j.domainId ∧ k.ownerDigest = j.ownerDigest)
      | none => false)) then some { reason := 0x19, type := 1, off := offOf rs 1 }
  else none

end Sys2Proof.Machine
end

