-- ==== Sys2Proof/Machine/Fabric.lean ====
section
/-! DEFINITION. The sealing fabric (R166 to R186): the grids that share the cipher cores, the request entries of each island, compare and recomputation, the periodic tests, and the DRBG's tests. -/

namespace Sys2Proof.Machine

/-! ### Grids (R176, R177, R180, R181) -/

/-- No partition owns the cell. -/
def noOwner : Nat := 15

/-- Owner of cell (core, column) of a grid with `w` columns. -/
def cellOwner (cells : List Nat) (w core column : Nat) : Nat := cells.getD (core * w + column) noOwner

/-- Cells of partition `p` in each column of a grid (R177). -/
def columnCounts (cells : List Nat) (n w p : Nat) : List Nat :=
  (List.range w).map fun c => ((List.range n).filter fun k => decide (cellOwner cells w k c = p)).length

/-- The column a partition's next cell goes to: of those with a free core, where it holds the fewest cells, then the one with the least load, then the lowest. -/
def nextColumn (n : Nat) (load mine : List Nat) : Option Nat :=
  let rank (c : Nat) : Nat := mine.getD c 0 * 4096 + load.getD c 0 + mine.getD c 0
  ((List.range load.length).filter fun c => decide (load.getD c 0 + mine.getD c 0 < n)).foldl
    (fun best c => match best with | none => some c | some x => if rank c < rank x then some c else best) none

/-- Gives `k` more cells, one at a time. -/
def addCells (n : Nat) (load : List Nat) : Nat → List Nat → List Nat
  | 0, mine => mine
  | k + 1, mine => match nextColumn n load mine with
    | none => mine
    | some c => addCells n load k (mine.set c (mine.getD c 0 + 1))

/-- A partition's cells in each column (R177): ⌊x/W⌋ everywhere and one more where the load is least, so far as the columns have free cores (log entry 13). -/
def spreadCells (n w x : Nat) (load : List Nat) : List Nat :=
  if load.all fun l => decide (l + x / w ≤ n) then addCells n load (x % w) (List.replicate w (x / w))
  else addCells n load x (List.replicate w 0)

/-- Columns of all partitions, those of `kept` as they were: (partition, cells in each column). -/
def spreadAll (n w : Nat) (kept : List (Nat × List Nat)) : List (Nat × Nat) → List Nat → List (Nat × List Nat)
  | [], _ => []
  | (p, x) :: t, load =>
    match kept.find? fun k => decide (k.1 = p) with
    | some k => (p, k.2) :: spreadAll n w kept t load
    | none =>
      let s := spreadCells n w x load
      (p, s) :: spreadAll n w kept t (List.zipWith (· + ·) load s)

def columnLoads (w : Nat) (ps : List (Nat × List Nat)) : List Nat := (List.range w).map fun c => (ps.map fun p => p.2.getD c 0).sum

/-- Whether demands (cells, mask) can all be placed on the free cores: every subset of them finds cores enough (R180). -/
def masksFit (free : List Nat) (ds : List (Nat × BitVec 32)) : Bool :=
  ds.sublists.all fun s => decide ((s.map fun d => d.1).sum ≤ (free.filter fun k => s.any fun d => d.2.getLsbD k).length)

/-- Places the masked partitions' cells of one column, in ascending partition number, each on the lowest core its mask allows that leaves room for the rest: (core, partition). -/
def placeMasked : Nat → List Nat → List (Nat × Nat × BitVec 32) → List (Nat × Nat)
  | 0, _, _ => []
  | fuel + 1, free, ds =>
    match ds with
    | [] => []
    | (p, n, m) :: t =>
      if n = 0 then placeMasked fuel free t
      else
        let rest := (n - 1, m) :: t.map fun d => (d.2.1, d.2.2)
        match (free.filter fun k => m.getLsbD k).find? fun k => masksFit (free.filter (· ≠ k)) rest with
        | none => placeMasked fuel free t
        | some k => (k, p) :: placeMasked fuel (free.filter (· ≠ k)) ((p, n - 1, m) :: t)

/-- Gives the free cores in ascending order to the partitions in ascending number. -/
def placeFree : List Nat → List Nat → List (Nat × Nat)
  | k :: ks, p :: ps => (k, p) :: placeFree ks ps
  | _, _ => []

/-- Owners of one column's cores (R177, R180). -/
def placeColumn (n : Nat) (ds : List (Nat × Nat × Option (BitVec 32))) : List Nat :=
  let masked := ds.filterMap fun d => d.2.2.map fun m => (d.1, d.2.1, m)
  let a := placeMasked (n + 9) (List.range n) masked
  let free := (List.range n).filter fun k => !a.any fun x => decide (x.1 = k)
  let b := placeFree free ((ds.filter fun d => d.2.2.isNone).flatMap fun d => List.replicate d.2.1 d.1)
  (List.range n).map fun k => match (a ++ b).find? fun x => decide (x.1 = k) with | some x => x.2 | none => noOwner

/-- The placement mask of a partition on an island, when its policy is 1. -/
def Jig.mask (j : Jig) (i : Island) : Option (BitVec 32) := j.placement.map fun ms => ms.getD (shareIndex i) 0

/-- Ascending by partition. -/
def byPart (js : List (Nat × Jig)) : List (Nat × Jig) := (List.range 8).filterMap fun p => js.find? fun j => decide (j.1 = p)

/-- What an island's grid is built from under the Jigs `js` (R176, R180), in ascending partition number. -/
def gridBasis (c : Cfg) (i : Island) (js : List (Nat × Jig)) : GridBasis :=
  ((byPart js).map fun j => (j.1, unitCells c i * j.2.share i, j.2.mask i)).filter fun x => decide (x.2.1 ≠ 0)

/-- Columns of all partitions on an island: one whose cells in the frame stand keeps its cells in each column, and the others are spread over what is left (R181, log entry 13). -/
def islandColumns (c : Cfg) (i : Island) (cur : List Nat) (bs : GridBasis) : List (Nat × List Nat) :=
  let n := coresOf c i
  let w := columnsOf c i
  let kept := (bs.map fun x => (x.1, columnCounts cur n w x.1)).filter fun k => decide (k.2.sum = (bs.find? fun x => decide (x.1 = k.1)).elim 0 fun x => x.2.1)
  spreadAll n w kept (bs.map fun x => (x.1, x.2.1)) (columnLoads w kept)

/-- The new grid of an island. -/
def islandGrid (c : Cfg) (i : Island) (cur : List Nat) (bs : GridBasis) : List Nat :=
  let n := coresOf c i
  let w := columnsOf c i
  let cols := islandColumns c i cur bs
  let maskOf (p : Nat) : Option (BitVec 32) := (bs.find? fun x => decide (x.1 = p)).bind fun x => x.2.2
  let placed := (List.range w).map fun col => placeColumn n (cols.map fun x => (x.1, x.2.getD col 0, maskOf x.1))
  (List.range (n * w)).map fun k => (placed.getD (k % w) []).getD (k / w) noOwner

/-- Every column of an island can be filled under all masks together (R180). -/
def islandFits (c : Cfg) (i : Island) (cur : List Nat) (bs : GridBasis) : Bool :=
  let cols := islandColumns c i cur bs
  (List.range (columnsOf c i)).all fun col =>
    masksFit (List.range (coresOf c i)) (cols.filterMap fun x => ((bs.find? fun y => decide (y.1 = x.1)).bind fun y => y.2.2).map fun m => (x.2.getD col 0, m))

/-- The loaded Jigs, by partition. -/
def Block.jigs (b : Block) : List (Nat × Jig) := b.parts.filterMap fun e => e.2.jig.map fun j => (e.1, j)

/-- The count-in-window mode as the loaded Jigs ask for it: the smallest `COMPAT_COUNT`, the largest `COMPAT_WINDOW` (R73, R382). -/
def compatApply (b : Block) : Block :=
  let on := (b.jigs.map fun j => j.2.policy).filter fun (r : ResetPolicy) => r.compatEn
  let c : Byte := match on with | [] => 3 | r :: t => BitVec.ofNat 8 (t.foldl (fun a x => min a x.compatCount) r.compatCount)
  let w : BitVec 16 := match on with | [] => 600 | r :: t => BitVec.ofNat 16 (t.foldl (fun a x => max a x.compatWindow) r.compatWindow)
  modRst (fun r => { r with compat := { r.compat with active := decide (on ≠ []), count := c, window := w } }) b

/-- The Jigs in force at tick `t`: a committed replacement from its `ACTIVATE_TICK` on (R80); a partition that has left its domain has none (R344). -/
def Block.jigsAt (b : Block) (t : Nat) : List (Nat × Jig) :=
  b.parts.filterMap fun e =>
    if e.2.gridOff then none
    else match e.2.pending with
      | some x => if x.committed && decide (x.jig.activateTick.toNat ≤ t) then some (e.1, x.jig) else e.2.jig.map fun j => (e.1, j)
      | none => e.2.jig.map fun j => (e.1, j)

/-- The ticks at which the Jigs in force change from now on: now, and each committed replacement's `ACTIVATE_TICK`, ascending. -/
def Block.gridTicks (b : Block) : List Nat :=
  let ts := b.parts.filterMap fun e => e.2.pending.bind fun x => if x.committed && decide (b.now.toNat < x.jig.activateTick.toNat) then some x.jig.activateTick.toNat else none
  b.now.toNat :: (ts.dedup.mergeSort fun x y => decide (x ≤ y))

/-- The grid an island comes to at tick `t`, that is in force now or to come. -/
def GridSt.at (g : GridSt) (t : Nat) : List Nat := ((g.next.filter fun x => decide (x.due.toNat ≤ t)).getLast?.map fun x => x.cells).getD g.cells

/-- The grids of an island at the ticks `ts`, each where it differs in what it is built from (R181). -/
def gridsFrom (c : Cfg) (i : Island) (b : Block) : List Nat → GridBasis → List Nat → List NextGrid
  | [], _, _ => []
  | t :: ts, basis, cells =>
    let bs := gridBasis c i (b.jigsAt t)
    if bs = basis then gridsFrom c i b ts basis cells
    else
      let g := islandGrid c i cells bs
      { basis := bs, cells := g, due := BitVec.ofNat 64 t } :: gridsFrom c i b ts bs g

/-- TC rebuilds the grids of the islands where a share or a mask changes, now and at each committed `ACTIVATE_TICK` (R181). -/
def rebuildGrids (h : Hard) (b : Block) : Block :=
  (cipherIslands h.cfg).foldl (fun b' i =>
    let g := (b'.island i).grid
    let next := gridsFrom h.cfg i b b.gridTicks g.basis g.cells
    if next = g.next then b' else modIsland i (fun s => { s with grid := { s.grid with next := next } }) b') b

/-- Shares of loaded partitions on an island (R186). -/
def shareSum (b : Block) (i : Island) : Nat := (b.jigs.map fun j => j.2.share i).sum

/-- GRID_SWITCH (R181, R186): at a frame boundary at or after the switch tick; a released partition's requests end. -/
def execGridSwitch (isl : Island) (s : State) : Host.Outcome State Fault Refusal :=
  onB (fun _ => whenLive fun b =>
    let st := b.island isl
    match st.grid.next with
    | [] => b
    | x :: rest =>
      if st.grid.column ≠ 0 ∨ b.now.toNat < x.due.toNat then b
      else
        let gone (p : Part) : Bool := (b.jigOf p).isNone || decide ((b.part p).state = 3)
        let b := modIsland isl (fun s => { s with grid := { s.grid with basis := x.basis, cells := x.cells, gen := s.grid.gen + 1, next := rest, foreign := [] },
                                                   reqs := s.reqs.filter fun q => !gone q.req.part, held := s.held.filter fun q => !gone q.part }) b
        emits (((st.reqs.map fun q => q.req) ++ st.held).filterMap fun q => if gone q.part then some (Out.cipherDone isl q.part q.ret stAborted) else none) b) s

/-! ### Requests (R175, R179) -/

/-- The attribute bit a request's use asks (R114, R175). -/
def useBit (u : BitVec 3) : Nat := if u.getLsbD 0 then useEncrypt else if u.getLsbD 1 then useDecrypt else useMac

/-- The generation of a slot has a value: the slot's own, or that of its pending or committed replacement's shadow (R120). -/
def Block.genLive (b : Block) (s : Slot) (gen : BitVec 16) : Bool :=
  b.slotLive s.toNat && (decide (gen = (b.slot s.toNat).attr.generation)
    || (match b.repl s.toNat with | some r => decide ((b.slot r.shadow.toNat).attr.generation = gen) | none => false))

/-- `n` groups further in counter mode: the low 32 bits count (R175). -/
def ctrAdd (c : BitVec 128) (n : Nat) : BitVec 128 := (c.extractLsb' 32 96 ++ (c.extractLsb' 0 32 + BitVec.ofNat 32 n) : BitVec 128)

/-- Work of more than 64 groups as consecutive requests, the counter block of each continuing from the last, the tag on the last (R175). -/
def splitReq : Nat → CipherReq → List CipherReq
  | 0, _ => []
  | n + 1, r => if r.groups ≤ 64 then [r] else { r with groups := 64, tag := false } :: splitReq n { r with groups := r.groups - 64, ctr := ctrAdd r.ctr 256 }

/-- A request enters the entries of its partition; a full part leaves it, and those after it, at the engine's crossing (R29, R175). -/
def enqueue (isl : Island) (r : CipherReq) (b : Block) : Block :=
  modIsland isl (fun s =>
    if 32 ≤ (s.reqs.filter fun q => decide (q.req.part = r.part)).length ∨ (s.held.any fun q => decide (q.part = r.part)) = true then { s with held := s.held ++ [r] }
    else { s with reqs := s.reqs ++ [{ req := r, issued := 0 }] }) b

/-- What was held at the crossings enters as entries are free, in order. -/
def admitHeld (isl : Island) (b : Block) : Block := (b.island isl).held.foldl (fun b r => enqueue isl r b) (modIsland isl (fun s => { s with held := [] }) b)

/-- CIPHER_REQUEST (R175, R114, R117, R120, R125, R126): an old generation is for decryption and verification alone. -/
def execCipherRequest (isl : Island) (req : CipherReq) (s : State) : Host.Outcome State Fault Refusal :=
  onB (fun h => whenLive fun b =>
    let st := b.island isl
    let share := match b.jigOf req.part with | some j => j.share isl | none => 0
    let done (code : Byte) (b : Block) : Block := emit (.cipherDone isl req.part req.ret code) b
    let a := (b.slot req.slot.toNat).attr
    let counted := req.use.getLsbD 0 && decide (a.limitExp ≠ 0)
    if !islandPresent h.cfg isl || st.asleep || st.inReset || decide (share = 0) || decide (req.groups = 0) then b
    else if !b.genLive req.slot req.gen then done stKeyOrphaned b
    else if !a.uses.getLsbD (useBit req.use) || (req.use.getLsbD 0 && decide (req.gen ≠ a.generation)) then
      done stNotOwner (keyNote h 0x0202 (islandCode isl) req.slot.toNat [aByte (2 ^ useBit req.use)] b)
    else if counted && !b.usesFit isl req.slot req.seals then done stUsageLimit b
    else (splitReq (req.groups / 64 + 1) req).foldl (fun b r => enqueue isl r b) (if counted then countUses isl req.slot req.seals b else b)) s

/-- The value in the island's cache that a request names, once in use (R120, R130). -/
def heldKey (st : IslandSt) (r : CipherReq) : Option Key :=
  (st.cache.find? fun e => decide (e.slot = r.slot) && decide (e.gen = r.gen) && decide (e.commit = 0) && decide (e.what = .own)).map fun e => e.value

/-- The next request of a partition: one begun goes on to its end (R179), then pinned before unpinned, then in arrival order; one whose key is not in the cache waits alone (R130, R175). -/
def nextReq (st : IslandSt) (p : Nat) (rs : List QReq) : Option QReq :=
  let ok (q : QReq) : Bool := decide (q.req.part.val = p) && (heldKey st q.req).isSome
  match rs.find? fun q => ok q && decide (q.issued ≠ 0) with
  | some q => some q
  | none => match rs.find? fun q => ok q && q.req.pinned with
    | some q => some q
    | none => rs.find? ok

/-- Issues a partition's requests into its cells of a column, given as (core, cycles left), the lowest first: each goes to the first with room; one of more than 16 groups takes what is left and goes on in the next (R179, R180). What stays queued, and what is issued as (core, request, groups issued before, groups). -/
def issuePart (st : IslandSt) (p : Nat) : Nat → List (Nat × Nat) → List QReq → List QReq × List (Nat × CipherReq × Nat × Nat)
  | 0, _, rs => (rs, [])
  | fuel + 1, cells, rs =>
    match nextReq st p rs with
    | none => (rs, [])
    | some q =>
      let left := q.req.groups - q.issued
      match cells.find? fun c => decide (left ≤ c.2) || (decide (16 < q.req.groups) && decide (0 < c.2)) with
      | none => (rs, [])
      | some (k, room) =>
        let n := min left room
        let rs' := if n = left then rs.erase q else rs.replace q { q with issued := q.issued + n }
        let r := issuePart st p fuel (cells.map fun c => if c.1 = k then (k, room - n) else c) rs'
        (r.1, (k, q.req, q.issued, n) :: r.2)

/-- A queued request whose key, or whose generation of it, is gone completes `ST_KEY_ORPHANED` (R117, R120, R175). -/
def dropKilled (isl : Island) (b : Block) : Block :=
  let dead (r : CipherReq) : Bool := !b.genLive r.slot r.gen
  let st := b.island isl
  emits (((st.reqs.map fun q => q.req) ++ st.held).filterMap fun r => if dead r then some (Out.cipherDone isl r.part r.ret stKeyOrphaned) else none)
    (modIsland isl (fun s => { s with reqs := s.reqs.filter fun q => !dead q.req, held := s.held.filter fun r => !dead r }) b)

/-- The groups of a request a core takes in its window, and the finished tag after the last. -/
def groupsOf (st : IslandSt) (x : Nat × CipherReq × Nat × Nat) : List Group :=
  let r := x.2.1
  let g (i : Nat) : Group :=
    { core := x.1, part := some r.part, slot := r.slot, ret := r.ret, ctr := ctrAdd r.ctr (4 * (x.2.2.1 + i)), key := (heldKey st r).getD 0, tag := false, recomp := 0, first := 0, warned := false }
  (List.range x.2.2.2).map g ++ if r.tag && decide (x.2.2.1 + x.2.2.2 = r.groups) then [{ g x.2.2.2 with tag := true }] else []

/-- Owner of a core's cell in the column that runs: the one before the next to start. -/
def runningOwner (c : Cfg) (isl : Island) (g : GridSt) (core : Nat) : Nat :=
  let w := columnsOf c isl
  cellOwner g.cells w core ((g.column + w - 1) % w)

/-- A core's running window takes a recomputation of `p` (none: a periodic test) at nobody's cost: it is `p`'s own, nobody's, or its owner has nothing to issue (R173). -/
def freeCycle (c : Cfg) (isl : Island) (g : GridSt) (p : Option Part) (core : Nat) : Bool :=
  let o := runningOwner c isl g core
  decide (o = noOwner) || (match p with | some p => decide (p.val = o) | none => false) || decide (Tab.getD g.issued core 0 = 0)

/-- What one column takes: recomputations that waited and displaced groups in their partition's first cell, then each partition's requests in its cells (R173, R179, R180). -/
structure ColumnRun where
  reqs   : List QReq
  groups : List Group
  issued : Tab Nat
  wait   : List Group
  moved  : List Group
  deriving DecidableEq, Repr

/-- One partition's part of a column that starts. -/
def runPart (c : Cfg) (isl : Island) (st : IslandSt) (r : ColumnRun) (p : Nat) : ColumnRun :=
  let w := columnsOf c isl
  match (List.range (coresOf c isl)).filter fun k => decide (cellOwner st.grid.cells w k st.grid.column = p) with
  | [] => r
  | k0 :: ks =>
    let mine (g : Group) : Bool := decide (g.part.map (fun x => x.val) = some p)
    let first := ((r.moved.filter mine ++ r.wait.filter mine).take 16).map fun g => { g with core := k0 }
    let x := issuePart st p 64 ((k0, 16 - first.length) :: ks.map fun k => (k, 16)) r.reqs
    let count (k : Nat) : Nat := (if k = k0 then first.length else 0) + ((x.2.filter fun y => decide (y.1 = k)).map fun y => y.2.2.2).sum
    { reqs := x.1, groups := r.groups ++ first ++ x.2.flatMap (groupsOf st),
      issued := (k0 :: ks).foldl (fun t k => if count k = 0 then t else Tab.set t k (count k)) r.issued,
      wait := r.wait.filter fun g => !mine g, moved := r.moved.filter fun g => !mine g }

/-- CORE_WINDOW_START (R173, R176, R179, R180): the windows of the next column start on every core. -/
def execCoreWindowStart (isl : Island) (s : State) : Host.Outcome State Fault Refusal :=
  onB (fun h => whenLive fun b =>
    let st := b.island isl
    if coresOf h.cfg isl = 0 ∨ islandPresent h.cfg isl = false ∨ st.asleep = true ∨ st.inReset = true then b
    else
      let b := admitHeld isl (dropKilled isl b)
      let st := b.island isl
      let r := (List.range 8).foldl (runPart h.cfg isl st) { reqs := st.reqs, groups := [], issued := [], wait := st.grid.waiting, moved := st.grid.moved }
      let g : GridSt := { st.grid with column := (st.grid.column + 1) % columnsOf h.cfg isl, foreign := [], issued := r.issued, waiting := r.wait, moved := r.moved }
      let core (x : Group) : Option Nat := (List.range (coresOf h.cfg isl)).find? fun k => freeCycle h.cfg isl g x.part k
      let late := r.wait.filterMap fun x => (core x).map fun k => { x with core := k }
      modIsland isl (fun s => { s with reqs := r.reqs, groups := s.groups ++ r.groups ++ late, grid := { g with waiting := r.wait.filter fun x => (core x).isNone } }) b) s

/-! ### Compare and recomputation (R168 to R174) -/

/-- The first-mismatch event of an island's class (R174, R213). -/
def mismatchNote (h : Hard) (isl : Island) (g : Group) (b : Block) : Block :=
  let args : List (Nat × Nat) := [aByte g.core, aHalf g.slot.toNat, aByte g.recomp, aByte (bit g.warned), aTick g.first]
  match isl with
  | .le _ => noteLimited h 0x0405 (islandCode isl) g.part (islandCode isl) (fun n => args ++ [aCount n]) b
  | .me _ => note h 0x0506 (islandCode isl) g.part args b
  | _ => note h 0x0804 (islandCode isl) g.part args b

/-- A recovered first mismatch is counted; the 64th in 1,000,000 ticks outside warning periods Clamps (R170, R172). -/
def countMismatch (h : Hard) (isl : Island) (g : Group) (b : Block) : Block :=
  let b := mismatchNote h isl g (modIsland isl (fun s => { s with mmFirst := satInc s.mmFirst }) b)
  if g.warned then b
  else
    let keep := (g.first :: (b.island isl).mmTicks).filter fun t => decide (since b t < 1000000)
    let b := modIsland isl (fun s => { s with mmTicks := keep }) b
    if 64 ≤ keep.length then clamp h 2 (islandCode isl) none [] b else b

/-- A foreign recomputation, or a forced test, takes a cycle that the running window's owner would have used; the last group of a full cell moves to the owner's next cell (R173, R179). -/
def takeCycle (c : Cfg) (isl : Island) (core : Nat) (s : IslandSt) : IslandSt :=
  let o := runningOwner c isl s.grid core
  let lastOf := if Tab.getD s.grid.issued core 0 < 16 then none
    else (s.groups.filter fun g => decide (g.core = core) && decide (g.part.map (fun x => x.val) = some o) && decide (g.recomp = 0) && !g.tag).getLast?
  { s with mmDisp := satInc s.mmDisp,
           groups := match lastOf with | some g => (s.groups.reverse.erase g).reverse | none => s.groups,
           grid := { s.grid with foreign := core :: s.grid.foreign, moved := s.grid.moved ++ lastOf.toList } }

/-- A recomputation is issued (R173): on its core where that costs nobody a cycle, or once in a window of another partition; else on the lowest core where it costs nobody; else it waits for a column. -/
def reissue (c : Cfg) (isl : Island) (g : Group) (s : IslandSt) : IslandSt :=
  if freeCycle c isl s.grid g.part g.core then { s with groups := s.groups ++ [g] }
  else if !s.grid.foreign.contains g.core then (let s := takeCycle c isl g.core s; { s with groups := s.groups ++ [g] })
  else match (List.range (coresOf c isl)).find? fun k => freeCycle c isl s.grid g.part k with
    | some k => { s with groups := s.groups ++ [{ g with core := k }] }
    | none => { s with grid := { s.grid with waiting := s.grid.waiting ++ [g] } }

/-- A group whose copies disagree (R170, R171): recomputed while the limit of the present period allows, else the Clamp. -/
def mismatch (h : Hard) (isl : Island) (g : Group) (b : Block) : Block :=
  let warn := b.inWarning isl
  let g := if g.recomp = 0 then { g with first := b.now, warned := warn } else g
  if (if warn then 3 else 1) ≤ g.recomp then clamp h 1 (islandCode isl) none [] (mismatchNote h isl g b)
  else
    modIsland isl (fun s => reissue h.cfg isl { g with recomp := g.recomp + 1 } { s with mmRecomp := if warn then satInc s.mmRecomp else s.mmRecomp }) b

/-- What a group or a finished tag releases to its return port (R168): a group is 64 B of keystream from its counter block (R166). -/
def Group.out (isl : Island) (p : Part) (g : Group) : Out := if g.tag then .ghash isl p g.ret else .group isl p g.ret (keystream g.key 4 g.ctr)

/-- CIPHER_GROUP_COMPARE (R168): the oldest group or finished tag of the core. -/
def execCipherGroupCompare (isl : Island) (core : Nat) (agree : Bool) (s : State) : Host.Outcome State Fault Refusal :=
  onB (fun h => whenLive fun b =>
    match (b.island isl).groups.find? fun g => decide (g.core = core) with
    | none => b
    | some g =>
      let b := modIsland isl (fun s => { s with groups := s.groups.erase g }) b
      if !agree then mismatch h isl g b
      else
        let b := match g.part with | some p => emit (g.out isl p) b | none => b
        if g.recomp = 0 then b else countMismatch h isl g b) s

/-- PERIODIC_CORE_TEST (R185): once per 1,000,000,000 ticks and core, in an idle or unowned cell; `forced` when there was none in that time, within one cycle a window. -/
def execPeriodicCoreTest (isl : Island) (core : Nat) (found : CoreTest) (forced : Bool) (s : State) : Host.Outcome State Fault Refusal :=
  onB (fun h => whenLive fun b =>
    let st := b.island isl
    let due := match Tab.get? st.tests core with | some t => decide (1000000000 ≤ since b t) | none => true
    let free := freeCycle h.cfg isl st.grid none core
    let can := if forced then !free && !st.grid.foreign.contains core else free
    if !islandPresent h.cfg isl || decide (coresOf h.cfg isl ≤ core) || st.asleep || st.inReset || !due || !can then b
    else
      let b := modIsland isl (fun s =>
        let s := { s with tests := Tab.set s.tests core b.now }
        if forced then { takeCycle h.cfg isl core s with mmForced := satInc s.mmForced } else s) b
      match found with
      | .pass => b
      | .mismatch => mismatch h isl { core := core, part := none, slot := 2, ret := 0, ctr := 0, key := b.keyVal 2, tag := false, recomp := 0, first := b.now, warned := false } b
      | .wrongBoth | .ghash => clamp h 5 (islandCode isl) none [] b) s

/-! ### DRBG and entropy (R185) -/

/-- DRBG_RESEED: after 2^20 generate requests, from fresh entropy. -/
def execDrbgReseed (s : State) : Host.Outcome State Fault Refusal :=
  onB (fun _ => whenUp fun b => if b.ent.gens < 2 ^ 20 ∨ b.ent.withheld = true then b else { b with ent := { b.ent with gens := 0 } }) s

/-- ENTROPY_HEALTH_FAIL. -/
def execEntropyHealthFail (s : State) : Host.Outcome State Fault Refusal :=
  onB (fun _ => whenUp fun b => { b with ent := { b.ent with withheld := true } }) s

/-- ENTROPY_SOURCE_RECOVERED. -/
def execEntropySourceRecovered (s : State) : Host.Outcome State Fault Refusal :=
  onB (fun _ => whenUp fun b => { b with ent := { b.ent with withheld := false } }) s

/-- ENTROPY_WAIT_TIMEOUT: a partition's commands that have waited more than 1 s end. -/
def execEntropyWaitTimeout (part : Part) (s : State) : Host.Outcome State Fault Refusal :=
  onB (fun h => whenLive fun b =>
    (b.ent.waiting.filter fun w => decide (w.2.1 = part) && decide (1000000000 < since b w.2.2)).foldl
      (fun b w => logEv h 0x0910 27 (some part) 0 2 [] (complete h w.1 stAborted 0 0 0 b)) b) s

end Sys2Proof.Machine
end

