-- ==== Sys2Proof/Machine/ReplOps.lean ====
section
/-! DEFINITION. A key's replacement (R120 to R124, R201, R259): its start, what follows the known-answer check and the last confirmation, the commit and the retirement; shared by the key commands, the link epochs and the region sweep. -/

namespace Sys2Proof.Machine

/-- Epoch that contains tick `t` (R61); before epoch 0 begins it is 0. -/
def epochAt (j : Jig) (t : Word) : BitVec 24 :=
  if j.rekeyPeriod = 0 ∨ t.toNat < j.epochZero then 0 else BitVec.ofNat 24 ((t.toNat - j.epochZero) / j.rekeyPeriod)

/-- Tick at which an epoch begins (R61). -/
def epochStart (j : Jig) (e : BitVec 24) : Nat := j.epochZero + e.toNat * j.rekeyPeriod

/-- The first slot boundary of a schedule at or after tick `t` (R39, R70). -/
def slotBoundary (sc : Schedule) (t : Nat) : Nat :=
  if t ≤ sc.cycleZero ∨ sc.slotTicks = 0 then max t sc.cycleZero
  else sc.cycleZero + (t - sc.cycleZero + sc.slotTicks - 1) / sc.slotTicks * sc.slotTicks

def Block.epochSt (b : Block) (p : Part) : EpochSt := Tab.getD b.epochs p.val EpochSt.reset
def modEpoch (p : Part) (f : EpochSt → EpochSt) (b : Block) : Block := { b with epochs := Tab.upd b.epochs p.val EpochSt.reset f }

/-- The region whose key a slot holds at this member. -/
def Block.regionOfKey (b : Block) (s : Slot) : Option (Nat × Region) := b.regions.find? fun r => decide (r.2.keySlot = s)

/-- The LEs on which a partition receives from a sender's port: those with a context of it, else those of the schedule's entries from that sender (R196, R199). -/
def ingressLes (b : Block) (p : Part) (sender : BitVec 16) (sport : BitVec 6) : List (Fin 16) :=
  let seen := (List.range 16).filter fun n => (Tab.getD b.lparts (8 * n + p.val) LePart.reset).contexts.any fun c => decide (c.sender = sender ∧ c.sport = sport)
  let named := match (b.jigOf p).bind fun j => j.schedule with
    | some sc => ((sc.entries.filter fun e => !e.egress && decide (e.peer = sender)).map fun e => e.port / 4).dedup
    | none => []
  (if seen = [] then named else seen).map fun n => Fin.ofNat 16 n

/-- The islands that take part in a key's check and use it: those that hold it, else one by type (R121): of an ingress link key, whose port here is the one its sender's frames reach, an LE that receives them (DEDUCED, log entry 85). -/
def replIslands (b : Block) (s : Slot) : List Island :=
  let k := b.slot s.toNat
  if k.heldBy ≠ [] then k.heldBy
  else match k.attr.type.toNat with
    | 6 => match (b.repl s.toNat).bind fun r => r.link, ownerPart k.attr.owner with
      | some l, some p => if l.egress then [.le (portLe (Fin.ofNat 64 l.port.toNat))] else (ingressLes b p l.sender l.port).take 1 |>.map fun n => .le n
      | _, _ => []
    | 8 | 9 => match b.regionOfKey s with | some r => [.me r.2.me] | none => []
    | 10 => [.hbe]
    | _ => []

/-- Starts a replacement: the status it ends with at once, and for a link key the reason of `EV_LINK_REKEY_HOLD`, or the new state (R112, R120, R124). -/
def startRepl (s : Slot) (value : Key) (r : Repl) (b : Block) : (Byte × Nat) ⊕ Block :=
  let k := b.slot s.toNat
  if (b.repl s.toNat).isSome then .inl (stNoSlot, 7)
  else if k.attr.generation = 0xFFFF then .inl (stUsageLimit, 7)
  else match b.lowestFreeSlot with
    | none => .inl (stNoSlot, 7)
    | some n =>
      let sh : KeySlot := { value := value, attr := { k.attr with st := 2, generation := k.attr.generation + 1 }, count := 0, pasid := k.pasid, label := k.label, heldBy := [], told := 0 }
      .inr (setRepl s.toNat { r with shadow := BitVec.ofNat 12 n, stage := .staged, failedKat := false, retireTick := none } (setSlot n sh b))

/-- A blank replacement for `startRepl` to fill. -/
def Repl.plain (ctx : Option CmdCtx) (commitTick : Word) : Repl :=
  { shadow := 0, ctx := ctx, stage := .staged, commitTick := commitTick, notBefore := 0, await := [], failedKat := false, retireTick := none, link := none }

/-- Flips an island's entries of a slot at a commit: the old value becomes the previous generation, the new one comes into use (R124). -/
def flipEntry (s shadow : Slot) (gen : BitVec 16) (e : CacheEnt) : CacheEnt :=
  if e.slot ≠ s then e
  else if e.gen = gen then { e with commit := 0, previous := false }
  else { e with previous := true, home := shadow }

/-- The window of a region's key (R116): its own for a local key, 16 for the table's (R309), none for a shared key. -/
def keyWindowOf (r : Region) : Nat := if r.kind ≠ 0 then 0 else match r.window with | some w => w.val | none => 16

/-- The major counters a key has used so far (R248). -/
def Block.markOf (b : Block) (p : Part) (id : BitVec 32) (window : Nat) (gen : BitVec 16) : Word :=
  match b.marks.find? fun m => decide (m.part = p ∧ m.regionId = id ∧ m.window = window ∧ m.gen = gen) with
  | some m => m.hwm
  | none => 0

/-- Keeps a region's high-water mark beyond the region, for the key of generation `gen`: opened again under that key, the region goes on from it (R248). -/
def keepMark (r : Region) (gen : BitVec 16) (b : Block) : Block :=
  let w := keyWindowOf r
  { b with marks := { part := r.part, regionId := r.regionId, window := w, gen := gen, hwm := r.token.majorHwm } ::
      b.marks.filter fun m => !decide (m.part = r.part ∧ m.regionId = r.regionId ∧ m.window = w ∧ m.gen = gen) }

/-- The regions served with the slot's key, after its commit: the keeper's sweep begins (R259). -/
def regionCommit (h : Hard) (s shadow : Slot) (gen : BitVec 16) (b : Block) : Block :=
  b.regions.foldl (fun b e =>
    if e.2.keySlot ≠ s then b
    else
      let keeper := decide (e.2.role = 0)
      let r : Region := { e.2 with gen := gen, prevKey := some shadow, sweeping := e.2.sweeping || keeper,
                                   token := if keeper then { e.2.token with generation := gen, sweep := true, sweepPtr := 0, majorHwm := 0 } else e.2.token }
      let b := { b with regions := Tab.set b.regions e.1 r }
      let b := if keeper then keepMark e.2 e.2.gen b else b
      if keeper then note h 0x0508 (16 + e.2.me.val) (some e.2.part) [aW4 e.2.regionId.toNat, aByte 1, aHalf gen.toNat] b else b) b

/-- Retires the old value of a committed replacement: orphaned and zeroed (R120). -/
def retireRepl (h : Hard) (s : Slot) (b : Block) : Block :=
  match b.repl s.toNat with
  | none => b
  | some r => if r.stage = .committed then invalidate h r.shadow.toNat none (dropRepl s.toNat b) else b

/-- What a link key's commit changes: the egress key of its port, or the epoch of an ingress key (R200, R201). -/
def linkCommit (p : Part) (s : Slot) (l : LinkRef) (b : Block) : Block :=
  let b := modEpoch p (fun e => { e with keys := e.keys.map fun x => if x.slot = s then { x with ref := l } else x }) b
  if !l.egress then b
  else
    let resume : Word := match b.jigOf p with
      | some j => match j.schedule with | some sc => BitVec.ofNat 64 (slotBoundary sc b.now.toNat) | none => b.now
      | none => b.now
    modPortPart (Fin.ofNat 64 l.port.toNat) p (fun x => { x with egressKey := some (s, l.epoch), failed := none, resumeAt := if x.hold then some resume else none }) b

/-- Commits a confirmed replacement: one swap of slot and shadow, every island switches (R124). -/
def commitRepl (h : Hard) (s : Slot) (b : Block) : Block :=
  match b.repl s.toNat with
  | none => b
  | some r =>
    let k := b.slot s.toNat
    let sh := b.slot r.shadow.toNat
    let gen := sh.attr.generation
    let b := setSlot s.toNat { k with value := sh.value, attr := { sh.attr with st := 1 }, count := 0, told := 0 } b
    let b := setSlot r.shadow.toNat { sh with value := k.value, attr := { k.attr with st := 2 }, count := k.count, heldBy := k.heldBy } b
    let b := { b with islands := Tab.mapV b.islands fun _ i => { i with cache := i.cache.map (flipEntry s r.shadow gen) } }
    let ty := k.attr.type.toNat
    let b := setRepl s.toNat { r with stage := .committed, retireTick := if ty = 6 then some (r.commitTick + 2000) else if ty = 8 ∨ ty = 9 then none else some r.commitTick } b
    let b := keyNote h 0x0205 27 s.toNat [aTick r.commitTick] b
    let b := match r.link, ownerPart k.attr.owner with | some l, some p => linkCommit p s l b | _, _ => b
    let b := if ty = 8 ∨ ty = 9 then regionCommit h s r.shadow gen b else b
    let b := completeOpt h r.ctx stOk 0 gen.toNat 0 b
    if ty = 6 ∨ ty = 8 ∨ ty = 9 then b else retireRepl h s b

/-- The replacement is confirmed: the new value goes to the islands, unused; without a commit tick it commits now, a region key 100 µs later, and never before the tick R201 sets (R120, R132, R259). -/
def confirmRepl (h : Hard) (s : Slot) (b : Block) : Block :=
  match b.repl s.toNat with
  | none => b
  | some r =>
    let ty := (b.slot s.toNat).attr.type.toNat
    let soon : Word := if ty = 8 ∨ ty = 9 then b.now + 100000 else b.now
    let tick : Word := if r.commitTick ≠ 0 then r.commitTick else if soon.toNat < r.notBefore.toNat then r.notBefore else soon
    let b := setRepl s.toNat { r with stage := .confirmed, commitTick := tick } b
    let b := (replIslands b s).foldl (fun b i => loadNext i s r.shadow tick b) b
    if tick.toNat ≤ b.now.toNat then commitRepl h s b else b

/-- A member's confirmation, or the own check, leaves nobody to wait for. -/
def advanceRepl (h : Hard) (s : Slot) (b : Block) : Block :=
  match b.repl s.toNat with
  | none => b
  | some r => if r.stage = .checked ∧ r.await = [] then confirmRepl h s b else b

/-- A replacement due at its commit tick commits, or fails when it is not confirmed: cause 1 when the own check has not passed, 2 when a confirmation is missing (R124). -/
def dueRepl (h : Hard) (s : Slot) (b : Block) : Block :=
  match b.repl s.toNat with
  | none => b
  | some r =>
    if r.stage = .committed ∨ r.commitTick = 0 ∨ b.now.toNat < r.commitTick.toNat then b
    else if r.stage = .confirmed then commitRepl h s b
    else failRepl h s.toNat (if r.stage = .staged then 1 else 2) stAborted b

/-- Both key values known, a slot takes part as a live slot of an owner. -/
def Block.ownedLive (b : Block) (s : Slot) (p : Part) : Bool :=
  decide ((b.slot s.toNat).attr.owner = BitVec.ofNat 4 p.val) && b.slotLive s.toNat

end Sys2Proof.Machine
end

