-- ==== Sys2Proof/Machine/Wire.lean ====
section
/-! DEFINITION. The AHU's state as the links see it (R283 to R288, R298, R304): transaction messages and tray messages as bytes, tags, the pair sequence a message takes when its frame is chosen, and the limits under which one may be chosen. -/

namespace Sys2Proof.Machine

def Block.ahuPart (b : Block) (p : Part) : AhuPart := Tab.getD b.ahu p.val AhuPart.reset
def modAhu (p : Part) (f : AhuPart → AhuPart) (b : Block) : Block := { b with ahu := Tab.upd b.ahu p.val AhuPart.reset f }
def Block.pairReq (b : Block) (p : Part) (m : BitVec 16) : PairReq := Tab.getD (b.ahuPart p).req m.toNat PairReq.reset
def modPair (p : Part) (m : BitVec 16) (f : PairReq → PairReq) (b : Block) : Block :=
  modAhu p (fun a => { a with req := Tab.upd a.req m.toNat PairReq.reset f }) b
def Block.pairKeep (b : Block) (p : Part) (m : BitVec 16) : PairKeep := Tab.getD (b.ahuPart p).keep m.toNat PairKeep.reset
def modKeep (p : Part) (m : BitVec 16) (f : PairKeep → PairKeep) (b : Block) : Block :=
  modAhu p (fun a => { a with keep := Tab.upd a.keep m.toNat PairKeep.reset f }) b
def Block.tagSt (b : Block) (p : Part) (t : Nat) : Option TagSt := Tab.get? (b.ahuPart p).tags t
def modTag (p : Part) (t : Nat) (f : TagSt → TagSt) (b : Block) : Block :=
  match b.tagSt p t with
  | some x => modAhu p (fun a => { a with tags := Tab.set a.tags t (f x) }) b
  | none => b

/-- Tags of a partition (R298). -/
def tagCount (c : Cfg) : Nat := if c = .s ∨ c = .m then 256 else 2048

/-- Takes the lowest free tag of the partition. -/
def takeTag (c : Cfg) (p : Part) (x : TagSt) (b : Block) : Option (Nat × Block) :=
  match Tab.lowestFree (b.ahuPart p).tags 0 (tagCount c) with
  | none => none
  | some t => some (t, modAhu p (fun a =>
      let ts := Tab.set a.tags t x
      { a with tags := ts, peak := max a.peak ts.length }) b)

/-- More work for the run that ends the command. -/
def push (w : Work) (b : Block) : Block := { b with work := b.work ++ [w] }

/-- Frees a tag that a matching response ended (R298): what waited for a tag goes on. -/
def freeTag (p : Part) (t : Nat) (b : Block) : Block := push (.part p) (modAhu p (fun a => { a with tags := Tab.del a.tags t }) b)

/-- A tag ended in any other way: 250,000 ticks of quarantine (R298). -/
def quarantine (p : Part) (t : Nat) (b : Block) : Block := modTag p t (fun x => { x with kind := 2, quarEnd := b.now + 250000 }) b

/-- `TAG` as messages carry it: the partition in [13:11] (R298). -/
def wireTag (p : Part) (t : Nat) : BitVec 14 := BitVec.ofNat 14 (2048 * p.val + t)

/-- `RTO` in ticks (R288, R304). -/
def rtoTicks (a : AhuPart) : Nat := 1000 * max 8 a.rto.toNat
/-- `ATOM_LIMIT` (R288, R304). -/
def atomLimit (a : AhuPart) : Nat := if a.atomLimit = 0 then 1024 else min 1024 (4 * a.atomLimit.toNat)

/-! ### Messages as bytes -/

def mRead : Byte := 0x01
def mWrite : Byte := 0x02
def mAtomic : Byte := 0x03
def mFence : Byte := 0x04

/-- A transaction message (R283, R284). -/
def xactBytes (mtype : Byte) (x : Xact) (aop : Byte) (body : Bytes) : Bytes :=
  leBytes 1 mtype.toNat ++ leBytes 1 x.status.toNat ++ leBytes 2 x.tag.toNat ++ leBytes 4 x.regionId.toNat ++ leBytes 8 x.dseq.toNat ++ leBytes 8 x.aux.toNat
    ++ leBytes 6 x.offset.toNat ++ leBytes 1 (x.count.toNat + 8 * bit x.acquire + 16 * bit x.abandon) ++ leBytes 1 aop.toNat ++ body

/-- A tray request (R280): one 64 B object. -/
def trayBytes (p : Part) (t : Nat) (write : Bool) (node reqNode : BitVec 16) (offset : BitVec 48) (line : Line) : Bytes :=
  leBytes 1 (if write then 2 else 1) ++ leBytes 1 (1 + 8 * p.val) ++ leBytes 2 (wireTag p t).toNat ++ leBytes 2 node.toNat ++ leBytes 2 reqNode.toNat
    ++ leBytes 6 offset.toNat ++ leBytes 2 0 ++ (if write then lineBytes line else [])

/-! ### The pair sequence (R286, R288, R291) -/

/-- The sent messages of a pair: tags whose message has its `DSEQ`. -/
def Block.sent (b : Block) (p : Part) (m : BitVec 16) : List (Nat × TagSt) :=
  (b.ahuPart p).tags.filter fun t => decide (t.2.kind = 1) && decide (t.2.peer = m) && t.2.dseq.isSome

/-- `FLOOR`: the lowest `DSEQ` of a sent atomic not yet completed, or the next unassigned (R291). -/
def Block.floorOf (b : Block) (p : Part) (m : BitVec 16) : Nat :=
  (((b.sent p m).filter fun t => decide (t.2.mtype = mAtomic)).filterMap fun t => t.2.dseq).foldl min (b.pairReq p m).next

/-- Destinations with messages not yet visible (R297). -/
def Block.destsUsed (b : Block) (p : Part) : Nat := Tab.count (b.ahuPart p).req fun _ q => decide (q.visible + 1 < q.next)
/-- Destinations a partition tracks (R297, R305). -/
def destCap (c : Cfg) : Nat := if c = .s ∨ c = .m then 512 else 4096

/-- A queued message may be chosen (R288, R297): at most 1,024 sent above `ACCEPTED`, at most `ATOM_LIMIT` atomics at or above `FLOOR`, its destination tracked. A retransmission has its number already. -/
def chooseOk (c : Cfg) (b : Block) (p : Part) (t : Nat) : Bool :=
  match b.tagSt p t with
  | none => true
  | some x =>
    if x.kind ≠ 1 ∨ x.dseq.isSome = true ∨ x.mtype = mFence then true
    else
      let q := b.pairReq p x.peer
      decide (q.next ≤ q.accepted + 1024)
        && (decide (x.mtype ≠ mAtomic)
          || decide (((b.pairReq p x.peer).atoms.filter fun d => decide (b.floorOf p x.peer ≤ d)).length < atomLimit (b.ahuPart p)))
        && (decide (q.visible + 1 < q.next) || decide (b.destsUsed p < destCap c))

/-- The message a tag carries, as it leaves now. `FLOOR` never passes the message's own number, which was the next unassigned one as it was chosen (DEDUCED, log entry 22). -/
def messageOf (b : Block) (p : Part) (t : Nat) (x : TagSt) : Bytes :=
  let own := x.dseq.getD 0
  let aux := if x.mtype = mFence then (b.pairReq p x.peer).target else min (b.floorOf p x.peer) own
  xactBytes x.mtype
    { status := 0, tag := wireTag p t, regionId := x.regionId, dseq := BitVec.ofNat 64 (x.dseq.getD 0), aux := BitVec.ofNat 64 aux, offset := x.offset,
      count := if x.mtype = mRead ∨ x.mtype = mWrite then 1 else 0, acquire := decide (x.mtype = mFence ∧ x.aop = 1), abandon := x.abandon }
    (if x.mtype = mAtomic then x.aop else 0)
    (if x.mtype = mWrite then lineBytes x.line else if x.mtype = mAtomic then leBytes 8 x.opA.toNat ++ leBytes 8 x.opB.toNat else [])

/-- What the choice of a frame for egress does to the tag it carries: its `DSEQ` and the ticks of its sending (R286, R288). -/
def stampTag (p : Part) (t : Nat) (b : Block) : Block :=
  match b.tagSt p t with
  | none => b
  | some x =>
    let b :=
      if x.kind = 1 ∧ x.dseq = none ∧ x.mtype ≠ mFence then
        let n := (b.pairReq p x.peer).next
        let f := b.floorOf p x.peer
        modTag p t (fun y => { y with dseq := some n })
          (modPair p x.peer (fun q => { q with next := n + 1, atoms := if x.mtype = mAtomic then (q.atoms.filter fun d => decide (f ≤ d)) ++ [n] else q.atoms }) b)
      else b
    modTag p t (fun y => { y with first := some (y.first.getD b.now), last := b.now }) b

/-- The payload a queued frame leaves with: a request's message takes its number and `FLOOR` as it is chosen. -/
def payloadNow (b : Block) (q : QFrame) : Bytes :=
  match q.tag with
  | none => q.payload
  | some t => match b.tagSt q.part t with
    | some x => if x.kind = 1 then messageOf b q.part t x else q.payload
    | none => q.payload

/-- A fence target is the last `DSEQ` issued to the destination (R297). -/
def Block.issued (b : Block) (p : Part) (m : BitVec 16) : Nat := (b.pairReq p m).next - 1

end Sys2Proof.Machine
end

