-- ==== Sys2Proof/Machine/Link.lean ====
section
/-! DEFINITION. Sealing the optical ports (R187 to R213): frames as bytes, sequence counters, the records, contexts and replay windows of the receiving side, link keys and their epochs, egress choice and shapers, queue samples, and the pattern generator and checker. -/

namespace Sys2Proof.Machine

/-! ### Frames (R187, R188) -/

/-- A frame, field by field (R187). -/
structure Frame where
  ftype   : BitVec 4
  cls     : BitVec 2
  cmark   : Bool
  skind   : Bool
  hops    : BitVec 4
  sender  : BitVec 16
  stream  : Byte
  epoch   : BitVec 24
  seq     : BitVec 48
  sport   : BitVec 6
  payload : Bytes
  tag     : BitVec 128
  deriving DecidableEq, Repr

/-- The 16 B header (R187). -/
def headerBytes (f : Frame) (cmark : Bool) (hops : BitVec 4) : Bytes :=
  leBytes 1 (f.ftype.toNat + 16 * f.cls.toNat + 64 * bit cmark + 128 * bit f.skind) ++ leBytes 1 hops.toNat ++ leBytes 2 f.sender.toNat
    ++ leBytes 1 f.stream.toNat ++ leBytes 3 f.epoch.toNat ++ leBytes 6 f.seq.toNat ++ leBytes 2 (f.payload.length + 1024 * f.sport.toNat)

/-- The additional data: the header without its mutable bits, the domain, the destination (R189). -/
def frameAad (f : Frame) (domain : BitVec 32) (dest : BitVec 16) : Bytes :=
  headerBytes f false 0 ++ leBytes 4 domain.toNat ++ leBytes 2 dest.toNat

/-- The IV: header bytes 2 to 13 (R189). -/
def frameIv (f : Frame) : Bytes := bytesAt (headerBytes f false 0) 2 12

/-- A sealed frame on the wire (R189, R190). -/
def sealFrame (key : Key) (domain : BitVec 32) (dest : BitVec 16) (f : Frame) : Bytes :=
  let r := gcmSeal key (frameIv f) (frameAad f domain dest) f.payload
  headerBytes f false 0 ++ r.1 ++ tagBytes r.2

/-- An unsealed frame on the wire, its trailer given (R188). -/
def plainFrame (f : Frame) (trailer : BitVec 128) : Bytes := headerBytes f false 0 ++ f.payload ++ tagBytes trailer

/-- A received frame, when it passes step 1 of R194. -/
def parseFrame (bs : Bytes) : Option Frame :=
  let b0 := fieldAt bs 0 1
  let len := bitsOf (fieldAt bs 14 2) 0 10
  let ft := bitsOf b0 0 4
  let skind := decide (bitsOf b0 7 1 = 1)
  if 32 ≤ bs.length ∧ len % 8 = 0 ∧ len ≤ 512 ∧ len + 32 = bs.length ∧ 1 ≤ ft ∧ ft ≤ 8 ∧ bitsOf (fieldAt bs 1 1) 4 4 = 0 ∧ (skind = true → ft = 5) then
    some { ftype := BitVec.ofNat 4 ft, cls := BitVec.ofNat 2 (bitsOf b0 4 2), cmark := decide (bitsOf b0 6 1 = 1), skind := skind,
           hops := BitVec.ofNat 4 (bitsOf (fieldAt bs 1 1) 0 4), sender := BitVec.ofNat 16 (fieldAt bs 2 2), stream := BitVec.ofNat 8 (fieldAt bs 4 1),
           epoch := BitVec.ofNat 24 (fieldAt bs 5 3), seq := BitVec.ofNat 48 (fieldAt bs 8 6), sport := BitVec.ofNat 6 (bitsOf (fieldAt bs 14 2) 10 6),
           payload := bytesAt bs 16 len, tag := tagOf (bytesAt bs (16 + len) 16) }
  else none

/-- Opens a sealed frame for a domain and destination (R189). -/
def openFrame (key : Key) (domain : BitVec 32) (dest : BitVec 16) (f : Frame) : Option Bytes :=
  gcmOpen key (frameIv f) (frameAad f domain dest) f.payload f.tag

/-- The side word towards a member (R191, log entry 14), and towards a fabric node. -/
def sideOfMember (domain : BitVec 32) (m : MemberRef) : BitVec 64 := (Config.memberSide domain m).setWidth 64
def sideOfNode (node : BitVec 16) : BitVec 64 := node.setWidth 64

/-- The member a queued frame goes to. -/
def QFrame.destRef (q : QFrame) : MemberRef := if q.switch then switchRef q.dest else accel q.dest

/-! ### Access -/

def Block.lePart (b : Block) (n : Fin 16) (p : Part) : LePart := Tab.getD b.lparts (8 * n.val + p.val) LePart.reset
def modLePart (n : Fin 16) (p : Part) (f : LePart → LePart) (b : Block) : Block := { b with lparts := Tab.upd b.lparts (8 * n.val + p.val) LePart.reset f }

/-- Schedule slot that contains tick `t` (R199). -/
def Schedule.slotAt (sc : Schedule) (t : Nat) : Nat :=
  if sc.slotTicks = 0 ∨ sc.cycleSlots = 0 then 0 else (t - sc.cycleZero) / sc.slotTicks % sc.cycleSlots

/-- The members named as `PEER` in the egress entries of a port, each once. -/
def Block.egressPeers (b : Block) (p : Part) (k : Port) : List (BitVec 16) := ((b.entriesOn p k true).map fun e => e.peer).dedup

/-- A member has departed as this partition sees it (R157). -/
def Block.gone (b : Block) (p : Part) (m : BitVec 16) : Bool := (b.adm' p).departed.contains m

/-- A domain key has reached the partition (R149). -/
def Block.keyed (b : Block) (p : Part) : Bool := (b.adm' p).keyed

/-- A link class event, limited per code, partition and port (R213). -/
def linkNote (h : Hard) (code : Nat) (p : Part) (k : Port) (args : Nat → List (Nat × Nat)) (b : Block) : Block :=
  noteLimited h code (portLe k).val (some p) (32 + k.val) (fun n => aByte k.val :: args n) b

/-! ### Sequence counters (R192) -/

/-- The seed at tick `t` of an epoch that begins at `start`. -/
def seqSeed (start t : Nat) : Nat := if t < start then 0 else 4 * (t - start + 1)

/-- The tick at which an epoch of the partition begins. -/
def Block.epochTick (b : Block) (p : Part) (e : BitVec 24) : Nat := match b.jigOf p with | some j => epochStart j e | none => 0

/-- The epoch of the partition that contains this tick (R193). -/
def Block.epochNow (b : Block) (p : Part) : BitVec 24 := match b.jigOf p with | some j => epochAt j b.now | none => 0

/-- A counter's place among those of a port: its epoch and stream. -/
def seqKey (e : BitVec 24) (stream : Byte) : Nat := 256 * e.toNat + stream.toNat

/-- The next number of a stream on a port in an epoch: its counter, else 0, else the seed of the last reset of the LE. -/
def Block.seqOf (b : Block) (p : Part) (k : Port) (e : BitVec 24) (stream : Byte) : Nat :=
  match Tab.get? (b.portPart k p).seqs (seqKey e stream) with
  | some n => n
  | none => seqSeed (b.epochTick p e) (b.island (portIsland k)).work.toNat

def takeSeq (p : Part) (k : Port) (e : BitVec 24) (stream : Byte) (b : Block) : Block :=
  let n := b.seqOf p k e stream
  modPortPart k p (fun x => { x with seqs := Tab.set x.seqs (seqKey e stream) (n + 1) }) b

/-! ### Link keys (R116, R200, R201) -/

def linkData (sender : BitVec 16) (port : BitVec 6) (e : BitVec 24) : Bytes := leBytes 2 sender.toNat ++ leBytes 1 port.toNat ++ leBytes 3 e.toNat

/-- The link key of a sending member, port and epoch (R116). -/
def linkKeyVal (b : Block) (p : Part) (l : LinkRef) : Key := kdf (b.keyVal (b.adm' p).domainSlot) (linkData l.sender l.port l.epoch) "SWY-LINK"

/-- Derives a link key into a general slot and records what it is for; none without a free slot (R112). -/
def newLinkKey (p : Part) (l : LinkRef) (b : Block) : Option (Slot × Block) :=
  match deriveKey 6 p (b.adm' p).domainSlot 0 (linkData l.sender l.port l.epoch) "SWY-LINK" b with
  | none => none
  | some (s, b) => some (s, modEpoch p (fun e => { e with keys := e.keys ++ [{ ref := l, slot := s }] }) b)

/-- A load of the slot, in a role, is on its way to the island. -/
def loadPending (b : Block) (i : Island) (s : Slot) (previous : Bool) (what : KeyFor) : Bool :=
  (b.island i).kdrIn.any fun m => match m with | .load x _ _ pr _ _ _ _ wh _ => decide (x = s ∧ pr = previous ∧ wh = what) | .kill _ => false

/-- Asks TC for a key the island lacks (R130); a confirmed new value comes after it, unused until its commit (R124). -/
def wantKey (i : Island) (s : Slot) (b : Block) : Block :=
  if (b.cached i s).isSome || loadPending b i s false .own || !b.slotLive s.toNat then b
  else
    let b := loadKey i s 0 b
    match b.repl s.toNat with
    | some r => if r.stage = .confirmed then loadNext i s r.shadow r.commitTick b else b
    | none => b

/-- Asks TC for the previous value of a key whose replacement has committed (R124). -/
def wantPrevious (i : Island) (s : Slot) (b : Block) : Block :=
  match b.repl s.toNat with
  | some r => if ((b.island i).entry s true).isSome || loadPending b i s true .own || decide (r.stage ≠ .committed) then b else loadPrevious i s r.shadow b
  | none => b

/-- Asks TC for a value derived from a slot that the island lacks (R130, R222). -/
def wantDerived (i : Island) (s : Slot) (what : KeyFor) (value : Key) (alpha : BitVec 2048) (b : Block) : Block :=
  if ((b.island i).derived s what).isSome || loadPending b i s false what || !b.slotLive s.toNat then b else loadDerived i s what value alpha b

/-- The port is held (R201). -/
def Block.held (b : Block) (p : Part) (k : Port) : Bool :=
  let x := b.portPart k p
  x.hold && (match x.resumeAt with | some t => decide (b.now.toNat < t.toNat) | none => true)

/-- A port loses its egress: held until a change commits, recorded once (R201). -/
def holdPort (h : Hard) (p : Part) (k : Port) (e : BitVec 24) (cause : Nat) (b : Block) : Block :=
  let b := modPortPart k p (fun x => { x with failed := match x.failed with | some (e', c) => if e' = e then some (e', c) else some (e, cause) | none => some (e, cause) }) b
  if b.held p k && (b.portPart k p).resumeAt.isNone then b
  else linkNote h 0x0408 p k (fun n => [aW3 e.toNat, aByte cause, aCount n]) (modPortPart k p (fun x => { x with hold := true, resumeAt := none }) b)

/-- The egress key of the port for the current epoch is derived where there is none (R200, R201). -/
def keyPort (h : Hard) (p : Part) (k : Port) (b : Block) : Block :=
  let e := (b.epochSt p).epoch
  let x := b.portPart k p
  if !b.keyed p || (x.egressKey.map fun g => decide (g.2 = e)) = some true || b.held p k || decide (b.epochNow p ≠ e) then b
  else match newLinkKey p { sender := b.selfIndex p, port := BitVec.ofNat 6 k.val, epoch := e, egress := true } b with
    | none => holdPort h p k e 7 b
    | some (s, b) => wantKey (portIsland k) s (modPortPart k p (fun x => { x with egressKey := some (s, e), failed := none }) b)

/-- The slot whose key seals on the port now: committed for the epoch that contains this tick (R193), not held, live, and in the LE's cache. -/
def Block.egressSlot (b : Block) (p : Part) (k : Port) : Option Slot :=
  match (b.portPart k p).egressKey with
  | some (s, e) => if e = b.epochNow p ∧ b.held p k = false ∧ (b.cached (portIsland k) s).isSome ∧ b.slotLive s.toNat = true then some s else none
  | none => none

/-- The key slot that opens frames of a sender, port and epoch here, and whether under its previous generation (R124, R195). -/
def Block.ingressSlot (b : Block) (p : Part) (sender : BitVec 16) (sport : BitVec 6) (e : BitVec 24) : Option (Slot × Bool) :=
  let mine := (b.epochSt p).keys.filter fun x => !x.ref.egress && decide (x.ref.sender = sender ∧ x.ref.port = sport)
  match mine.find? fun x => decide (x.ref.epoch = e) with
  | some x => some (x.slot, false)
  | none => (mine.find? fun x => decide (x.ref.epoch = e + 1) && (match b.repl x.slot.toNat with | some r => decide (r.stage = .committed) | none => false)).map fun x => (x.slot, true)

/-- The value under which the LE opens such frames, when it holds it (R199). -/
def Block.ingressKey (b : Block) (p : Part) (k : Port) (sender : BitVec 16) (sport : BitVec 6) (e : BitVec 24) : Option Key :=
  (b.ingressSlot p sender sport e).bind fun x => ((b.island (portIsland k)).entry x.1 x.2).map fun c => c.value

/-- TC derives the key of a sender's port for an epoch where it has none, and loads it to the LE (R199, R200). -/
def fetchIngress (p : Part) (k : Port) (sender : BitVec 16) (sport : BitVec 6) (e : BitVec 24) (b : Block) : Block :=
  match b.ingressSlot p sender sport e with
  | some (s, true) => wantPrevious (portIsland k) s b
  | some (s, false) => wantKey (portIsland k) s b
  | none => match newLinkKey p { sender := sender, port := sport, epoch := e, egress := false } b with
    | some (s, b) => wantKey (portIsland k) s b
    | none => b

/-! ### Control frames (R198) -/

def ctlBytes (type : Nat) (who : BitVec 16) (stream : Byte) (challenge : Word) (val : Nat) : Bytes :=
  leBytes 2 type ++ leBytes 2 0 ++ leBytes 2 who.toNat ++ leBytes 1 stream.toNat ++ leBytes 1 0 ++ leBytes 8 challenge.toNat ++ leBytes 6 val ++ leBytes 2 0

/-- Queues a control message on stream 0xFF (R198). -/
def sendControl (p : Part) (k : Port) (switch : Bool) (dest : BitVec 16) (payload : Bytes) (b : Block) : Block :=
  push0 k { part := p, ftype := 2, stream := 0xFF, dest := dest, switch := switch, node := 0, payload := payload, tick := b.now, notice := false, tag := none } b

/-! ### Records and contexts (R196 to R199) -/

/-- Records or contexts of a partition on an LE. -/
def recordCap (c : Cfg) : Nat := if c = .s ∨ c = .m then 32 else 128

def LePart.record (l : LePart) (skind : Bool) (sender : BitVec 16) (stream : Byte) : Option StreamRec :=
  l.records.find? fun r => decide (r.skind = skind ∧ r.sender = sender ∧ r.stream = stream)

/-- The pending record of a sender and stream that `f` accepts: there may be one of each kind of sender. -/
def LePart.pendingRec (l : LePart) (sender : BitVec 16) (stream : Byte) (f : StreamRec → Bool) : Option StreamRec :=
  l.records.find? fun r => decide (r.sender = sender ∧ r.stream = stream ∧ r.st = 0) && f r

/-- Replaces the record of the same key. -/
def putRecord (n : Fin 16) (p : Part) (r : StreamRec) (b : Block) : Block :=
  modLePart n p (fun l => { l with records := l.records.map fun x => if x.skind = r.skind ∧ x.sender = r.sender ∧ x.stream = r.stream then r else x }) b

/-- Sends a record's `SYNC_REQ` on the port where its frame arrived (R198). -/
def sendSync (p : Part) (r : StreamRec) (b : Block) : Block :=
  sendControl p r.port r.skind r.sender (ctlBytes 1 r.sender r.stream r.challenge (b.epochSt p).epoch.toNat) b

/-- Creates a pending record, its request sent on the port (R198); none free: `EV_LINK_CTX_FULL` (R196). -/
def newRecord (h : Hard) (p : Part) (k : Port) (skind : Bool) (sender : BitVec 16) (stream : Byte) (scheduled : Bool) (sport : BitVec 6) (b : Block) : Block :=
  let n := portLe k
  if recordCap h.cfg ≤ (b.lePart n p).records.length then linkNote h 0x0407 p k (fun c => [aHalf sender.toNat, aByte stream.toNat, aCount c]) b
  else if b.noRandom then b
  else
    let r : StreamRec := { port := k, skind := skind, sender := sender, stream := stream, st := 0, floor := 0, prevFloor := none, challenge := b.draw.setWidth 64, tries := 1,
                           asked := b.now, scheduled := scheduled, created := b.now, sport := sport, used := false, usedPrev := false }
    sendSync p r (modLePart n p (fun l => { l with records := l.records ++ [r] }) (drawn b))

/-- SYNC_REQ (R198, R199): the sender moves the stream's counters on its ports to the seed and answers. -/
def execSyncReq (part : Part) (port : Port) (sender target : BitVec 16) (stream : Byte) (challenge : Word) (epoch : BitVec 24) (s : State) :
    Host.Outcome State Fault Refusal :=
  onB (fun h => whenLive fun b =>
    if !b.keyed part || decide (target ≠ b.selfIndex part) || decide (epoch ≠ (b.epochSt part).epoch) || !portPresent h.cfg port then b
    else
      let f := seqSeed (b.epochSt part).start.toNat b.now.toNat
      let b := (List.range (portCount h.cfg)).foldl (fun b k =>
        modPortPart (Fin.ofNat 64 k) part (fun x => { x with seqs := Tab.set x.seqs (seqKey epoch stream) (max f (b.seqOf part (Fin.ofNat 64 k) epoch stream)) }) b) b
      let back : Port := match (b.entries part).find? fun e => e.egress && decide (e.peer = sender) && decide (e.stream = stream) with
        | some e => Fin.ofNat 64 e.port
        | none => port
      sendControl part back false sender (ctlBytes 2 sender stream challenge f) b) s

/-- SYNC_ACK (R198, R199): a matching challenge synchronises the pending record. -/
def execSyncAck (part : Part) (port : Port) (sender : BitVec 16) (sport : BitVec 6) (stream : Byte) (challenge : Word) (floor : BitVec 48) (s : State) :
    Host.Outcome State Fault Refusal :=
  onB (fun h => whenLive fun b =>
    if !portPresent h.cfg port then b
    else (List.range (leCount h.cfg)).foldl (fun b n =>
      match (b.lePart (Fin.ofNat 16 n) part).pendingRec sender stream fun r => decide (r.challenge = challenge) with
      | none => b
      | some r =>
        let b := putRecord (Fin.ofNat 16 n) part { r with st := 1, floor := floor.toNat, sport := if r.scheduled then sport else r.sport } b
        if r.scheduled && !r.skind then fetchIngress part (Fin.ofNat 64 (4 * n)) sender sport (b.epochSt part).epoch b else b) b) s

/-- SYNC_REQ_RETRY (R198): 20 µs without an acknowledgement; after the third request the record fails. -/
def execSyncReqRetry (part : Part) (port : Port) (sender : BitVec 16) (stream : Byte) (s : State) : Host.Outcome State Fault Refusal :=
  onB (fun h => whenLive fun b =>
    match (b.lePart (portLe port) part).pendingRec sender stream fun r => decide (20000 ≤ since b r.asked) with
    | none => b
    | some r =>
      if r.tries < 3 then
        let r := { r with tries := r.tries + 1, asked := b.now }
        sendSync part r (putRecord (portLe port) part r b)
      else linkNote h 0x0406 part r.port (fun n => [aHalf sender.toNat, aByte stream.toNat, aW3 (b.epochSt part).epoch.toNat, aCount n])
        (putRecord (portLe port) part { r with st := 2 } b)) s

/-- The stream an ingress entry names, as (`SKIND`, sender): a class 2 entry of an admitted group its switch, of a sealed group none (R199, R231, R239). -/
def Block.ingressStream (b : Block) (p : Part) (e : SchedEntry) : Option (Bool × BitVec 16) :=
  if e.cls = 1 then some (false, e.peer)
  else (b.jigOf p).bind fun j => (laneAt j e.port e.stream).bind fun x => if x.1.admitted then some (true, x.1.switch) else none

/-- Creates the records of the ingress schedule on the LEs `les` and asks for their floors (R199). -/
def syncScheduled (h : Hard) (p : Part) (les : List Nat) (b : Block) : Block :=
  ((b.entries p).filter fun e => !e.egress && les.contains (e.port / 4)).foldl (fun b e =>
    let k : Port := Fin.ofNat 64 e.port
    match b.ingressStream p e with
    | none => b
    | some (skind, sender) =>
      match (b.lePart (portLe k) p).record skind sender e.stream with
      | some r => if r.scheduled then b else putRecord (portLe k) p { r with scheduled := true } b
      | none => newRecord h p k skind sender e.stream true 0 b) b

/-- A partition becomes keyed (R199, R201): its place in its epochs, the egress keys of the scheduled ports, the records of its ingress. -/
def linkKeyed (h : Hard) (p : Part) (b : Block) : Block :=
  match b.jigOf p with
  | none => b
  | some j =>
    let e := epochAt j b.now
    let b := modEpoch p (fun x => { x with epoch := e, start := BitVec.ofNat 64 (epochStart j e), kerf := false }) b
    let ports := (((b.entries p).filter fun e => e.egress).map fun e => e.port).dedup
    let b := ports.foldl (fun b k => keyPort h p (Fin.ofNat 64 k) b) b
    syncScheduled h p (List.range (leCount h.cfg)) b

/-! ### Replay windows (R197) -/

/-- A new window takes the floor. -/
def Window.fresh (floor : Nat) : Window := { top := floor, bits := 0 }

/-- The pre-check of step 8; `top` is T + 1. -/
def Window.pre (w : Window) (floor q : Nat) : Bool :=
  if q < floor then false
  else if w.top < q + 1 then true
  else if q + 4097 ≤ w.top then false
  else !w.bits.getLsbD (w.top - 1 - q)

/-- The mark of step 11: none when a copy has marked it already. -/
def Window.mark (w : Window) (q : Nat) : Option Window :=
  let w := if w.top < q + 1 then { top := q + 1, bits := w.bits <<< (q + 1 - w.top) } else w
  if 4096 ≤ w.top - 1 - q then none
  else if w.bits.getLsbD (w.top - 1 - q) then none
  else some { w with bits := w.bits ||| (1#4096 <<< (w.top - 1 - q)) }

def LePart.context (l : LePart) (f : Frame) : Option Context :=
  l.contexts.find? fun c => decide (c.skind = f.skind ∧ c.sender = f.sender ∧ c.sport = f.sport ∧ c.stream = f.stream)

def putContext (n : Fin 16) (p : Part) (c : Context) (b : Block) : Block :=
  modLePart n p (fun l => { l with contexts := l.contexts.map fun x =>
    if x.skind = c.skind ∧ x.sender = c.sender ∧ x.sport = c.sport ∧ x.stream = c.stream then c else x }) b

/-! ### Receipt, steps 4 to 12 (R194 to R199) -/

/-- The ingress schedule names the frame's stream on this chip. -/
def scheduledIn (b : Block) (p : Part) (f : Frame) : Bool :=
  (b.entries p).any fun e => !e.egress && decide (e.peer = f.sender) && decide (e.stream = f.stream)

/-- A discarded frame of class 1 or 2 after step 3 (R199, R213). -/
def ingressEmpty (h : Hard) (p : Part) (k : Port) (f : Frame) (arrived : Word) (b : Block) : Block :=
  if f.cls = 1 ∨ f.cls = 2 then
    let slot := match b.schedule p with | some sc => sc.slotAt arrived.toNat | none => 0
    linkNote h 0x040A p k (fun n => [aHalf f.sender.toNat, aByte f.stream.toNat, aW3 slot, aCount n]) b
  else b

def countOther (p : Part) (k : Port) (b : Block) : Block := modPortPart k p (fun x => { x with other := x.other + 1 }) b

/-- A discard counted in `OTHER`. -/
def dropOther (h : Hard) (p : Part) (k : Port) (f : Frame) (arrived : Word) (b : Block) : Block := ingressEmpty h p k f arrived (countOther p k b)

/-- A discard as replay (steps 8 and 11). -/
def dropReplay (h : Hard) (p : Part) (k : Port) (f : Frame) (arrived : Word) (b : Block) : Block :=
  ingressEmpty h p k f arrived (linkNote h 0x0402 p k (fun n => [aHalf f.sender.toNat, aByte f.stream.toNat, aW6 f.seq.toNat, aCount n])
    (modPortPart k p (fun x => { x with replay := x.replay + 1 }) b))

/-- A tag failure (step 10). -/
def dropTag (h : Hard) (p : Part) (k : Port) (f : Frame) (arrived : Word) (b : Block) : Block :=
  ingressEmpty h p k f arrived (linkNote h 0x0401 p k (fun n => [aHalf f.sender.toNat, aByte f.stream.toNat, aW3 f.epoch.toNat, aCount n])
    (modPortPart k p (fun x => { x with tagFail := x.tagFail + 1 }) b))

/-- Counts a delivered frame (step 12). -/
def countAccepted (p : Part) (k : Port) (f : Frame) (b : Block) : Block :=
  modPortPart k p (fun x => { x with accepted := x.accepted + 1, cmark := if f.cmark then x.cmark + 1 else x.cmark }) b

/-- The frame's epoch as step 6 takes it: accepted (current or, in Kerf, previous), early, or rejected (R195). -/
inductive EpochCase where
  | current
  | previous
  | early
  | reject
  deriving DecidableEq, Repr

def epochCase (x : EpochSt) (e : BitVec 24) (arrived : Word) : EpochCase :=
  if e = x.epoch then .current
  else if e + 1 = x.epoch ∧ x.epoch ≠ 0 ∧ arrived.toNat < x.start.toNat + 2000 then .previous
  else if e = x.epoch + 1 then .early
  else .reject

/-- Egress and ingress pin lengths of the configuration (R37, R41). -/
def egressPin (c : Cfg) (sc : Schedule) : Nat := (if isS c then 320 else 96) + sc.extEgress
def ingressPin (c : Cfg) (sc : Schedule) : Nat := (if isS c then 336 else 120) + sc.extIngress
def readPin (c : Cfg) (sc : Schedule) : Nat := (if isS c then 96 else 64) + sc.extRead

/-- A pinned output enters the Shim of its lane. -/
def pushPinned (lane : Lane) (x : Pinned) (b : Block) : Block := { b with shim := b.shim ++ [(lane, x)] }

/-- What the arrival's pin counts from: the arrival, or the boundary for a frame that waited for its epoch (R195). -/
def pinStart (b : Block) (p : Part) (arrived : Word) : Word :=
  if arrived.toNat < (b.epochSt p).start.toNat then (b.epochSt p).start else arrived

/-- Delivers opened scheduled data to its stream port at the ingress pin (R37). -/
def deliverStream (h : Hard) (p : Part) (k : Port) (f : Frame) (data : Bytes) (start : Word) (b : Block) : Block :=
  match b.schedule p with
  | none => b
  | some sc =>
    pushPinned (.ingress k) { part := p, cls := f.cls, seq := f.seq.toNat, start := start, pin := start + BitVec.ofNat 64 (ingressPin h.cfg sc), ready := true, readyAt := b.now, slipped := false, sealed' := false,
                              epoch := f.epoch, stream := f.stream, outs := [.stream k p data], req := none, use := none, job := none, veneer := none, region := none } b

/-- Step 12 for a link-sealed frame. -/
def deliver (h : Hard) (p : Part) (k : Port) (f : Frame) (pt : Bytes) (arrived : Word) (b : Block) : Block :=
  let b := countAccepted p k f b
  if f.ftype = 2 then emit (.toControl k p pt) b
  else if f.cls = 1 ∧ scheduledIn b p f = true then deliverStream h p k f pt (pinStart b p arrived) b
  else emit (.toXact p f.sender pt) b

/-- Steps 8 to 12 for a frame that has its record and context: the window, the key, the tag, the mark. `open'` opens it under the key the type asks for, none when that key is not in the cache; `finish` is step 12. -/
def windowSteps (h : Hard) (p : Part) (k : Port) (f : Frame) (arrived : Word) (prev : Bool) (floor : Nat)
    (missing : Block → Block) (open' : Block → Option (Option Bytes)) (finish : Bytes → Block → Block) (b : Block) : Block :=
  match (b.lePart (portLe k) p).context f with
  | none => b
  | some c =>
    let w : Window := if prev then c.prev.getD (Window.fresh floor) else c.cur
    if w.pre floor f.seq.toNat = false then dropReplay h p k f arrived b
    else match open' b with
      | none => missing b
      | some none => dropTag h p k f arrived b
      | some (some pt) =>
        match w.mark f.seq.toNat with
        | none => dropReplay h p k f arrived b
        | some w =>
          let b := putContext (portLe k) p (if prev then { c with prev := some w, usedPrev := true } else { c with cur := w, used := true }) b
          let b := match (b.lePart (portLe k) p).record f.skind f.sender f.stream with
            | some r => putRecord (portLe k) p (if prev then { r with usedPrev := true } else { r with used := true }) b
            | none => b
          finish pt b

/-- Step 7 (R196, R198): the record synchronised for the epoch and a context, created when there is room; then `k'` with the floor. -/
def recordStep (h : Hard) (p : Part) (k : Port) (f : Frame) (arrived : Word) (prev : Bool) (k' : Nat → Block → Block) (b : Block) : Block :=
  let l := b.lePart (portLe k) p
  match l.record f.skind f.sender f.stream with
  | none => dropOther h p k f arrived (newRecord h p k f.skind f.sender f.stream false f.sport b)
  | some r =>
    let floor? : Option Nat := if prev then r.prevFloor else if r.st = 1 then some r.floor else none
    match floor? with
    | none =>
      let b := if r.scheduled && !r.skind then fetchIngress p k f.sender f.sport f.epoch (putRecord (portLe k) p { r with sport := f.sport } b) else b
      dropOther h p k f arrived b
    | some floor =>
      match l.context f with
      | some c =>
        let b := if prev && c.prev.isNone then putContext (portLe k) p { c with prev := some (Window.fresh floor) } b else b
        k' floor b
      | none =>
        if recordCap h.cfg ≤ l.contexts.length then
          dropOther h p k f arrived (linkNote h 0x0407 p k (fun n => [aHalf f.sender.toNat, aByte f.stream.toNat, aCount n]) b)
        else
          let c : Context := { skind := f.skind, sender := f.sender, sport := f.sport, stream := f.stream, cur := Window.fresh (if prev then 0 else floor),
                               prev := if prev then some (Window.fresh floor) else none, created := b.now, used := false, usedPrev := false }
          k' floor (modLePart (portLe k) p (fun l => { l with contexts := l.contexts ++ [c] }) b)

/-- A frame waits in the LE's input buffer. -/
def waitFrame (p : Part) (k : Port) (arrived : Word) (bs : Bytes) (b : Block) : Block :=
  modLePart (portLe k) p (fun l => { l with inbuf := l.inbuf ++ [{ port := k, arrived := arrived, frame := bs }] }) b

/-- A frame of an epoch R195 does not accept. -/
def rejectEpoch (h : Hard) (p : Part) (k : Port) (f : Frame) (arrived : Word) (b : Block) : Block :=
  ingressEmpty h p k f arrived (linkNote h 0x0403 p k (fun n => [aHalf f.sender.toNat, aW3 f.epoch.toNat, aW3 (b.epochSt p).epoch.toNat, aCount n])
    (modPortPart k p (fun x => { x with epochRej := x.epochRej + 1 }) b))

/-- Steps 6 to 12 of a data or control frame (R194). -/
def sealedSteps (h : Hard) (p : Part) (k : Port) (bs : Bytes) (f : Frame) (arrived : Word) (b : Block) : Block :=
  match b.jigOf p with
  | none => b
  | some j =>
    match epochCase (b.epochSt p) f.epoch arrived with
    | .reject => rejectEpoch h p k f arrived b
    | .early => waitFrame p k arrived bs b
    | c =>
      let prev := decide (c = .previous)
      let open' (b : Block) : Option (Option Bytes) := (b.ingressKey p k f.sender f.sport f.epoch).map fun key => openFrame key j.domainId j.memberIndex f
      let missing (b : Block) : Block :=
        if prev && !(b.epochSt p).kerf then dropOther h p k f arrived b
        else if f.cls = 1 ∧ scheduledIn b p f = true then
          let b := match (b.lePart (portLe k) p).record false f.sender f.stream with
            | some r => if r.scheduled then putRecord (portLe k) p { r with sport := f.sport } b else b
            | none => b
          dropOther h p k f arrived (fetchIngress p k f.sender f.sport f.epoch b)
        else waitFrame p k arrived bs (fetchIngress p k f.sender f.sport f.epoch b)
      if f.ftype = 2 then
        match open' b with
        | none => missing b
        | some none => dropTag h p k f arrived b
        | some (some pt) => deliver h p k f pt arrived b
      else recordStep h p k f arrived prev (fun floor => windowSteps h p k f arrived prev floor missing open' (fun pt => deliver h p k f pt arrived)) b

/-! ### Shapers and egress choice (R202 to R206) -/

/-- Rates in thousandths of a byte per tick, bursts in thousandths of a byte (R204, R206). -/
def c0Rate (x : PortSt) : Nat := 250 * max 1 x.c0Rate.toNat
def c0Burst (x : PortSt) : Nat := 1024000 * max 1 x.c0Burst.toNat
def c3Burst (x : PortPart) : Nat := 1024000 * max 1 x.c3Burst.toNat
def c3Rate (share : Nat) (x : PortPart) : Nat := if x.c3Rate = 0 then 3125 * share else min (3125 * share) (100 * x.c3Rate.toNat)

/-- Tokens after one tick (R204). -/
def refill (tokens : Int) (rate burst : Nat) : Int := min (tokens + rate) burst

/-- The cost of a frame (R205), in thousandths of a byte. -/
def frameCost (x : PortSt) (bytes : Nat) : Int := 1000 * ((bytes + if x.lenMode then 0 else x.overhead.toNat : Nat) : Int)

/-- Every shaper takes its tick (R204). -/
def refillAll (b : Block) : Block :=
  { b with ports := Tab.mapV b.ports fun _ x => { x with tokens := refill x.tokens (c0Rate x) (c0Burst x), bgTokens := refill x.bgTokens (100 * x.bgRate.toNat) 0 },
           pports := Tab.mapV b.pports fun n x =>
             let share := match b.jigOf (Fin.ofNat 8 (n % 8)) with | some j => j.share (portIsland (Fin.ofNat 64 (n / 8))) | none => 0
             { x with tokens := refill x.tokens (c3Rate share x) (c3Burst x) } }

/-- The next pin on a port (R202). -/
def nextPin (b : Block) (k : Port) : Option Nat :=
  ((b.shim.filter fun x => decide (x.1 = .egress k) && !x.2.slipped).map fun x => x.2.pin.toNat).min?

/-- The pin guard of R202. -/
def guardOk (b : Block) (k : Port) (bytes : Nat) : Bool :=
  match nextPin b k with
  | none => true
  | some t => decide (b.now.toNat + ((bytes + 24) * 5 + 999) / 1000 ≤ t)

/-- The frame a queued item becomes. -/
def frameOf (k : Port) (self : BitVec 16) (q : QFrame) (cls : BitVec 2) (epoch : BitVec 24) (seq : Nat) : Frame :=
  if q.ftype = 8 ∨ q.ftype = 4 then
    { ftype := q.ftype, cls := cls, cmark := false, skind := false, hops := 0, sender := if q.ftype = 8 then self else 0, stream := 0, epoch := 0, seq := 0, sport := BitVec.ofNat 6 k.val, payload := q.payload, tag := 0 }
  else
    { ftype := q.ftype, cls := cls, cmark := false, skind := false, hops := 0, sender := self, stream := q.stream, epoch := epoch, seq := BitVec.ofNat 48 seq,
      sport := BitVec.ofNat 6 k.val, payload := q.payload, tag := 0 }

/-- A queued frame is ready: an admission frame and, unless the port is held, a tray frame as they are (R201), a sealed one when the port's key can seal. -/
def qReady (b : Block) (k : Port) (q : QFrame) : Bool := if q.ftype = 4 then true else if q.ftype = 8 then !b.held q.part k else (b.egressSlot q.part k).isSome

/-- The side word of an admission frame: an announcement goes to the discovery address (R138, R191). -/
def envSide (domain : BitVec 32) (q : QFrame) : BitVec 64 :=
  if fieldAt q.payload 1 1 = 1 then (Config.discoverySide domain).setWidth 64 else sideOfMember domain q.destRef

/-- Sends a queued frame, sealed unless its type is not; a key at its limit refuses it (R126, R188, R189). -/
def sendQ (k : Port) (cls : BitVec 2) (q : QFrame) (b : Block) : Block :=
  match b.jigOf q.part with
  | none => b
  | some j =>
    let stamp (b : Block) : Block := match q.tag with | some t => stampTag q.part t b | none => b
    if q.ftype = 4 then emit (.frame k (envSide j.domainId q) (plainFrame (frameOf k j.memberIndex q cls 0 0) 0)) b
    else if q.ftype = 8 then
      let b := stamp b
      emit (.frame k (sideOfNode q.node) (plainFrame (frameOf k j.memberIndex q cls 0 0) 0)) b
    else match b.egressSlot q.part k with
      | none => b
      | some s =>
        let b := stamp b
        if b.usesFit (portIsland k) s 1 = false then emit (.cipherDone (portIsland k) q.part 0 stUsageLimit) b
        else
          let e := b.epochNow q.part
          let f := frameOf k j.memberIndex { q with payload := payloadNow b q } cls e (b.seqOf q.part k e q.stream)
          let key := match b.cached (portIsland k) s with | some c => c.value | none => 0
          let out := Out.frame k (sideOfMember j.domainId q.destRef) (sealFrame key j.domainId q.dest f)
          emit out (countUses (portIsland k) s 1 (takeSeq q.part k e q.stream b))

/-- The class 0 frame the port would send: partitions in turn from `turn0`, of each its first frame that is ready (R202); while halted a clamp notice alone (R371). -/
def pick0 (b : Block) (k : Port) : Option QFrame :=
  let x := b.port k
  let qs := if b.rst.halted then (x.queue0 ++ x.wait0).filter fun q => q.notice else x.queue0
  (List.range 8).findSome? fun d => qs.find? fun q => decide (q.part.val = (x.turn0 + d) % 8) && qReady b k q

/-- The class 3 frame the port would send: the lowest partition whose first frame may start (log entry 15). -/
def pick3 (c : Cfg) (b : Block) (k : Port) : Option QFrame :=
  allParts.findSome? fun p =>
    let x := b.portPart k p
    match x.queue3 with
    | [] => none
    | q :: _ => if decide (0 ≤ x.tokens) && qReady b k q && guardOk b k (qBytes q) && (match q.tag with | some t => chooseOk c b p t | none => true) then some q else none

/-! ### Patterns (R208 to R210) -/

/-- The next bit of a pattern: PRBS7, PRBS15 or PRBS31 over a register whose bit i is the bit sent i + 1 bits ago. -/
def prbsBit (pat : Nat) (r : BitVec 31) : Bool :=
  match pat with
  | 0 => r.getLsbD 6 != r.getLsbD 5
  | 1 => r.getLsbD 14 != r.getLsbD 13
  | _ => r.getLsbD 30 != r.getLsbD 27

def prbsPush (r : BitVec 31) (x : Bool) : BitVec 31 := (r <<< 1) ||| BitVec.ofNat 31 (bit x)

/-- `n` bits of a pattern and the register after them, least significant bit first. -/
def prbsRun (pat : Nat) : Nat → BitVec 31 → List Bool × BitVec 31
  | 0, r => ([], r)
  | n + 1, r =>
    let x := prbsBit pat r
    let t := prbsRun pat n (prbsPush r x)
    (x :: t.1, t.2)

def bitsVal : List Bool → Nat
  | [] => 0
  | x :: t => bit x + 2 * bitsVal t

/-- Register length of a pattern. -/
def prbsLen (pat : Nat) : Nat := match pat with | 0 => 7 | 1 => 15 | _ => 31

/-- The pattern a setting generates: the sealed pattern's plaintext is PRBS31 (R210). -/
def patternOf (x : PortSt) : Nat := min 2 x.pattern.toNat

/-- The known-answer slot (R211): values outside 2 to 7 are taken as 2. -/
def patSlot (x : PortSt) : Nat := if 2 ≤ x.keySlot.toNat ∧ x.keySlot.toNat ≤ 7 then x.keySlot.toNat else 2

/-- The next pattern frame of a port (R209, R210). -/
def patternFrame (b : Block) (k : Port) : Bytes × PortSt :=
  let x := b.port k
  let r := prbsRun (patternOf x) 4096 x.patReg
  let bits := if x.inject then (match r.1 with | y :: t => (!y) :: t | [] => []) else r.1
  let sealed' := decide (x.pattern = 3)
  let f : Frame := { ftype := if sealed' then 7 else 6, cls := 3, cmark := false, skind := false, hops := 0, sender := 0, stream := if sealed' then 0xFF else 0, epoch := 0,
                     seq := x.patSeq, sport := BitVec.ofNat 6 k.val, payload := leBytes 512 (bitsVal bits), tag := 0 }
  let key := match b.cached (portIsland k) (BitVec.ofNat 12 (patSlot x)) with | some c => c.value | none => 0
  (if sealed' then sealFrame key 0 0 f else plainFrame f 0,
    { x with patSeq := x.patSeq + 1, patReg := r.2, inject := false })

/-- A sealed pattern may run on the port: in mode 2, on an Open chip in mode 1 too, and only where cells are unowned (R210). -/
def sealedPatternRuns (b : Block) (k : Port) : Bool :=
  let m := (b.port k).mode
  (decide (m = 2) || (decide (m = 1) && !lcClosed b)) && decide (shareSum b (portIsland k) < 64)

/-- The known-answer key of the port's sealed pattern is asked for where its LE lacks it (R130, R210). -/
def wantPattern (k : Port) (b : Block) : Block :=
  let x := b.port k
  if decide (x.pattern = 3) && (x.genEn || x.chkEn) && sealedPatternRuns b k then wantKey (portIsland k) (BitVec.ofNat 12 (patSlot x)) b else b

/-- The generator has a frame to send: mode 2 at the full rate, mode 1 at `BG_RATE`; a sealed pattern once its key is on the LE (R208, R210). -/
def patternReady (b : Block) (k : Port) : Bool :=
  let x := b.port k
  x.genEn && (decide (x.mode = 2) || (decide (x.mode = 1) && decide (x.bgRate ≠ 0) && decide (0 ≤ x.bgTokens) && guardOk b k 544))
    && (decide (x.pattern ≠ 3) || (sealedPatternRuns b k && (b.cached (portIsland k) (BitVec.ofNat 12 (patSlot x))).isSome))

def sendPattern (k : Port) (b : Block) : Block :=
  let r := patternFrame b k
  emit (.frame k 0 r.1) (modPort k (fun _ => { r.2 with bgTokens := if r.2.mode = 1 then r.2.bgTokens - 1000 * 544 else r.2.bgTokens }) b)

/-- Bits of a payload that differ from the pattern its first bits start (R209). -/
def patternErrors (pat : Nat) (payload : Bytes) : Nat :=
  let n := prbsLen pat
  let bits := (List.range (8 * payload.length)).map fun i => (leVal payload).testBit i
  let reg := (bits.take n).foldl prbsPush 0
  let want := (prbsRun pat (bits.length - n) reg).1
  ((bits.drop n).zip want).countP fun y => y.1 != y.2

/-- The port's condition of its level source (R358). -/
def portLevel (x : PortSt) : Bool := !x.linkUp || (x.chkEn && !x.lock)

def setPortLevel (h : Hard) (k : Port) (b : Block) : Block := setLevel h (352 + k.val) (portLevel (b.port k)) b

/-- `EV_LINK_PATTERN` (R213). -/
def patternNote (h : Hard) (k : Port) (cause : Nat) (b : Block) : Block :=
  noteLimited h 0x040C (portLe k).val none (32 + k.val) (fun n => [aByte k.val, aByte cause, aCount n]) b

/-- The checker takes a frame's payload (R209). -/
def checkPayload (h : Hard) (k : Port) (pat : Nat) (payload : Bytes) (b : Block) : Block :=
  let x := b.port k
  let n := patternErrors pat payload
  let bad := if 64 < n then x.patBad + 1 else 0
  let lost := x.lock && decide (4 ≤ bad)
  let b := modPort k (fun x => { x with bitErr := if x.lock then x.bitErr + BitVec.ofNat 32 n else x.bitErr, patBad := bad, lock := if n = 0 then true else if lost then false else x.lock }) b
  let b := if lost then patternNote h k 2 b else b
  setPortLevel h k b
/-- A pattern frame reaches the checker (R209, R210). DESIGN CHOICE (log entry 84): a sealed one is not checked until the LE has its key. -/
def checkPattern (h : Hard) (k : Port) (f : Frame) (b : Block) : Block :=
  let x := b.port k
  let ent := b.cached (portIsland k) (BitVec.ofNat 12 (patSlot x))
  if !x.chkEn then b
  else if f.ftype = 7 ∧ (sealedPatternRuns b k = false ∨ ent.isNone = true) then wantPattern k b
  else
    let gap := match x.patWant with | some w => (f.seq - w).toNat | none => 0
    let b := modPort k (fun x => { x with frames := x.frames + 1, patWant := some (f.seq + 1), missing := if gap < 2 ^ 47 then x.missing + BitVec.ofNat 12 gap else x.missing }) b
    if f.ftype = 6 then checkPayload h k (patternOf x) f.payload b
    else match ent.bind fun c => openFrame c.value 0 0 f with
      | none => modPort k (fun x => { x with tagFail := x.tagFail + 1 }) b
      | some pt => checkPayload h k 2 pt b

/-- PATTERN_CTL_WRITE (R209, R210, R211): a new pattern, or the generator's start, begins a run, with `SEQ` 0. DESIGN CHOICE (log entry 88): the generator's register starts at 1. -/
def patternCtlWritten (h : Hard) (port : Port) (val : Word) (b : Block) : Block :=
      let pat := wbits val 8 2
      let on := wbit val 0 || wbit val 1
      let x := b.port port
      let no := decide (pat = 3) && on && lcClosed b && decide (x.mode = 0 ∨ x.mode = 1)
      let chk := wbit val 1 && !no
      let gen := wbit val 0 && !no
      let b := modPort port (fun x => { x with bgRate := BitVec.ofNat 16 (wbits val 32 16), keySlot := BitVec.ofNat 4 (wbits val 24 4), inject := x.inject || wbit val 16,
                                               pattern := BitVec.ofNat 2 pat, chkEn := chk, genEn := gen, refused := no }) b
      let b := if x.pattern.toNat ≠ pat ∨ (gen && !x.genEn) then modPort port (fun x => { x with patSeq := 0, patReg := 1 }) b else b
      let b := if chk && !x.chkEn then modPort port (fun x => { x with bitErr := 0, tagFail := 0, missing := 0, lock := false, frames := 0, patWant := none, patBad := 0 }) b else b
      setPortLevel h port (wantPattern port b)

/-- PATTERN_INJECT (R209). -/
def execPatternInject (port : Port) (s : State) : Host.Outcome State Fault Refusal :=
  onB (fun h => whenUp fun b => if portPresent h.cfg port && !b.rst.halted then modPort port (fun x => { x with inject := true }) b else b) s

/-- A write of mode 2 or 3 that R208 refuses: a loaded partition has schedule entries on the port. -/
def modeRefused (b : Block) (port : Port) (mode : BitVec 2) : Bool :=
  decide (mode = 2 ∨ mode = 3) && allParts.any fun p => (b.entries p).any fun e => decide (e.port = port.val)

/-- An accepted mode waits for the queues to drain, unless it is the mode in force. -/
def PortSt.takeMode (mode : BitVec 2) (now : Word) (x : PortSt) : PortSt :=
  { x with modeReg := mode,
           drain := if mode = x.mode then none else match x.drain with | some (m, t) => if m = mode then some (m, t) else some (mode, now) | none => some (mode, now) }

/-- PORT_MODE_WRITE (R208). -/
def portModeWritten (h : Hard) (port : Port) (mode : BitVec 2) (b : Block) : Block :=
  if modeRefused b port mode then patternNote h port 1 b else modPort port (PortSt.takeMode mode b.now) b

/-- A port's link goes up or down. -/
def linkUpChange (h : Hard) (k : Port) (up : Bool) (b : Block) : Block :=
  setPortLevel h k (modPort k (fun x => { x with linkUp := up, downSince := if up then x.downSince else if x.linkUp then b.now else x.downSince }) b)

/-- A class 0 frame leaves its queue; the next at the crossing enters (R203, R204). -/
def send0 (k : Port) (q : QFrame) (cost : Int) (b : Block) : Block :=
  sendQ k 0 q (modPort k (fun x => { (PortSt.put0 b.now [] { x with queue0 := x.queue0.erase q, wait0 := if x.queue0.contains q then x.wait0 else x.wait0.erase q }) with
    turn0 := (q.part.val + 1) % 8, tokens := x.tokens - cost }) b)

/-- A class 3 frame leaves its queue. -/
def send3 (k : Port) (q : QFrame) (cost : Int) (b : Block) : Block :=
  sendQ k 3 q (modPortPart k q.part (fun y => { (PortPart.put3 b.now [] { y with queue3 := y.queue3.erase q }) with carried3 := true, tokens := y.tokens - cost }) b)

/-- The port starts a frame between pins: class 0 before class 3, then patterns; a lost timebase leaves class 0 alone (R36), a halted block clamp notices (R371), mode 2 patterns (R208). -/
def egressStart (h : Hard) (port : Port) (b : Block) : Block :=
  let x := b.port port
  let i := b.island (portIsland port)
  if !portPresent h.cfg port || i.inReset then b
  else if b.rst.halted then (match pick0 b port with | some q => send0 port q 0 b | none => b)
  else if i.asleep || decide (x.mode = 3) then b
  else if x.mode = 2 then (if patternReady b port then sendPattern port b else wantPattern port b)
  else
    let b := x.queue0.foldl (fun b q => if q.ftype = 4 then b else keyPort h q.part port b) b
    let b := allParts.foldl (fun b p => if (b.portPart port p).queue3.any fun q => decide (q.ftype ≠ 8) then keyPort h p port b else b) b
    match (if 0 ≤ x.tokens then pick0 b port else none) with
    | some q => if guardOk b port (qBytes q) then send0 port q (frameCost x (qBytes q)) b else b
    | none =>
      if b.clk.lost then b
      else match pick3 h.cfg b port with
        | some q => send3 port q (frameCost x (qBytes q)) b
        | none => if patternReady b port then sendPattern port b else wantPattern port b

/-- EGRESS_FRAME_START (R202, R204, R208, R371). -/
def execEgressFrameStart (port : Port) (s : State) : Host.Outcome State Fault Refusal :=
  onB (fun h b => if b.up && b.clk.loaded then egressStart h port b else b) s

/-! ### Queue samples (R207, R212) -/

/-- A partition's frames in a queue as (bytes, tick of enqueue or start point). -/
def queueOf (b : Block) (p : Part) (k : Port) (cls : Nat) : List (Nat × Word) :=
  match cls with
  | 0 => ((b.port k).queue0.filter fun q => decide (q.part = p)).map fun q => (qBytes q, q.tick)
  | 3 => (b.portPart k p).queue3.map fun q => (qBytes q, q.tick)
  | c => (b.shim.filter fun x => decide (x.1 = .egress k) && decide (x.2.part = p) && decide (x.2.cls.toNat = c)).map fun x =>
      ((x.2.outs.map fun o => match o with | .frame _ _ d => d.length | _ => 0).sum + (match x.2.job with | some q => qBytes q | none => 0), x.2.start)

/-- Depth and delay of a queue now (R207). -/
def sampleOf (b : Block) (p : Part) (k : Port) (cls : Nat) (seq : BitVec 16) : QSample :=
  let q := queueOf b p k cls
  { depth := BitVec.ofNat 24 (satNat 24 (q.map fun x => x.1).sum), delay := BitVec.ofNat 24 (satNat 24 ((q.map fun x => since b x.2).foldl max 0)), seq := seq }

def QSample.zero : QSample := { depth := 0, delay := 0, seq := 0 }

/-- The maxima of a queue after a sample: `seq` is that of the largest delay. -/
def QSample.most (m x : QSample) : QSample :=
  { depth := if m.depth.toNat < x.depth.toNat then x.depth else m.depth, delay := if m.delay.toNat < x.delay.toNat then x.delay else m.delay,
    seq := if m.delay.toNat < x.delay.toNat then x.seq else m.seq }

/-- One sample of every queue of a partition on an LE; a queue that holds nothing and never did stays unlisted. -/
def samplePart (n : Nat) (p : Part) (b : Block) : Block :=
  let l := b.lePart (Fin.ofNat 16 n) p
  let seq := l.sampSeq + 1
  let r := (List.range 16).foldl (fun (acc : Tab QSample × Tab QSample) i =>
    let x := sampleOf b p (Fin.ofNat 64 (4 * n + i / 4)) (i % 4) seq
    if x.depth = 0 ∧ x.delay = 0 ∧ Tab.has acc.1 i = false then acc
    else (Tab.set acc.1 i x, Tab.set acc.2 i ((Tab.getD acc.2 i QSample.zero).most x))) (l.samples, l.maxima)
  modLePart (Fin.ofNat 16 n) p (fun l => { l with samples := r.1, maxima := r.2, sampSeq := seq }) b

/-- QUEUE_SAMPLE (R207). -/
def execQueueSample (s : State) : Host.Outcome State Fault Refusal :=
  onB (fun h => whenLive fun b =>
    if b.now.toNat % 1000 ≠ 0 then b
    else (List.range (leCount h.cfg)).foldl (fun b n => allParts.foldl (fun b p => samplePart n p b) b) b) s

/-- QSEL_WRITE (R212). -/
def qselWritten (le : Fin 16) (part : Part) (val : Word) (b : Block) : Block := modLePart le part (fun l => { l with qsel := BitVec.ofNat 4 (wbits val 0 4), maxima := [] }) b

/-! ### Epochs (R200, R201, R193) -/

/-- Starts the change of one egress key to the epoch `e`, to commit at its boundary `commit` or, for a retry, not before it (R200, R201). -/
def changeEgress (p : Part) (k : Port) (e : BitVec 24) (commit notBefore : Word) (b : Block) : Block :=
  match (b.portPart k p).egressKey with
  | none => b
  | some (s, old) =>
    if old = e ∨ (b.repl s.toNat).isSome then b
    else
      let l : LinkRef := { sender := b.selfIndex p, port := BitVec.ofNat 6 k.val, epoch := e, egress := true }
      let r : Repl := { Repl.plain none commit with notBefore := notBefore, await := (b.egressPeers p k).map accel, link := some l }
      match startRepl s (linkKeyVal b p l) r b with
      | .inl (_, cause) => modPortPart k p (fun x => { x with failed := some (e, cause) }) b
      | .inr b => b

/-- The slot of a port's key for an epoch that has not been committed: one derived by an earlier attempt, or a new one. -/
def attemptKey (p : Part) (l : LinkRef) (b : Block) : Option (Slot × Block) :=
  match (b.epochSt p).keys.find? fun x => decide (x.ref = l) && b.slotLive x.slot.toNat with
  | some x => some (x.slot, b)
  | none => newLinkKey p l b

/-- A retry at keying (R201): the key for the current epoch is derived, confirmed by the members named as `PEER` on the port, and commits at its confirmation. -/
def retryKeying (p : Part) (k : Port) (e : BitVec 24) (b : Block) : Block :=
  let l : LinkRef := { sender := b.selfIndex p, port := BitVec.ofNat 6 k.val, epoch := e, egress := true }
  match attemptKey p l b with
  | none => b
  | some (s, b) =>
    if (b.repl s.toNat).isSome then b
    else match startRepl s (b.keyVal s) { Repl.plain none 0 with await := (b.egressPeers p k).map accel, link := some l } b with
      | .inl (_, cause) => modPortPart k p (fun x => { x with failed := some (e, cause) }) b
      | .inr b => b

/-- The ports whose egress key changes with the epoch: those with egress entries, or with class 3 frames in it (R200). -/
def changingPorts (h : Hard) (b : Block) (p : Part) : List Port :=
  ((List.range (portCount h.cfg)).map fun k => Fin.ofNat 64 k).filter fun k => (b.entriesOn p k true) ≠ [] || (b.portPart k p).carried3

/-- REKEY_START (R200). -/
def execRekeyStart (part : Part) (s : State) : Host.Outcome State Fault Refusal :=
  onB (fun h => whenLive fun b =>
    match b.jigOf part with
    | none => b
    | some j =>
      let e := (b.epochSt part).epoch + 1
      let at' := epochStart j e
      if !b.keyed part || decide (b.now.toNat + 1000000 < at') || decide (at' ≤ b.now.toNat) then b
      else
        let b := (changingPorts h b part).foldl (fun b k => changeEgress part k e (BitVec.ofNat 64 at') 0 (modPortPart k part (fun x => { x with tried := none }) b)) b
        (b.epochSt part).keys.foldl (fun b x =>
          if x.ref.egress ∨ x.ref.epoch + 1 ≠ e ∨ (b.repl x.slot.toNat).isSome then b
          else
            let l : LinkRef := { x.ref with epoch := e }
            match startRepl x.slot (linkKeyVal b part l) { Repl.plain none (BitVec.ofNat 64 at') with link := some l } b with
            | .inl _ => b
            | .inr b => b) b) s

/-- REKEY_RETRY (R201): at once, then every 1 ms, until a change commits or the next boundary comes. -/
def execRekeyRetry (part : Part) (port : Port) (s : State) : Host.Outcome State Fault Refusal :=
  onB (fun _ => whenLive fun b =>
    match b.jigOf part, (b.portPart port part).failed with
    | some j, some (e, _) =>
      let x := b.portPart port part
      let cur := (b.epochSt part).epoch
      let early := match x.tried with | some t => decide (since b t < 1000000) | none => false
      if !b.keyed part || decide (e ≠ cur ∧ e ≠ cur + 1) || early then b
      else
        let b := modPortPart port part (fun x => { x with tried := some b.now }) b
        if x.egressKey.isSome then changeEgress part port e 0 (BitVec.ofNat 64 (epochStart j e)) b else retryKeying part port cur b
    | _, _ => b) s

/-- The boundary on the sending side and for the records (R192, R196, R198, R200, R201). -/
def boundary (h : Hard) (p : Part) (j : Jig) (b : Block) : Block :=
  let e := (b.epochSt p).epoch + 1
  let b := modEpoch p (fun x => { x with epoch := e, kerf := true, start := BitVec.ofNat 64 (epochStart j e) }) b
  let b := (b.epochSt p).keys.foldl (fun b x => dueRepl h x.slot b) b
  let b := ((List.range (portCount h.cfg)).map fun k => Fin.ofNat 64 k).foldl (fun (b : Block) (k : Port) =>
    let x := b.portPart k p
    let b := if x.seqs = [] ∧ x.carried3 = false then b else modPortPart k p (fun x => { x with seqs := Tab.keep x.seqs fun n _ => decide (e.toNat ≤ n / 256 + 1), carried3 := false }) b
    let due := decide (b.entriesOn p k true ≠ []) || x.carried3
    let ok := match x.egressKey with | some g => decide (g.2 = e) | none => false
    if due && !ok then
      holdPort h p k e (match x.failed with | some (e', c) => if e' = e then c else 6 | none => 6) b
    else b) b
  (List.range (leCount h.cfg)).foldl (fun b n =>
    if Tab.has b.lparts (8 * n + p.val) = false then b
    else modLePart (Fin.ofNat 16 n) p (fun l =>
      { l with records := l.records.map fun r => { r with prevFloor := if r.st = 1 then some r.floor else none, st := 1, floor := 0, usedPrev := r.used, used := false },
               contexts := l.contexts.map fun c => { c with prev := some c.cur, cur := Window.fresh 0, usedPrev := c.used, used := false } }) b) b

/-- A sealed frame of an epoch that may leave no longer (R193): the tick lies past the boundary after its epoch and 1,250 ticks. Frames of `FTYPE` 0x3 belong to no epoch (R237). -/
def staleAt (b : Block) (x : Pinned) (t : Nat) : Bool :=
  let waits := match x.job with | some q => decide (q.ftype ≠ 3) | none => false
  (x.sealed' || waits) && decide (b.epochTick x.part (x.epoch + 1) + 1250 ≤ t)
def staleNow (b : Block) (x : Pinned) : Bool := staleAt b x b.now.toNat

/-- Drops a stale frame of a port (R193). -/
def dropStale (h : Hard) (k : Port) (x : Pinned) (b : Block) : Block :=
  linkNote h 0x0409 x.part k (fun n => [aByte x.stream.toNat, aW3 x.epoch.toNat, aCount n]) { b with shim := b.shim.filter fun y => decide (y ≠ (.egress k, x)) }

/-- STALE_DROP (R193). -/
def execStaleDrop (part : Part) (s : State) : Host.Outcome State Fault Refusal :=
  onB (fun h => whenLive fun b =>
    b.shim.foldl (fun b y => match y.1 with
      | .egress k => if y.2.part = part ∧ staleNow b y.2 = true then dropStale h k y.2 b else b
      | _ => b) b) s

/-! ### Scheduled egress (R37, R189, R193, R201) -/

/-- The egress entry of a class whose slot begins at tick `t` on the port. -/
def entryAt (sc : Schedule) (k : Port) (t : Nat) (cls : BitVec 2) : Option SchedEntry :=
  if t < sc.cycleZero ∨ sc.slotTicks = 0 ∨ (t - sc.cycleZero) % sc.slotTicks ≠ 0 then none
  else sc.entries.find? fun e => e.egress && decide (e.slot = sc.slotAt t) && decide (e.port = k.val) && decide (e.cls = cls)

/-- Egress of the partition on the port stands still: no key, held from this slot on, timebase lost, or the LE in reset (R36, R201). -/
def egressStopped (b : Block) (p : Part) (k : Port) : Bool :=
  let i := b.island (portIsland k)
  !b.keyed p || b.held p k || b.clk.lost || i.inReset || i.asleep || decide ((b.port k).mode = 2 ∨ (b.port k).mode = 3)

/-- The entry of the LE that seals frames of epoch `e` on the port, when it has it: none starts at or after the next boundary (R193). -/
def sealEntry (b : Block) (p : Part) (k : Port) (e : BitVec 24) : Option (Slot × CacheEnt) :=
  match (b.portPart k p).egressKey with
  | some (s, e') => if e' = e ∧ b.now.toNat < b.epochTick p (e + 1) then ((b.cached (portIsland k) s).map fun c => (s, c)) else none
  | none => none

/-- Seals a job's frame, its sequence number given. -/
def sealJob (b : Block) (p : Part) (k : Port) (q : QFrame) (cls : BitVec 2) (e : BitVec 24) (seq : Nat) (c : CacheEnt) : Option Out :=
  (b.jigOf p).map fun j => Out.frame k (sideOfMember j.domainId q.destRef) (sealFrame c.value j.domainId q.dest (frameOf k j.memberIndex q cls e seq))

/-- A class 1 slot's data: sealed towards the egress pin, or left for its key (R37, R39). -/
def sealScheduled (h : Hard) (p : Part) (k : Port) (sc : Schedule) (e : SchedEntry) (j : Jig) (t : Word) (data : Bytes) (b : Block) : Block :=
  let ep := epochAt j t
  let len := (min 512 data.length + 7) / 8 * 8
  let q : QFrame := { part := p, ftype := 1, stream := e.stream, dest := e.peer, switch := false, node := 0, payload := padTo len (data.take 512), tick := b.now, notice := false, tag := none }
  let seq := b.seqOf p k ep e.stream
  let pin := t + BitVec.ofNat 64 (egressPin h.cfg sc)
  let x : Pinned := { part := p, cls := 1, seq := seq, start := t, pin := pin, ready := false, readyAt := 0, slipped := false, sealed' := false, epoch := ep,
                      stream := e.stream, outs := [], req := none, use := none, job := some q, veneer := none, region := none }
  match sealEntry b p k ep with
  | some (s, c) =>
    if b.usesFit (portIsland k) s 1 = false then emit (.cipherDone (portIsland k) p 0 stUsageLimit) b
    else pushPinned (.egress k) { x with ready := true, readyAt := b.now, sealed' := true, outs := (sealJob b p k q 1 ep seq c).toList, job := none }
      (countUses (portIsland k) s 1 (takeSeq p k ep e.stream b))
  | none =>
    match (b.portPart k p).egressKey with
    | none => b
    | some (s, _) => pushPinned (.egress k) x (wantKey (portIsland k) s (takeSeq p k ep e.stream b))

end Sys2Proof.Machine
end

