-- ==== Sys2Proof/Machine/Veneer.lean ====
section
/-! DEFINITION. Veneer (R214 to R244): the prime field and the element formats, masks and tags, contributions, the checks on a result, the running scale table, steps with their records, arms and halts. -/

namespace Sys2Proof.Machine

/-! ### The field (R214, R215) -/

/-- p = 2^31 − 1. -/
def vp : Nat := 2147483647

/-- A 32-bit word that is a field word (R214). -/
def canonical (w : Nat) : Bool := decide (w < vp)

/-- A signed integer as a field value (R215). -/
def toField (q : Int) : Nat := (q % (vp : Int)).toNat

/-- The signed integer of a field value (R215). -/
def ofField (v : Nat) : Int := if v ≤ 1073741823 then (v : Int) else (v : Int) - (vp : Int)

/-- ⌈log2 n⌉ (R215). -/
def ceilLog2 (n : Nat) : Nat := if n ≤ 1 then 0 else Nat.log2 (n - 1) + 1

/-- Q_max of a group of n members (R215). -/
def qMax (n : Nat) : Nat := 2 ^ (30 - ceilLog2 n) - 1

/-! ### Formats (R216 to R219) -/

/-- A float format of R216: exponent bits, mantissa bits, bias. PRESUMED (log entry 17): R216 names the formats, whose layouts are IEEE 754 and the usual bf16, E4M3 and E5M2. -/
def fmtFloat : Nat → Option (Nat × Nat × Nat)
  | 1 => some (8, 23, 127)
  | 2 => some (8, 7, 127)
  | 3 => some (5, 10, 15)
  | 4 => some (4, 3, 7)
  | 5 => some (5, 2, 15)
  | _ => none

/-- Element size in bytes (R216). -/
def fmtBytes : Nat → Nat
  | 1 | 8 => 4
  | 2 | 3 | 7 => 2
  | _ => 1

/-- An element's value: a NaN, an infinity, or sign, mantissa and binary exponent: ±m × 2^e. -/
inductive Elem where
  | nan
  | inf (neg : Bool)
  | num (neg : Bool) (m : Nat) (e : Int)
  deriving DecidableEq, Repr

/-- Reads an element (R216, R217 step 1). -/
def elemOf (fmt raw : Nat) : Elem :=
  match fmtFloat fmt with
  | none =>
    let v := (BitVec.ofNat (8 * fmtBytes fmt) raw).toInt
    .num (decide (v < 0)) v.natAbs 0
  | some (eb, mb, bias) =>
    let neg := decide (bitsOf raw (eb + mb) 1 = 1)
    let ex := bitsOf raw mb eb
    let mt := bitsOf raw 0 mb
    if fmt = 4 ∧ ex = 15 ∧ mt = 7 then .nan
    else if fmt ≠ 4 ∧ ex = 2 ^ eb - 1 then (if mt = 0 then .inf neg else .nan)
    else if ex = 0 then .num neg mt (1 - (bias : Int) - (mb : Int))
    else .num neg (2 ^ mb + mt) ((ex : Int) - (bias : Int) - (mb : Int))

/-- Quotient to nearest, ties to even. -/
def roundDiv (n d : Nat) : Nat :=
  let q := n / d
  let r := n % d
  if 2 * r < d then q else if d < 2 * r then q + 1 else if q % 2 = 0 then q else q + 1

/-- m × 2^e to nearest, ties to even. -/
def roundPow (m : Nat) (e : Int) : Nat := if 0 ≤ e then m * 2 ^ e.toNat else roundDiv m (2 ^ (-e).toNat)

/-- ⌊y + u / 2^32⌋ for y = ±m × 2^e (R218). -/
def roundStoch (neg : Bool) (m : Nat) (e : Int) (u : Nat) : Int :=
  let sm : Int := if neg then -(m : Int) else (m : Int)
  if 0 ≤ e then sm * 2 ^ e.toNat
  else
    let d : Int := 2 ^ (-e).toNat
    Int.fdiv (sm * 4294967296 + (u : Int) * d) (d * 4294967296)

/-- The mixer of R218, modulo 2^64. -/
def mix (z : Word) : Word :=
  let z := (z ^^^ (z >>> 30)) * 0xBF58476D1CE4E5B9
  let z := (z ^^^ (z >>> 27)) * 0x94D049BB133111EB
  z ^^^ (z >>> 31)

/-- u of R218: group, step, position, block, element. -/
def stochU (group : BitVec 32) (step i b j : Nat) : Nat :=
  let seed := mix (BitVec.ofNat 64 (group.toNat + step % 2 ^ 32 * 2 ^ 32))
  (mix (seed + BitVec.ofNat 64 (i * 2 ^ 32 + b * 32 + j) * 0x9E3779B97F4A7C15)).toNat % 2 ^ 32

/-- Input conversion (R217): the contribution and whether it saturates. `u` is the stochastic value where `ROUNDING` is 1. -/
def convIn (q : Nat) (k : Int) (u : Option Nat) : Elem → Int × Bool
  | .nan => (0, true)
  | .inf neg => (if neg then -(q : Int) else (q : Int), true)
  | .num neg m e =>
    let r : Int := match u with
      | none => if neg then -(roundPow m (e + k) : Int) else (roundPow m (e + k) : Int)
      | some u => roundStoch neg m (e + k) u
    if q < r.natAbs then (if neg then -(q : Int) else (q : Int), true) else (r, false)

/-- Exponent of the leading bit of the largest finite value, and its mantissa with the leading bit (R216). -/
def fmtMax (fmt : Nat) : Int × Nat :=
  match fmtFloat fmt with
  | some (eb, mb, bias) => if fmt = 4 then (8, 14) else ((2 ^ eb - 2 : Int) - (bias : Int), 2 ^ (mb + 1) - 1)
  | none => (0, 0)

/-- A magnitude a × 2^x as a float: rounded to nearest even, then clamped to the largest finite value (R219); the bits without sign, and whether it was clamped. -/
def floatBits (fmt a : Nat) (x : Int) : Nat × Bool :=
  match fmtFloat fmt with
  | none => (0, false)
  | some (_, mb, bias) =>
    if a = 0 then (0, false)
    else
      let ex : Int := max ((Nat.log2 a : Int) + x) (1 - (bias : Int))
      let mant := roundPow a (x + (mb : Int) - ex)
      let (mant, ex) := if 2 ^ (mb + 1) ≤ mant then (mant / 2, ex + 1) else (mant, ex)
      let top := fmtMax fmt
      let big := decide (2 ^ mb ≤ mant) && (decide (top.1 < ex) || (decide (ex = top.1) && decide (top.2 < mant)))
      let (mant, ex) := if big then (top.2, top.1) else (mant, ex)
      (if 2 ^ mb ≤ mant then (ex + (bias : Int)).toNat * 2 ^ mb + (mant - 2 ^ mb) else mant, big)

/-- Output conversion of a decoded sum (R219): the element's bits, and whether it was clamped. -/
def convOut (fmt : Nat) (s k : Int) : Nat × Bool :=
  match fmtFloat fmt with
  | some (eb, mb, _) =>
    let r := floatBits fmt s.natAbs (-k)
    (r.1 + if s < 0 then 2 ^ (eb + mb) else 0, r.2)
  | none =>
    let w := 8 * fmtBytes fmt
    let a := roundPow s.natAbs (-k)
    let q : Int := if s < 0 then -(a : Int) else (a : Int)
    let top : Int := 2 ^ (w - 1) - 1
    let c : Int := max (-top) (min q top)
    ((BitVec.ofInt w c).toNat, decide (c ≠ q))

/-- The elements of a byte string. -/
def elemsOf (fmt : Nat) (bs : Bytes) : List Nat := (chunks (fmtBytes fmt) bs.length bs).map leVal

/-! ### The scale table (R221) -/

/-- The exponent of a block for the next step. -/
def nextExp (k : Int) (target : Nat) (sums : List Int) : Int :=
  let m := (sums.map Int.natAbs).foldl max 0
  if m = 0 then k else max (-128) (min 127 (k + (target : Int) - ((Nat.log2 m + 1 : Nat) : Int)))

/-! ### Masks and tags (R222 to R225) -/

/-- Field value of a 32-bit stream word (R223). -/
def fieldWord (w : Nat) : Nat := if w % 2 ^ 31 = vp then 0 else w % 2 ^ 31

/-- Word `w` of the mask stream of a kind and role (R223). -/
def streamWord (key : Key) (kind role w : Nat) : Nat :=
  let ctr := leBytes 4 (w / 4) ++ leBytes 2 role ++ leBytes 1 kind ++ leBytes 9 0
  fieldWord (fieldAt (blockBytes (Config.aes256 key (blockOf ctr))) (4 * (w % 4)) 4)

/-- α^c_j (R222). -/
def alphaOf (m : VMask) (c j : Nat) : Nat := fieldWord (bitsOf m.alpha.toNat (32 * (32 * (c - 1) + j)) 32)

/-- Role of a position in a frame (R224). -/
def roleOf (i n f : Nat) : Nat := (i + n - f % n) % n

/-- Data mask m[b, j] of role r (R224). -/
def dataMask (key : Key) (n r b j : Nat) : Nat :=
  let w := 32 * b + j
  let next := if r + 1 = n then 0 else r + 1
  (streamWord key 0 r w + vp - streamWord key 0 next w + if r + 1 = n then streamWord key 2 0 w else 0) % vp

/-- Tag mask β^c[b] of role r (R224). -/
def tagMask (key : Key) (n r b c : Nat) : Nat :=
  let w := 4 * b + c - 1
  let next := if r + 1 = n then 0 else r + 1
  (streamWord key 1 r w + vp - streamWord key 1 next w + if r + 1 = n then streamWord key 3 0 w else 0) % vp

/-- Σ α^c_j × v_j modulo p (R225). -/
def alphaSum (m : VMask) (c : Nat) : Nat → List Nat → Nat
  | _, [] => 0
  | j, v :: t => (alphaOf m c j * v + alphaSum m c (j + 1) t) % vp

/-- The 34 words of a contributed block (R224, R225, R227). -/
def blockWords (m : VMask) (n r b : Nat) (qs : List Int) : List Nat :=
  let v := (List.range 32).map fun j => (toField (qs.getD j 0) + dataMask m.key n r b j) % vp
  let tag (c : Nat) : Nat := (alphaSum m c 0 v + tagMask m.key n r b c) % vp
  v ++ [tag 1, tag 2]

/-- The tags of a summed block that fail, as bits 0 and 1 (R225). -/
def badTags (m : VMask) (b : Nat) (ws : List Nat) : Nat :=
  let bad (c : Nat) : Bool := decide ((alphaSum m c 0 (ws.take 32) + streamWord m.key 3 0 (4 * b + c - 1)) % vp ≠ ws.getD (31 + c) 0)
  bit (bad 1) + 2 * bit (bad 2)

/-- The decoded sums of a verified block (R229 step 7). -/
def unmask (m : VMask) (b : Nat) (ws : List Nat) : List Int :=
  (List.range 32).map fun j => ofField ((ws.getD j 0 + vp - streamWord m.key 2 0 (32 * b + j)) % vp)

/-- What TC derives for a step (R222). -/
def stepMask (key : Key) (group : BitVec 32) (step : Nat) : VMask :=
  let data := leBytes 4 group.toNat ++ leBytes 8 step
  { step := step, key := kdf key data "SWY-VENEER-STEP", alpha := Config.kmacAlpha (keyBytes key) data }

/-- The admitted-mode key of a sender and epoch (R222, R239). -/
def admKey (key : Key) (group : BitVec 32) (skind : Bool) (sender : BitVec 16) (e : BitVec 24) : Key :=
  kdf key (leBytes 4 group.toNat ++ leBytes 1 (bit skind) ++ leBytes 2 sender.toNat ++ leBytes 3 e.toNat) "SWY-VENEER-ADM"

/-! ### The Veneer header (R226) -/

structure VHeader where
  group : BitVec 32
  step  : Nat
  block : Nat
  count : Nat
  nblk  : Nat
  dir   : Bool
  resv  : Nat
  deriving DecidableEq, Repr

def vHeaderBytes (group : BitVec 32) (step block count nblk : Nat) (dir : Bool) : Bytes :=
  leBytes 4 group.toNat ++ leBytes 4 step ++ leBytes 4 block ++ leBytes 4 (count % 2 ^ 17 + 2 ^ 17 * (nblk % 4) + 2 ^ 19 * bit dir)

def vHeaderOf (bs : Bytes) : VHeader :=
  let w := fieldAt bs 12 4
  { group := BitVec.ofNat 32 (fieldAt bs 0 4), step := fieldAt bs 4 4, block := fieldAt bs 8 4, count := bitsOf w 0 17, nblk := bitsOf w 17 2,
    dir := decide (bitsOf w 19 1 = 1), resv := bitsOf w 20 12 }

/-! ### Groups and steps (R230, R231, R243) -/

/-- A group as the Jig describes it. -/
structure VGeo where
  jig   : Jig
  grp   : VGroupRec
  tree  : TreeRec
  scale : Option ScaleRec
  sched : Schedule
  deriving DecidableEq, Repr

/-- The group of a partition's Jig. -/
def Block.vgeo (b : Block) (p : Part) (g : BitVec 32) : Option VGeo :=
  match b.jigOf p with
  | none => none
  | some j =>
    match j.groups.find? fun x => decide (x.groupId = g), j.trees.find? fun x => decide (x.groupId = g), j.schedule with
    | some r, some t, some s => some { jig := j, grp := r, tree := t, scale := j.scales.find? fun x => decide (x.groupId = g), sched := s }
    | _, _, _ => none

def VGeo.blocks (v : VGeo) : Nat := match v.scale with | some s => s.blocks | none => 0
def VGeo.target (v : VGeo) : Nat := match v.scale with | some s => s.target | none => 0
def VGeo.fin (v : VGeo) : Nat := v.grp.format.toNat % 16
def VGeo.fout (v : VGeo) : Nat := v.grp.format.toNat / 16
/-- The home LE (R243). -/
def VGeo.home (v : VGeo) : Nat := match v.tree.lanes with | l :: _ => l.port / 4 | [] => 0
def VGeo.hasLe (v : VGeo) (n : Nat) : Bool := v.tree.lanes.any fun l => decide (l.port / 4 = n)
/-- The LEs of the group's lanes. -/
def VGeo.les (v : VGeo) : List Island := ((v.tree.lanes.map fun l => l.port / 4).dedup).map fun n => .le (Fin.ofNat 16 n)
/-- The member is one of the group's (R230). -/
def VGeo.member (v : VGeo) (m : Nat) : Bool := v.tree.runs.any fun r => decide (r.firstMember ≤ m ∧ m < r.firstMember + r.count)
/-- Tick at which a schedule cycle, and a step, begin (R70, R231). -/
def VGeo.cycleTick (v : VGeo) (c : Nat) : Nat := v.sched.cycleZero + c * v.sched.cycleSlots * v.sched.slotTicks
def VGeo.stepTick (v : VGeo) (s : Nat) : Nat := v.cycleTick (v.tree.zeroCycle + s * v.tree.stepCycles)

def Block.vgroup (b : Block) (p : Part) (g : BitVec 32) : Option VGroup := b.vgroups.find? fun x => decide (x.part = p ∧ x.groupId = g)
/-- Lists a group in place of the one of the same partition and identifier. -/
def putGroup (g : VGroup) (b : Block) : Block :=
  { b with vgroups := (b.vgroups.filter fun x => !decide (x.part = g.part ∧ x.groupId = g.groupId)) ++ [g] }
def VGroup.stepAt (g : VGroup) (s : Nat) : Option VStep := g.steps.find? fun x => decide (x.step = s)
def VGroup.putStep (g : VGroup) (s : VStep) : VGroup := { g with steps := g.steps.map fun x => if x.step = s.step then s else x }
def VGroup.mask (g : VGroup) (s : Nat) : Option VMask := g.masks.find? fun m => decide (m.step = s)

/-- The group's key at this member, when it has one that lives (R149). -/
def Block.groupKey (b : Block) (p : Part) (g : BitVec 32) : Option Slot :=
  (Tab.get? (b.adm' p).groupSlots g.toNat).bind fun s => if b.slotLive s.toNat then some s else none

/-- The group whose key a slot holds. -/
def Block.groupOfSlot (b : Block) (p : Part) (s : Slot) : Option (BitVec 32) :=
  ((b.adm' p).groupSlots.find? fun e => decide (e.2 = s)).map fun e => BitVec.ofNat 32 e.1

/-! ### Keys on the LEs (R130, R222, R239) -/

/-- TC loads a step's key and coefficients to an LE that lacks them. -/
def wantStep (i : Island) (p : Part) (id : BitVec 32) (m : VMask) (b : Block) : Block :=
  match b.groupKey p id with | some s => wantDerived i s (.step m.step) m.key m.alpha b | none => b

/-- TC loads the admitted-mode key of a sender and epoch to an LE that lacks it. -/
def wantAdm (i : Island) (p : Part) (id : BitVec 32) (skind : Bool) (sender : BitVec 16) (e : BitVec 24) (b : Block) : Block :=
  match b.groupKey p id with | some s => wantDerived i s (.adm skind sender e) (admKey (b.keyVal s) id skind sender e) 0 b | none => b

/-- A step's key and coefficients at an LE, while the group key lives. -/
def stepEntry (b : Block) (i : Island) (p : Part) (id : BitVec 32) (n : Nat) : Option VMask :=
  (b.groupKey p id).bind fun s => ((b.island i).derived s (.step n)).map fun c => { step := n, key := c.value, alpha := c.alpha }

/-- The admitted-mode key of a sender and epoch at an LE. -/
def admEntry (b : Block) (i : Island) (p : Part) (id : BitVec 32) (skind : Bool) (sender : BitVec 16) (e : BitVec 24) : Option Key :=
  (b.groupKey p id).bind fun s => ((b.island i).derived s (.adm skind sender e)).map fun c => c.value

/-- TC derives a step's values and loads them to the LEs of the group's lanes (R222): of a sealed group, which alone uses them. -/
def loadStep (p : Part) (v : VGeo) (n : Nat) (b : Block) : Block :=
  let id := v.grp.groupId
  match b.groupKey p id, b.vgroup p id with
  | some s, some g =>
    if v.grp.admitted then b
    else
      let m := stepMask (b.keyVal s) id n
      let b := if (g.mask n).isSome then b else putGroup { g with masks := g.masks ++ [m] } b
      v.les.foldl (fun b i => wantStep i p id m b) b
  | _, _ => b

/-- The admitted-mode keys of an epoch that a member uses: its own and the switch's (R222, R239). -/
def loadAdmitted (p : Part) (v : VGeo) (e : BitVec 24) (b : Block) : Block :=
  if !v.grp.admitted then b
  else v.les.foldl (fun b i => wantAdm i p v.grp.groupId true v.grp.switch e (wantAdm i p v.grp.groupId false v.jig.memberIndex e b)) b

/-- What of a group key an LE asks for (R130): the values of the steps in hand, or the admitted-mode keys of the epoch. -/
def wantGroup (i : Island) (p : Part) (id : BitVec 32) (b : Block) : Block :=
  match b.vgroup p id, b.vgeo p id with
  | some g, some v =>
    if v.les.contains i = false then b
    else loadAdmitted p v (b.epochNow p) (g.masks.foldl (fun b m => wantStep i p id m b) b)
  | _, _ => b

/-- What an LE held of the group keys is loaded again (R131). -/
def refillGroups (i : Island) (b : Block) : Block := b.vgroups.foldl (fun b g => wantGroup i g.part g.groupId b) b

/-- A step is over: its values leave the LEs and TC's record (R241). -/
def dropStep (p : Part) (id : BitVec 32) (n : Nat) (b : Block) : Block :=
  match b.vgeo p id, Tab.get? (b.adm' p).groupSlots id.toNat with
  | some v, some s => v.les.foldl (fun b i =>
      unholdSlot i s (modIsland i (fun st => { st with cache := st.cache.filter fun c => !(decide (c.slot = s) && decide (c.what = .step n)) }) b)) b
  | _, _ => b

/-- A Veneer event (R244). -/
def veneerNote (h : Hard) (code : Nat) (p : Part) (le : Nat) (group : BitVec 32) (step : Nat) (args : Nat → List (Nat × Nat)) (b : Block) : Block :=
  noteLimited h code le (some p) group.toNat (fun n => [aW4 group.toNat, aW4 step] ++ args n) b

def homeOf (b : Block) (g : VGroup) : Nat := match b.vgeo g.part g.groupId with | some v => v.home | none => 0xFF

/-! ### Records, completion, halts (R235, R236) -/

def stepStatus (s : VStep) : Byte :=
  if s.departed then stPeerDeparted else if s.failed ≠ [] ∨ s.aborted = true then stAborted else if s.sat ≠ [] then stSaturated else stOk

def veneerRec (h : Hard) (g : VGroup) (st : Byte) (r1 r2 : Nat) (b : Block) : Block :=
  match g.ctx with
  | none => b
  | some c =>
    writeRec h c.queue.toNat { status := st, kind := 1, reason := 0, cmdId := c.cmdId, cookie := c.cookie, result := BitVec.ofNat 64 r1,
                               result2 := BitVec.ofNat 64 r2, intr := c.intr } b

/-- The final record, once every open step has completed (R235). -/
def veneerFinal (h : Hard) (p : Part) (id : BitVec 32) (b : Block) : Block :=
  match b.vgroup p id with
  | none => b
  | some g =>
    if g.state ≠ 3 ∨ g.final = false ∨ g.steps ≠ [] then b
    else veneerRec h g g.haltSt ((g.newest.getD g.firstStep) % 2 ^ 32) (2 ^ 63 + g.cause.toNat) (g.masks.foldl (fun b m => dropStep p id m.step b) (putGroup { g with final := false, ctx := none, masks := [] } b))

/-- Closes an open step with its record (R235). -/
def veneerClose (h : Hard) (p : Part) (id : BitVec 32) (s : Nat) (b : Block) : Block :=
  match b.vgroup p id with
  | none => b
  | some g =>
    match g.stepAt s with
    | none => b
    | some st =>
      let n := st.sat.length
      let b := putGroup { g with steps := g.steps.filter (fun x => decide (x.step ≠ s)), masks := g.masks.filter (fun m => decide (m.step ≠ s)), sat := g.sat + BitVec.ofNat 24 n,
                                 haltSt := if g.haltStep = some s then stepStatus st else g.haltSt } b
      let b := if n = 0 then b else veneerNote h 0x0605 p (homeOf b g) id s (fun c => [aW3 (satNat 24 n), aCount c]) b
      let b := dropStep p id s b
      veneerFinal h p id (veneerRec h g (stepStatus st) (s % 2 ^ 32 + 2 ^ 32 * satNat 24 n) 0 b)

/-- A step whose last block is delivered or has failed is complete (R235). -/
def veneerCheck (h : Hard) (p : Part) (id : BitVec 32) (s : Nat) (b : Block) : Block :=
  match b.vgroup p id, b.vgeo p id with
  | some g, some v =>
    match g.stepAt s with
    | none => b
    | some st =>
      let past := decide (v.stepTick (s + 1) ≤ b.now.toNat)
      if (v.grp.admitted = true → past = true) ∧ st.total ≤ (st.delivered ++ st.failed).dedup.length then veneerClose h p id s b else b
  | _, _ => b

/-- Halts an armed group (R236); `step` is the step that halts it, `st` the status of the final record where no step does. -/
def veneerHalt (h : Hard) (p : Part) (id : BitVec 32) (cause : Nat) (step : Option Nat) (st : Byte) (b : Block) : Block :=
  match b.vgroup p id with
  | none => b
  | some g =>
    if g.state ≠ 2 then b
    else
      let b := putGroup { g with state := 3, cause := BitVec.ofNat 4 cause, haltStep := step, haltSt := st, haltReq := false } b
      let b := veneerNote h 0x0604 p (homeOf b g) id (g.newest.getD g.firstStep) (fun n => [aByte cause, aCount n]) b
      veneerFinal h p id b

/-- Marks every open step and closes it (R237). -/
def veneerEndSteps (h : Hard) (p : Part) (id : BitVec 32) (f : VStep → VStep) (b : Block) : Block :=
  match b.vgroup p id with
  | none => b
  | some g => g.steps.foldl (fun b s => veneerClose h p id s.step b) (putGroup { g with steps := g.steps.map f } b)

/-- A member's departure takes effect (R157, R237). -/
def veneerDepart (h : Hard) (p : Part) (m : BitVec 16) (b : Block) : Block :=
  (b.vgroups.filter fun g => decide (g.part = p) && (match b.vgeo p g.groupId with | some v => v.member m.toNat | none => false)).foldl (fun b g =>
    veneerEndSteps h p g.groupId (fun s => { s with departed := true }) (veneerHalt h p g.groupId 5 none stPeerDeparted b)) b

/-- An engine reset of an LE halts the groups with a lane on it (R236, R237): their open steps complete under R235; what its Shim holds of them is lost, and a result lost there is a failed block (DEDUCED, log entry 89). -/
def veneerLeReset (h : Hard) (n : Fin 16) (b : Block) : Block :=
  (b.vgroups.filter fun g => match b.vgeo g.part g.groupId with | some v => v.hasLe n.val | none => false).foldl (fun b g =>
    let here (x : Lane × Pinned) : Bool := decide (x.2.part = g.part) && (match x.2.veneer with | some r => decide (r.group = g.groupId) | none => false)
      && (match x.1 with | .egress k => decide (portLe k = n) | .ingress k => decide (portLe k = n) | .read _ => false)
    let lost := (b.shim.filter here).filterMap fun x => match x.1 with | .ingress _ => x.2.veneer | _ => none
    let b := veneerHalt h g.part g.groupId 6 none stAborted { b with shim := b.shim.filter fun x => !here x }
    lost.foldl (fun b r => match b.vgroup g.part g.groupId with
      | none => b
      | some g => match g.stepAt r.step with
        | none => b
        | some s => veneerCheck h g.part g.groupId r.step (putGroup (g.putStep { s with failed := (s.failed ++ r.blocks).dedup }) b)) b) b

/-- Groups halted by a reset of their partition (R237): their open steps end, contributions that wait leave the Shim. -/
def veneerReset (h : Hard) (hit : VGroup → Bool) (b : Block) : Block :=
  (b.vgroups.filter hit).foldl (fun b g =>
    let b := { b with shim := b.shim.filter fun x => !(decide (x.2.part = g.part) && (match x.2.veneer with | some r => decide (r.group = g.groupId) | none => false)) }
    veneerEndSteps h g.part g.groupId (fun s => { s with aborted := true }) (veneerHalt h g.part g.groupId 6 none stAborted b)) b

/-- Groups an activation changes or drops halt with cause 1 (R237). -/
def veneerChanged (h : Hard) (p : Part) (old new : Jig) (b : Block) : Block :=
  (b.vgroups.filter fun g => decide (g.part = p)).foldl (fun b g =>
    let same := decide ((old.groups.find? fun x => decide (x.groupId = g.groupId)) = new.groups.find? fun x => decide (x.groupId = g.groupId))
      && decide ((old.trees.find? fun x => decide (x.groupId = g.groupId)) = new.trees.find? fun x => decide (x.groupId = g.groupId))
      && decide ((old.scales.find? fun x => decide (x.groupId = g.groupId)) = new.scales.find? fun x => decide (x.groupId = g.groupId))
    if same then b else veneerHalt h p g.groupId 1 none stOk b) b

/-! ### Contributions (R217, R224 to R227, R231, R239) -/

/-- Converts a block of 32 elements: the contributions, and whether the block saturates. -/
def convBlock (v : VGeo) (step blk : Nat) (k : Int) (raws : List Nat) : List Int × Bool :=
  let r := (List.range 32).map fun j =>
    convIn (qMax v.grp.members) k (if v.grp.stochastic then some (stochU v.grp.groupId step v.grp.position blk j) else none) (elemOf v.fin (raws.getD j 0))
  (r.map fun x => x.1, r.any fun x => x.2)

/-- The blocks of a sealed frame (R231). -/
def frameBlocks (total f : Nat) : List Nat := (List.range 3).filterMap fun x => if 3 * f + x < total then some (3 * f + x) else none

/-- A sealed contribution: the frame's bytes and the blocks that saturate. -/
def sealedContribution (v : VGeo) (m : VMask) (step : Nat) (stream : Byte) (exps : List Int) (blocks : List Nat) (data : Bytes) : Bytes × List Nat :=
  let raws := elemsOf v.fin data
  let first := blocks.headD 0
  let r := roleOf v.grp.position v.grp.members (first / 3)
  let bs := blocks.map fun b => (b, convBlock v step b (exps.getD (b - first) 0) ((raws.drop (32 * (b - first))).take 32))
  let payload := vHeaderBytes v.grp.groupId step first 1 blocks.length false
    ++ bs.flatMap fun x => (blockWords m v.grp.members r x.1 x.2.1).flatMap fun w => leBytes 4 w
  let f : Frame := { ftype := 3, cls := 2, cmark := false, skind := false, hops := 0, sender := v.jig.memberIndex, stream := stream, epoch := 0, seq := 0, sport := 0,
                     payload := payload, tag := 0 }
  (plainFrame f 0, (bs.filter fun x => x.2.2).map fun x => x.1)

/-- The exponents of a frame's blocks, once all are known (R221). -/
def expsOf (s : VStep) (blocks : List Nat) : Option (List Int) := blocks.mapM fun b => (s.exps.getD b none)

/-- Enters sent blocks into their step. -/
def markSent (p : Part) (id : BitVec 32) (step : Nat) (blocks sat : List Nat) (b : Block) : Block :=
  match b.vgroup p id with
  | none => b
  | some g =>
    match g.stepAt step with
    | none => b
    | some s =>
      let sent := s.sent ++ blocks
      putGroup (g.putStep { s with sent := sent, sat := (s.sat ++ sat).dedup, total := max s.total (if s.exps.isEmpty then sent.dedup.length else 0) }) b

/-- One sealed frame of a slot: sealed towards its pin, or waiting for an exponent or for the step's key (R130, R221, R231). -/
def presentSealed (h : Hard) (p : Part) (k : Port) (v : VGeo) (lane : LaneRec) (step f : Nat) (start : Word) (data : Bytes) (b : Block) : Block :=
  match b.vgroup p v.grp.groupId with
  | none => b
  | some g =>
    match g.stepAt step with
    | some s =>
      let blocks := frameBlocks v.blocks f
      let pin : Word := start + BitVec.ofNat 64 (egressPin h.cfg v.sched)
      let item : Pinned := { part := p, cls := 2, seq := f, start := start, pin := pin, ready := false, readyAt := 0, slipped := false, sealed' := false, epoch := 0,
                             stream := lane.stream, outs := [], req := none, use := none, job := none, veneer := some { group := v.grp.groupId, step := step, blocks := blocks }, region := none }
      match expsOf s blocks, stepEntry b (portIsland k) p v.grp.groupId step with
      | some es, some m =>
        let r := sealedContribution v m step lane.stream es blocks data
        markSent p v.grp.groupId step blocks r.2 (pushPinned (.egress k) { item with ready := true, readyAt := b.now, outs := [.frame k (sideOfNode lane.upNode) r.1] } b)
      | _, e =>
        let b := match e, g.mask step with | none, some m => wantStep (portIsland k) p v.grp.groupId m b | _, _ => b
        pushPinned (.egress k) { item with job := some { part := p, ftype := 3, stream := lane.stream, dest := 0, switch := false, node := lane.upNode, payload := data, tick := b.now, notice := false, tag := none } } b
    | none => b

/-- A job's admitted frame, sealed under the member's key of its epoch where the LE holds it and the epoch has not ended (R193, R239). -/
def sealAdmitted (b : Block) (p : Part) (k : Port) (id : BitVec 32) (q : QFrame) (e : BitVec 24) (seq : Nat) : Option Out :=
  match b.jigOf p with
  | none => none
  | some j =>
    if b.epochTick p (e + 1) ≤ b.now.toNat then none
    else (admEntry b (portIsland k) p id false j.memberIndex e).map fun key =>
      Out.frame k (sideOfNode q.node) (sealFrame key j.domainId q.dest (frameOf k j.memberIndex q 2 e seq))

/-- One admitted frame of a slot (R239): sealed under the member's admitted-mode key, 2^31 frames to an epoch, or waiting for that key. -/
def presentAdmitted (h : Hard) (p : Part) (k : Port) (v : VGeo) (lane : LaneRec) (step f : Nat) (start : Word) (data : Bytes) (b : Block) : Block :=
  match b.vgroup p v.grp.groupId, b.groupKey p v.grp.groupId with
  | some g, some _ =>
    let e := epochAt v.jig start
    let id := v.grp.groupId
    let used := if g.admEpoch = e then g.admCount else 0
    if g.stepAt step = none then b
    else if 2 ^ 31 ≤ used then emit (.cipherDone (portIsland k) p 0 stUsageLimit) b
    else
      let nblk := (data.length + 32 * fmtBytes v.fin - 1) / (32 * fmtBytes v.fin)
      let blocks := (List.range nblk).map fun x => 3 * f + x
      let seq := b.seqOf p k e lane.stream
      let q : QFrame := { part := p, ftype := 5, stream := lane.stream, dest := v.grp.switch, switch := true, node := lane.upNode, tick := b.now, notice := false, tag := none,
                          payload := vHeaderBytes id step (3 * f) 1 nblk false ++ padTo (nblk * 32 * fmtBytes v.fin) data }
      let out := sealAdmitted b p k id q e seq
      let x : Pinned := { part := p, cls := 2, seq := seq, start := start, pin := start + BitVec.ofNat 64 (egressPin h.cfg v.sched), ready := out.isSome, readyAt := b.now, slipped := false,
                          sealed' := out.isSome, epoch := e, stream := lane.stream, outs := out.toList, req := none, use := none, job := if out.isSome then none else some q,
                          veneer := some { group := id, step := step, blocks := blocks }, region := none }
      let b := putGroup { g with admEpoch := e, admCount := used + 1, admTold := if g.admEpoch = e then g.admTold else 0 } (takeSeq p k e lane.stream b)
      let b := if out.isSome then b else wantAdm (portIsland k) p id false v.jig.memberIndex e b
      markSent p id step blocks [] (pushPinned (.egress k) x b)
  | _, _ => b

/-- The lane slots of a cycle in slot order (R231). -/
def laneSlots (v : VGeo) (lane : LaneRec) : List Nat :=
  (v.sched.entries.filter fun e => e.egress && decide (e.cls = 2) && decide (e.port = lane.port) && decide (e.stream = lane.stream)).map fun e => e.slot

/-- Egress of Veneer frames stands still on the port (R36, R44). -/
def veneerStopped (b : Block) (k : Port) : Bool :=
  let i := b.island (portIsland k)
  b.clk.lost || i.inReset || i.asleep || decide ((b.port k).mode = 2 ∨ (b.port k).mode = 3)

/-- The data of a class 2 slot that begins at tick `t` (R231): the slot's frames in frame and block order. -/
def presentVeneer (h : Hard) (p : Part) (k : Port) (e : SchedEntry) (t : Word) (data : Bytes) (b : Block) : Block :=
  match (b.jigOf p).bind fun j => laneAt j e.port e.stream with
  | none => b
  | some (gr, tr, lane) =>
    match b.vgeo p gr.groupId, b.vgroup p gr.groupId with
    | some v, some g =>
      let cycle := (t.toNat - v.sched.cycleZero) / v.sched.slotTicks / v.sched.cycleSlots
      if cycle < tr.zeroCycle ∨ tr.stepCycles = 0 ∨ veneerStopped b k = true ∨ (gr.admitted && b.held p k) = true then b
      else
        let step := (cycle - tr.zeroCycle) / tr.stepCycles
        let slots := laneSlots v lane
        let place := (cycle - tr.zeroCycle) % tr.stepCycles * slots.length + slots.idxOf e.slot
        let li := tr.lanes.idxOf lane
        if (g.stepAt step).isNone ∨ (match g.newest with | some n => decide (n < step) | none => true) = true then b
        else (List.range lane.frames).foldl (fun b x =>
          let f := li + tr.lanes.length * (place * lane.frames + x)
          let size := 96 * fmtBytes v.fin
          let part := bytesAt data (x * size) size
          if gr.admitted then (if part = [] then b else presentAdmitted h p k v lane step f t part b)
          else if 3 * f < v.blocks then presentSealed h p k v lane step f t part b else b) b
    | _, _ => b

/-- Contributions whose exponents and keys are now known are sealed (R130, R221). -/
def veneerResolve (p : Part) (id : BitVec 32) (b : Block) : Block :=
  match b.vgeo p id with
  | none => b
  | some v =>
    b.shim.foldl (fun b x =>
      match x.2.veneer, x.2.job, x.1 with
      | some r, some q, .egress k =>
        if x.2.part ≠ p ∨ r.group ≠ id ∨ q.ftype ≠ 3 then b
        else match b.vgroup p id with
          | none => b
          | some g =>
            match g.stepAt r.step, stepEntry b (portIsland k) p id r.step with
            | some s, some m =>
              match expsOf s r.blocks with
              | none => b
              | some es =>
                let c := sealedContribution v m r.step x.2.stream es r.blocks q.payload
                let y : Pinned := { x.2 with ready := true, readyAt := b.now, job := none, outs := [.frame k (sideOfNode q.node) c.1] }
                markSent p id r.step r.blocks c.2 { b with shim := b.shim.map fun z => if z = x then (x.1, y) else z }
            | _, _ => b
      | _, _, _ => b) b

/-! ### Receipt (R229, R240) -/

/-- A discard at steps 1 to 4 of R229. -/
def veneerBad (h : Hard) (p : Part) (le : Nat) (hd : VHeader) (cause : Nat) (b : Block) : Block :=
  let g? := b.vgroup p hd.group
  let home := match g? with | some g => homeOf b g | none => le
  let b := match g? with | some g => putGroup { g with discard := g.discard + 1 } b | none => b
  veneerNote h 0x0602 p home hd.group hd.step (fun n => [aByte cause, aW4 hd.block, aCount n]) b

/-- Words of a payload after the Veneer header. -/
def payloadWords (bs : Bytes) : List Nat := (chunks 4 bs.length (bs.drop 16)).map leVal

/-- Sends a result to the stream port of its lane, at the ingress pin from its arrival (R231, R235). -/
def veneerOut (h : Hard) (p : Part) (v : VGeo) (step : Nat) (hd : VHeader) (blocks : List Nat) (data : Bytes) (arrived : Word) (b : Block) : Block :=
  let lane := v.tree.lanes.getD (hd.block / 3 % max 1 v.tree.lanes.length) { port := 0, stream := 0, frames := 0, upNode := 0 }
  let k : Port := Fin.ofNat 64 lane.port
  pushPinned (.ingress k) { part := p, cls := 2, seq := hd.block, start := arrived, pin := arrived + BitVec.ofNat 64 (ingressPin h.cfg v.sched), ready := true, readyAt := b.now, slipped := false,
                            sealed' := false, epoch := (b.epochSt p).epoch, stream := lane.stream, outs := [.stream k p data], req := none, use := none, job := none,
                            veneer := some { group := hd.group, step := step, blocks := blocks }, region := none } b

/-- The prefix of a delivered result (R235). -/
def resultPrefix (step block nblk marks : Nat) : Bytes := leBytes 8 (block % 2 ^ 32 + 2 ^ 32 * (step % 2 ^ 16) + 2 ^ 48 * nblk + 2 ^ 50 * marks)

/-- Steps 6 and 7 of R229 on the blocks of an accepted result, and the count of step 12 of R194. -/
def veneerTake (h : Hard) (p : Part) (k : Port) (f : Frame) (v : VGeo) (g : VGroup) (s : VStep) (m : VMask) (hd : VHeader) (ws : List Nat) (arrived : Word) (b : Block) : Block :=
  let blocks := (List.range hd.nblk).map fun x => hd.block + x
  let words (x : Nat) : List Nat := (ws.drop (34 * (x - hd.block))).take 34
  let s := { s with received := s.received ++ blocks }
  let bad := blocks.map fun x => (x, badTags m x (words x))
  match bad.find? fun x => decide (x.2 ≠ 0) with
  | some (blk, _) =>
    let tags := bad.foldl (fun a x => a ||| x.2) 0
    let b := putGroup ({ g with tagFail := g.tagFail + 1 }.putStep { s with failed := s.failed ++ blocks }) b
    let b := veneerNote h 0x0601 p v.home hd.group s.step (fun n => [aW4 blk, aByte tags, aCount n]) b
    veneerCheck h p hd.group s.step (veneerHalt h p hd.group 2 (some s.step) stAborted b)
  | none =>
    let kOf (x : Nat) : Int := (s.exps.getD x none).getD (g.table.getD x 0)
    let done := blocks.map fun x =>
      let sums := unmask m x (words x)
      let outs := sums.map fun q => convOut v.fout q (kOf x)
      (x, sums, outs.flatMap (fun y => leBytes (fmtBytes v.fout) y.1), outs.any fun y => y.2)
    let sat := (s.sat ++ (done.filter fun x => x.2.2.2).map fun x => x.1).dedup
    let marks := done.foldl (fun a x => a + bit (sat.contains x.1) * 2 ^ (x.1 - hd.block)) 0
    let next := done.map fun x => (x.1, nextExp (kOf x.1) v.target x.2.1)
    let g := (g.putStep { s with sat := sat })
    let g := { g with table := next.foldl (fun t x => t.set x.1 x.2) g.table,
                      steps := g.steps.map fun y => if y.step = s.step + 1 then { y with exps := next.foldl (fun t x => t.set x.1 (some x.2)) y.exps } else y }
    veneerResolve p hd.group
      (veneerOut h p v s.step hd blocks (resultPrefix s.step hd.block hd.nblk marks ++ done.flatMap fun x => x.2.2.1) arrived (putGroup g (countAccepted p k f b)))

/-- A discard at step 3 or 4 of R229: the blocks the frame names stay open in their step, marked. -/
def veneerMalformed (h : Hard) (p : Part) (le : Nat) (hd : VHeader) (cause : Nat) (b : Block) : Block :=
  let b := match b.vgroup p hd.group with
    | none => b
    | some g => match g.steps.find? fun s => decide (s.step % 2 ^ 32 = hd.step) with
      | some s => putGroup (g.putStep { s with malformed := (s.malformed ++ (List.range hd.nblk).map fun x => hd.block + x).dedup }) b
      | none => b
  veneerBad h p le hd cause b

/-- A result whose group key is gone cannot pass step 6 of R229 (DESIGN CHOICE, log entry 89): its blocks fail, both tags reported. -/
def veneerKeyless (h : Hard) (p : Part) (v : VGeo) (g : VGroup) (s : VStep) (hd : VHeader) (b : Block) : Block :=
  let blocks := (List.range hd.nblk).map fun x => hd.block + x
  let b := putGroup ({ g with tagFail := g.tagFail + 1 }.putStep { s with received := s.received ++ blocks, failed := s.failed ++ blocks }) b
  let b := veneerNote h 0x0601 p v.home hd.group s.step (fun n => [aW4 hd.block, aByte 3, aCount n]) b
  veneerCheck h p hd.group s.step (veneerHalt h p hd.group 2 (some s.step) stAborted b)

/-- A frame of `FTYPE` 0x3 at the Veneer unit (R229, step 12 of R194); one whose step key the LE lacks waits for it (R130). -/
def veneerReceive (h : Hard) (p : Part) (k : Port) (bs : Bytes) (f : Frame) (arrived : Word) (b : Block) : Block :=
  let payload := f.payload
  let hd := vHeaderOf payload
  let le := (portLe k).val
  match b.vgroup p hd.group, b.vgeo p hd.group with
  | some g, some v =>
    if payload.length < 16 ∨ v.grp.admitted = true ∨ v.hasLe le = false ∨ (g.state ≠ 2 ∧ g.steps = []) then veneerBad h p le hd 1 b
    else match g.steps.find? fun s => decide (s.step % 2 ^ 32 = hd.step) with
      | none => veneerBad h p le hd 2 b
      | some s =>
        let ws := payloadWords payload
        if hd.dir = false ∨ v.blocks < hd.block + hd.nblk then veneerBad h p le hd 2 b
        else if hd.count ≠ v.grp.members then veneerMalformed h p le hd 3 b
        else if hd.nblk = 0 ∨ payload.length ≠ 16 + 136 * hd.nblk ∨ hd.resv ≠ 0 ∨ (ws.all canonical) = false then veneerMalformed h p le hd 4 b
        else if ((List.range hd.nblk).any fun x => s.received.contains (hd.block + x)) = true then
          veneerNote h 0x0603 p v.home hd.group s.step (fun n => [aW4 hd.block, aCount n]) (putGroup { g with discard := g.discard + 1 } b)
        else match stepEntry b (portIsland k) p hd.group s.step, b.groupKey p hd.group, g.mask s.step with
          | some m, _, _ => veneerTake h p k f v g s m hd ws arrived b
          | none, some _, some m => waitFrame p k arrived bs (wantStep (portIsland k) p hd.group m b)
          | none, some _, none => waitFrame p k arrived bs (loadStep p v s.step b)
          | none, none, _ => veneerKeyless h p v g s hd b
  | _, _ => veneerBad h p le hd 1 b

/-- An opened frame of `FTYPE` 0x5 (R240): `OP` 0 checks `COUNT`, the others nothing. -/
def veneerAdmitted (h : Hard) (p : Part) (k : Port) (payload : Bytes) (arrived : Word) (b : Block) : Block :=
  let hd := vHeaderOf payload
  let le := (portLe k).val
  match b.vgroup p hd.group, b.vgeo p hd.group with
  | some g, some v =>
    if payload.length < 16 ∨ v.grp.admitted = false ∨ v.hasLe le = false ∨ (g.state ≠ 2 ∧ g.steps = []) then veneerBad h p le hd 1 b
    else match g.steps.find? fun s => decide (s.step % 2 ^ 32 = hd.step) with
      | none => veneerBad h p le hd 2 b
      | some s =>
        if v.tree.op = 0 ∧ hd.count ≠ v.grp.members then veneerBad h p le hd 3 b
        else
          let blocks := (List.range hd.nblk).map fun x => hd.block + x
          veneerOut h p v s.step hd blocks (resultPrefix s.step hd.block hd.nblk 0 ++ payload.drop 16) arrived
            (putGroup (g.putStep { s with received := (s.received ++ blocks).dedup }) b)
  | _, _ => veneerBad h p le hd 1 b

/-- A pinned result has reached its stream port (R235). -/
def veneerDelivered (h : Hard) (p : Part) (r : VRef) (b : Block) : Block :=
  match b.vgroup p r.group with
  | none => b
  | some g =>
    match g.stepAt r.step with
    | none => b
    | some s => veneerCheck h p r.group r.step (putGroup (g.putStep { s with delivered := (s.delivered ++ r.blocks).dedup }) b)

/-! ### Commands -/

/-- Exponents at an arm (R220, R234): from `SCALE_TABLE`, or the running table; a group never armed has none, and its exponents are then free values. -/
def armTable (b : Block) (v : VGeo) (g? : Option VGroup) (keep : Bool) : List Int :=
  match v.scale with
  | none => []
  | some sc =>
    if keep then
      match g? with
      | some g => if g.table.length = sc.blocks then g.table else freeExps b.ent.opens sc.blocks
      | none => freeExps b.ent.opens sc.blocks
    else match sc.exps with
      | some es => es
      | none => List.replicate sc.blocks sc.init
where
  freeExps (n blocks : Nat) : List Int := (List.range blocks).map fun x => ((Config.openValue (n + x / 64)).extractLsb' (8 * (x % 64)) 8).toInt

/-- Bytes of stacked SRAM the block has given to the tables it placed (R234). -/
def tablesHeld (b : Block) (p : Part) (id : BitVec 32) : Nat :=
  ((b.vgroups.filter fun g => decide (g.part = p ∧ g.groupId ≠ id) && g.chosen).map fun g => 2 * g.table.length).sum

/-- An arm (R234). -/
def veneerArm (h : Hard) (ctx : CmdCtx) (p : Part) (v : VGeo) (keep : Bool) (first table : Word) (b : Block) : Block :=
  let id := v.grp.groupId
  let g? := b.vgroup p id
  let busy := match g? with | some g => decide (g.state = 2) || g.final || decide (g.steps ≠ []) | none => false
  if busy then complete h ctx stAborted 0 0 0 b
  else if (b.groupKey p id).isNone then complete h ctx stKeyOrphaned 0 0 0 b
  else if v.stepTick first.toNat < b.now.toNat + 1000000 then complete h ctx stAborted 0 0 0 b
  else if table = 0 ∧ Config.stackedSram < tablesHeld b p id + 2 * v.blocks then complete h ctx stNoSlot 0 0 0 b
  else
    let g : VGroup :=
      { part := p, groupId := id, state := 2, cause := 0, ctx := some ctx, firstStep := first.toNat, newest := none, haltReq := false, haltStep := none, haltSt := stOk, final := true,
        steps := [], masks := [], table := armTable b v g? keep, tableAt := if table = 0 then b.openVal.setWidth 64 else table, chosen := decide (table = 0),
        admEpoch := match g? with | some g => g.admEpoch | none => 0, admCount := match g? with | some g => g.admCount | none => 0,
        admTold := match g? with | some g => g.admTold | none => 0, sat := 0, tagFail := 0, discard := 0, late := 0 }
    let b := putGroup g { b with ent := { b.ent with opens := b.ent.opens + v.blocks / 64 + 1 } }
    complete h ctx stOk 0 0 0 (loadAdmitted p v (b.epochNow p) (loadStep p v (first.toNat + 1) (loadStep p v first.toNat b)))

/-- CMD_VENEER_GROUP (R234): arm or halt. -/
def execCmdVeneerGroup (ctx : CmdCtx) (group : BitVec 32) (op : BitVec 2) (tableSrc : Bool) (firstStep table : Word) (s : State) : Host.Outcome State Fault Refusal :=
  onB (fun h b => runCmd h ctx 0x0C 0 (fun q b =>
    let p := q.part
    let elsewhere := allParts.any fun x => decide (x ≠ p) && (match b.jigOf x with | some j => j.groups.any fun g => decide (g.groupId = group) | none => false)
    if (op ≠ 1 ∧ op ≠ 2) ∨ table.toNat % 8 ≠ 0 then complete h ctx stAborted 0x0102 0 0 b
    else match b.vgeo p group with
      | none => complete h ctx (if elsewhere then stNotOwner else stObjectGone) 0 0 0 b
      | some v =>
        if op = 1 then veneerArm h ctx p v tableSrc firstStep table b
        else match b.vgroup p group with
          | none => complete h ctx stAborted 0 0 0 b
          | some g => if g.state ≠ 2 then complete h ctx stAborted 0 0 0 b else complete h ctx stOk 0 0 0 (putGroup { g with haltReq := true } b)) b) s

/-- At a step boundary: frames of an ended step that still wait for an exponent are not sent, and the group halts (R221). -/
def veneerWaits (h : Hard) (p : Part) (v : VGeo) (b : Block) : Block :=
  let id := v.grp.groupId
  let dead (x : Lane × Pinned) : Bool := decide (x.2.part = p) && (match x.2.job with | some q => decide (q.ftype = 3) | none => false)
    && (match x.2.veneer with | some r => decide (r.group = id) && decide (v.stepTick (r.step + 1) ≤ b.now.toNat) | none => false)
  match (b.shim.find? dead).bind fun x => x.2.veneer with
  | none => b
  | some r => veneerHalt h p id 4 (some r.step) stAborted { b with shim := b.shim.filter fun x => !dead x }

/-- Blocks not received by the end of the step that follows theirs (R236): counted, recorded, and the group halts, with cause 3 where a result for one was malformed (DEDUCED, log entry 89). -/
def veneerLate (h : Hard) (p : Part) (v : VGeo) (b : Block) : Block :=
  let id := v.grp.groupId
  match b.vgroup p id with
  | none => b
  | some g =>
    (g.steps.filter fun s => decide (v.stepTick (s.step + 2) ≤ b.now.toNat)).foldl (fun b s =>
      let missing := (if v.grp.admitted then s.sent.dedup else List.range s.total).filter fun x => !s.received.contains x
      if missing = [] then b
      else
        let b := match b.vgroup p id with
          | some g => putGroup ({ g with late := g.late + BitVec.ofNat 8 missing.length }.putStep { s with aborted := true, failed := s.failed ++ missing }) b
          | none => b
        let b := missing.foldl (fun b x => veneerNote h 0x0606 p v.home id s.step (fun n => [aW4 x, aCount n]) b) b
        let cause := if missing.any fun x => s.malformed.contains x then 3 else 4
        veneerCheck h p id s.step (veneerHalt h p id cause (some s.step) stAborted b)) b

/-- A new step of an armed group: its exponents taken over, its values and those of the step after on their way to the LEs (R221, R222, R231). -/
def veneerBegin (p : Part) (v : VGeo) (g : VGroup) (n : Nat) (b : Block) : Block :=
  let exps : List (Option Int) := match g.newest with
    | none => g.table.map some
    | some m => match g.stepAt m with
      | some s => (List.range g.table.length).map fun x => if s.received.contains x && !s.failed.contains x then some (g.table.getD x 0) else none
      | none => g.table.map some
  let st : VStep := { step := n, exps := exps, total := v.blocks, received := [], delivered := [], failed := [], sent := [], sat := [], malformed := [], departed := false, aborted := false }
  loadAdmitted p v (b.epochNow p) (loadStep p v (n + 1) (loadStep p v n (putGroup { g with newest := some n, steps := g.steps ++ [st] } b)))

/-- A step boundary of the schedule (R231). -/
def stepBoundary (v : VGeo) (now : Nat) : Bool :=
  let len := v.stepTick 1 - v.stepTick 0
  decide (v.stepTick 0 ≤ now) && decide (len ≠ 0) && decide ((now - v.stepTick 0) % len = 0)

/-- VENEER_STEP_START (R231, R234, R236): at a step boundary, what the step before leaves waiting, lateness, a requested halt, then the new step. -/
def execVeneerStepStart (part : Part) (group : BitVec 32) (s : State) : Host.Outcome State Fault Refusal :=
  onB (fun h => whenLive fun b =>
    match b.vgeo part group with
    | none => b
    | some v =>
      let b := veneerLate h part v (veneerWaits h part v b)
      let b := match b.vgroup part group with
        | some g => g.steps.foldl (fun (b : Block) (s : VStep) => veneerCheck h part group s.step b) b
        | none => b
      match b.vgroup part group with
      | none => b
      | some g =>
        let n := match g.newest with | some m => m + 1 | none => g.firstStep
        if g.state ≠ 2 then b
        else if g.haltReq ∧ (v.stepTick n ≤ b.now.toNat ∨ stepBoundary v b.now.toNat = true) then veneerHalt h part group 1 none stOk b
        else if b.now.toNat < v.stepTick n then b
        else veneerBegin part v g n b) s

end Sys2Proof.Machine
end

