-- ==== Sys2Proof/Machine/Frames.lean ====
section
/-! DEFINITION. The arrival of a frame in the order of R194, the data of a scheduled slot (R37, R231), the epoch boundary (R200) and a key's arrival at an island (R129, R130), which lets frames that waited go on. -/

namespace Sys2Proof.Machine

/-! ### Admitted-mode frames (R239, R240) -/

/-- The admitted group a frame belongs to: the one with a lane of its stream on the port, or on the LE from its switch (DEDUCED, log entry 18). -/
def admittedGroup (j : Jig) (k : Port) (f : Frame) : Option VGroupRec :=
  match laneAt j k.val f.stream with
  | some (g, _, _) => if g.admitted then some g else none
  | none => j.groups.find? fun g => g.admitted && decide (g.switch = f.sender)
      && (j.trees.any fun t => decide (t.groupId = g.groupId) && t.lanes.any fun l => decide (l.stream = f.stream))

/-- Steps 6 to 12 for `FTYPE` 0x5 (R239): the key is the admitted-mode key of the frame's sender and epoch; a scheduled frame whose key the LE lacks is discarded, any other waits, and TC sends the key (R199). -/
def admittedSteps (h : Hard) (p : Part) (k : Port) (bs : Bytes) (f : Frame) (arrived : Word) (b : Block) : Block :=
  match b.jigOf p with
  | none => b
  | some j =>
    match epochCase (b.epochSt p) f.epoch arrived with
    | .reject => rejectEpoch h p k f arrived b
    | .early => waitFrame p k arrived bs b
    | c =>
      let prev := decide (c = .previous)
      let grp := admittedGroup j k f
      let open' (b : Block) : Option (Option Bytes) := grp.bind fun g => (admEntry b (portIsland k) p g.groupId f.skind f.sender f.epoch).map fun key =>
        openFrame key j.domainId j.memberIndex f
      let missing (b : Block) : Block :=
        match grp.bind fun g => (b.groupKey p g.groupId).map fun _ => g.groupId with
        | none => dropOther h p k f arrived b
        | some id =>
          if prev && !(b.epochSt p).kerf then dropOther h p k f arrived b
          else
            let b := wantAdm (portIsland k) p id f.skind f.sender f.epoch b
            if (match (b.lePart (portLe k) p).record f.skind f.sender f.stream with | some r => r.scheduled | none => false) then dropOther h p k f arrived b
            else waitFrame p k arrived bs b
      recordStep h p k f arrived prev (fun floor => windowSteps h p k f arrived prev floor missing open'
        (fun pt b => veneerAdmitted h p k pt (pinStart b p arrived) (countAccepted p k f b))) b

/-! ### Receipt (R194) -/

/-- The port mode admits the frame type (R208). -/
def modeTakes (mode : BitVec 2) (f : Frame) : Bool :=
  let pat := decide (f.ftype = 6 ∨ f.ftype = 7)
  if mode = 0 then !pat else if mode = 1 then true else if mode = 2 then pat else false

/-- The sender of a frame that is neither of a tray nor an envelope (step 5): a member in range that has not departed, or a group's switch in a standing session. -/
def senderOk (b : Block) (p : Part) (j : Jig) (f : Frame) : Bool :=
  if f.skind then (j.groups.any fun g => g.admitted && decide (g.switch = f.sender)) && (b.peer p (switchRef f.sender)).inSession
  else decide (f.sender.toNat < j.memberCount) && !b.gone p f.sender

/-- The switch stages a tray's response has passed (R321). -/
def noteHops (p : Part) (j : Jig) (f : Frame) (b : Block) : Block :=
  let node : BitVec 16 := if j.addrNode then BitVec.ofNat 16 (fieldAt f.payload 4 2) else (b.ahuPart p).trayNode
  modAhu p (fun a => { a with hops := (node, f.hops.toNat, b.now) :: a.hops.filter fun x => !(decide (x.1 = node ∧ x.2.1 = f.hops.toNat)) && decide (b.now.toNat < x.2.2.toNat + 1000000000) }) b

/-- Steps 4 and 5, and where the types part. -/
def routeFrame (h : Hard) (p : Part) (k : Port) (j : Jig) (bs : Bytes) (f : Frame) (arrived : Word) (b : Block) : Block :=
  if 5 < f.hops.toNat then
    dropOther h p k f arrived (linkNote h 0x040B p k (fun n => [aHalf f.sender.toNat, aByte f.hops.toNat, aCount n]) b)
  else if f.ftype = 8 then emit (.toTray p f.payload) (noteHops p j f b)
  else if senderOk b p j f = false then dropOther h p k f arrived b
  else if f.ftype = 3 then veneerReceive h p k bs f arrived b
  else if f.ftype = 5 then admittedSteps h p k bs f arrived b
  else sealedSteps h p k bs f arrived b

/-- A frame at the receiving LE, from step 1 on. -/
def receiveFrame (h : Hard) (p : Part) (k : Port) (bs : Bytes) (arrived : Word) (b : Block) : Block :=
  match parseFrame bs with
  | none => modPort k (fun x => { x with malformed := x.malformed + 1 }) b
  | some f =>
    if modeTakes (b.port k).mode f = false then modPort k (fun x => { x with malformed := x.malformed + 1 }) b
    else if f.ftype = 4 then emit (.toEnvelope p f.payload) b
    else if f.ftype = 6 ∨ f.ftype = 7 then checkPattern h k f b
    else match b.jigOf p with
      | none => modPort k (fun x => { x with noPart := x.noPart + 1 }) b
      | some j =>
        if b.keyed p = false then modPort k (fun x => { x with noPart := x.noPart + 1 }) b
        else routeFrame h p k j bs f arrived b

/-- The frames an LE holds for a partition are taken again, in arrival order (R130, R195). -/
def drainInbuf (h : Hard) (n : Fin 16) (p : Part) (b : Block) : Block :=
  let ws := (b.lePart n p).inbuf
  if ws = [] then b
  else ws.foldl (fun b w => receiveFrame h p w.port w.frame w.arrived b) (modLePart n p (fun l => { l with inbuf := [] }) b)

/-- FRAME_RECEIVED (R194, R208): a sleeping LE keeps the frame until it wakes (R44). -/
def execFrameReceived (port : Port) (sideNode : BitVec 16) (sidePart : Part) (frame : Bytes) (s : State) : Host.Outcome State Fault Refusal :=
  let _ := sideNode
  onB (fun h => whenLive fun b =>
    let i := b.island (portIsland port)
    if !portPresent h.cfg port || i.inReset then b
    else if i.asleep then waitFrame sidePart port b.now frame b
    else receiveFrame h sidePart port frame b.now b) s

/-! ### Scheduled data (R37, R231) -/

/-- The entry of a partition's schedule whose egress slot on the port begins at tick `t`. -/
def egressEntry (sc : Schedule) (k : Port) (t : Nat) : Option SchedEntry :=
  match entryAt sc k t 1 with
  | some e => some e
  | none => entryAt sc k t 2

/-- STREAM_SLOT_DATA (R37, R157, R201): the data of a slot, presented within it; a held port, a departed peer or stopped egress leaves the slot empty. -/
def execStreamSlotData (part : Part) (port : Port) (slotTick : Word) (data : Bytes) (s : State) : Host.Outcome State Fault Refusal :=
  onB (fun h => whenLive fun b =>
    match b.jigOf part, b.schedule part with
    | some j, some sc =>
      match egressEntry sc port slotTick.toNat with
      | none => b
      | some e =>
        if b.now.toNat < slotTick.toNat ∨ slotTick.toNat + sc.slotTicks ≤ b.now.toNat ∨ b.gone part e.peer = true then b
        else if e.cls = 2 then presentVeneer h part port e slotTick data b
        else if egressStopped b part port then b
        else sealScheduled h part port sc e j slotTick data b
    | _, _ => b) s

/-! ### Epochs and keys -/

/-- A waiting frame of an egress lane is sealed, when its key is there (R39, R130, R193); at its limit the key refuses it (R126). -/
def sealOne (k : Port) (b : Block) (x : Pinned) : Block :=
  let put (outs : List Out) (b : Block) : Block :=
    { b with shim := b.shim.map fun z => if z = (.egress k, x) then (z.1, { x with ready := true, readyAt := b.now, sealed' := true, outs := outs, job := none }) else z }
  match x.job with
  | none => b
  | some q =>
    if q.ftype = 3 then b
    else if q.ftype = 5 then
      match x.veneer.bind fun r => sealAdmitted b x.part k r.group q x.epoch x.seq with
      | some o => put [o] b
      | none => b
    else match sealEntry b x.part k x.epoch with
      | none => b
      | some (s, c) =>
        if b.usesFit (portIsland k) s 1 then countUses (portIsland k) s 1 (put (sealJob b x.part k q x.cls x.epoch x.seq c).toList b)
        else emit (.cipherDone (portIsland k) x.part 0 stUsageLimit) { b with shim := b.shim.filter fun z => decide (z ≠ (.egress k, x)) }

/-- Waiting frames of the lanes that `on` accepts, in the order they were presented. -/
def sealWaiting (on : Lane → Bool) (b : Block) : Block :=
  b.shim.foldl (fun b y => match y.1 with | .egress k => if on y.1 then sealOne k b y.2 else b | _ => b) b

def onLe (n : Fin 16) : Lane → Bool
  | .egress k => decide (portLe k = n)
  | _ => false

/-- EPOCH_BOUNDARY (R200): frames that waited for the epoch go on, and those presented for it are sealed. -/
def execEpochBoundary (part : Part) (s : State) : Host.Outcome State Fault Refusal :=
  onB (fun h => whenLive fun b =>
    match b.jigOf part with
    | none => b
    | some j =>
      if b.keyed part = false ∨ b.now.toNat < epochStart j ((b.epochSt part).epoch + 1) then b
      else (List.range (leCount h.cfg)).foldl (fun b n => drainInbuf h (Fin.ofNat 16 n) part b) (sealWaiting (fun _ => true) (boundary h part j b))) s

/-- Admitted-mode keys of epochs past leave the LEs (R200, R239). -/
def dropAdmitted (p : Part) (e : BitVec 24) (b : Block) : Block :=
  let old (c : CacheEnt) : Bool := decide (c.part.toNat = p.val) && (match c.what with | .adm _ _ x => decide (x.toNat < e.toNat) | _ => false)
  (List.range 16).foldl (fun b n =>
    let i : Island := .le (Fin.ofNat 16 n)
    let gone := ((b.island i).cache.filter old).map fun c => c.slot
    if gone = [] then b
    else gone.dedup.foldl (fun b s => unholdSlot i s b) (modIsland i (fun st => { st with cache := st.cache.filter fun c => !old c }) b)) b

/-- KERF_END (R196, R200): old values are retired, unused records and contexts freed, and frames that waited for an old key are taken again. -/
def execKerfEnd (part : Part) (s : State) : Host.Outcome State Fault Refusal :=
  onB (fun h => whenLive fun b =>
    let x := b.epochSt part
    if !x.kerf || decide (b.now.toNat < x.start.toNat + 2000) then b
    else
      let b := x.keys.foldl (fun b y => retireRepl h y.slot b) b
      let stale := x.keys.filter fun y => decide (y.ref.epoch ≠ x.epoch) && (b.repl y.slot.toNat).isNone
      let b := stale.foldl (fun b y => endKey h y.slot b) b
      let b := { b with pports := Tab.mapV b.pports fun n q =>
        if n % 8 = part.val ∧ (match q.egressKey with | some g => stale.any fun y => decide (y.slot = g.1) | none => false) = true then { q with egressKey := none } else q }
      let b := modEpoch part (fun y => { y with kerf := false, keys := y.keys.filter fun z => !stale.any fun w => decide (w.slot = z.slot) }) b
      let b := dropAdmitted part x.epoch { b with lparts := Tab.mapV b.lparts fun n l =>
        if n % 8 = part.val then
          { l with records := (l.records.filter fun r => r.scheduled || r.usedPrev || decide (x.start.toNat ≤ r.created.toNat)).map fun r => { r with prevFloor := none },
                   contexts := (l.contexts.filter fun c => c.usedPrev || decide (x.start.toNat ≤ c.created.toNat)).map fun c => { c with prev := none } }
        else l }
      (List.range (leCount h.cfg)).foldl (fun b n => drainInbuf h (Fin.ofNat 16 n) part b) b) s

/-- KEY_EPOCH_PRELOAD (R130, R199, R222): the keys the schedule names go to the LEs that lack them, the link keys and the admitted-mode keys, within 1 ms of a boundary those of the next epoch too. -/
def execKeyEpochPreload (part : Part) (s : State) : Host.Outcome State Fault Refusal :=
  onB (fun h => whenLive fun b =>
    if !b.keyed part then b
    else
      let e := b.epochNow part
      let es := if b.epochTick part (e + 1) ≤ b.now.toNat + 1000000 then [e, e + 1] else [e]
      let b := (b.vgroups.filter fun g => decide (g.part = part)).foldl (fun b g => match b.vgeo part g.groupId with
        | some v => es.foldl (fun b e => loadAdmitted part v e b) b
        | none => b) b
      (b.epochSt part).keys.foldl (fun b x =>
      if x.ref.egress then wantKey (portIsland (Fin.ofNat 64 x.ref.port.toNat)) x.slot b
      else (List.range (leCount h.cfg)).foldl (fun b n =>
        if (b.lePart (Fin.ofNat 16 n) part).records.any fun r => r.scheduled && decide (r.sender = x.ref.sender) && decide (r.sport = x.ref.port) then
          wantKey (.le (Fin.ofNat 16 n)) x.slot b
        else b) b) b) s

/-- What a key's arrival at an LE sets going: contributions and frames that waited for it (R130, R221), and frames in the input buffer. -/
def keyArrived (h : Hard) (n : Fin 16) (p : Part) (b : Block) : Block :=
  let b := (b.vgroups.filter fun g => decide (g.part = p)).foldl (fun b g => veneerResolve p g.groupId b) (sealWaiting (onLe n) b)
  drainInbuf h n p b

/-- The entry a load becomes: a new value is held unused until its commit; one the commit has overtaken is the previous value, while that lives, or comes too late (R120, R124). -/
def loadedEntry (b : Block) (slot home : Slot) (gen : BitVec 16) (previous : Bool) (value : Key) (count : Nat) (commit : Word) (part : BitVec 4) (what : KeyFor)
    (alpha : BitVec 2048) : Option CacheEnt :=
  let e : CacheEnt := { slot := slot, home := home, gen := gen, previous := previous, value := value, count := count, reported := count,
                        commit := if commit.toNat ≤ b.now.toNat then 0 else commit, part := part, what := what, alpha := alpha }
  if previous ∨ e.commit ≠ 0 ∨ gen = (b.slot slot.toNat).attr.generation then some e
  else if what ≠ .own then none
  else match b.repl slot.toNat with
    | some r =>
      if gen ≠ (b.slot r.shadow.toNat).attr.generation then none
      else if r.stage = .committed then some { e with previous := true, home := r.shadow }
      else some { e with commit := commit }
    | none => none

/-- The first key message on its way to an island reaches it, when it is a load of the slot (R129, R130): a failed CRC is a Clamp. -/
def kdrLoaded (h : Hard) (isl : Island) (slot : Slot) (crcOk : Bool) (b : Block) : Block :=
  match (b.island isl).kdrIn with
  | .load sl home gen previous value count commit part what alpha :: rest =>
    if sl ≠ slot then b
    else if crcOk = false then clamp h 4 28 none [] b
    else
      let b := modIsland isl (fun st => { st with kdrIn := rest }) b
      match loadedEntry b sl home gen previous value count commit part what alpha with
      | none => unholdSlot isl sl b
      | some e =>
        let b := cacheInsert h.cfg isl e (if e.home = home then b else unholdSlot isl sl (holdSlot isl e.home b))
        match isl, ownerPart part with
        | .le n, some p => keyArrived h n p b
        | _, _ => b
  | _ => b

end Sys2Proof.Machine
end

