-- ==== Sys2Proof/Machine/Answers.lean ====
section
/-! DEFINITION. Access to regions, memory requests and the partition's PTU state; how a request of a compute die is answered and its translation's use ends (R299, R319); bundles of line requests. -/

namespace Sys2Proof.Machine

def Block.region (b : Block) (rid : Nat) : Option Region := Tab.get? b.regions rid
def setRegion (rid : Nat) (r : Region) (b : Block) : Block := { b with regions := Tab.set b.regions rid r }
def modRegion (rid : Nat) (f : Region → Region) (b : Block) : Block := match b.region rid with | some r => setRegion rid (f r) b | none => b
def Block.mePart (b : Block) (n : Fin 8) (p : Part) : MePart := Tab.getD b.meparts (8 * n.val + p.val) MePart.reset
def modMePart (n : Fin 8) (p : Part) (f : MePart → MePart) (b : Block) : Block := { b with meparts := Tab.upd b.meparts (8 * n.val + p.val) MePart.reset f }
def Block.me (b : Block) (n : Fin 8) : MeSt := Tab.getD b.mes n.val MeSt.reset
def modMe (n : Fin 8) (f : MeSt → MeSt) (b : Block) : Block := { b with mes := Tab.upd b.mes n.val MeSt.reset f }
def Block.bounce (b : Block) (w : BitVec 6) : Option Bounce := Tab.get? b.host.bounces w.toNat
def modBounce (w : BitVec 6) (f : Bounce → Bounce) (b : Block) : Block :=
  match b.bounce w with
  | some x => { b with host := { b.host with bounces := Tab.set b.host.bounces w.toNat (f x) } }
  | none => b

/-- A member this one has a session with (R147). -/
def Block.session (b : Block) (p : Part) (m : BitVec 16) : Bool := (b.peer p (accel m)).inSession

/-! ### Uses of translations (R319) -/

/-- Age of an epoch against the current one. -/
def epochAge (cur e : BitVec 16) : Nat := (cur - e).toNat

/-- A use of epoch `e` ends; an older epoch without uses is live no more. -/
def PtuPart.ended (x : PtuPart) (e : BitVec 16) : PtuPart :=
  { x with uses := (x.uses.map fun u => if u.1 = e then (u.1, u.2 - 1) else u).filter fun u => decide (u.1 = x.epoch) || decide (0 < u.2) }

/-- A use of the current epoch begins. -/
def PtuPart.began (x : PtuPart) : PtuPart := { x with uses := x.uses.map fun u => if u.1 = x.epoch then (u.1, u.2 + 1) else u }

/-- Every use of an epoch older than `e` has ended. -/
def PtuPart.drained (x : PtuPart) (e : BitVec 16) : Bool := x.uses.all fun u => decide (epochAge x.epoch u.1 ≤ epochAge x.epoch e) || decide (u.2 = 0)

def endUse (p : Part) (u : Option (BitVec 16)) (b : Block) : Block :=
  match u with
  | some e => modPtu p (fun x => x.ended e) b
  | none => b

/-! ### Bundles -/

def Block.bundle (b : Block) (id : Nat) : Option Bundle := b.bundles.find? fun x => decide (x.id = id)

/-- One request of a bundle has ended: line `n`. -/
def bundleTake (id n : Nat) (st : Byte) (v : Line) (b : Block) : Block :=
  match b.bundle id with
  | none => b
  | some x =>
    let y : Bundle := { x with left := x.left - 1, status := if x.status = stOk then st else x.status, lines := if st = stOk then Tab.set x.lines n v else x.lines, bad := if st = stOk then x.bad else x.bad ++ [n] }
    let b := { b with bundles := b.bundles.map fun z => if z.id = id then y else z }
    if y.left = 0 then push (.bundle id) b else b

/-- A new bundle; its identifier is `b.nextReq`. -/
def newBundle (p : Part) (what : BundleFor) (n : Nat) (b : Block) : Nat × Block :=
  (b.nextReq, { b with nextReq := b.nextReq + 1, bundles := b.bundles ++ [{ id := b.nextReq, part := p, what := what, left := n, status := stOk, lines := [], bad := [] }] })

def dropBundle (id : Nat) (b : Block) : Block := { b with bundles := b.bundles.filter fun x => decide (x.id ≠ id) }

/-- The asker of line `n` of a bundle: the block's own work, no use of a translation. -/
def ownAsker (id n : Nat) : Asker := { src := .bundle id n, engine := 0, pasid := 0, use := none }

/-! ### Answers -/

/-- The one response of a request (R299): at its domain request port, where its use ends, or to its bundle. -/
def answer (a : Asker) (p : Part) (st : Byte) (v : Line) (b : Block) : Block :=
  let b := endUse p a.use b
  match a.src with
  | .port die => emit (.portRsp die p a.engine st (if st = stOk then v else 0)) b
  | .bundle id n => bundleTake id n st v b

/-! ### Memory requests -/

def Block.memReq (b : Block) (id : Nat) : Option MemReq := b.memReqs.find? fun m => decide (m.id = id)
def putReq (m : MemReq) (b : Block) : Block := { b with memReqs := b.memReqs.map fun x => if x.id = m.id then m else x }

/-- A new request, to be advanced before the command's effect ends. -/
def newReq (p : Part) (rid line : Nat) (op : MemOp) (a : Asker) (within : Nat) (scheduled : Bool) (b : Block) : Block :=
  let id := b.nextReq
  push (.req id) { b with nextReq := id + 1, memReqs := b.memReqs ++
    [{ id := id, part := p, region := rid, line := line, op := op, by' := a, within := within, wants := [], fetched := none, seqUsed := 0, rever := 0,
       scheduled := scheduled, begun := false }] }

/-- The key of a request's result in its bundle: the line; a path's lies past every line. -/
def resultKey (line : Nat) (op : MemOp) : Nat := if op = .path then 2 ^ 41 + line else line

/-- Requests the block makes for itself: lines of a region under one bundle. -/
def newReqs (p : Part) (rid : Nat) (what : BundleFor) (ops : List (Nat × MemOp)) (b : Block) : Block :=
  if ops = [] then b
  else
    let r := newBundle p what ops.length b
    ops.foldl (fun b o => newReq p rid o.1 o.2 (ownAsker r.1 (resultKey o.1 o.2)) 0 false b) r.2

end Sys2Proof.Machine
end

