-- ==== Sys2Proof/Machine/Tree.lean ====
section
/-! DEFINITION. Lines, counter blocks and the integrity tree (R247 to R255): a line's seal, minor counters, node fields, the deterministic MAC, the tree cache with its write-back, and the walk from the root down to a page's counter block. -/

namespace Sys2Proof.Machine

/-! ### Fields of a 64 B object -/

/-- `w` bits of a line from bit `lo`. -/
def lineBits (l : Line) (lo w : Nat) : Nat := bitsOf l.toNat lo w

/-- Writes `w` bits of a line from bit `lo`. -/
def putBits (l : Line) (lo w v : Nat) : Line :=
  (l &&& ~~~(BitVec.ofNat 512 (2 ^ w - 1) <<< lo)) ||| (BitVec.ofNat 512 (v % 2 ^ w) <<< lo)

/-- A counter block (R249). -/
def cbMajor (c : Line) : Word := BitVec.ofNat 64 (lineBits c 0 64)
def cbMinor (c : Line) (j : Nat) : Nat := lineBits c (64 + 7 * j) 7
def cbSetMinor (c : Line) (j m : Nat) : Line := putBits c (64 + 7 * j) 7 m
/-- A new counter block: every minor 0 (R250). -/
def cbNew (major : Word) : Line := major.setWidth 512
/-- Lines of a page with a nonzero minor. -/
def cbWritten (c : Line) : List Nat := (List.range 64).filter fun j => decide (cbMinor c j ≠ 0)
def cbFull (c : Line) : Bool := (List.range 64).all fun j => decide (cbMinor c j ≠ 0)

/-- A node's fields (R253). -/
def nodeMac (n : Line) (j : Nat) : BitVec 56 := BitVec.ofNat 56 (lineBits n (56 * j) 56)
def nodeLost (n : Line) (j : Nat) : Bool := n.getLsbD (448 + j)
def nodeFresh (n : Line) (j : Nat) : Bool := n.getLsbD (456 + j)
def nodeGen (n : Line) (j : Nat) : Bool := n.getLsbD (464 + j)
def nodeSetLost (n : Line) (j : Nat) (c : Bool) : Line := putBits n (448 + j) 1 (bit c)
/-- A node all of whose children are fresh (R253). -/
def nodeNew : Line := putBits 0 456 8 0xFF
/-- Child `j` with its MAC, written under a generation of the given parity. -/
def nodeSetChild (n : Line) (j : Nat) (mac : BitVec 56) (gen : Bool) : Line :=
  putBits (putBits (putBits n (56 * j) 56 mac.toNat) (456 + j) 1 0) (464 + j) 1 (bit gen)
/-- Child `j` fresh again: slot zero, `GEN` and `LOST` zero. -/
def nodeSetFresh (n : Line) (j : Nat) : Line :=
  putBits (putBits (putBits (putBits n (56 * j) 56 0) (448 + j) 1 0) (456 + j) 1 1) (464 + j) 1 0

/-! ### Seals and MACs -/

/-- The IV of a line (R247). -/
def lineIv (line : Nat) (major : Word) (minor : Nat) : Bytes := leBytes 12 (minor % 128 + 2 ^ 7 * (major.toNat % 2 ^ 48) + 2 ^ 55 * (line % 2 ^ 41))

/-- A sealed line: ciphertext and the leftmost 56 bits of the tag, first tag byte lowest (R247, R252). -/
def sealLine (key : Key) (line : Nat) (major : Word) (minor : Nat) (pt : Line) : Line × BitVec 56 :=
  let r := gcmSeal key (lineIv line major minor) [] (lineBytes pt)
  (lineOf r.1, BitVec.ofNat 56 (leVal ((tagBytes r.2).take 7)))

/-- Opens a line: the plaintext when its tag verifies. -/
def openLine (key : Key) (line : Nat) (major : Word) (minor : Nat) (ct : Line) (tag : BitVec 56) : Option Line :=
  let iv := lineIv line major minor
  if BitVec.ofNat 56 (leVal ((tagBytes (gcmTag key iv [] (lineBytes ct))).take 7)) = tag then
    some (lineOf (ctrMode key (ctrNext (gcmJ0 iv)) (lineBytes ct)))
  else none

/-- NMAC (R254). -/
def nmac (key : Key) (kind level index : Nat) (c : Bytes) : BitVec 128 :=
  let s := leBytes 1 kind ++ leBytes 1 level ++ leBytes 6 0 ++ leBytes 8 index ++ c
  let s := s ++ leBytes 8 0 ++ (leBytes 8 (8 * s.length)).reverse
  Config.aes256 key (ghashBlocks (Config.aes256 key (blockOf (0xFF :: List.replicate 15 0))) (s.length / 16) s 0)

/-- The MAC of a counter block or node as its parent's slot holds it (R254). -/
def objMac (key : Key) (level index : Nat) (l : Line) : BitVec 56 :=
  BitVec.ofNat 56 (leVal ((blockBytes (nmac key (if level = 0 then 1 else 2) level index (lineBytes l))).take 7))

/-! ### Keys of a region -/

/-- The parity of the generation in force for new work. -/
def Region.parity (r : Region) : Bool := r.gen.getLsbD 0
/-- A `GEN` bit names the previous generation, which exists from a key commit to the end of its sweep (R259). -/
def Region.isPrev (r : Region) (gen : Bool) : Bool := gen != r.parity && r.prevKey.isSome

/-- The value of a region's key: the current generation's, or the previous one's. -/
def Block.regionKey (b : Block) (r : Region) (prev : Bool) : Key :=
  match prev, r.prevKey with
  | true, some s => b.keyVal s
  | _, _ => b.keyVal r.keySlot

/-- The island has the region's keys (R130). -/
def regionKeysReady (b : Block) (i : Island) (r : Region) : Bool :=
  (b.cached i r.keySlot).isSome && (r.prevKey.isNone || ((b.island i).entry r.keySlot true).isSome)

/-- Asks TC for the region's keys the island lacks. -/
def wantRegionKeys (i : Island) (r : Region) (b : Block) : Block :=
  let b := wantKey i r.keySlot b
  match r.prevKey with
  | some s => if ((b.island i).entry r.keySlot true).isSome || loadPending b i r.keySlot true .own then b else loadPrevious i r.keySlot s b
  | none => b

/-! ### The tree cache (R255) -/

/-- Entries of one partition's part. -/
def treeCap (c : Cfg) : Nat := match c with | .s => 512 | .m => 2048 | _ => 8192

def Block.treeEnt (b : Block) (rid : Nat) (r : Region) (obj : MemObj) : Option TreeEnt :=
  (b.mePart r.me r.part).cache.find? fun e => decide (e.region = rid) && decide (e.obj = obj)

def modCache (r : Region) (f : List TreeEnt → List TreeEnt) (b : Block) : Block := modMePart r.me r.part (fun m => { m with cache := f m.cache }) b

/-- Changes a cached entry in place. -/
def modTree (rid : Nat) (r : Region) (obj : MemObj) (f : TreeEnt → TreeEnt) (b : Block) : Block :=
  modCache r (fun c => c.map fun e => if e.region = rid ∧ e.obj = obj then (let y := f e; if y.dirty && !e.dirty then { y with pubd := some e.line } else y) else e) b

/-- The object whose slot covers this one. -/
def parentObj : MemObj → Option MemObj
  | .node k i => some (.node (k + 1) (i / 8))
  | _ => none

/-- Writes a child's MAC into its parent, the root or a cached node, which becomes dirty (R255). -/
def setParent (rid : Nat) (r : Region) (level index : Nat) (l : Line) (b : Block) : Block :=
  let mac := objMac (b.regionKey r false) level index l
  if level + 1 = r.levels then
    modRegion rid (fun x => { x with token := { x.token with root := nodeSetChild x.token.root (index % 8) mac r.parity } }) b
  else modTree rid r (.node (level + 1) (index / 8)) (fun e => { e with line := nodeSetChild e.line (index % 8) mac r.parity, dirty := true }) b

/-- The write-back of a dirty entry of an HBM region (R255). -/
def writeBack (e : TreeEnt) (b : Block) : Block :=
  match b.region e.region with
  | none => b
  | some r =>
    if !e.dirty || decide (r.kind = 2) then b
    else
      let b := emit (.hbmWrite r.me e.region e.obj e.line) b
      match e.obj with
      | .node k i => setParent e.region r k i e.line b
      | _ => b

/-- An entry enters the cache, most recently used first, in the place of one of the same object; its room has been made. -/
def putTree (rid : Nat) (r : Region) (obj : MemObj) (l : Line) (dirty corr : Bool) (b : Block) : Block :=
  let old := b.treeEnt rid r obj
  let pubd := match old with | some e => if !dirty then none else if e.dirty then e.pubd else some e.line | none => none
  modCache r (fun c => { region := rid, obj := obj, line := l, dirty := dirty, pinned := (match old with | some e => e.pinned | none => false),
                         leaving := (match old with | some e => e.leaving | none => false), corr := corr, pubd := pubd } ::
    c.filter fun e => !(decide (e.region = rid) && decide (e.obj = obj))) b

/-- A use of an entry makes it the most recent. -/
def touchTree (rid : Nat) (r : Region) (obj : MemObj) (b : Block) : Block :=
  match b.treeEnt rid r obj with
  | none => b
  | some e => modCache r (fun c => e :: c.filter fun x => decide (x ≠ e)) b

/-- Drops the entries `f` names, cached or waiting for room, without write-back. -/
def dropEntries (r : Region) (f : TreeEnt → Bool) (b : Block) : Block :=
  modMePart r.me r.part (fun m => { m with cache := m.cache.filter fun e => !f e, fills := m.fills.filter fun e => !f e }) b

/-- Drops a region's entries, without write-back. -/
def dropTree (rid : Nat) (r : Region) (b : Block) : Block := dropEntries r (fun e => decide (e.region = rid)) b

/-- The entry's MAC has a place to go to: it is clean, its parent is cached or the root, or it has no parent. -/
def parentHere (b : Block) (r : Region) (e : TreeEnt) : Bool :=
  !e.dirty || (match e.obj with | .node k i => decide (k + 1 = r.levels) || (b.treeEnt e.region r (.node (k + 1) (i / 8))).isSome | _ => true)

/-- Writes back the dirty entries of an ME whose parents are at hand, children before parents, level by level (R255, R44, R273). -/
def flushLevel (n : Fin 8) (p : Part) (lvl : Nat) (b : Block) : Block :=
  (b.mePart n p).cache.foldl (fun b e =>
    let now := match (b.mePart n p).cache.find? fun x => decide (x.region = e.region) && decide (x.obj = e.obj) with | some x => x | none => e
    let mine := match e.obj with | .node k _ => decide (k = lvl) | _ => decide (lvl = 0)
    match b.region e.region with
    | some r => if mine && now.dirty && decide (r.kind ≠ 2) && parentHere b r now then modTree e.region r e.obj (fun x => { x with dirty := false }) (writeBack now b) else b
    | none => b) b
def flushCache (n : Fin 8) (p : Part) (b : Block) : Block := (List.range 12).foldl (fun b lvl => flushLevel n p lvl b) b

/-! ### Tags (R252) -/

/-- The tag-area lines that hold a line's tag. -/
def tagLinesOf (line : Nat) : List Nat :=
  let o := 448 * (line / 64) + 7 * (line % 64)
  if o / 64 = (o + 6) / 64 then [o / 64] else [o / 64, o / 64 + 1]

/-- The content of a tag-area line: cached, else zero. -/
def tagContent (b : Block) (rid : Nat) (r : Region) (t : Nat) : Line := match b.treeEnt rid r (.tagLine t) with | some e => e.line | none => 0

/-- A line's tag from the cached tag-area lines. -/
def tagOfLine (b : Block) (rid : Nat) (r : Region) (line : Nat) : BitVec 56 :=
  let o := 448 * (line / 64) + 7 * (line % 64)
  let both := (tagContent b rid r (o / 64)).toNat + 2 ^ 512 * (tagContent b rid r (o / 64 + 1)).toNat
  BitVec.ofNat 56 (bitsOf both (8 * (o % 64)) 56)

/-- Writes a line's tag into its tag-area lines, which become dirty. -/
def putTag (rid : Nat) (r : Region) (line : Nat) (tag : BitVec 56) (b : Block) : Block :=
  let o := 448 * (line / 64) + 7 * (line % 64)
  let lo := o % 64
  let n := min 7 (64 - lo)
  let b := putTree rid r (.tagLine (o / 64)) (putBits (tagContent b rid r (o / 64)) (8 * lo) (8 * n) (tag.toNat % 2 ^ (8 * n))) true false b
  if n = 7 then b
  else putTree rid r (.tagLine (o / 64 + 1)) (putBits (tagContent b rid r (o / 64 + 1)) 0 (8 * (7 - n)) (tag.toNat / 2 ^ (8 * n))) true false b

/-- Tag-area lines of a line that are not in the cache. -/
def tagsMissing (b : Block) (rid : Nat) (r : Region) (line : Nat) : List MemObj :=
  ((tagLinesOf line).map MemObj.tagLine).filter fun o => (b.treeEnt rid r o).isNone

/-! ### The walk -/

/-- Where the walk towards a page's counter block ends: at a fresh child, at an object to fetch (with its parent's content), or at the block with its level-1 parent. -/
inductive Walk where
  | fresh (level : Nat)
  | need (level index : Nat) (parent : Line)
  | cb (block parent : Line)
  deriving DecidableEq, Repr

/-- Walks from a node of level `k` down. -/
def walkFrom (b : Block) (rid : Nat) (r : Region) (page : Nat) : Nat → Line → Walk
  | 0, l => .cb l l
  | k + 1, parent =>
    let i := page / 8 ^ k
    match b.treeEnt rid r (.node k i) with
    | some e => if k = 0 then .cb e.line parent else walkFrom b rid r page k e.line
    | none => if nodeFresh parent (i % 8) then .fresh k else .need k i parent

def walk (b : Block) (rid : Nat) (r : Region) (page : Nat) : Walk := walkFrom b rid r page r.levels r.token.root

/-- The objects of a page's path, the counter block first. -/
def pathObjs (r : Region) (page : Nat) : List MemObj := (List.range r.levels).map fun k => .node k (page / 8 ^ k)

/-- Makes a page's path the most recent of the cache. -/
def touchPath (rid : Nat) (r : Region) (page : Nat) (b : Block) : Block := (pathObjs r page).foldl (fun b o => touchTree rid r o b) b

/-- The content of a node the walk has passed: the root, or from the cache. -/
def nodeAt (b : Block) (rid : Nat) (r : Region) (k i : Nat) : Option Line :=
  if k = r.levels then some r.token.root else (b.treeEnt rid r (.node k i)).map fun e => e.line

/-- Changes a node in place: the root, or a cached node, which becomes dirty. -/
def modNode (rid : Nat) (r : Region) (k i : Nat) (f : Line → Line) (b : Block) : Block :=
  if k = r.levels then modRegion rid (fun x => { x with token := { x.token with root := f x.token.root } }) b
  else modTree rid r (.node k i) (fun e => { e with line := f e.line, dirty := true }) b

/-- Takes a new major counter (R250). -/
def newMajor (rid : Nat) (b : Block) : Word × Block :=
  match b.region rid with
  | none => (0, b)
  | some r => (r.token.majorHwm + 1, setRegion rid { r with token := { r.token with majorHwm := r.token.majorHwm + 1 } } b)

/-- Creates the nodes of the fresh path from level `k` down to level 1 (R253). -/
def freshNodes (rid : Nat) (r : Region) (page : Nat) : Nat → Block → Block
  | 0, b => b
  | k + 1, b => freshNodes rid r page k (putTree rid r (.node (k + 1) (page / 8 ^ (k + 1))) nodeNew true false b)

/-- Marks a child as written, under the generation in force, before its MAC is known. -/
def markWritten (rid : Nat) (r : Region) (k i : Nat) (b : Block) : Block :=
  modNode rid r (k + 1) (i / 8) (fun n => nodeSetChild n (i % 8) (nodeMac n (i % 8)) r.parity) b

/-- The first write beneath a fresh child of level `k`: the fresh path, and the new counter block with its major counter (R253). -/
def makePath (rid : Nat) (r : Region) (page k : Nat) (b : Block) : Block :=
  let m := newMajor rid b
  let b := freshNodes rid r page k m.2
  let b := putTree rid r (.node 0 page) (cbNew m.1) true false b
  (List.range (k + 1)).foldl (fun b x => markWritten rid r x (page / 8 ^ x) b) b

/-! ### Room in the cache (R255) -/

/-- Fetches an object of an HBM region, unless its fetch is out or it waits for room; a cacheable one counts as a miss (R274). -/
def fetchHbm (rid : Nat) (r : Region) (obj : MemObj) (b : Block) : Block :=
  if b.fetches.contains (rid, obj) || ((b.mePart r.me r.part).fills.any fun e => decide (e.region = rid) && decide (e.obj = obj)) then b
  else
    let b := emit (.hbmRead r.me rid obj) { b with fetches := b.fetches ++ [(rid, obj)] }
    match obj with
    | .dataLine _ => b
    | _ => modMePart r.me r.part (fun m => { m with misses := m.misses + 1 }) b

/-- An entry may be put out: not pinned, not waiting for its parent, and of a pool region only a clean one that no publication holds (R262). -/
def evictable (b : Block) (e : TreeEnt) : Bool :=
  match b.region e.region with
  | none => true
  | some r => !e.pinned && !e.leaving && !(decide (r.kind = 2 ∧ r.role = 0) && (r.pub.isSome || e.dirty))

/-- Puts an entry out, written back. -/
def putOut (e : TreeEnt) (b : Block) : Block :=
  match b.region e.region with
  | none => b
  | some r => modCache r (fun c => c.filter fun x => decide (x ≠ e)) (writeBack e b)

/-- What a dirty entry lacks on the way to its parent is fetched. -/
def askParent (e : TreeEnt) (b : Block) : Block :=
  match b.region e.region, e.obj with
  | some r, .node k i => (match walk b e.region r (i * 8 ^ k) with | .need k' i' _ => fetchHbm e.region r (.node k' i') b | _ => b)
  | _, _ => b

/-- The entry leaves once its parent is there. -/
def setLeaving (r : Region) (e : TreeEnt) (b : Block) : Block := modCache r (fun c => c.map fun x => if x = e then { x with leaving := true } else x) b

/-- Puts one entry out, least recently used first; one whose parent must be fetched stays, dirty and not to be put out again, and another goes. Whether one went. -/
def evictOne (r : Region) (b : Block) : Bool × Block :=
  let here (e : TreeEnt) : Bool := match b.region e.region with | some x => parentHere b x e | none => true
  let cands := (((b.mePart r.me r.part).cache.filter (evictable b))).reverse
  match cands with
  | [] => (false, b)
  | v :: _ =>
    if here v then (true, match b.region v.region with | some _ => putOut v b | none => modCache r (fun c => c.filter fun x => decide (x ≠ v)) b)
    else
      let b := askParent v (setLeaving r v b)
      match cands.find? here with
      | some w => (true, putOut w b)
      | none => (false, b)

/-- Puts out as many entries as asked, as far as that goes. -/
def evictMany (r : Region) : Nat → Block → Bool × Block
  | 0, b => (true, b)
  | n + 1, b =>
    let x := evictOne r b
    if x.1 then evictMany r n x.2 else x

/-- Makes room for `n` new entries in the partition's part; false where entries that cannot leave hold it. -/
def makeRoom (c : Cfg) (r : Region) (n : Nat) (b : Block) : Bool × Block := evictMany r ((b.mePart r.me r.part).cache.length + n - treeCap c) b

/-- Room for those of the objects that are not cached. -/
def roomFor (c : Cfg) (rid : Nat) (r : Region) (objs : List MemObj) (b : Block) : Bool × Block :=
  makeRoom c r ((objs.filter fun o => (b.treeEnt rid r o).isNone).length) b

/-- The object stands above an entry that waits to leave. -/
def leavingNeeds (b : Block) (rid : Nat) (r : Region) (obj : MemObj) : Bool :=
  match obj with
  | .node k i => (b.mePart r.me r.part).cache.any fun e => e.leaving && decide (e.region = rid) && (match e.obj with | .node k' i' => decide (k' < k ∧ i' / 8 ^ (k - k') = i) | _ => false)
  | _ => false

/-- A fetched object enters the cache: at once where it is cached already, or where an entry that is to leave waits for it; else when there is room. Whether it entered. -/
def fillTree (c : Cfg) (rid : Nat) (r : Region) (obj : MemObj) (l : Line) (corr : Bool) (b : Block) : Bool × Block :=
  if (b.treeEnt rid r obj).isSome || leavingNeeds b rid r obj then (true, putTree rid r obj l false corr b)
  else
    let x := makeRoom c r 1 b
    if x.1 then (true, putTree rid r obj l false corr x.2)
    else (false, modMePart r.me r.part (fun m => { m with fills := m.fills ++
      [{ region := rid, obj := obj, line := l, dirty := false, pinned := false, leaving := false, corr := corr, pubd := none }] }) x.2)

/-- Entries that were to leave go, those whose parents have come; for the others what they still lack is fetched. -/
def leaveOn (r : Region) (b : Block) : Block :=
  ((b.mePart r.me r.part).cache.filter fun e => e.leaving).foldl (fun b e =>
    match b.region e.region with
    | none => b
    | some x => match b.treeEnt e.region x e.obj with
      | none => b
      | some y => if parentHere b x y then putOut y b else askParent y b) b

/-- Fills that waited enter, in order, while there is room; the objects that entered. -/
def drainFills (c : Cfg) (n : Fin 8) (p : Part) (b : Block) : List (Nat × MemObj) × Block :=
  (b.mePart n p).fills.foldl (fun acc e =>
    match acc.2.region e.region with
    | none => (acc.1, modMePart n p (fun m => { m with fills := m.fills.filter fun x => decide (x ≠ e) }) acc.2)
    | some r =>
      let x := makeRoom c r 1 acc.2
      if x.1 then (acc.1 ++ [(e.region, e.obj)], putTree e.region r e.obj e.line false e.corr (modMePart n p (fun m => { m with fills := m.fills.filter fun y => decide (y ≠ e) }) x.2))
      else (acc.1, x.2)) ([], b)

/-- Dirty entries of an ME that must fetch a parent before they can be written back are on their way out; whether there are none (R44, R255). -/
def cleanOut (n : Fin 8) (p : Part) (b : Block) : Bool × Block :=
  let left := (b.mePart n p).cache.filter fun e => e.dirty && (match b.region e.region with | some r => decide (r.kind ≠ 2) | none => false)
  (decide (left = []), left.foldl (fun b e => match b.region e.region with | some r => askParent e (setLeaving r e b) | none => b) b)

end Sys2Proof.Machine
end

