-- ==== Sys2Proof/Machine/Placement.lean ====
section
/-! DEFINITION. The port of a destination (R285, R321, R322) and tray requests (R279, R280, R298). -/

namespace Sys2Proof.Machine

/-- Destinations of the partition on a port. -/
def destsOn (x : PtuPart) (k : Port) : Nat := (x.chosen.filter fun c => decide (c.port = k)).length

/-- The port with the fewest destinations of the partition, then the lowest (R321). -/
def fewestDests (x : PtuPart) (ks : List Port) : Option Port :=
  ks.foldl (fun best k => match best with | none => some k | some m => if destsOn x k < destsOn x m then some k else some m) none

/-- A destination has sent messages above `ACCEPTED`, or tray requests out (R322). -/
def destBusy (b : Block) (p : Part) (dkind : BitVec 2) (dest : BitVec 16) : Bool :=
  (b.ahuPart p).tags.any fun t =>
    if dkind = 2 then decide (t.2.kind = 0 ∧ t.2.node = dest)
    else decide (dkind = 0 ∧ t.2.kind = 1 ∧ t.2.peer = dest) && (match t.2.dseq with | some d => decide ((b.pairReq p dest).accepted < d) | none => false)

/-- The port of a destination: its pin, once the pin has taken effect, else the port chosen, else one chosen now. -/
def choosePort (c : Cfg) (p : Part) (dkind : BitVec 2) (dest : BitVec 16) (b : Block) : Option Port × Block :=
  let x := b.ptuPart p
  let cur := (x.chosen.find? fun e => e.names dkind dest).map fun e => e.port
  let pin := (x.pins.find? fun e => e.names dkind dest).map fun e => e.port
  let want := match cur, pin with
    | some k, some q => if destBusy b p dkind dest then some k else some q
    | some k, none => some k
    | none, some q => some q
    | none, none => fewestDests x (((List.range 64).map fun n => Fin.ofNat 64 n).filter (portOpen c b p))
  match want with
  | none => (none, b)
  | some k => (some k, if cur = some k then b else
      modPtu p (fun x => { x with chosen := (x.chosen.filter fun e => !e.names dkind dest) ++ [{ dkind := dkind, dest := dest, port := k }] }) b)

/-! ### Trays -/

/-- Byte offset of an object in its region's footprint (R252). -/
def objOffset (r : Region) : MemObj → Nat
  | .dataLine i => 64 * i
  | .tagLine i => 4096 * r.pages + 64 * i
  | .node 0 i => 4544 * r.pages + 64 * i
  | .node (k + 1) i => 4608 * r.pages + 64 * (((List.range k).map fun x => nodesAt r.pages (x + 1)).sum + i)

/-- The tray of a pool region (R279): named by the region in mode 1, by the AHU's register in mode 0. -/
def trayNode (b : Block) (r : Region) : Option (BitVec 16) :=
  match b.jigOf r.part with
  | none => none
  | some j => if j.addrNode then some r.node else if (b.ahuPart r.part).trayValid then some (b.ahuPart r.part).trayNode else none

/-- The block's own fabric node, as its Jig places the member (log entry 14). -/
def ownNode (b : Block) (p : Part) : BitVec 16 :=
  match b.jigOf p with | some j => (Config.memberSide j.domainId (accel j.memberIndex)).setWidth 16 | none => 0

/-- A tag no request of a compute die holds. -/
def noAsker : Asker := { src := .bundle 0 0, engine := 0, pasid := 0, use := none }

/-- The frame of the tray request a tag holds. -/
def trayFrame (b : Block) (p : Part) (t : Nat) (x : TagSt) : QFrame :=
  let inFrame : BitVec 16 := match b.jigOf p with | some j => if j.addrNode then x.node else 0 | none => 0
  { part := p, ftype := 8, stream := 0, dest := 0, switch := false, node := x.node, payload := trayBytes p t (decide (x.mtype = mWrite)) inFrame (ownNode b p) x.offset x.line, tick := b.now,
    notice := false, tag := some t }

/-- Sends a tray request for one object: none while no tag is free or no port is open. -/
def sendTray (c : Cfg) (rid : Nat) (r : Region) (node : BitVec 16) (write : Bool) (obj : MemObj) (l : Line) (b : Block) : Option (Nat × Block) :=
  match choosePort c r.part 2 node b with
  | (none, _) => none
  | (some k, b) =>
    let x : TagSt := { kind := 0, region := rid, regionId := r.regionId, peer := 0, mtype := if write then mWrite else mRead, dseq := none,
                       offset := BitVec.ofNat 48 (r.base + objOffset r obj), node := node, obj := obj, line := l, aop := 0, opA := 0, opB := 0, by' := noAsker,
                       first := none, last := b.now, abandon := false, silent := false, quarEnd := 0 }
    match takeTag c r.part x b with
    | none => none
    | some (t, b) => some (t, push3 k (trayFrame b r.part t x) b)

/-- Fetches an object unless its fetch is out already (R275, R280); a cacheable one counts as a miss (R274). -/
def fetchObj (h : Hard) (rid : Nat) (r : Region) (obj : MemObj) (b : Block) : Block :=
  if r.kind ≠ 2 then fetchHbm rid r obj b
  else if b.fetches.contains (rid, obj) || ((b.mePart r.me r.part).fills.any fun e => decide (e.region = rid) && decide (e.obj = obj)) then b
  else match trayNode b r with
    | none => b
    | some n => match sendTray h.cfg rid r n false obj 0 b with
      | none => b
      | some (_, b) =>
        let b := { b with fetches := b.fetches ++ [(rid, obj)] }
        match obj with
        | .dataLine _ => b
        | _ => modMePart r.me r.part (fun m => { m with misses := m.misses + 1 }) b

end Sys2Proof.Machine
end

