-- ==== Sys2Proof/Machine/Asks.lean ====
section
/-! DEFINITION. The requester's side of transaction messages (R278, R285 to R288, R293, R298 to R300): messages put on the fabric, sent again, ended by an abort, a closed session, a lost keeper or a hand-off. -/

namespace Sys2Proof.Machine

/-- A message to a member on stream 0xFE, on the pair's port (R285); without a port it is not sent, and is asked for again. -/
def sendXact (h : Hard) (p : Part) (peer : BitVec 16) (payload : Bytes) (tag : Option Nat) (b : Block) : Block :=
  match choosePort h.cfg p 0 peer b with
  | (none, b) => b
  | (some k, b) => push3 k { part := p, ftype := 1, stream := 0xFE, dest := peer, switch := false, node := 0, payload := payload, tick := b.now, notice := false, tag := tag } b

/-- Queues the message a tag holds. -/
def sendAsk (h : Hard) (p : Part) (t : Nat) (b : Block) : Block :=
  match b.tagSt p t with
  | some x => sendXact h p x.peer (messageOf b p t x) (some t) b
  | none => b

/-- The frame of a tag that still waits in a queue. -/
def queuedTag (b : Block) (p : Part) (t : Nat) : Bool :=
  b.pports.any fun e => decide (e.1 % 8 = p.val) && (e.2.queue3 ++ e.2.wait3).any fun q => decide (q.tag = some t)
def dropQueued (p : Part) (t : Nat) (b : Block) : Block :=
  { b with pports := Tab.mapV b.pports fun n x => 
      if n % 8 = p.val then PortPart.put3 b.now [] { x with queue3 := x.queue3.filter fun q => decide (q.tag ≠ some t), wait3 := x.wait3.filter fun q => decide (q.tag ≠ some t) } else x }

/-- A write or atomic that a lost answer or an abort may have left in doubt (R288, R299). -/
def TagSt.mutates (x : TagSt) : Bool := decide (x.mtype = mWrite ∨ x.mtype = mAtomic)
/-- A message on the fabric with a number, a member's request and no fence (R286). -/
def TagSt.isAsk (x : TagSt) : Bool := (decide (x.kind = 1) || decide (x.kind = 3)) && decide (x.mtype ≠ mFence)

/-- Counts an outcome nobody can tell (R304). -/
def countUnknown (p : Part) (st : Byte) (b : Block) : Block := if st = stAtomicUnknown then modAhu p (fun a => { a with unknown := a.unknown + 1 }) b else b

/-- The answer of a tag's requester, unless it has had its one (R299). -/
def answerTag (p : Part) (x : TagSt) (st : Byte) (v : Line) (b : Block) : Block :=
  if x.silent then b else answer x.by' p st v (countUnknown p st b)

/-- Ends a message without its own response: answered, its tag free when it never left, else in quarantine (R298). -/
def endAsk (p : Part) (t : Nat) (st : Byte) (b : Block) : Block :=
  match b.tagSt p t with
  | none => b
  | some x =>
    let b := answerTag p x st 0 (dropQueued p t b)
    if x.kind = 3 ∨ x.dseq = none then freeTag p t b else quarantine p t b

/-- The tags of a partition for which `f` holds, each ended or changed by `g`. -/
def eachTag (p : Part) (f : Nat → TagSt → Bool) (g : Nat → TagSt → Block → Block) (b : Block) : Block :=
  ((b.ahuPart p).tags.filter fun e => f e.1 e.2).foldl (fun b e => g e.1 e.2 b) b

/-- The abort of one message (R299): a write or atomic already sent leaves an abandon copy to be answered. -/
def abortAsk (p : Part) (t : Nat) (x : TagSt) (b : Block) : Block :=
  if x.dseq.isSome = true ∧ x.kind = 1 ∧ x.mutates = true then
    modTag p t (fun y => { y with silent := true }) (answerTag p x stAborted 0 b)
  else endAsk p t stAborted b

/-- The line operation of a message. -/
def TagSt.memOp (x : TagSt) : MemOp :=
  if x.mtype = mWrite then .write x.line else if x.mtype = mAtomic then .atomic (x.aop.setWidth 4) x.opA x.opB else .read

/-- A message whose region this member has come to keep is served at its own engine. -/
def askSelf (p : Part) (t : Nat) (x : TagSt) (b : Block) : Block :=
  let b := dropQueued p t b
  let b := if x.kind = 3 ∨ x.dseq = none then freeTag p t b else quarantine p t b
  newReq p x.region (x.offset.toNat / 64) x.memOp x.by' (x.offset.toNat % 64) false b

/-- Sends a message under a new `DSEQ`, to another keeper (R290, R300). -/
def askAgain (h : Hard) (p : Part) (t : Nat) (keeper : BitVec 16) (b : Block) : Block :=
  match (if keeper = b.selfIndex p then b.tagSt p t else none) with
  | some x => askSelf p t x b
  | none => sendAsk h p t (modTag p t (fun y => { y with kind := 1, peer := keeper, dseq := none, first := none }) (dropQueued p t b))

/-- The keeper of a region has changed by hand-off: what it has not sent, and what the old keeper refused, goes to the new one (R290). -/
def keeperMoved (h : Hard) (p : Part) (id : BitVec 32) (keeper : BitVec 16) (b : Block) : Block :=
  eachTag p (fun _ x => x.isAsk && decide (x.regionId = id ∧ x.peer ≠ keeper) && (decide (x.kind = 3) || x.dseq.isNone)) (fun t _ b => askAgain h p t keeper b) b

/-- What the keeper of a region refused, the region being suspended and not handed off, ends so (R290). -/
def endRefused (p : Part) (id : BitVec 32) (b : Block) : Block :=
  eachTag p (fun _ x => x.isAsk && decide (x.kind = 3 ∧ x.regionId = id)) (fun t _ b => endAsk p t stRegionRevoked b) b

/-- Fences with a target at a member end with a status (R297, R300). -/
def failFences (p : Part) (peer : BitVec 16) (st : Byte) (b : Block) : Block :=
  push (.fences p) (modAhu p (fun a => { a with fences := a.fences.map fun f => if f.status = stOk ∧ (f.targets.any fun t => decide (t.1 = peer)) = true then { f with status := st } else f }) b)

/-- A region's keeper is lost (R300): reads go to the new keeper if there is one, writes and atomics that were sent end in doubt. -/
def keeperGone (h : Hard) (p : Part) (id : BitVec 32) (old : BitVec 16) (next : Option (BitVec 16)) (b : Block) : Block :=
  let b := eachTag p (fun _ x => x.isAsk && decide (x.regionId = id ∧ x.peer = old)) (fun t x b =>
    if x.dseq.isSome ∧ x.kind = 1 ∧ x.mtype = mAtomic then endAsk p t stAtomicUnknown b
    else if x.dseq.isSome ∧ x.kind = 1 ∧ x.mtype = mWrite then endAsk p t stRegionRevoked b
    else match next with
      | some k => askAgain h p t k b
      | none => endAsk p t stRegionRevoked b) b
  failFences p old stRegionRevoked b

/-- A pair's session closes (R286, R293, R297, R301): both sides' pair state goes. -/
def pairClosed (p : Part) (peer : BitVec 16) (b : Block) : Block :=
  let b := eachTag p (fun _ x => (decide (x.kind = 1) || decide (x.kind = 3)) && decide (x.peer = peer)) (fun t x b =>
    if x.mtype = mFence then quarantine p t (dropQueued p t b)
    else if x.mtype ≠ mAtomic then endAsk p t stPeerDeparted b
    else if x.dseq.isSome ∧ x.kind = 1 then endAsk p t stAtomicUnknown b
    else endAsk p t stAborted b) b
  let b := failFences p peer stPeerDeparted b
  let b := { b with bundles := b.bundles.filter fun y => match y.what with | .pair m _ _ => !(decide (y.part = p) && decide (m = peer)) | _ => true }
  push (.part p) (modAhu p (fun a => { a with req := Tab.del a.req peer.toNat, keep := Tab.del a.keep peer.toNat, acqs := a.acqs.filter fun q => decide (q.peer ≠ peer) }) b)

/-! ### A request on its way to a keeper (R278) -/

/-- The message a request becomes. -/
def askOf (r : Region) (m : MemReq) (now : Word) : TagSt :=
  let x : TagSt := { kind := 1, region := m.region, regionId := r.regionId, peer := r.token.keeper, mtype := mRead, dseq := none, offset := BitVec.ofNat 48 (64 * m.line + m.within), node := 0,
                     obj := .dataLine m.line, line := 0, aop := 0, opA := 0, opB := 0, by' := m.by', first := none, last := now, abandon := false, silent := false, quarEnd := 0 }
  match m.op with
  | .write v => { x with mtype := mWrite, line := v }
  | .atomic aop a c => { x with mtype := mAtomic, aop := aop.setWidth 8, opA := a, opB := if aop = 7 then c else 0 }
  | _ => x

/-- Puts a request on the fabric: none while it must wait for a tag or a port. -/
def launch (h : Hard) (r : Region) (m : MemReq) (b : Block) : Option Block :=
  match choosePort h.cfg r.part 0 r.token.keeper b with
  | (none, _) => none
  | (some _, b) => match takeTag h.cfg r.part (askOf r m b.now) b with
    | none => none
    | some (t, b) => some (sendAsk h r.part t { b with memReqs := b.memReqs.filter fun x => decide (x.id ≠ m.id) })

/-! ### Sent again (R282, R288) -/

/-- A message or tray request is due again: sent, without a response, `RTO` since its last sending. -/
def resendDue (b : Block) (p : Part) (t : Nat) (x : TagSt) : Bool :=
  decide (x.kind.toNat ≤ 1) && decide (x.mtype ≠ mFence) && x.first.isSome && !queuedTag b p t && decide (x.last.toNat + rtoTicks (b.ahuPart p) ≤ b.now.toNat)

/-- Sends one again. -/
def resend (h : Hard) (p : Part) (t : Nat) (b : Block) : Block :=
  match b.tagSt p t with
  | none => b
  | some x =>
    let b := modAhu p (fun a => { a with retransmit := a.retransmit + 1, abandoned := if x.abandon then a.abandoned + 1 else a.abandoned }) b
    if x.kind = 0 then
      match choosePort h.cfg p 2 x.node b with
      | (none, b) => b
      | (some k, b) => push3 k (trayFrame b p t x) b
    else sendAsk h p t b

/-- Due messages of a pair up to a number, in `DSEQ` order. -/
def dueUpTo (b : Block) (p : Part) (peer : BitVec 16) (d : Nat) : List Nat :=
  (sortBy (fun e => e.2.dseq.getD 0) ((b.sent p peer).filter fun e => resendDue b p e.1 e.2 && decide (e.2.dseq.getD 0 ≤ d))).map fun e => e.1

end Sys2Proof.Machine
end

