-- ==== Sys2Proof/Machine/MemEngine.lean ====
section
/-! DEFINITION. The Memory Engine (R247 to R259, R268, R269): how a line request goes on from what the tree cache holds, staged reads, re-encryption slots, and what a fetched object's status and check lead to. -/

namespace Sys2Proof.Machine

/-! ### Events and counters (R274, R275) -/

def meCode (r : Region) : Nat := 16 + r.me.val
def memNote (h : Hard) (code : Nat) (r : Region) (args : List (Nat × Nat)) (b : Block) : Block :=
  note h code (meCode r) (some r.part) (aW4 r.regionId.toNat :: args) b
/-- How an event names an object. -/
def objName : MemObj → Nat × Nat
  | .node k i => (k, i)
  | .tagLine i => (0xFE, i)
  | .dataLine i => (0xFF, i)
/-- Codes 0x0501 to 0x0503, limited per code, partition and region. -/
def memLimited (h : Hard) (code : Nat) (r : Region) (obj : MemObj) (b : Block) : Block :=
  noteLimited h code (meCode r) (some r.part) r.regionId.toNat (fun n => [aW4 r.regionId.toNat, aByte (objName obj).1, aW6 (objName obj).2, aCount n]) b

def corrected (h : Hard) (r : Region) (obj : MemObj) (b : Block) : Block :=
  memLimited h 0x0501 r obj (modMePart r.me r.part (fun m => { m with corrected := m.corrected + 1 }) b)
/-- Uncorrectable, or a miscorrection (R269). -/
def uncorrected (h : Hard) (r : Region) (obj : MemObj) (mis : Bool) (b : Block) : Block :=
  memLimited h (if mis then 0x0503 else 0x0502) r obj (modMePart r.me r.part (fun m => { m with uncorr := m.uncorr + 1 }) b)

/-- First page an object covers. -/
def objPage : MemObj → Nat
  | .node k i => i * 8 ^ k
  | .tagLine i => i / 7
  | .dataLine i => i / 64

/-- A clean check fails at the keeper (cause 6), as R264 ends (7), or of the translation table (8): `EV_MEM_INTEGRITY`, then the Clamp (R269, R309, R369). -/
def integrity (h : Hard) (rid : Nat) (r : Region) (obj : MemObj) (b : Block) : Block :=
  let cause := if r.role ≠ 0 then 7 else if (b.ptuPart r.part).table = some rid then 8 else 6
  clamp h cause (meCode r) (some r.part) [(r.regionId, BitVec.ofNat 64 (objPage obj))]
    (memNote h 0x0504 r [aByte (objName obj).1, aW6 (objName obj).2, aW8 r.token.tokenSeq.toNat] b)

/-! ### Lost pages (R270) -/

/-- Marks a page lost in its level-1 parent; `EV_MEM_PAGE_LOST` once per page. -/
def markLost (h : Hard) (rid page cause : Nat) (b : Block) : Block :=
  match b.region rid with
  | none => b
  | some r =>
    let b := modNode rid r 1 (page / 8) (fun n => nodeSetLost n (page % 8) true) b
    if r.lost.contains page then b
    else memNote h 0x050A r [(5, page), aByte cause] (modRegion rid (fun x => { x with lost := page :: x.lost }) b)

/-- When every minor of a lost page is nonzero, `LOST` clears. -/
def unlose (rid page : Nat) (c : Line) (b : Block) : Block :=
  match b.region rid with
  | none => b
  | some r =>
    let marked := match nodeAt b rid r 1 (page / 8) with | some n => nodeLost n (page % 8) | none => r.lost.contains page
    if cbFull c && marked then
      modRegion rid (fun x => { x with lost := x.lost.filter fun y => decide (y ≠ page) }) (modNode rid r 1 (page / 8) (fun n => nodeSetLost n (page % 8) false) b)
    else b

/-! ### The end of a request -/

/-- A staging entry is freed; the page's path is pinned no longer once none is left (R256). -/
def unstage (rid : Nat) (r : Region) (line : Nat) (b : Block) : Block :=
  let b := modMePart r.me r.part (fun x => { x with staging := x.staging.filter fun s => !(decide (s.region = rid) && decide (s.line = line)) }) b
  if (b.mePart r.me r.part).staging.any fun s => decide (s.region = rid ∧ s.line / 64 = line / 64) then b
  else modCache r (fun c => c.map fun e => if e.region = rid ∧ e.obj ∈ pathObjs r (line / 64) then { e with pinned := false } else e) b

/-- The line as an ME's staged read puts it out: ready at its Shim entry, or a new one (R37, R256). -/
def answerPinned (h : Hard) (m : MemReq) (die : Fin 4) (sc : Schedule) (st : Byte) (v : Line) (b : Block) : Block :=
  let o := Out.portRsp die m.part m.by'.engine st (if st = stOk then v else 0)
  if b.shim.any fun x => decide (x.2.req = some m.id) then
    { b with shim := b.shim.map fun x => if x.2.req = some m.id then (x.1, { x.2 with ready := true, readyAt := b.now, outs := [o] }) else x }
  else
    pushPinned (.read die) { part := m.part, cls := 1, seq := m.id, start := b.now, pin := b.now + BitVec.ofNat 64 (readPin h.cfg sc), ready := true, readyAt := b.now, slipped := false, sealed' := false, epoch := 0,
                             stream := 0, outs := [o], req := some m.id, use := m.by'.use, job := none, veneer := none, region := some m.region } b

/-- Ends a request: it leaves, what waited for its line goes on, fences that count it are looked at, its asker is answered. -/
def finish (h : Hard) (m : MemReq) (st : Byte) (v : Line) (b : Block) : Block :=
  let b := { b with memReqs := b.memReqs.filter fun x => decide (x.id ≠ m.id) }
  let b := push (.part m.part) b
  let b := push (.fences m.part) b
  match m.by'.src, b.schedule m.part with
  | .port die, some sc =>
    if m.scheduled then
      answerPinned h m die sc st v (match b.region m.region with
        | some r => unstage m.region r m.line b
        | none => b)
    else answer m.by' m.part st v b
  | _, _ => answer m.by' m.part st v b

/-! ### Line operations (R276, R277) -/

/-- The new value of an atomic's word, old value given (R276). -/
def atomicNew (aop : BitVec 4) (a c : Word) (m : Word) : Word :=
  match aop.toNat with
  | 1 => BitVec.ofNat 64 ((m.toNat + a.toNat) % 2 ^ 32)
  | 2 => m + a
  | 3 => if a.toInt < m.toInt then a else m
  | 4 => if m.toInt < a.toInt then a else m
  | 5 => if a.toNat < m.toNat then a else m
  | 6 => if m.toNat < a.toNat then a else m
  | 7 => if m = a then c else m
  | _ => m

def atomicWidth (aop : BitVec 4) : Nat := if aop = 1 then 4 else 8
/-- The word an atomic names in its line. -/
def atomicOld (aop : BitVec 4) (within : Nat) (l : Line) : Word := BitVec.ofNat 64 (lineBits l (8 * within) (8 * atomicWidth aop))
/-- The line after an atomic. -/
def atomicLine (aop : BitVec 4) (a c : Word) (within : Nat) (l : Line) : Line :=
  putBits l (8 * within) (8 * atomicWidth aop) (atomicNew aop a c (atomicOld aop within l)).toNat

/-- What a step of a request comes to: it waits, it ends with a status, or it has its line. -/
inductive Got where
  | wait (b : Block)
  | bad (st : Byte) (b : Block)
  | val (v : Line) (b : Block)

/-- The request waits for objects, whose fetches go out. -/
def waitFor (h : Hard) (rid : Nat) (r : Region) (m : MemReq) (objs : List MemObj) (b : Block) : Block :=
  objs.foldl (fun b o => fetchObj h rid r o b) (putReq { m with wants := objs, begun := true } b)

/-! ### Staging (R256) -/

def stagingCap : Nat := 2048

/-- Completes the staging entries of a page whose path is in the cache, which is pinned there. -/
def stagePage (rid : Nat) (r : Region) (page : Nat) (b : Block) : Block :=
  let b := modMePart r.me r.part (fun m => { m with staging := m.staging.map fun s => if s.region = rid ∧ s.line / 64 = page then { s with complete := true } else s }) b
  modCache r (fun c => c.map fun e => if e.region = rid ∧ e.obj ∈ pathObjs r page then { e with pinned := true } else e) b

/-- Whether a line has a staging entry, and a complete one. -/
def staged (b : Block) (rid : Nat) (r : Region) (line : Nat) : Option Bool :=
  ((b.mePart r.me r.part).staging.find? fun s => decide (s.region = rid ∧ s.line = line)).map fun s => s.complete

/-! ### Re-encryption slots (R251) -/

/-- The slot that holds a page. -/
def slotOf (b : Block) (rid : Nat) (r : Region) (page : Nat) : Option (Nat × Reenc) :=
  (b.mePart r.me r.part).slots.find? fun s => decide (s.2.region = rid ∧ s.2.page = page)

/-- A free slot of the partition's two. -/
def freeReenc (b : Block) (r : Region) : Option Nat := Tab.lowestFree (b.mePart r.me r.part).slots 0 2

def setReenc (r : Region) (n : Nat) (s : Reenc) (b : Block) : Block := modMePart r.me r.part (fun m => { m with slots := Tab.set m.slots n s }) b

/-- Takes a slot for a page: the new major counter, the lines at hand, reads of the others out. -/
def openReenc (rid : Nat) (r : Region) (page n : Nat) (cb : Line) (have' : Tab Line) (b : Block) : Block :=
  let rest := (cbWritten cb).filter fun j => !Tab.has have' j
  let m := newMajor rid (modMePart r.me r.part (fun x => { x with staging := x.staging.map fun s => if s.region = rid ∧ s.line / 64 = page then { s with complete := false } else s }) b)
  let b := setReenc r n { region := rid, page := page, major := m.1, gen := r.token.generation, lines := have', await := rest, lost := false } m.2
  newReqs r.part rid (.slot r.me n) (rest.map fun j => (64 * page + j, MemOp.fill)) b

/-- Lines that a re-encryption of the page seals, with one to be written (R126). -/
def reencUses (cb : Line) (j : Nat) : Nat := ((cbWritten cb).filter fun x => decide (x ≠ j)).length + 1

/-- Seals that pages in re-encryption slots have still to count against the region's key. -/
def slotUses (b : Block) (r : Region) : Nat :=
  ((b.mePart r.me r.part).slots.map fun s => match b.region s.2.region with
    | some x => if x.keySlot = r.keySlot then s.2.lines.length + s.2.await.length else 0
    | none => 0).sum

/-- `n` more seals fit under the region's key beside those its re-encryption slots will take (R126). -/
def sealsFit (b : Block) (r : Region) (n : Nat) : Bool := b.usesFit (.me r.me) r.keySlot (slotUses b r + n)

/-! ### Reading a line -/

/-- The tag check of a line whose objects are at hand (R247, R269). -/
def openFetched (b : Block) (rid : Nat) (r : Region) (line : Nat) (cb parent : Line) (ct : Line) : Option Line :=
  openLine (b.regionKey r (r.isPrev (nodeGen parent (line / 64 % 8)))) line (cbMajor cb) (cbMinor cb (line % 64)) ct (tagOfLine b rid r line)

/-- Tag-area lines of the line whose fetch came back corrected. -/
def corrTags (b : Block) (rid : Nat) (r : Region) (line : Nat) : List MemObj :=
  ((tagLinesOf line).map MemObj.tagLine).filter fun o => match b.treeEnt rid r o with | some e => e.corr | none => false

/-- A reader's check fails with clean status (R264): a newer token repeats the read, else the keeper is asked, and a second failure under the same token halts this member. -/
def readerFails (h : Hard) (rid : Nat) (r : Region) (m : MemReq) (obj : MemObj) (b : Block) : Block :=
  let again : MemReq := { m with fetched := none, wants := [], seqUsed := r.token.tokenSeq }
  let b := dropEntries r (fun e => decide (e.region = rid) && (decide (e.obj ∈ pathObjs r (m.line / 64)) || decide (e.obj ∈ (tagLinesOf m.line).map MemObj.tagLine))) b
  if m.seqUsed.toNat < r.token.tokenSeq.toNat then push (.req m.id) (putReq { again with rever := 0 } b)
  else if m.rever = 0 then
    sendTo h r.part (accel r.token.keeper) 0x12
      (leBytes 2 7 ++ leBytes 2 0 ++ leBytes 4 r.regionId.toNat ++ leBytes 8 (m.line / 64) ++ leBytes 8 m.seqUsed.toNat) (putReq { again with rever := 1 } b)
  else integrity h rid r obj b

/-- The scrub writes a corrected line back as the same ciphertext; to the tray of a pool region in the next publication (R257, R258). -/
def scrubBack (rid : Nat) (r : Region) (m : MemReq) (ct : Line) (b : Block) : Block :=
  let own := match m.by'.src with | .bundle id _ => (match b.bundle id with | some y => decide (y.what = .quiet) | none => false) | .port _ => false
  if !own || decide (m.op ≠ .fill) || decide (r.role ≠ 0) then b
  else if r.kind ≠ 2 then emit (.hbmWrite r.me rid (.dataLine m.line) ct) b
  else push (.pub rid) (modRegion rid (fun x => { x with again := true, backs := (x.backs.filter fun y => decide (y.1 ≠ m.line)) ++ [(m.line, ct)] }) b)

/-- Reads a line whose counter block is at hand. -/
def readAt (h : Hard) (rid : Nat) (r : Region) (m : MemReq) (cb parent : Line) (b : Block) : Got :=
  let j := m.line % 64
  if cbMinor cb j = 0 then
    if nodeLost parent (m.line / 64 % 8) && decide (m.op ≠ .fill) then .bad stMemUncorrectable b else .val 0 b
  else
    let tags := tagsMissing b rid r m.line
    match m.fetched, tags with
    | some (ct, st), [] =>
      let cts := corrTags b rid r m.line
      match openFetched b rid r m.line cb parent ct with
      | some v =>
        let b := if st = 1 then corrected h r (.dataLine m.line) (scrubBack rid r m ct b) else b
        let b := cts.foldl (fun b o => modTree rid r o (fun e => { e with corr := false }) (corrected h r o b)) b
        .val v b
      | none =>
        if st = 1 ∨ cts ≠ [] then
          let b := if st = 1 then uncorrected h r (.dataLine m.line) true b else b
          .bad stMemUncorrectable (cts.foldl (fun b o => modCache r (fun c => c.filter fun e => !(decide (e.region = rid) && decide (e.obj = o))) (uncorrected h r o true b)) b)
        else if r.role = 0 then .wait (integrity h rid r (.dataLine m.line) b)
        else .wait (readerFails h rid r m (.dataLine m.line) b)
    | f, ts => .wait (waitFor h rid r m ((if f.isNone then [.dataLine m.line] else []) ++ ts) b)

/-! ### Writing a line of an HBM region (R250, R253) -/

/-- Seals one line under counter (`MAJOR`, `minor`): the line and its tag. -/
def putLine (rid : Nat) (r : Region) (line : Nat) (major : Word) (minor : Nat) (v : Line) (b : Block) : Block :=
  let s := sealLine (b.regionKey r false) line major minor v
  putTag rid r line s.2 (emit (.hbmWrite r.me rid (.dataLine line) s.1) b)

/-- A write of a line whose counter block is at hand. -/
def writeAt (h : Hard) (rid : Nat) (r : Region) (m : MemReq) (cb parent : Line) (v : Line) (b : Block) : Got :=
  let page := m.line / 64
  let j := m.line % 64
  let i : Island := .me r.me
  if cbMinor cb j = 127 ∨ r.isPrev (nodeGen parent (page % 8)) = true then
    if sealsFit b r (reencUses cb j) = false then .bad stUsageLimit b
    else match freeReenc b r with
      | none => .wait (putReq { m with wants := [], begun := true } b)
      | some n => .val v (openReenc rid r page n cb [(j, v)] b)
  else if sealsFit b r 1 = false then .bad stUsageLimit b
  else
    let tags := if cbWritten cb = [] then [] else tagsMissing b rid r m.line
    let room := roomFor h.cfg rid r ((tagLinesOf m.line).map MemObj.tagLine) b
    if tags ≠ [] then .wait (waitFor h rid r m tags b)
    else if room.1 = false then .wait (putReq { m with wants := [], begun := true } room.2)
    else
      let b := room.2
      let minor := cbMinor cb j + 1
      let cb' := cbSetMinor cb j minor
      let b := modTree rid r (.node 0 page) (fun e => { e with line := cb', dirty := true }) b
      let b := putLine rid r m.line (cbMajor cb) minor v b
      let b := countUses i r.keySlot 1 (unlose rid page cb' b)
      .val v (if (staged b rid r m.line).isSome then stagePage rid r page b else b)

/-! ### One step of a request -/

/-- Region states in which a compute die's request goes on, waits, or ends (R268). -/
def stateGate (r : Region) : Option (Option Byte) :=
  match r.state.toNat with
  | 2 | 3 | 9 => none
  | 1 => some none
  | 4 => some (some stMemUncorrectable)
  | _ => some (some stRegionRevoked)

/-- The dirty store's key of a line (R262). -/
def dirtyKey (rid line : Nat) : Nat := rid * 2 ^ 41 + line

/-- A line of a kind 2 region the keeper holds unpublished: in the dirty store, or taken by the running publication. -/
def unpublished (b : Block) (rid : Nat) (r : Region) (line : Nat) : Option Line :=
  match Tab.get? (b.ahuPart r.part).dirty (dirtyKey rid line) with
  | some l => some l
  | none => r.pub.bind fun p => Tab.get? p.lines line

/-- Lines in a partition's dirty store, with those that a running publication has taken (R262). -/
def dirtyLines (b : Block) (p : Part) : Nat :=
  (b.ahuPart p).dirty.length + ((b.regions.filter fun e => decide (e.2.part = p)).map fun e => match e.2.pub with | some x => x.lines.length | none => 0).sum

/-- The dirty store's lines (R262): 64 MiB, and the 48 MiB at which publications start. -/
def dirtyCap : Nat := 1048576
def dirtyHigh : Nat := 786432

/-- The dirty store has room for a line: it holds the line already, or is not full (R262). -/
def dirtyRoom (b : Block) (rid : Nat) (r : Region) (line : Nat) : Bool :=
  Tab.has (b.ahuPart r.part).dirty (dirtyKey rid line) || decide (dirtyLines b r.part < dirtyCap)

/-- A write of the keeper's own into the dirty store; at 48 MiB every region of the partition with lines there is published (R262). -/
def putDirty (rid : Nat) (r : Region) (line : Nat) (v : Line) (b : Block) : Block :=
  let b := modAhu r.part (fun a => { a with dirty := Tab.set a.dirty (dirtyKey rid line) v }) b
  if dirtyLines b r.part < dirtyHigh then b
  else (((b.ahuPart r.part).dirty.map fun e => e.1 / 2 ^ 41).dedup).foldl (fun b n => push (.pub n) (modRegion n (fun x => { x with again := true }) b)) b

/-- A request that changes its line: what it writes, and what it answers. -/
def MemReq.newLine (m : MemReq) (old : Line) : Line × Line :=
  match m.op with
  | .write v => (v, 0)
  | .atomic aop a c => (atomicLine aop a c m.within old, (atomicOld aop m.within old).setWidth 512)
  | _ => (old, old)

def MemReq.isWrite (m : MemReq) : Bool := match m.op with | .write _ => true | .atomic .. => true | _ => false
def MemReq.needsOld (m : MemReq) : Bool := match m.op with | .write _ => false | _ => true
/-- An operation of R276, of a compute die or of a pair. -/
def MemReq.isDom (m : MemReq) : Bool := match m.op with | .read => true | .write _ => true | .atomic .. => true | _ => false

/-- Counts an atomic the keeper has applied (R304). -/
def countApplied (m : MemReq) (b : Block) : Block :=
  match m.op with | .atomic aop _ _ => if aop = 0 then b else modAhu m.part (fun a => { a with applied := a.applied + 1 }) b | _ => b

/-- The page stands in a re-encryption slot: served from there (R251). -/
def slotStep (h : Hard) (r : Region) (m : MemReq) (n : Nat) (s : Reenc) (lost : Bool) (b : Block) : Block :=
  let j := m.line % 64
  let park := putReq { m with wants := [], begun := true } b
  let go (old : Line) : Block :=
    let w := m.newLine old
    if m.isWrite then finish h m stOk w.2 (countApplied m (setReenc r n { s with lines := Tab.set s.lines j w.1, await := s.await.filter fun x => decide (x ≠ j) } b))
    else finish h m stOk old b
  match Tab.get? s.lines j with
  | some l => go l
  | none =>
    if m.needsOld && s.await.contains j then park
    else if m.needsOld && lost then finish h m stMemUncorrectable 0 b
    else if m.isWrite && !s.await.contains j && !sealsFit b r 1 then finish h m stUsageLimit 0 b
    else go 0

/-- A read, write or atomic of an HBM region. -/
def hbmStep (h : Hard) (rid : Nat) (r : Region) (m : MemReq) (b : Block) : Block :=
  let page := m.line / 64
  match walk b rid r page with
  | .need k i _ => waitFor h rid r m [.node k i] b
  | .fresh k =>
    if !m.isWrite then finish h m stOk 0 b
    else if sealsFit b r 1 = false then finish h m stUsageLimit 0 b
    else
      let room := makeRoom h.cfg r (k + 1) (touchPath rid r page b)
      if room.1 then push (.req m.id) (putReq { m with begun := true } (makePath rid r page k room.2))
      else putReq { m with wants := [], begun := true } room.2
  | .cb cb parent =>
    let b := touchPath rid r page b
    match slotOf b rid r page with
    | some (n, s) => slotStep h r m n s (nodeLost parent (page % 8)) b
    | none =>
      let old := if m.needsOld then readAt h rid r m cb parent b else .val 0 b
      match old with
      | .wait b => b
      | .bad st b => finish h m st 0 b
      | .val l b =>
        let w := m.newLine l
        if !m.isWrite then finish h m stOk l b
        else if m.needsOld && decide (w.1 = l) then finish h m stOk w.2 (countApplied m b)
        else match writeAt h rid r m cb parent w.1 b with
          | .wait b => b
          | .bad st b => finish h m st 0 b
          | .val _ b => finish h m stOk w.2 (countApplied m b)

/-- Seals that the lines of a page take when they are published: its re-encryption where its counter block or generation calls for one, where that is not at hand all of the page's (R126, R250; DESIGN CHOICE, log entry 91). -/
def pageUses (b : Block) (rid : Nat) (r : Region) (page : Nat) (js : List Nat) : Nat :=
  match walk b rid r page with
  | .cb cb parent => if r.isPrev (nodeGen parent (page % 8)) = true ∨ (js.any fun j => decide (cbMinor cb j = 127)) = true then (cbWritten cb ++ js).dedup.length else js.length
  | .fresh _ => js.length
  | .need .. => 64

/-- Lines of a pool region that wait to be published: in the dirty store, or taken by a publication that has not sealed them. -/
def unsealed (b : Block) (rid : Nat) (r : Region) : List Nat :=
  ((((b.ahuPart r.part).dirty.filter fun e => decide (e.1 / 2 ^ 41 = rid)).map fun e => e.1 % 2 ^ 41)
    ++ (match r.pub with | some x => if x.phase < 2 then x.lines.map fun l => l.1 else [] | none => [])).dedup

/-- One more line of a pool region can be published, with all the seals that takes (R126). -/
def poolFits (b : Block) (rid : Nat) (r : Region) (line : Nat) : Bool :=
  let all := (line :: unsealed b rid r).dedup
  let pages := (all.map fun l => l / 64).dedup
  sealsFit b r (pages.map fun g => pageUses b rid r g ((all.filter fun l => decide (l / 64 = g)).map fun l => l % 64)).sum

/-- A read, write or atomic of a pool region: the keeper's dirty store first, else the tray (R262, R263, R278). -/
def poolStep (h : Hard) (rid : Nat) (r : Region) (m : MemReq) (b : Block) : Block :=
  let put (l : Line) (b : Block) : Block :=
    let w := m.newLine l
    if !m.isWrite then finish h m stOk l b
    else if poolFits b rid r m.line = false then finish h m stUsageLimit 0 b
    else if dirtyRoom b rid r m.line = false then putReq { m with wants := [], begun := true } b
    else finish h m stOk w.2 (countApplied m (putDirty rid r m.line w.1 b))
  match (if r.role = 0 then unpublished b rid r m.line else none) with
  | some l => put l b
  | none =>
    if m.isWrite && !m.needsOld then put 0 b
    else match walk b rid r (m.line / 64) with
      | .need k i _ => if (trayNode b r).isNone then finish h m stAborted 0 b else waitFor h rid r { m with seqUsed := r.token.tokenSeq } [.node k i] b
      | .fresh _ => put 0 b
      | .cb cb parent =>
        let b := touchPath rid r (m.line / 64) b
        if (trayNode b r).isNone then finish h m stAborted 0 b
        else match readAt h rid r { m with seqUsed := if m.wants = [] then r.token.tokenSeq else m.seqUsed } cb parent b with
          | .wait b => b
          | .bad st b => finish h m st 0 b
          | .val l b => put l b

/-- Returns the pages of a run to fresh, below a node of level `k` (R253, R318): children wholly in the run lose their slots and cached entries, the walk goes down the others. What must be fetched first is listed. -/
def freshBelow (rid : Nat) (r : Region) (first count : Nat) : Nat → Nat → Block → List MemObj × Block
  | 0, _, b => ([], b)
  | k + 1, i, b =>
    match nodeAt b rid r (k + 1) i with
    | none => ([.node (k + 1) i], b)
    | some n =>
      (List.range 8).foldl (fun acc j =>
        let c := 8 * i + j
        let lo := c * 8 ^ k
        if lo + 8 ^ k ≤ first ∨ first + count ≤ lo ∨ (nodeFresh n j = true ∧ (b.treeEnt rid r (.node k c)).isNone = true) then acc
        else if first ≤ lo ∧ lo + 8 ^ k ≤ first + count then
          (acc.1, dropEntries r (fun e => decide (e.region = rid) && (match e.obj with
              | .node x y => decide (x ≤ k ∧ y / 8 ^ (k - x) = c)
              | .tagLine t => decide (lo ≤ t / 7 ∧ t / 7 < lo + 8 ^ k)
              | _ => false)) (modNode rid r (k + 1) i (fun n => nodeSetFresh n j) acc.2))
        else
          let d := freshBelow rid r first count k c acc.2
          (acc.1 ++ d.1, d.2)) ([], b)

/-- The block's own requests: a path, a fill past the slots, pages back to fresh. -/
def ownStep (h : Hard) (rid : Nat) (r : Region) (m : MemReq) (b : Block) : Block :=
  let page := m.line / 64
  match m.op with
  | .fresh count =>
    let d := freshBelow rid r page count r.levels 0 b
    if d.1 = [] then
      let b := modMePart r.me r.part (fun x => { x with slots := Tab.keep x.slots fun _ s => !(decide (s.region = rid) && decide (page ≤ s.page ∧ s.page < page + count)) }) d.2
      finish h m stOk 0 (modRegion rid (fun x => { x with lost := x.lost.filter fun p => decide (p < page ∨ page + count ≤ p) }) b)
    else waitFor h rid r m d.1 b
  | _ =>
    match walk b rid r page with
    | .need k i _ => waitFor h rid r m [.node k i] b
    | .fresh _ => finish h m stOk 0 b
    | .cb cb parent =>
      match m.op with
      | .path =>
        let tags := if r.kind = 2 ∧ r.role = 0 ∧ cbWritten cb ≠ [] then
            ((List.range 7).map fun t => MemObj.tagLine (7 * page + t)).filter fun o => (b.treeEnt rid r o).isNone
          else []
        if tags ≠ [] then waitFor h rid r m tags b
        else finish h m stOk cb (if (slotOf b rid r page).isNone && ((b.mePart r.me r.part).staging.any fun s => decide (s.region = rid ∧ s.line / 64 = page)) then stagePage rid r page b else b)
      | _ =>
        let writing := decide (r.role = 0) && (match r.pub with | some x => decide (2 ≤ x.phase) && (x.lines.any fun l => decide (l.1 / 64 = page)) | none => false)
        if writing then putReq { m with wants := [], begun := true } b
        else match readAt h rid r m cb parent b with
          | .wait b => b
          | .bad st b => finish h m st 0 b
          | .val l b => finish h m stOk l b

/-- A request that holds its line: an operation, or a read for a check; the reads of a re-encryption slot hold nothing. -/
def holdsLine (b : Block) (m : MemReq) : Bool :=
  m.isDom || (decide (m.op = .fill) && (match m.by'.src with
    | .bundle id _ => (match b.bundle id with | some y => (match y.what with | .slot .. => false | _ => true) | none => false)
    | .port _ => false))

/-- An earlier request holds the line (R277, R291). -/
def lineHeld (b : Block) (m : MemReq) : Bool :=
  holdsLine b m && b.memReqs.any fun x => decide (x.id < m.id) && decide (x.region = m.region) && decide (x.line = m.line) && holdsLine b x

/-- A stored line of a page is on its way or at hand: the page's counters stay until it has been checked. -/
def pageReading (b : Block) (rid page : Nat) : Bool :=
  b.memReqs.any fun m => decide (m.region = rid) && decide (m.line / 64 = page) && (m.fetched.isSome || m.wants.any fun o => match o with | .dataLine _ => true | _ => false)

/-- Counts the cache's hits on the path as a request sets out (R274). -/
def countHits (rid : Nat) (r : Region) (m : MemReq) (b : Block) : Block :=
  if m.begun then b
  else
    let n := ((pathObjs r (m.line / 64)).filter fun o => (b.treeEnt rid r o).isSome).length
    modMePart r.me r.part (fun x => { x with hits := x.hits + BitVec.ofNat 32 n }) b

/-- Islands whose keys a request needs: the tree ME; at a reader also the LE that carries the tray traffic (R245). -/
def keyIslands (b : Block) (r : Region) : List Island :=
  if r.kind = 2 ∧ r.role ≠ 0 then
    match trayNode b r with
    | some n => .me r.me :: ((b.ptuPart r.part).chosen.filterMap fun e => if e.names 2 n then some (portIsland e.port) else none)
    | none => [.me r.me]
  else [.me r.me]

/-- The request goes to the region's keeper (R278): writes and atomics of every region another member keeps, and reads of an exported one. -/
def MemReq.remote (m : MemReq) (r : Region) : Bool := m.isDom && decide (r.role ≠ 0) && (decide (r.kind = 1) || m.isWrite)

/-- A request for the keeper: it leaves for the fabric, or waits (R298, R301). -/
def remoteStep (h : Hard) (r : Region) (m : MemReq) (b : Block) : Block :=
  if b.session r.part r.token.keeper = false then
    finish h m (match m.op with | .atomic .. => stAborted | _ => stPeerDeparted) 0 b
  else match launch h r m b with
    | some b => b
    | none => b

/-- One request goes as far as it can. -/
def advanceReq (h : Hard) (id : Nat) (b : Block) : Block :=
  match b.memReq id with
  | none => b
  | some m =>
    match b.region m.region with
    | none => finish h m stRegionRevoked 0 b
    | some r =>
      if b.rst.halted || (b.island (.me r.me)).inReset || (b.island (.me r.me)).asleep then b
      else match (if m.isDom then stateGate r else none) with
        | some none => b
        | some (some st) => finish h m st 0 b
        | none =>
          if m.rever = 1 then b
          else if b.slotLive r.keySlot.toNat = false then finish h m stKeyOrphaned 0 b
          else if m.remote r then remoteStep h r m b
          else if lineHeld b m then b
          else match (keyIslands b r).find? fun i => !regionKeysReady b i r with
            | some i => wantRegionKeys i r b
            | none =>
              let b := countHits m.region r m b
              if !m.isDom then ownStep h m.region r m b
              else if r.kind = 2 then poolStep h m.region r m b
              else hbmStep h m.region r m b

/-! ### A fetched object arrives (R269) -/

/-- Requests that wait for an object. -/
def waiters (b : Block) (rid : Nat) (obj : MemObj) : List MemReq := b.memReqs.filter fun m => decide (m.region = rid) && m.wants.contains obj

def wake (ms : List MemReq) (b : Block) : Block := ms.foldl (fun b m => push (.req m.id) b) b

/-- A keeper's metadata is uncorrectable: state 4 until it is repaired; a reader asks the keeper (R269, R270). -/
def startRepair (h : Hard) (rid : Nat) (r : Region) (k i : Nat) (b : Block) : Block :=
  if r.role = 0 then
    let b := modRegion rid (fun x => { x with repair := some (x.repair.getD (k, i)), state := if x.state = 2 ∨ x.state = 3 then 4 else x.state, token := { x.token with unreadable := true } }) b
    push (.part r.part) b
  else
    sendTo h r.part (accel r.token.keeper) 0x12 (leBytes 2 8 ++ leBytes 2 0 ++ leBytes 4 r.regionId.toNat ++ leBytes 1 k ++ leBytes 7 0 ++ leBytes 8 i) b

/-- Entries that waited for a parent leave, and fills that waited for room enter; whoever waited for them goes on (R255). -/
def cacheMoves (h : Hard) (r : Region) (b : Block) : Block :=
  let m := b.mePart r.me r.part
  if m.fills = [] ∧ (m.cache.any fun e => e.leaving) = false then b
  else
    let x := drainFills h.cfg r.me r.part (leaveOn r b)
    push (.part r.part) (x.1.foldl (fun b o => wake (waiters b o.1 o.2) b) x.2)

/-- A fetched object that has been verified enters the cache, or waits for room. -/
def takeFill (h : Hard) (rid : Nat) (r : Region) (obj : MemObj) (l : Line) (corr : Bool) (b : Block) : Block :=
  let x := fillTree h.cfg rid r obj l corr b
  cacheMoves h r (if x.1 then wake (waiters x.2 rid obj) x.2 else x.2)

/-- A counter block or node arrives. -/
def nodeArrives (h : Hard) (rid : Nat) (r : Region) (k i : Nat) (st : BitVec 2) (l : Line) (b : Block) : Block :=
  let obj := MemObj.node k i
  let ms := waiters b rid obj
  match nodeAt b rid r (k + 1) (i / 8) with
  | none => cacheMoves h r (wake ms b)
  | some parent =>
    let ok := decide (objMac (b.regionKey r (r.isPrev (nodeGen parent (i % 8)))) k i l = nodeMac parent (i % 8))
    if 2 ≤ st.toNat ∨ (st = 1 ∧ ok = false) then
      let b := uncorrected h r obj (decide (st = 1)) b
      startRepair h rid r k i (ms.foldl (fun b m => finish h m stMemUncorrectable 0 b) b)
    else if ok then
      let b := if st = 1 then corrected h r obj b else b
      takeFill h rid r obj l false b
    else if r.role = 0 then integrity h rid r obj b
    else ms.foldl (fun b m => readerFails h rid r m obj b) b

/-- A scheduled read's line has come (R256): its Shim entry starts; without complete staging it is a miss. -/
def startPin (h : Hard) (rid : Nat) (r : Region) (m : MemReq) (b : Block) : Block :=
  match m.by'.src, b.schedule m.part with
  | .port die, some sc =>
    if !m.scheduled then b
    else
      let miss := decide (staged b rid r m.line ≠ some true)
      let b := if miss then modMePart r.me r.part (fun x => { x with slips := x.slips + 1 }) b else b
      pushPinned (.read die) { part := m.part, cls := 1, seq := m.id, start := b.now, pin := b.now + BitVec.ofNat 64 (readPin h.cfg sc), ready := false, readyAt := 0, slipped := miss, sealed' := false, epoch := 0,
                               stream := 0, outs := [], req := some m.id, use := m.by'.use, job := none, veneer := none, region := some m.region } b
  | _, _ => b

/-- An object comes back with its memory status: 3 is taken as 2. -/
def objArrives (h : Hard) (rid : Nat) (obj : MemObj) (st : BitVec 2) (l : Line) (b : Block) : Block :=
  let b := { b with fetches := b.fetches.erase (rid, obj) }
  match b.region rid with
  | none => b
  | some r =>
    match obj with
    | .node k i => nodeArrives h rid r k i st l b
    | .tagLine t =>
      let ms := waiters b rid obj
      if 2 ≤ st.toNat then ms.foldl (fun b m => finish h m stMemUncorrectable 0 b) (uncorrected h r obj false b)
      else takeFill h rid r (.tagLine t) l (decide (st = 1)) b
    | .dataLine _ =>
      let ms := waiters b rid obj
      if 2 ≤ st.toNat then ms.foldl (fun b m => finish h m stMemUncorrectable 0 b) (uncorrected h r obj false b)
      else ms.foldl (fun b m => push (.req m.id) (startPin h rid r m (putReq { m with fetched := some (l, st) } b))) b

end Sys2Proof.Machine
end

