-- ==== Sys2Proof/Machine/Regions.lean ====
section
/-! DEFINITION. Regions (R245, R246, R251, R259 to R271, R290, R296): root tokens, publication, what readers and mirrors do with a token, hand-off, takeover, audits, repair, the sweep's end, placement of footprints, opening and closing. -/

namespace Sys2Proof.Machine

/-! ### Root tokens (R261) -/

/-- Bytes 0 to 111 of a token. -/
def tokenBytes (t : Token) : Bytes :=
  leBytes 4 t.regionId.toNat ++ leBytes 2 t.keeper.toNat ++ leBytes 2 t.mirror.toNat ++ leBytes 8 t.tokenSeq.toNat ++ leBytes 4 t.domainId.toNat
    ++ leBytes 2 t.generation.toNat ++ leBytes 1 t.levels.toNat ++ leBytes 1 (bit t.unreadable + 2 * bit t.sweep + 4 * bit t.noMirror + 8 * bit t.audit)
    ++ leBytes 8 t.pages.toNat ++ leBytes 8 t.sweepPtr.toNat ++ leBytes 8 t.majorHwm.toNat ++ lineBytes t.root

/-- The shared region key of a generation, as every member derives it (R116). -/
def sharedKey (b : Block) (p : Part) (id : BitVec 32) (gen : BitVec 16) : Key :=
  kdf (b.keyVal (b.adm' p).domainSlot) (leBytes 4 id.toNat ++ leBytes 2 gen.toNat) "SWY-REGION"

/-- A token's `MAC`: NMAC(3, 0, 0, …) under its generation. -/
def tokenMac (b : Block) (p : Part) (t : Token) : BitVec 128 :=
  BitVec.ofNat 128 (leVal (blockBytes (nmac (sharedKey b p t.regionId t.generation) 3 0 0 (tokenBytes t))))

def signToken (b : Block) (p : Part) (t : Token) : Token := { t with mac := tokenMac b p t }

/-- A memory control message (R260). -/
def memMsg (subtype : Nat) (id : BitVec 32) (body : Bytes) : Bytes := leBytes 2 subtype ++ leBytes 2 0 ++ leBytes 4 id.toNat ++ body

def sendMem (h : Hard) (p : Part) (m : BitVec 16) (subtype : Nat) (id : BitVec 32) (body : Bytes) (b : Block) : Block := sendTo h p (accel m) 0x12 (memMsg subtype id body) b

def tokenBody (t : Token) : Bytes := tokenBytes t ++ leBytes 16 t.mac.toNat

def sendToken (h : Hard) (p : Part) (m : BitVec 16) (t : Token) (b : Block) : Block := sendMem h p m 1 t.regionId (tokenBody t) b

/-- The mirror can be reached (R262, R273). -/
def mirrorLive (b : Block) (r : Region) : Bool := !r.token.noMirror && b.session r.part r.token.mirror

/-! ### Responses of the keeper (R287, R296) -/

/-- A response (R283): the request's tag, region, `DSEQ` and offset, `ACCEPTED` in `AUX`. -/
def respond (h : Hard) (p : Part) (peer : BitVec 16) (mtype : Byte) (x : Xact) (st : Byte) (body : Bytes) (b : Block) : Block :=
  sendXact h p peer (xactBytes mtype { x with status := st, aux := BitVec.ofNat 64 (b.pairKeep p peer).accepted, count := if mtype = 0x81 then x.count else 0, acquire := false, abandon := false } 0 body) none b

/-- `VISIBLE` of a pair: below every message applied and not yet visible, and never past `ACCEPTED` (R296). -/
def PairKeep.visible (k : PairKeep) : Nat := (k.unseen.map fun u => u.1 - 1).foldl min k.accepted

/-- A `FENCE_ACK` with the current `VISIBLE` (R284, R296). -/
def fenceAck (h : Hard) (p : Part) (peer : BitVec 16) (tag : BitVec 14) (id : BitVec 32) (seq : Word) (b : Block) : Block :=
  sendXact h p peer (xactBytes 0x84 { status := stOk, tag := tag, regionId := id, dseq := 0, aux := BitVec.ofNat 64 (b.pairKeep p peer).visible, offset := 0, count := 0, acquire := false, abandon := false } 0
    (leBytes 8 seq.toNat)) none b

/-- `TOKEN_SEQ` a `FENCE_ACK` carries: the newest publication ended of a kind 2 region (R284). -/
def fenceSeq (b : Block) (p : Part) (id : BitVec 32) : Word :=
  match b.regions.find? fun e => decide (e.2.part = p ∧ e.2.regionId = id) with
  | some (_, r) => if r.kind = 2 then r.published else 0
  | none => 0

/-- `VISIBLE` has moved: a fence whose target it reaches is answered unasked (R296). -/
def visibleMoved (h : Hard) (p : Part) (peer : BitVec 16) (b : Block) : Block :=
  let k := b.pairKeep p peer
  match k.fence with
  | some (tag, id) =>
    if k.target ≤ k.visible then fenceAck h p peer tag id (fenceSeq b p id) (modKeep p peer (fun k => { k with fence := none }) b) else b
  | none => b

/-! ### Publication (R262) -/

/-- Pages with lines to publish. -/
def pubPages (x : Publication) : List Nat := (x.lines.map fun l => l.1 / 64).dedup

/-- A page is re-encrypted by the publication: a line at minor 127, the page at the previous generation, or a line that could not be read (R250, R259, R270). -/
def pubReenc (r : Region) (x : Publication) (page : Nat) (cb parent : Line) : Bool :=
  r.isPrev (nodeGen parent (page % 8)) || (x.bad.any fun l => decide (l / 64 = page))
    || ((List.range 64).any fun j => Tab.has x.lines (64 * page + j) && decide (cbMinor cb j = 127))

/-- Lines that hold a tag in tag-area line `t` and keep it: written before, neither taken nor given up. -/
def tagUsers (x : Publication) (cb : Line) (page t : Nat) : List Nat :=
  ((cbWritten cb).map fun j => 64 * page + j).filter fun l => (tagLinesOf l).contains t && !Tab.has x.lines l && !x.bad.contains l

/-- Tag-area lines of a page whose content the publication needs. -/
def pubTags (b : Block) (rid : Nat) (r : Region) (x : Publication) (cb : Line) (page : Nat) : List Nat :=
  ((List.range 7).map fun t => 7 * page + t).filter fun t => (b.treeEnt rid r (.tagLine t)).isNone && decide (tagUsers x cb page t ≠ [])

/-- What a page still lacks before it can be sealed: its path and tag-area lines, then the lines a re-encryption takes along. -/
def pubMissing (b : Block) (rid : Nat) (r : Region) (x : Publication) (page : Nat) : List (Nat × MemOp) :=
  match walk b rid r page with
  | .need .. => [(64 * page, .path)]
  | .fresh _ => []
  | .cb cb parent =>
    if pubTags b rid r x cb page ≠ [] then [(64 * page, .path)]
    else if pubReenc r x page cb parent then
      ((cbWritten cb).filter fun j => !Tab.has x.lines (64 * page + j) && !x.bad.contains (64 * page + j)).map fun j => (64 * page + j, .fill)
    else []

/-- `INTENT` entries (R260): each page's counter block, and the nodes of its path with their content as of the last publication. -/
def intentEntries (b : Block) (rid : Nat) (r : Region) (pages : List Nat) : List (Nat × Nat × Option Line) :=
  let dirty : List (Nat × Nat) := ((b.mePart r.me r.part).cache.filter fun e => decide (e.region = rid) && e.dirty).filterMap fun e => match e.obj with | .node k i => some (k, i) | _ => none
  let all := (pages ++ (dirty.filter fun d => decide (d.1 = 0)).map Prod.snd).dedup
  let above : List (Nat × Nat) := all.flatMap fun p => (List.range (r.levels - 1)).map fun k => (k + 1, p / 8 ^ (k + 1))
  let nodes : List (Nat × Nat) := (above ++ (dirty.filter fun (d : Nat × Nat) => decide (d.1 ≠ 0))).dedup
  let old (k i : Nat) : Line := match b.treeEnt rid r (.node k i) with | some e => if e.dirty then e.pubd.getD nodeNew else e.line | none => nodeNew
  all.map (fun p => (0, p, none)) ++ nodes.map fun n => (n.1, n.2, some (old n.1 n.2))

def intentBytes (es : List (Nat × Nat × Option Line)) : Bytes :=
  es.flatMap fun e => leBytes 8 (e.2.1 % 2 ^ 56 + 2 ^ 56 * e.1) ++ (match e.2.2 with | some l => lineBytes l | none => [])

/-- Seals a page's lines: new counters, tags into the cache; the ciphertexts to write. -/
def sealPage (h : Hard) (rid : Nat) (x : Publication) (page : Nat) (b : Block) : List (MemObj × Line) × Block :=
  match b.region rid with
  | none => ([], b)
  | some r =>
    let b := match walk b rid r page with | .fresh k => makePath rid r page k b | _ => b
    match b.region rid with
    | none => ([], b)
    | some r =>
      match walk b rid r page with
      | .cb cb parent =>
        let re := pubReenc r x page cb parent
        let m := if re then newMajor rid b else (cbMajor cb, b)
        let js := (List.range 64).filter fun j => Tab.has x.lines (64 * page + j)
        let cb' := js.foldl (fun c j => cbSetMinor c j (if re then 1 else cbMinor cb j + 1)) (if re then cbNew m.1 else cb)
        let b := modTree rid r (.node 0 page) (fun e => { e with line := cb', dirty := true }) m.2
        let b := markWritten rid r 0 page b
        let out := js.foldl (fun (acc : List (MemObj × Line) × Block) j =>
          let line := 64 * page + j
          let s := sealLine (acc.2.regionKey r false) line m.1 (cbMinor cb' j) (Tab.getD x.lines line 0)
          (acc.1 ++ [(.dataLine line, s.1)], putTag rid r line s.2 acc.2)) ([], b)
        let b := countUses (.me r.me) r.keySlot js.length out.2
        let b := if re then memNote h 0x0507 r [(5, page), aW8 m.1.toNat] (modMePart r.me r.part (fun y => { y with reenc := y.reenc + 1 }) b) else b
        let lostHere := x.bad.any fun l => decide (l / 64 = page)
        (out.1, if lostHere then markLost h rid page 3 b else unlose rid page cb' b)
      | _ => ([], b)

/-- Carries the MACs of one level's dirty entries into their parents. -/
def sealLevel (rid lvl : Nat) (b : Block) : Block :=
  match b.region rid with
  | none => b
  | some r => ((b.mePart r.me r.part).cache.filter fun e => decide (e.region = rid) && e.dirty).foldl (fun b e => match e.obj with
      | .node k i => if k = lvl then setParent rid r k i e.line b else b
      | _ => b) b

/-- The scrub's lines that the publication writes back as they are: those whose line and page it does not seal anew (R257, R258). -/
def scrubbed (b : Block) (rid : Nat) (r : Region) (x : Publication) : List (MemObj × Line) :=
  (r.backs.filter fun y => !Tab.has x.lines y.1 && (match walk b rid r (y.1 / 64) with
    | .cb cb parent => !((pubPages x).contains (y.1 / 64) && pubReenc r x (y.1 / 64) cb parent)
    | _ => true)).map fun y => (.dataLine y.1, y.2)

/-- Step 2's content: every line sealed, every changed object up to the root, ready to be written to the tray (R262). -/
def pubSeal (h : Hard) (rid : Nat) (x : Publication) (b : Block) : Block :=
  let backs := match b.region rid with | some r => scrubbed b rid r x | none => []
  let out := (pubPages x).foldl (fun (acc : List (MemObj × Line) × Block) p =>
    let s := sealPage h rid x p acc.2
    (acc.1 ++ s.1, s.2)) ([], b)
  match out.2.region rid with
  | none => out.2
  | some r =>
    let b := (List.range r.levels).foldl (fun b k => sealLevel rid k b) out.2
    let dirty := ((b.mePart r.me r.part).cache.filter fun e => decide (e.region = rid) && e.dirty).map fun e => (e.obj, e.line)
    let b := modCache r (fun c => c.map fun e => if e.region = rid then { e with dirty := false, pinned := false, pubd := none } else e) b
    modRegion rid (fun y => { y with pub := some { x with phase := 2, writes := out.1 ++ backs ++ dirty }, backs := [] }) b

/-- Issues the tray writes for which tags are free: those left, and the tags taken. -/
def issueWrites (c : Cfg) (rid : Nat) (r : Region) (node : BitVec 16) : List (MemObj × Line) → List Nat → Block → List (MemObj × Line) × List Nat × Block
  | [], ts, b => ([], ts, b)
  | w :: ws, ts, b => match sendTray c rid r node true w.1 w.2 b with
    | none => (w :: ws, ts, b)
    | some (t, b) => issueWrites c rid r node ws (ts ++ [t]) b

/-- The member named as mirror can mirror: in session, and after a takeover the keeper that was lost, under the same identity tag (R265). -/
def mirrorHere (b : Block) (r : Region) : Bool :=
  b.session r.part r.token.mirror && decide (r.token.mirror ≠ b.selfIndex r.part)
    && (match r.tookOver with | some tag => decide ((b.peer r.part (accel r.token.mirror)).tag = tag) | none => true)

/-- A token of the region's present root with the next `TOKEN_SEQ` (R261). -/
def nextToken (b : Block) (r : Region) : Token :=
  let live := mirrorHere b r
  signToken b r.part { r.token with tokenSeq := r.token.tokenSeq + 1, noMirror := !live, sweep := r.sweeping, audit := r.audit.isSome }

/-- The region loses its mirror, or has one again: `EV_MEM_NO_MIRROR` (R273, R275). -/
def noteMirror (h : Hard) (r : Region) (t : Token) (b : Block) : Block :=
  if t.noMirror && !r.token.noMirror then memNote h 0x050E r [aHalf r.token.mirror.toNat] b else b

/-- Members that may read a region whose keeper this member has just become: every other member of the domain (log entry 20). -/
def otherMembers (b : Block) (p : Part) : List (BitVec 16) :=
  match b.jigOf p with
  | some j => ((List.range j.memberCount).map fun n => BitVec.ofNat 16 n).filter fun m => decide (m ≠ j.memberIndex) && !b.gone p m
  | none => []

/-- The token last sent, with the flags of a repair and of an audit in progress (R261, R264, R267). -/
def currentToken (b : Block) (r : Region) : Token := signToken b r.part { r.shown with unreadable := r.token.unreadable, audit := r.audit.isSome }

/-- A token for members without a session goes to the anchor, which passes it on (R265). -/
def relayToken (h : Hard) (p : Part) (rest : List (BitVec 16)) (t : Token) (b : Block) : Block :=
  let anchor := (b.adm' p).anchor
  if rest = [] ∨ b.session p anchor = false then b
  else sendMem h p anchor 11 t.regionId (leBytes 2 rest.length ++ (rest.flatMap fun m => leBytes 2 m.toNat) ++ tokenBody t) b

/-- Sends a new keeper's token to the readers with a session, and to the rest by `RELAY` over the anchor (R265). -/
def sendTakeover (h : Hard) (p : Part) (old : BitVec 16) (t : Token) (b : Block) : Block :=
  let ms := (otherMembers b p).filter fun m => decide (m ≠ old)
  let b := (ms.filter fun m => b.session p m).foldl (fun b m => sendToken h p m t b) b
  relayToken h p (ms.filter fun m => !b.session p m) t b

/-- The member keeps a region that its Jig gives to another: taken over or handed to it (R265, R266). -/
def keptForAnother (b : Block) (r : Region) : Bool :=
  match b.jigOf r.part with
  | some j => j.regions.any fun x => decide (x.regionId = r.regionId ∧ x.keeper ≠ j.memberIndex)
  | none => false

/-- Pages under test of an audit, the scrub or a reader's doubt: the path is fetched anew, but for what is changed in the cache or pinned there. -/
def dropPath (rid : Nat) (r : Region) (page : Nat) (b : Block) : Block :=
  modCache r (fun c => c.filter fun e => !(decide (e.region = rid) && !e.dirty && !e.pinned && !(c.any fun x => x.dirty && decide (x.region = rid) && decide (parentObj x.obj = some e.obj)) && (decide (e.obj ∈ pathObjs r page) || (match e.obj with | .tagLine t => decide (t / 7 = page) | _ => false)))) b

/-- The keeper looks at a page for a reader (R264). -/
def startReverify (rid : Nat) (r : Region) (peer : BitVec 16) (page : Nat) (b : Block) : Block :=
  newReqs r.part rid (.reverify rid peer page false) [(64 * page, .path)] (dropPath rid r page b)

/-- The keeper audits a page (R267). -/
def startAudit (rid : Nat) (r : Region) (page : Nat) (b : Block) : Block :=
  newReqs r.part rid (.audit rid page false) [(64 * page, .path)] (dropPath rid r page (modRegion rid (fun x => { x with audit := some page }) b))

/-- What a publication's end lets go on: the covered messages become visible, acquires and readers' questions are answered, an audit begins (R262, R267, R273, R295, R296). -/
def pubDone (h : Hard) (rid : Nat) (r : Region) (x : Publication) (b : Block) : Block :=
  let p := r.part
  let b := (x.covers.map fun c => c.1).dedup.foldl (fun b peer =>
    visibleMoved h p peer (modKeep p peer (fun k => { k with unseen := k.unseen.filter fun u => !x.covers.contains (peer, u.1) }) b)) b
  let b := ((b.ahuPart p).acqs.filter fun a => decide (a.region = rid)).foldl (fun b a => fenceAck h p a.peer a.tag r.regionId r.published b) b
  let b := modAhu p (fun a => { a with acqs := a.acqs.filter fun y => decide (y.region ≠ rid) }) b
  let b := r.reverifies.foldl (fun b v => startReverify rid r v.1 v.2 b) b
  let b := match r.repairs with | [] => b | v :: _ => startRepair h rid r v.1 v.2 b
  let b := modRegion rid (fun y => { y with reverifies := [], repairs := [] }) b
  let b := match r.audit with | some page => startAudit rid r page b | none => b
  push (.fences p) (push (.part p) b)

/-- The token of the hand-off: keeper and mirror swapped (R266). -/
def sendHandoff (h : Hard) (rid : Nat) (r : Region) (b : Block) : Block :=
  let t := signToken b r.part { r.token with tokenSeq := r.token.tokenSeq + 1, keeper := r.token.mirror, mirror := r.token.keeper, noMirror := false, sweep := r.sweeping }
  sendMem h r.part r.token.mirror 9 r.regionId (tokenBody t) (modRegion rid (fun x => { x with state := 7, handing := false, token := t, shown := t }) b)

/-- The previous generation's key is retired at this member (R120, R259). -/
def dropPrev (h : Hard) (rid : Nat) (r : Region) (b : Block) : Block :=
  let b := modRegion rid (fun x => { x with prevKey := none }) b
  match r.prevKey with
  | none => b
  | some s => if (b.repl r.keySlot.toNat).isSome then retireRepl h r.keySlot b else endKey h s b

/-- The old generation retires as the root stands under the new one (R259, R273). -/
def endSweep (h : Hard) (rid : Nat) (b : Block) : Block :=
  match b.region rid with
  | none => b
  | some r =>
    if !r.sweeping then b
    else
      let b := dropPrev h rid r (modRegion rid (fun x => { x with sweeping := false, token := { x.token with sweep := false } }) b)
      memNote h 0x0508 r [aByte 2, aHalf r.token.generation.toNat] b

/-- A publication ends (R262, R268). -/
def endPub (h : Hard) (rid : Nat) (r : Region) (x : Publication) (b : Block) : Block :=
  let cleared := decide (r.state = 9 ∧ r.shown.root = r.token.root)
  let r1 : Region := { r with pub := none, published := r.token.tokenSeq, state := if r.state = 3 ∨ cleared = true then 2 else r.state, ctx := if cleared then none else r.ctx }
  let b := setRegion rid r1 b
  let b := if cleared then completeOpt h r.ctx stOk 0 r.token.tokenSeq.toNat 0 b else b
  let b := pubDone h rid r1 x b
  let b := match b.region rid with
    | some r2 =>
      if r2.handing ∧ r2.state = 2 then
        if mirrorLive b r2 then sendHandoff h rid r2 b
        else completeOpt h r2.ctx stPeerDeparted 0 0 0 (modRegion rid (fun y => { y with handing := false, ctx := none }) b)
      else b
    | none => b
  push (.pub rid) b

/-- The publication's readers: those with a session; the mirror has the token before them (R262). -/
def pubReaders (b : Block) (r : Region) : List (BitVec 16) := r.readers.filter fun m => b.session r.part m && (r.token.noMirror || decide (m ≠ r.token.mirror))

/-- A token goes to readers in session; to those a new keeper has not admitted yet by `RELAY`, unawaited (R262, R265). -/
def sendReaders (h : Hard) (r : Region) (rs : List (BitVec 16)) (t : Token) (b : Block) : Block :=
  let b := rs.foldl (fun b m => sendToken h r.part m t b) b
  if keptForAnother b r then relayToken h r.part (r.readers.filter fun m => !b.session r.part m && decide (m ≠ t.mirror ∨ t.noMirror = true)) t b else b

/-- Dirty lines of a region. -/
def dirtyOf (b : Block) (rid : Nat) (p : Part) : Tab Line :=
  ((b.ahuPart p).dirty.filter fun e => decide (e.1 / 2 ^ 41 = rid)).map fun e => (e.1 % 2 ^ 41, e.2)

/-- A publication starts: it takes the region's writes; later ones wait for the next (R262). -/
def startPub (rid : Nat) (r : Region) (b : Block) : Block :=
  let lines := dirtyOf b rid r.part
  let b := modAhu r.part (fun a => { a with dirty := a.dirty.filter fun e => decide (e.1 / 2 ^ 41 ≠ rid) }) b
  let covers := (b.ahuPart r.part).keep.flatMap fun k => (k.2.unseen.filter fun u => decide (u.2 = rid)).map fun u => (BitVec.ofNat 16 k.1, u.1)
  setRegion rid { r with state := if r.state = 2 then 3 else r.state, again := false, pub := some { phase := 0, await := [], tags := [], covers := covers, lines := lines, writes := [], bad := [], takeover := none } } b

/-- Forms the token of the publication and sends it to the mirror, or goes on without one (R262 step 3, R265 step 3). -/
def pubToken (h : Hard) (rid : Nat) (r : Region) (x : Publication) (b : Block) : Block :=
  let t := nextToken b r
  match x.takeover with
  | some old =>
    let t := signToken b r.part { t with keeper := b.selfIndex r.part, mirror := old, noMirror := true }
    let b := memNote h 0x050B r [aHalf old.toNat, aW8 t.tokenSeq.toNat, aCount r.lost.length] (setRegion rid { r with token := t, shown := t, state := 2, pub := none, published := t.tokenSeq } b)
    push (.fences r.part) (push (.part r.part) (sendTakeover h r.part old t b))
  | none =>
    let b := noteMirror h r t b
    let b := setRegion rid { r with token := t, shown := t, pub := some { x with phase := 3 } } b
    push (.pub rid) (if t.noMirror then b else sendToken h r.part t.mirror t b)

/-- One step of a region's publication. -/
def pubStep (h : Hard) (rid : Nat) (b : Block) : Block :=
  match b.region rid with
  | none => b
  | some r =>
    if b.rst.halted || decide (r.role ≠ 0) || decide (r.kind ≠ 2) then b
    else match r.pub with
      | none => if r.again ∧ r.repair = none ∧ (r.state = 2 ∨ r.state = 9) then push (.pub rid) (startPub rid r b) else b
      | some x =>
        match x.phase with
        | 0 =>
          if b.bundles.any fun y => decide (y.what = .gather rid) then b
          else
            let miss := (pubPages x).flatMap fun p => pubMissing b rid r x p
            if (trayNode b r).isNone ∧ x.lines ≠ [] then b
            else if miss ≠ [] then newReqs r.part rid (.gather rid) miss b
            else if (mirrorLive b r = false) ∧ ((pubPages x).any fun p => pageReading b rid p) = true then b
            else if mirrorLive b r then
              let es := intentEntries b rid r (pubPages x)
              sendMem h r.part r.token.mirror 3 r.regionId (leBytes 8 (r.token.tokenSeq.toNat + 1) ++ leBytes 4 es.length ++ leBytes 4 0 ++ intentBytes es)
                (setRegion rid { r with pub := some { x with phase := 1, await := [r.token.mirror] } } b)
            else push (.pub rid) (pubSeal h rid x b)
        | 1 => if (mirrorLive b r = true ∧ x.await ≠ []) ∨ ((pubPages x).any fun p => pageReading b rid p) = true then b else push (.pub rid) (pubSeal h rid { x with await := [] } b)
        | 2 =>
          match trayNode b r with
          | none => if x.writes = [] ∧ x.tags = [] then pubToken h rid r x b else b
          | some n =>
            let w := issueWrites h.cfg rid r n x.writes x.tags b
            if w.1 = [] ∧ w.2.1 = [] then pubToken h rid r x w.2.2
            else modRegion rid (fun y => { y with pub := some { x with writes := w.1, tags := w.2.1 } }) w.2.2
        | 3 =>
          if mirrorLive b r then b
          else
            let rs := pubReaders b r
            push (.pub rid) (sendReaders h r rs r.token (setRegion rid { r with pub := some { x with phase := 4, await := rs } } b))
        | _ =>
          let left := x.await.filter fun m => b.session r.part m
          if left = [] then endPub h rid r x b else setRegion rid { r with pub := some { x with await := left } } b

/-- The mirror has the token: the readers are next (R262 step 4). -/
def pubAcked (h : Hard) (rid : Nat) (r : Region) (x : Publication) (b : Block) : Block :=
  let rs := pubReaders b r
  push (.pub rid) (sendReaders h r rs r.token (setRegion rid { r with pub := some { x with phase := 4, await := rs } } b))

/-- Asks for a publication of a region the partition keeps. -/
def wantPub (rid : Nat) (b : Block) : Block := push (.pub rid) (modRegion rid (fun r => { r with again := true }) b)

/-- A gather fails on metadata: the publication gives its lines back, and starts again after the repair (R268, R270). -/
def pubGiveBack (rid : Nat) (r : Region) (x : Publication) (b : Block) : Block :=
  let b := modAhu r.part (fun a => { a with dirty := x.lines.foldl (fun d l => if Tab.has d (dirtyKey rid l.1) then d else Tab.set d (dirtyKey rid l.1) l.2) a.dirty }) b
  setRegion rid { r with pub := none, again := true } b

/-! ### Re-encryption (R251) -/

/-- The lines a slot waited for have been read: those that could not be are lost (R270). -/
def slotFilled (me : Fin 8) (p : Part) (n : Nat) (x : Bundle) (b : Block) : Block :=
  match Tab.get? (b.mePart me p).slots n with
  | none => b
  | some s =>
    let got := x.lines.foldl (fun t l => if s.await.contains (l.1 % 64) then Tab.set t (l.1 % 64) l.2 else t) s.lines
    let lost := x.bad.any fun l => s.await.contains (l % 64)
    push (.part p) (modMePart me p (fun m => { m with slots := Tab.set m.slots n { s with lines := got, await := [], lost := s.lost || lost } }) b)

/-- Root entries the Jigs `js` take for the regions they keep, and those of open regions that no record names as kept: kind 0, table and taken-over ones (R69, R246). -/
def rootEntries (b : Block) (js : List (Nat × Jig)) : Nat :=
  let named (r : Region) : Bool := js.any fun x => decide (x.1 = r.part.val) && x.2.regions.any fun y => decide (y.regionId = r.regionId ∧ y.keeper = x.2.memberIndex)
  (js.map fun x => (x.2.regions.filter fun r => decide (r.keeper = x.2.memberIndex)).length).sum + (b.regions.filter fun e => decide (e.2.role = 0) && !named e.2).length

/-- Seals the page under its new major counter, writes it back and frees the slot; a key commit meanwhile takes another major counter (R251, R273). -/
def sealSlot (h : Hard) (rid : Nat) (r : Region) (n : Nat) (s : Reenc) (b : Block) : Block :=
  let mb := if s.gen = r.token.generation then (s.major, b) else newMajor rid b
  let js := s.lines.map fun l => l.1
  let cb := js.foldl (fun c j => cbSetMinor c j 1) (cbNew mb.1)
  let b := (List.range 7).foldl (fun b t => putTree rid r (.tagLine (7 * s.page + t)) 0 true false b) mb.2
  let b := s.lines.foldl (fun b l => putLine rid r (64 * s.page + l.1) mb.1 1 l.2 b) b
  let b := (List.range 7).foldl (fun b t =>
    modTree rid r (.tagLine (7 * s.page + t)) (fun e => { e with dirty := false }) (emit (.hbmWrite r.me rid (.tagLine (7 * s.page + t)) (tagContent b rid r (7 * s.page + t))) b)) b
  let b := modTree rid r (.node 0 s.page) (fun e => { e with line := cb, dirty := true }) b
  let b := markWritten rid r 0 s.page b
  let b := if s.lost then markLost h rid s.page 3 b else unlose rid s.page cb b
  let b := countUses (.me r.me) r.keySlot js.length b
  let b := modMePart r.me r.part (fun m => { m with slots := Tab.del m.slots n, reenc := m.reenc + 1 }) b
  let b := memNote h 0x0507 r [(5, s.page), aW8 mb.1.toNat] b
  push (.part r.part) (if (b.mePart r.me r.part).staging.any fun x => decide (x.region = rid ∧ x.line / 64 = s.page) then stagePage rid r s.page b else b)

/-! ### Tokens at readers and mirrors (R261, R263, R265, R268) -/

/-- The region object of an identifier at this member. -/
def Block.regionById (b : Block) (p : Part) (id : BitVec 32) : Option (Nat × Region) := b.regions.find? fun e => decide (e.2.part = p ∧ e.2.regionId = id)

def Block.mirrorEnt (b : Block) (p : Part) (id : BitVec 32) : Option MirrorEnt := b.mirrors.find? fun m => decide (m.part = p ∧ m.regionId = id)
def putMirror (m : MirrorEnt) (b : Block) : Block :=
  { b with mirrors := if b.mirrors.any fun x => decide (x.part = m.part ∧ x.regionId = m.regionId) then b.mirrors.map fun x => if x.part = m.part ∧ x.regionId = m.regionId then m else x else b.mirrors ++ [m] }

/-- A token is well formed for its region: its `MAC`, domain and identifier (R261). -/
def tokenOk (b : Block) (p : Part) (t : Token) : Bool :=
  (match b.jigOf p with | some j => decide (t.domainId = j.domainId) | none => false) && decide (t.mac = tokenMac b p t)

/-- An open completes, with its handle, role and `TOKEN_SEQ` (R272, R336), once its epoch has drained (R319). -/
def completeOpen (h : Hard) (rid : Nat) (st : Byte) (b : Block) : Block :=
  match b.region rid with
  | none => b
  | some r =>
    if st = stOk ∧ ((b.ptuPart r.part).changes.any fun c => decide (c.kind = 4 ∧ c.window = rid)) = true then b
    else completeOpt h r.ctx st 0 (if st = stOk then rid + 1024 * r.role.toNat else 0) (if st = stOk then r.token.tokenSeq.toNat else 0) (modRegion rid (fun x => { x with ctx := none }) b)

/-- Requests held by a `REVERIFY` go on as the token says (R264 step 5). -/
def reverified (rid : Nat) (t : Token) (b : Block) : Block :=
  (b.memReqs.filter fun m => decide (m.region = rid ∧ m.rever = 1)).foldl (fun b m =>
    push (.req m.id) (putReq { m with rever := if m.seqUsed.toNat < t.tokenSeq.toNat then 0 else 2, fetched := none, wants := [] } b)) b

/-- The key of a region this member opens (R116): local under the partition root, shared under the domain key. -/
def openKey (p : Part) (kind : BitVec 2) (window : Byte) (id : BitVec 32) (gen : BitVec 16) (b : Block) : Option (Slot × Block) :=
  if kind = 0 then deriveKey 9 p (BitVec.ofNat 12 (16 + p.val)) gen.toNat (leBytes 1 window.toNat ++ leBytes 2 gen.toNat) "SWY-REGION-LOCAL" b
  else deriveKey 8 p (b.adm' p).domainSlot gen.toNat (leBytes 4 id.toNat ++ leBytes 2 gen.toNat) "SWY-REGION" b

/-- The keys a token calls for: its generation's, and while it sweeps the one before (R259, R263); none when no key slot is free. -/
def tokenKeys (h : Hard) (rid : Nat) (t : Token) (b : Block) : Option Block :=
  match b.region rid with
  | none => none
  | some r =>
    let cur : Option Block :=
      if r.gen = t.generation ∨ (r.gen = t.generation + 1 ∧ r.prevKey.isSome = true) then some b
      else (openKey r.part 2 0 t.regionId t.generation b).map fun k =>
        setRegion rid { r with keySlot := k.1, gen := t.generation, prevKey := none } (endKey h r.keySlot (dropPrev h rid r k.2))
    cur.bind fun b => match b.region rid with
      | none => none
      | some r =>
        if t.sweep ∧ r.prevKey = none then (openKey r.part 2 0 t.regionId (t.generation - 1) b).map fun k => modRegion rid (fun x => { x with prevKey := some k.1 }) k.2
        else some (if t.sweep = false ∧ r.gen = t.generation then dropPrev h rid r b else b)

/-- A member's region object takes an accepted token: its place, the keys in force, its state; cached metadata goes (R263, R265, R268, R294). -/
def acceptToken (h : Hard) (rid : Nat) (r : Region) (t : Token) (b : Block) : Block :=
  let st : BitVec 4 :=
    if r.state = 5 ∧ t.audit = true then 5
    else if t.unreadable then 4
    else 2
  let role : BitVec 2 := if t.mirror = b.selfIndex r.part ∧ t.noMirror = false then 1 else 2
  let b := modRegion rid (fun x => { x with token := t, shown := t, state := st, role := role, levels := t.levels.toNat, pages := t.pages.toNat, pub := none, sweeping := false }) (dropTree rid r b)
  let b :=
    if t.keeper = r.token.keeper then endRefused r.part r.regionId b
    else if t.noMirror ∨ t.mirror ≠ r.token.keeper then keeperGone h r.part r.regionId r.token.keeper (some t.keeper) b
    else keeperMoved h r.part r.regionId t.keeper b
  let b := reverified rid t b
  let b := if r.state = 1 then completeOpen h rid stOk b else b
  push (.fences r.part) (push (.part r.part) b)

/-! ### Placement and footprints (R252, R271, R321) -/

/-- Bytes of one stack, and the alignment of a footprint on it (log entry 21). -/
def stackBytes : Nat := 103079215104
def twoMiB : Nat := 2097152
def alignTo (n a : Nat) : Nat := (n + a - 1) / a * a

/-- Unplaced bytes of a stack. -/
def freeBytes (s : MeSt) : Nat := stackBytes - ((s.placed.filter fun f => !f.pool).map fun f => alignTo f.size twoMiB).sum

/-- The lowest aligned place for `size` bytes. -/
def placeFrom (need : Nat) : List Footprint → Nat → Option Nat
  | [], off => if off + need ≤ stackBytes then some off else none
  | f :: fs, off => if off + need ≤ f.base then some off else placeFrom need fs (max off (f.base + alignTo f.size twoMiB))
def placeAt (s : MeSt) (size : Nat) : Option Nat := placeFrom (alignTo size twoMiB) (s.placed.filter fun f => !f.pool) 0

/-- Adds a footprint in order of its base. -/
def insertFoot (f : Footprint) : List Footprint → List Footprint
  | [] => [f]
  | g :: gs => if f.base < g.base then f :: g :: gs else g :: insertFoot f gs

/-- The largest contiguous unplaced range of a stack. -/
def largestGap : List Footprint → Nat → Nat
  | [], off => stackBytes - off
  | f :: fs, off => max (f.base - off) (largestGap fs (max off (f.base + alignTo f.size twoMiB)))

/-- MEs a partition may use: its share there is nonzero. -/
def ownMes (c : Cfg) (b : Block) (p : Part) : List (Fin 8) :=
  match b.jigOf p with
  | some j => ((List.range (meCount c)).map fun n => Fin.ofNat 8 n).filter fun n => decide (j.share (.me n) ≠ 0)
  | none => []

/-- The stack of a local or exported window: most free space, then the lowest ME (R321). -/
def chooseStack (c : Cfg) (b : Block) (p : Part) (pin : Option (Fin 8)) (size : Nat) : Option (Fin 8 × Nat) :=
  let ms := match pin with | some n => (ownMes c b p).filter fun m => decide (m = n) | none => ownMes c b p
  ms.foldl (fun best n =>
    match placeAt (b.me n) size with
    | none => best
    | some off => match best with
      | none => some (n, off)
      | some (m, _) => if freeBytes (b.me m) < freeBytes (b.me n) then some (n, off) else best) none

/-- The tree ME of a pool window: the fewest tree roles of the partition, then the lowest ME (R321). -/
def chooseTree (c : Cfg) (b : Block) (p : Part) (pin : Option (Fin 8)) : Option (Fin 8) :=
  let ms := match pin with | some n => (ownMes c b p).filter fun m => decide (m = n) | none => ownMes c b p
  let roles (n : Fin 8) : Nat := (b.regions.filter fun e => decide (e.2.part = p ∧ e.2.kind = 2 ∧ e.2.me = n)).length
  ms.foldl (fun best n => match best with | none => some n | some m => if roles n < roles m then some n else best) none

/-! ### Opening and closing -/

/-- A region object's handle, the lowest free of the chip's 1,024 (R246). -/
def Block.freeRegion (b : Block) : Option Nat := Tab.lowestFree b.regions 0 1024

/-- A token for a region just opened by its keeper: every child fresh (R268), the major high-water mark where the key left it (R248). -/
def freshToken (id : BitVec 32) (keeper mirror : BitVec 16) (domain : BitVec 32) (gen : BitVec 16) (pages : Nat) (hwm : Word) : Token :=
  { regionId := id, keeper := keeper, mirror := mirror, tokenSeq := 0, domainId := domain, generation := gen, levels := BitVec.ofNat 8 (treeLevels pages), unreadable := false,
    sweep := false, noMirror := false, audit := false, pages := BitVec.ofNat 64 pages, sweepPtr := 0, majorHwm := hwm, root := nodeNew, mac := 0 }

/-- A region object as it is opened. -/
def openedRegion (p : Part) (pasid : Option (BitVec 20)) (window : Option (Fin 16)) (kind : BitVec 2) (role : BitVec 2) (me : Fin 8) (base : Nat) (node : BitVec 16) (slot : Slot) (t : Token) (now : Word) : Region :=
  { part := p, pasid := pasid, window := window, regionId := t.regionId, kind := kind, state := 2, role := role, me := me, base := base, node := node, pages := t.pages.toNat,
    levels := t.levels.toNat, keySlot := slot, gen := t.generation, prevKey := none, token := t, shown := t, readers := [], pub := none, again := false, published := t.tokenSeq, lost := [], sweeping := false, handing := false,
    audit := none, repair := none, reverifies := [], repairs := [], backs := [], ctx := none, openTick := now, dying := false, deferral := none, closing := false, tookOver := none }

/-- Places a footprint on a stack. -/
def placeFoot (n : Fin 8) (f : Footprint) (b : Block) : Block := modMe n (fun s => { s with placed := insertFoot f s.placed }) b

/-- The first token goes to the mirror as the keeper opens a shared region (R246, R268). -/
def firstToken (h : Hard) (rid : Nat) (b : Block) : Block :=
  match b.region rid with
  | none => b
  | some r =>
    let live := b.session r.part r.token.mirror
    let t := signToken b r.part { r.token with noMirror := !live }
    let b := noteMirror h r t (modRegion rid (fun x => { x with token := t, shown := t }) b)
    if live then sendToken h r.part t.mirror t b else b

/-- A stack's source: it is not ready, or a footprint on it is being cleared (R358). -/
def meLevel (h : Hard) (n : Fin 8) (b : Block) : Block :=
  let s := b.me n
  setLevel h (344 + n.val) (!s.ready || s.placed.any fun f => f.clearing) b

/-- A closed window's entries, frames and cached translations go: opened again, its pages are at home (R307, R320). -/
def dropWindowPages (p : Part) (w : Nat) (b : Block) : Block :=
  modPtu p (fun x => { x with ptes := Tab.keep x.ptes fun k _ => decide (k / 2 ^ 40 ≠ w), frames := Tab.keep x.frames fun _ k => decide (k / 2 ^ 40 ≠ w),
                              cache := x.cache.filter fun k => decide (k / 2 ^ 40 ≠ w) }) b

/-- Closes a region (R268, R271): its requests end, its key is invalidated, its footprint is filled with zero before the space is placed again. -/
def closeRegion (h : Hard) (rid : Nat) (b : Block) : Block :=
  match b.region rid with
  | none => b
  | some r =>
    let p := r.part
    let b := (b.memReqs.filter fun m => decide (m.region = rid)).foldl (fun b m => finish h m stAborted 0 b) b
    let b := { b with bundles := b.bundles.filter fun x => match x.what with
      | .gather y => decide (y ≠ rid) | .reverify y _ _ _ => decide (y ≠ rid) | .audit y _ _ => decide (y ≠ rid) | _ => true }
    let b := eachTag p (fun _ x => decide (x.region = rid ∧ x.regionId = r.regionId)) (fun t x b =>
      if x.kind = 0 then quarantine p t (dropQueued p t b) else if x.isAsk then abortAsk p t x b else b) b
    let b := completeOpt h r.ctx stRegionRevoked 0 0 0 b
    let b := if r.role = 0 then keepMark r r.gen b else b
    let b := dropTree rid r b
    let b := modMePart r.me p (fun m => { m with staging := m.staging.filter fun s => decide (s.region ≠ rid), slots := Tab.keep m.slots fun _ s => decide (s.region ≠ rid) }) b
    let b := modAhu p (fun a => { a with dirty := a.dirty.filter fun e => decide (e.1 / 2 ^ 41 ≠ rid) }) b
    let b := modPtu p (fun x => { x with changes := x.changes.filter fun c => !decide (c.kind = 4 ∧ c.window = rid) }) b
    let b := match r.window with
      | some w => if r.kind = 0 then dropWindowPages p w.val b else b
      | none => b
    let b := { b with fetches := b.fetches.filter fun f => decide (f.1 ≠ rid), regions := Tab.del b.regions rid }
    let b := match r.prevKey with | some s => endKey h s b | none => b
    let b := endKey h r.keySlot b
    if r.role ≠ 0 then (if r.kind ≠ 0 ∧ b.session p r.token.keeper = true then sendMem h p r.token.keeper 6 r.regionId [] b else b)
    else
      let b := (r.readers.filter fun m => b.session p m).foldl (fun b m => sendMem h p m 10 r.regionId (leBytes 1 stRegionRevoked.toNat ++ leBytes 7 0) b) b
      if r.kind = 2 then
        match trayNode b r with
        | some n => meLevel h r.me (placeFoot r.me { regionId := r.regionId, part := p, base := r.base, size := footprintOf r.pages, clearing := true, pool := true } (emit (.trayZero p n r.base (footprintOf r.pages)) b))
        | none => b
      else
        meLevel h r.me (emit (.hbmZero r.me r.base (footprintOf r.pages)) (modMe r.me (fun s => { s with placed := s.placed.map fun f => if f.base = r.base ∧ f.pool = false then { f with clearing := true } else f }) b))

/-- A region of state 8: its keeper is lost for good, its requests are revoked (R268). -/
def revokeRegion (h : Hard) (rid : Nat) (b : Block) : Block :=
  match b.region rid with
  | none => b
  | some r =>
    let b := if r.role = 0 then b else keeperGone h r.part r.regionId r.token.keeper none b
    push (.fences r.part) (push (.part r.part) (setRegion rid { r with state := 8 } b))

/-! ### Takeover (R265) and hand-off at the mirror (R266) -/

/-- The member becomes keeper of a region from a token: its region object, as a reader's turned keeper's or a new one, with the keys of the token's generations. -/
def becomeKeeper (h : Hard) (p : Part) (t : Token) (b : Block) : Option (Nat × Block) :=
  match b.jigOf p with
  | none => none
  | some j =>
    match j.regions.find? fun r => decide (r.regionId = t.regionId) with
    | none => none
    | some rr =>
      let prev (b : Block) : Option Slot × Block :=
        if !t.sweep then (none, b)
        else match openKey p 2 0 t.regionId (t.generation - 1) b with | some (s, b) => (some s, b) | none => (none, b)
      match b.regionById p t.regionId with
      | some (rid, _) => (tokenKeys h rid t b).bind fun b => (b.region rid).map fun r =>
          (rid, setRegion rid { r with role := 0, token := t, shown := t, sweeping := t.sweep, readers := otherMembers b p, pub := none, published := t.tokenSeq, lost := [], tookOver := none } (dropTree rid r b))
      | none =>
        match b.freeRegion, chooseTree h.cfg b p none, openKey p 2 0 t.regionId t.generation b with
        | some rid, some me, some (s, b) =>
          let k := prev b
          let w := (j.windows.find? fun w => decide (w.regionId = t.regionId)).map fun w => Fin.ofNat 16 w.window
          some (rid, setRegion rid { openedRegion p none w rr.kind 0 me rr.offset rr.node s t b.now with prevKey := k.1, sweeping := t.sweep, readers := otherMembers b p } k.2)
        | _, _, _ => none

/-- A page of the intent is lost: a new counter block with every minor at 0 (R265 step 2). -/
def losePage (h : Hard) (rid page cause : Nat) (b : Block) : Block :=
  match b.region rid with
  | none => b
  | some r =>
    let b := touchPath rid r page b
    let m := newMajor rid (makeRoom h.cfg r (if (b.treeEnt rid r (.node 0 page)).isSome then 0 else 1) b).2
    let b := putTree rid r (.node 0 page) (cbNew m.1) true false m.2
    markLost h rid page cause (markWritten rid r 0 page b)

/-- The mirror takes the region over from its last token, and rolls a pending intent back (R265). -/
def takeover (h : Hard) (m : MirrorEnt) (b : Block) : Block :=
  match m.token with
  | none => b
  | some t =>
    let p := m.part
    match b.jigOf p with
    | none => b
    | some j =>
      let drop (b : Block) : Block := { b with mirrors := b.mirrors.filter fun x => !(decide (x.part = p) && decide (x.regionId = m.regionId)) }
      match j.regions.find? fun r => decide (r.regionId = m.regionId) with
      | none => drop b
      | some rr =>
        if rr.kind = 1 then (match b.regionById p m.regionId with | some (rid, _) => revokeRegion h rid (drop b) | none => drop b)
        else match becomeKeeper h p t b with
          | none => drop b
          | some (rid, b) =>
            let b := modRegion rid (fun r => { r with state := 6, tookOver := some (b.peer p (accel t.keeper)).tag, token := { r.token with mirror := t.keeper } }) (keeperGone h p m.regionId t.keeper (some j.memberIndex) (drop b))
            let es : List IntentEntry := match m.intent with | some (s, es) => if s = t.tokenSeq + 1 then es else [] | none => []
            let b := (es.filter fun e => decide (e.level ≠ 0)).foldl (fun (b : Block) (e : IntentEntry) => match b.region rid with
              | some r => putTree rid r (.node e.level.toNat e.index.toNat) e.content true false b
              | none => b) b
            let b := (es.filter fun e => decide (e.level = 0)).foldl (fun (b : Block) (e : IntentEntry) => losePage h rid e.index.toNat 4 b) b
            let x : Publication := { phase := 2, await := [], tags := [], covers := [], lines := [], writes := [], bad := [], takeover := some t.keeper }
            push (.pub rid) (pubSeal h rid x b)

/-- The keeper of mirrored regions is lost (R265): the member mirrors of that keeper take over. -/
def keeperLost (h : Hard) (p : Part) (keeper : BitVec 16) (b : Block) : Block :=
  (b.mirrors.filter fun m => decide (m.part = p) && (match m.token with | some t => decide (t.keeper = keeper) | none => false)).foldl (fun b m => takeover h m b) b

/-! ### Repair (R270, R412) -/

/-- What a child may have been: its slot, and its `FRESH`, `GEN` and `LOST` bits. -/
structure Cand where
  mac   : BitVec 56
  fresh : Bool
  gen   : Bool
  lost  : Bool
  deriving DecidableEq, Repr

/-- A child's candidates (R412): fresh; written under the current generation, during a sweep also the previous; at level 1 with `LOST` clear, and set where a minor is zero. -/
def candidates (b : Block) (r : Region) (level index : Nat) (st : BitVec 2) (l : Line) : List Cand :=
  let fresh : Cand := { mac := 0, fresh := true, gen := false, lost := false }
  if 2 ≤ st.toNat then [fresh]
  else
    let gens := if r.prevKey.isSome then [false, true] else [false]
    fresh :: gens.flatMap fun prev =>
      let c : Cand := { mac := objMac (b.regionKey r prev) level index l, fresh := false, gen := r.parity != prev, lost := false }
      if level = 0 ∧ cbFull l = false then [c, { c with lost := true }] else [c]

def putCand (n : Line) (j : Nat) (c : Cand) : Line :=
  if c.fresh then nodeSetFresh n j else nodeSetLost (nodeSetChild n j c.mac c.gen) j c.lost

/-- Every node the candidates give, child `j` on. -/
def combos : List (List Cand) → Nat → Line → List Line
  | [], _, n => [n]
  | cs :: t, j, n => cs.flatMap fun c => combos t (j + 1) (putCand n j c)

/-- Writes anew a node that cannot be proven: every page under it lost, new counter blocks, new nodes up to it (R270). -/
def loseBelow (h : Hard) (rid : Nat) : Nat → Nat → Block → Block
  | 0, i, b => losePage h rid i 2 b
  | k + 1, i, b =>
    match b.region rid with
    | none => b
    | some r =>
      let b := putTree rid r (.node (k + 1) i) nodeNew true false (makeRoom h.cfg r 1 (touchPath rid r (i * 8 ^ (k + 1)) b)).2
      let b := (List.range 8).foldl (fun b j => if 8 * i + j < nodesAt r.pages k then loseBelow h rid k (8 * i + j) b else b) b
      markWritten rid r (k + 1) i b

/-- Pages under node `i` of level `k`. -/
def pagesUnder (r : Region) (k i : Nat) : Nat := min (8 ^ k) (r.pages - i * 8 ^ k)

/-- The repair has ended: the region is active again, and published for kind 2 (R268, R270). -/
def repairEnded (h : Hard) (rid k i lost : Nat) (b : Block) : Block :=
  match b.region rid with
  | none => b
  | some r =>
    let b := memNote h 0x0509 r [aByte k, aW6 i, aHalf (satNat 16 lost)] (setRegion rid { r with repair := none, state := if r.state = 4 then 2 else r.state, token := { r.token with unreadable := false } } b)
    let b := match r.audit with | some page => startAudit rid r page b | none => b
    push (.part r.part) (cacheMoves h r (if r.kind = 2 then wantPub rid b else b))

/-! ### Bundles of the regions -/

/-- A keeper's answer to `REVERIFY`: its current token (R264 step 4). -/
def answerReverify (h : Hard) (rid : Nat) (peer : BitVec 16) (b : Block) : Block :=
  match b.region rid with
  | some r => sendToken h r.part peer (currentToken b r) b
  | none => b

/-- The page's lines, once its path is at hand. -/
def pageFills (b : Block) (rid : Nat) (r : Region) (page : Nat) : List (Nat × MemOp) :=
  match walk b rid r page with
  | .cb cb _ => (cbWritten cb).map fun j => (64 * page + j, .fill)
  | _ => []

/-- The audit has passed: a token with the next `TOKEN_SEQ` resumes every member (R267). -/
def auditPassed (h : Hard) (rid : Nat) (b : Block) : Block :=
  match b.region rid with
  | none => b
  | some r =>
    let n := nextToken b { r with audit := none }
    let t := signToken b r.part { n with root := r.shown.root, majorHwm := r.shown.majorHwm }
    let b := noteMirror h r t (setRegion rid { r with token := { n with mac := 0 }, shown := t, audit := none, state := if r.state = 5 then 2 else r.state } b)
    let b := if t.noMirror then b else sendToken h r.part t.mirror t b
    push (.pub rid) (push (.part r.part) (sendReaders h r (pubReaders b r) t b))

/-- A gather's bundle has ended: lines read go along; those that could not be read, and those whose tags could not, are given up. -/
def gathered (rid : Nat) (x : Bundle) (b : Block) : Block :=
  match b.region rid with
  | none => b
  | some r =>
    match r.pub with
    | none => b
    | some p =>
      if r.repair.isSome then pubGiveBack rid r p b
      else
        let took := x.lines.foldl (fun t l => if l.1 < 2 ^ 41 ∧ Tab.has t l.1 = false then Tab.set t l.1 l.2 else t) p.lines
        let tagless := (x.bad.filter fun l => decide (2 ^ 41 ≤ l)).flatMap fun l =>
          let page := (l - 2 ^ 41) / 64
          match walk b rid r page with
          | .cb cb _ => (pubTags b rid r p cb page).flatMap fun t => tagUsers p cb page t
          | _ => []
        push (.pub rid) (setRegion rid { r with pub := some { p with lines := took, bad := (p.bad ++ (x.bad.filter fun l => decide (l < 2 ^ 41)) ++ tagless).dedup } } b)

end Sys2Proof.Machine
end

