-- ==== Sys2Proof/Machine/Bounce.lean ====
section
/-! DEFINITION. Bounce records (R348 to R351): their header and seal, and the D2H ring. -/

namespace Sys2Proof.Machine

/-- Bytes of a record slot (R348). -/
def bounceSlot : Nat := 4160

/-- The 32 B header of a record (R349). -/
def bounceHeader (rtype status : Byte) (reqId : BitVec 16) (len : Nat) (psize : Bool) (seq : Word) (addr : BitVec 57) : Bytes :=
  leBytes 1 rtype.toNat ++ leBytes 1 status.toNat ++ leBytes 2 reqId.toNat ++ leBytes 2 len ++ leBytes 2 (bit psize) ++ leBytes 8 seq.toNat ++ leBytes 8 addr.toNat ++ leBytes 8 0

/-- The IV: the direction word, then `SEQ` (R349). -/
def bounceIv (d2h : Bool) (seq : Word) : Bytes := leBytes 4 (bit d2h) ++ leBytes 8 seq.toNat

/-- The D2H ring has room. -/
def Bounce.room (x : Bounce) : Bool := decide ((x.d2hTail - x.d2hHead).toNat < 2 ^ x.slotsLog)

/-- The window's key as the HBE holds it (R130). -/
def bounceKey (b : Block) (x : Bounce) : Option Key := (b.cached .hbe x.keySlot).map fun e => e.value

/-- Seals and writes one D2H record; its source fires (R349, R358). -/
def writeD2h (h : Hard) (w : BitVec 6) (x : Bounce) (key : Key) (r : D2h) (b : Block) : Block :=
  let hd := bounceHeader r.rtype r.status r.reqId r.payload.length r.psize x.seqOut r.addr
  let sealed' := gcmSeal key (bounceIv true x.seqOut) hd r.payload
  let at' : Word := x.d2hBase + BitVec.ofNat 64 (bounceSlot * (x.d2hTail.toNat % 2 ^ x.slotsLog))
  let b := emit (.dmaWrite at' (hd ++ sealed'.1 ++ tagBytes sealed'.2)) (countUses .hbe x.keySlot 1 b)
  fireStub h .hbe (280 + w.toNat) (modBounce w (fun y => { y with d2hTail := y.d2hTail + 1, seqOut := y.seqOut + 1 }) b)

/-- Writes the records that wait, while the ring has room and the HBE its key: an open window's, and those queued before a window failed or began to end (R352). -/
def drainD2h (h : Hard) (w : BitVec 6) : Nat → Block → Block
  | 0, b => b
  | n + 1, b =>
    match b.bounce w with
    | none => b
    | some x =>
      match x.outq with
      | [] => b
      | r :: t =>
        if b.rst.halted = true ∨ x.room = false ∨ b.slotLive x.keySlot.toNat = false then b
        else match bounceKey b x with
          | none => wantKey .hbe x.keySlot b
          | some k => drainD2h h w n (writeD2h h w x k r (modBounce w (fun y => { y with outq := t }) b))

/-- Queues a D2H record. -/
def putD2h (h : Hard) (w : BitVec 6) (r : D2h) (b : Block) : Block :=
  let b := modBounce w (fun y => { y with outq := y.outq ++ [r] }) b
  drainD2h h w (match b.bounce w with | some x => x.outq.length | none => 0) b

/-- Domain requests of a window carry this engine (R350). -/
def bounceEngine (w : BitVec 6) : BitVec 16 := BitVec.ofNat 16 (0x3FC0 + w.toNat)

end Sys2Proof.Machine
end

