-- ==== Sys2Proof/Machine/Ahu.lean ====
section
/-! DEFINITION. The keeper's side of a pair (R287, R290 to R292, R295, R296), fence objects (R338, R339) and fences (R297). -/

namespace Sys2Proof.Machine

/-! ### A pair's messages at the keeper (R287, R290 to R292) -/

/-- `FLOOR` rises; window entries it passes are dropped (R287, R292). -/
def keepFloor (p : Part) (peer : BitVec 16) (f : Nat) (b : Block) : Block :=
  modKeep p peer (fun k => { k with floor := max k.floor f, window := k.window.filter fun w => decide (max k.floor f ≤ w.dseq) }) b

/-- Width of a message's word or lines: its bytes from `OFFSET`, and their alignment. -/
def Held.span (m : Held) : Nat × Nat :=
  if m.mtype = mAtomic then (atomicWidth (m.aop.setWidth 4), atomicWidth (m.aop.setWidth 4)) else (64 * m.x.count.toNat, 64)

/-- A message the region can carry out: aligned, inside the region, a defined `AOP` (an offset outside is answered `ST_ABORTED`; DESIGN CHOICE, log entry 23). -/
def Held.fits (m : Held) (r : Region) : Bool :=
  decide (m.x.offset.toNat % m.span.2 = 0 ∧ m.x.offset.toNat + m.span.1 ≤ 4096 * r.pages) && (decide (m.mtype ≠ mAtomic) || decide (1 ≤ m.aop.toNat ∧ m.aop.toNat ≤ 7))

/-- The status a message is answered with when nothing is applied (R268, R290). -/
def keepRefusal (b : Block) (p : Part) (m : Held) : Option Byte :=
  match b.regionById p m.x.regionId with
  | none => some stRegionRevoked
  | some (_, r) =>
    if r.role ≠ 0 ∨ r.kind = 0 ∨ r.handing = true ∨ (r.state ≠ 2 ∧ r.state ≠ 3 ∧ r.state ≠ 4 ∧ r.state ≠ 9) then some stRegionRevoked
    else if r.state = 4 then some stMemUncorrectable
    else if m.fits r then none
    else some stAborted

/-- Puts a message's line operations under one bundle. -/
def keepStart (p : Part) (peer : BitVec 16) (m : Held) (rid : Nat) (b : Block) : Block :=
  let line := m.x.offset.toNat / 64
  let ops : List (Nat × MemOp) :=
    if m.mtype = mAtomic then [(line, .atomic (m.aop.setWidth 4) m.opA m.opB)]
    else (List.range m.x.count.toNat).map fun i => (line + i, if m.mtype = mWrite then .write (m.lines.getD i 0) else .read)
  let n := newBundle p (.pair peer m.mtype m.x) ops.length b
  ops.foldl (fun b o => newReq p rid o.1 o.2 (ownAsker n.1 o.1) (m.x.offset.toNat % 64) false b) n.2

/-- The body of a response: lines read, or an atomic's old value, zero when the status is not `ST_OK` (R284). -/
def rspBody (mtype : Byte) (x : Xact) (st : Byte) (old : Word) (lines : Tab Line) : Bytes :=
  if mtype = mRead then (List.range x.count.toNat).flatMap fun i => lineBytes (if st = stOk then Tab.getD lines (x.offset.toNat / 64 + i) 0 else 0)
  else if mtype = mAtomic then leBytes 8 (if st = stOk then old.toNat else 0)
  else []

/-- A message has been applied or answered: `ACCEPTED` takes it, an atomic leaves its window entry, the answer goes out, `VISIBLE` may move (R287, R290, R292, R296). -/
def keepDone (h : Hard) (p : Part) (peer : BitVec 16) (mtype : Byte) (x : Xact) (st : Byte) (old : Word) (lines : Tab Line) (unseen : Option Nat) (b : Block) : Block :=
  let d := x.dseq.toNat
  let entry : WinEnt := { dseq := d, status := st, old := if st = stOk then old else 0, tick := b.now }
  let b := modKeep p peer (fun k =>
    let us := match unseen with | some rid => k.unseen ++ [(d, rid)] | none => k.unseen
    let win := if mtype = mAtomic ∧ k.floor ≤ d then k.window ++ [entry] else k.window
    { k with accepted := d, busy := false, unseen := us, window := win }) b
  let b := if st = stRegionRevoked then modAhu p (fun a => { a with refused := a.refused + 1 }) b else b
  let b := respond h p peer (0x80 ||| mtype) x st (rspBody mtype x st old lines) b
  let b := match unseen with | some rid => if d ≤ (b.pairKeep p peer).target then wantPub rid b else b | none => b
  visibleMoved h p peer b

/-- The next message in order: an abandon copy does nothing, a refused one applies nothing, any other is applied (R287, R288, R290). -/
def keepApply (h : Hard) (p : Part) (peer : BitVec 16) (m : Held) (b : Block) : Block :=
  if m.x.abandon then keepDone h p peer m.mtype m.x stAborted 0 [] none b
  else match keepRefusal b p m with
    | some st => keepDone h p peer m.mtype m.x st 0 [] none b
    | none => match b.regionById p m.x.regionId with
      | some (rid, _) => keepStart p peer m rid (modKeep p peer (fun k => { k with busy := true }) b)
      | none => b

/-- What waits in the reorder buffer and is next goes on. -/
def keepNext (h : Hard) (p : Part) (peer : BitVec 16) : Nat → Block → Block
  | 0, b => b
  | n + 1, b =>
    let k := b.pairKeep p peer
    if k.busy then b
    else match k.reorder.find? fun m => decide (m.dseq = k.accepted + 1) with
      | none => b
      | some m => keepNext h p peer n (keepApply h p peer m (modKeep p peer (fun k => { k with reorder := k.reorder.filter fun y => decide (y.dseq ≠ m.dseq) }) b))

def reorderCap : Nat := 64

/-- The age at which a window's entry is dropped (R292). -/
def windowAge : Nat := 500000

/-- A duplicate is answered again and never applied again (R287, R292). -/
def keepDuplicate (h : Hard) (p : Part) (peer : BitVec 16) (m : Held) (b : Block) : Block :=
  let k := b.pairKeep p peer
  if m.dseq < k.floor then b
  else
    let b := modAhu p (fun a => { a with duplicate := a.duplicate + 1 }) b
    if m.mtype = mWrite then respond h p peer 0x82 m.x stOk [] b
    else if m.mtype = mAtomic then
      match k.window.find? fun w => decide (w.dseq = m.dseq) && decide (b.now.toNat < w.tick.toNat + windowAge) with
      | some w => respond h p peer 0x83 m.x w.status (leBytes 8 w.old.toNat) (modAhu p (fun a => { a with cached := a.cached + 1 }) b)
      | none => respond h p peer 0x83 m.x stAtomicUnknown (leBytes 8 0) (countUnknown p stAtomicUnknown b)
    else match keepRefusal b p m with
      | some st => respond h p peer 0x81 m.x st (rspBody mRead m.x st 0 []) b
      | none => match b.regionById p m.x.regionId with
        | some (rid, _) => keepStart p peer m rid b
        | none => b

/-- A message's body matches its type (R283, R284). -/
def Held.wellFormed (m : Held) : Bool :=
  if m.mtype = mAtomic then true
  else decide (1 ≤ m.x.count.toNat) && (decide (m.mtype ≠ mWrite) || decide (m.lines.length = m.x.count.toNat))

/-- A `READ`, `WRITE` or `ATOMIC` arrives at the keeper (R287). -/
def keepReceive (h : Hard) (p : Part) (peer : BitVec 16) (m : Held) (b : Block) : Block :=
  if b.session p peer = false ∨ m.wellFormed = false ∨ (b.island .ahu).inReset = true then b
  else
    let b := keepFloor p peer m.x.aux.toNat b
    let k := b.pairKeep p peer
    if m.dseq ≤ k.accepted then keepDuplicate h p peer m b
    else if m.dseq = k.accepted + 1 then (if k.busy then b else keepNext h p peer (reorderCap + 1) (keepApply h p peer m b))
    else if k.reorder.any fun y => decide (y.dseq = m.dseq) then b
    else if k.reorder.length < reorderCap then modKeep p peer (fun k => { k with reorder := k.reorder ++ [m] }) b
    else modAhu p (fun a => { a with reorderDrop := a.reorderDrop + 1 }) b

/-- The line operations of a pair's message have ended. -/
def pairDone (h : Hard) (p : Part) (peer : BitVec 16) (mtype : Byte) (x : Xact) (y : Bundle) (b : Block) : Block :=
  let old : Word := (Tab.getD y.lines (x.offset.toNat / 64) 0).setWidth 64
  let k := b.pairKeep p peer
  if k.busy ∧ x.dseq.toNat = k.accepted + 1 then
    let unseen : Option Nat := match b.regionById p x.regionId with
      | some (rid, r) => if r.kind = 2 ∧ mtype ≠ mRead ∧ y.lines ≠ [] then some rid else none
      | none => none
    keepNext h p peer (reorderCap + 1) (keepDone h p peer mtype x y.status old y.lines unseen b)
  else if mtype = mRead then respond h p peer 0x81 x y.status (rspBody mRead x y.status 0 y.lines) b
  else b

/-- `FENCE_REQ` (R295, R296). -/
def fenceAsked (h : Hard) (p : Part) (peer : BitVec 16) (x : Xact) (b : Block) : Block :=
  if b.session p peer = false then b
  else if x.acquire then
    match b.regionById p x.regionId with
    | none => b
    | some (rid, r) =>
      if r.role ≠ 0 ∨ r.kind ≠ 2 then b
      else if r.pub.isSome then modAhu p (fun a => { a with acqs := (a.acqs.filter fun q => !(decide (q.peer = peer) && decide (q.tag = x.tag))) ++ [{ peer := peer, region := rid, tag := x.tag }] }) b
      else fenceAck h p peer x.tag x.regionId r.published b
  else
    let t := x.aux.toNat
    let b := modKeep p peer (fun k => { k with target := max k.target t }) b
    let k := b.pairKeep p peer
    let b := ((k.unseen.filter fun u => decide (u.1 ≤ t)).map fun u => u.2).dedup.foldl (fun b rid => wantPub rid b) b
    let b := fenceAck h p peer x.tag x.regionId (fenceSeq b p x.regionId) b
    if k.target ≤ k.visible then modKeep p peer (fun k => { k with fence := none }) b else modKeep p peer (fun k => { k with fence := some (x.tag, x.regionId) }) b

/-! ### Fence objects (R326, R327, R338, R339) -/

def Block.fenceObj (b : Block) (s : Nat) : Option FenceObj := Tab.get? b.host.fences s
def setFence (s : Nat) (o : FenceObj) (b : Block) : Block := { b with host := { b.host with fences := Tab.set b.host.fences s o } }
def Block.fenceHandle (b : Block) (s : Nat) : BitVec 32 := BitVec.ofNat 32 (s + 65536 * (Tab.getD b.host.fenceGen s 0).toNat)
/-- A handle's slot, while its generation is the slot's and the slot is taken. -/
def Block.fenceSlot (b : Block) (f : BitVec 32) : Option (Nat × FenceObj) :=
  let s := bitsOf f.toNat 0 14
  if bitsOf f.toNat 14 2 = 0 ∧ BitVec.ofNat 16 (bitsOf f.toNat 16 16) = Tab.getD b.host.fenceGen s 0 then (b.fenceObj s).map fun o => (s, o) else none
def freeFence (s : Nat) (b : Block) : Block := { b with host := { b.host with fences := Tab.del b.host.fences s, fenceGen := Tab.upd b.host.fenceGen s 0 (fun g => g + 1) } }
/-- A slot is freed once its object is and nothing names it. -/
def fenceSettle (s : Nat) (b : Block) : Block :=
  match b.fenceObj s with
  | some o => if o.freed && !o.claimed && decide (o.waits = []) && o.deferral.isNone then freeFence s b else b
  | none => b
/-- The one signal of an object: waits on it complete with its status. -/
def signalObj (h : Hard) (s : Nat) (st : Byte) (b : Block) : Block :=
  match b.fenceObj s with
  | none => b
  | some o =>
    if o.status.isSome then fenceSettle s b
    else fenceSettle s (o.waits.foldl (fun b w => complete h w st 0 0 0 b) (setFence s { o with status := some st, waits := [] } b))
/-- A deferred free ends: its fence is signalled (R343). -/
def signalDeferral (h : Hard) (f : Option (BitVec 32)) (b : Block) : Block :=
  match f with
  | none => b
  | some f => match b.fenceSlot f with
    | some (s, _) => signalObj h s stOk b
    | none => b

/-! ### Fences (R297) -/

/-- The slot and the object of a fence that ends. -/
def fenceRelease (h : Hard) (f : FenceRun) (st : Byte) (b : Block) : Block :=
  let b := match f.slot with | some s => freeFence s b | none => b
  if f.object = 0 then b
  else match b.fenceSlot f.object with
    | some (s, o) => signalObj h s st (setFence s { o with claimed := false } b)
    | none => b

/-- A fence ends with a status. -/
def fenceEnd (h : Hard) (p : Part) (f : FenceRun) (st : Byte) (b : Block) : Block :=
  let b := completeOpt h f.ctx st 0 0 0 (fenceRelease h f st b)
  let b := match f.flush with
    | some (w, id) => putD2h h w { rtype := if st = stOk then 0x84 else 0x85, status := st, reqId := id, psize := false, addr := 0, payload := [] } b
    | none => b
  match f.die with
  | some d => emit (.fenceRsp d p st) b
  | none => b

/-- A tag for a `FENCE_REQ`. -/
def fenceTag (peer : BitVec 16) (id : BitVec 32) (acquire : Bool) (now : Word) : TagSt :=
  { kind := 1, region := 0, regionId := id, peer := peer, mtype := mFence, dseq := none, offset := 0, node := 0, obj := .dataLine 0, line := 0, aop := if acquire then 1 else 0, opA := 0, opB := 0,
    by' := noAsker, first := none, last := now, abandon := false, silent := true, quarEnd := 0 }

/-- Asks a destination for a fence target: one request a pair, for the largest target (R296, R297). -/
def askFence (h : Hard) (p : Part) (peer : BitVec 16) (target : Nat) (b : Block) : Block :=
  let q := b.pairReq p peer
  match q.fenceTag with
  | some t => if q.target < target then sendAsk h p t (modPair p peer (fun q => { q with target := target, asked := b.now }) b) else b
  | none => match takeTag h.cfg p (fenceTag peer 0 false b.now) b with
    | none => b
    | some (t, b) => sendAsk h p t (modPair p peer (fun q => { q with target := max q.target target, fenceTag := some t, asked := b.now }) b)

/-- The publication of a kept region that a fence waits for, once the partition's own writes have reached their place (R262, R296): none when nothing is unpublished. -/
def pubNeed (b : Block) (rid : Nat) (r : Region) : Option Word :=
  let dirty := decide (dirtyOf b rid r.part ≠ [])
  let next := r.token.tokenSeq + 1
  match r.pub with
  | none => if dirty then some next else none
  | some x =>
    let run := if x.phase < 3 then next else r.token.tokenSeq
    some (if dirty then run + 1 else run)

/-- Brings a fence up to date with what has become visible. -/
def fenceTrim (b : Block) (p : Part) (f : FenceRun) : FenceRun :=
  let self := f.self.filter fun id => (b.memReq id).isSome
  { f with
    targets := f.targets.filter fun t => decide ((b.pairReq p t.1).visible < t.2), self := self,
    pubs := f.pubs.filterMap fun u => match b.region u.1 with
      | none => none
      | some r =>
        if r.role ≠ 0 ∨ (u.2 ≠ 0 ∧ u.2.toNat ≤ r.published.toNat) then none
        else if u.2 ≠ 0 ∨ self ≠ [] then some u
        else (pubNeed b u.1 r).map fun n => (u.1, n),
    acquire := f.acquire.filter fun a => match b.regionById p a.regionId with
      | none => false
      | some (_, r) => decide (r.role ≠ 0) && (match a.want with | some w => decide (r.token.tokenSeq.toNat < w.toNat) | none => true),
    status := if f.status ≠ stOk then f.status
      else if f.acquire.any fun a => match b.regionById p a.regionId with | some (_, r) => decide (r.state = 8) | none => false then stRegionRevoked
      else if f.acquire.any fun a => match b.regionById p a.regionId with | some (_, r) => decide (r.role ≠ 0) && !b.session p r.token.keeper | none => false then stPeerDeparted
      else stOk }

def FenceRun.isDone (f : FenceRun) : Bool := decide (f.targets = [] ∧ f.self = [] ∧ f.pubs = [] ∧ f.acquire = [])

/-- Sends the `FENCE_REQ` of an acquire that has none out. -/
def askAcquire (h : Hard) (p : Part) (n : Nat) (i : Nat) (a : Acquire) (b : Block) : Block :=
  match a.tag, a.want, b.regionById p a.regionId with
  | none, none, some (_, r) =>
    if r.role = 0 ∨ b.session p r.token.keeper = false then b
    else match takeTag h.cfg p (fenceTag r.token.keeper a.regionId true b.now) b with
      | none => b
      | some (t, b) => sendAsk h p t (modAhu p (fun x => { x with fences := x.fences.modify n fun f => { f with acquire := f.acquire.modify i fun a => { a with tag := some t } } }) b)
  | _, _, _ => b

/-- What the partition's fences still have to ask for. -/
def fenceAsks (h : Hard) (p : Part) (b : Block) : Block :=
  let fs := (b.ahuPart p).fences
  (List.range fs.length).foldl (fun b n => match fs[n]? with
    | none => b
    | some f =>
      let b := f.targets.foldl (fun b t => askFence h p t.1 t.2 b) b
      let b := (f.pubs.filter fun u => decide (u.2 ≠ 0)).foldl (fun b u => match b.region u.1 with
        | some r => if r.pub.isNone ∨ r.token.tokenSeq.toNat + 1 < u.2.toNat then wantPub u.1 b else b
        | none => b) b
      (List.range f.acquire.length).foldl (fun b i => match f.acquire[i]? with | some a => askAcquire h p n i a b | none => b) b) b

/-- The partition's fences go as far as they can: in order, and one that has failed at once (R297). -/
def fenceStep (h : Hard) (p : Part) (b : Block) : Block :=
  let fs := (b.ahuPart p).fences.map (fenceTrim b p)
  let failed := fs.filter fun f => decide (f.status ≠ stOk)
  let rest := fs.filter fun f => decide (f.status = stOk)
  let done := rest.takeWhile fun f => f.isDone
  let b := modAhu p (fun a => { a with fences := rest.drop done.length }) b
  let b := failed.foldl (fun b f => fenceEnd h p f f.status b) b
  fenceAsks h p (done.foldl (fun b f => fenceEnd h p f stOk b) b)

/-- The local writes of a partition still on their way (R297, "self"). -/
def ownWrites (b : Block) (p : Part) : List Nat :=
  (b.memReqs.filter fun m => decide (m.part = p) && m.isWrite && (match b.region m.region with | some r => !m.remote r | none => true) && (match m.by'.src with | .port _ => true | .bundle id _ => (match b.bundle id with
    | some y => (match y.what with | .bounce .. => true | _ => false)
    | none => false))).map fun m => m.id

/-- A fence is taken (R297). -/
def takeFence (p : Part) (ctx : Option CmdCtx) (die : Option (Fin 4)) (object : BitVec 32) (slot : Option Nat) (pasid : BitVec 20) (acq : List (BitVec 32)) (flush : Option (BitVec 6 × BitVec 16)) (b : Block) : Block :=
  let targets := ((b.ahuPart p).req.filter fun q => decide (q.2.visible + 1 < q.2.next)).map fun q => (BitVec.ofNat 16 q.1, q.2.next - 1)
  let pubs := (b.regions.filter fun e => decide (e.2.part = p ∧ e.2.kind = 2 ∧ e.2.role = 0)).map fun e => (e.1, (0 : Word))
  let f : FenceRun := { ctx := ctx, die := die, object := object, slot := slot, pasid := pasid, targets := targets, self := ownWrites b p, pubs := pubs,
                        acquire := acq.map fun id => { regionId := id, tag := none, want := none, answered := 0 }, flush := flush, status := stOk }
  push (.fences p) (modAhu p (fun a => { a with fences := a.fences ++ [f] }) b)

/-- Fences cut short: their objects are signalled `ST_ABORTED` (R341). The command's own record is its aborter's. -/
def cutFences (h : Hard) (p : Part) (sel : FenceRun → Bool) (b : Block) : Block :=
  let fs := (b.ahuPart p).fences
  let b := modAhu p (fun a => { a with fences := a.fences.filter fun f => !sel f }) b
  push (.fences p) ((fs.filter sel).foldl (fun b f => fenceRelease h f stAborted b) b)

/-- `FENCE_ACK` at the requester (R295, R297). -/
def fenceAnswered (p : Part) (peer : BitVec 16) (t : Nat) (x : TagSt) (visible : Nat) (seq : Word) (b : Block) : Block :=
  let b := modPair p peer (fun q => { q with visible := max q.visible visible }) b
  let b :=
    if x.aop = 1 then
      freeTag p t (modAhu p (fun a => { a with fences := a.fences.map fun f => { f with acquire := f.acquire.map fun q => if q.tag = some t then { q with tag := none, want := some seq, answered := b.now } else q } }) b)
    else if (b.pairReq p peer).target ≤ (b.pairReq p peer).visible then freeTag p t (modPair p peer (fun q => { q with fenceTag := none }) b)
    else b
  push (.part p) (push (.fences p) b)

/-! ### Answers at the requester (R282, R284, R290, R293, R298) -/

def staleRsp (p : Part) (b : Block) : Block := modAhu p (fun a => { a with staleRsp := a.staleRsp + 1 }) b

/-- The tag a response names, when it matches what the tag holds. -/
def matchTag (b : Block) (p : Part) (peer : BitVec 16) (mtype : Byte) (x : Xact) : Option (Nat × TagSt) :=
  let t := bitsOf x.tag.toNat 0 11
  match b.tagSt p t with
  | none => none
  | some y =>
    if bitsOf x.tag.toNat 11 3 = p.val ∧ y.kind = 1 ∧ y.mtype = mtype ∧ y.peer = peer ∧ y.regionId = x.regionId ∧ (mtype = mFence ∨ (y.dseq = some x.dseq.toNat ∧ y.offset = x.offset)) then some (t, y) else none

/-- A response of the keeper ends its message: a hand-off's refusal sends it again (R290). DESIGN CHOICE (log entry 92): a `STATUS` that is a reserved code of R9 goes on to the request as it came. -/
def rspArrives (h : Hard) (p : Part) (peer : BitVec 16) (mtype : Byte) (x : Xact) (v : Line) (b : Block) : Block :=
  match matchTag b p peer mtype x with
  | none => staleRsp p b
  | some (t, y) =>
    let b := modPair p peer (fun q => { q with accepted := max q.accepted x.aux.toNat }) (dropQueued p t b)
    let held : Option Region := match b.region y.region with | some r => if r.regionId = y.regionId then some r else none | none => none
    match (if x.status = stRegionRevoked ∧ y.silent = false then held else none) with
    | some r =>
      if r.kind = 2 ∧ r.state ≠ 5 ∧ r.state ≠ 8 then
        if r.token.keeper ≠ peer then askAgain h p t r.token.keeper b
        else modTag p t (fun z => { z with kind := 3 }) b
      else freeTag p t (answerTag p y x.status v b)
    | none => if y.silent then quarantine p t (countUnknown p x.status b) else freeTag p t (answerTag p y x.status v b)

end Sys2Proof.Machine
end

