-- ==== Sys2Proof/Machine/Ptu.lean ====
section
/-! DEFINITION. Translation (R306 to R325): windows and page entries, the translation cache and table reads, stalls and faults with their ring, epochs, and the changes of translations with their copies. -/

namespace Sys2Proof.Machine

/-! ### Page keys and entries (R307, R308) -/

def twoMegs : Nat := 2097152
def pageKey (w page : Nat) : Nat := w * 2 ^ 40 + page
def partKey (w page k : Nat) : Nat := w * 2 ^ 40 + 2 ^ 39 + 32 * page + k
def keyWindow (key : Nat) : Nat := key / 2 ^ 40
def keyIsPart (key : Nat) : Bool := decide (bitsOf key 39 1 = 1)
def keyPage (key : Nat) : Nat := if keyIsPart key then key % 2 ^ 39 / 32 else key % 2 ^ 39
def keyPart (key : Nat) : Nat := key % 32
/-- The 2 MiB page's own key. -/
def keyTop (key : Nat) : Nat := pageKey (keyWindow key) (keyPage key)
/-- First byte of what a key governs, in its window; its bytes; its pieces of 4 KiB. -/
def keyOffset (key : Nat) : Nat := keyPage key * twoMegs + if keyIsPart key then 65536 * keyPart key else 0
def keyBytesOf (key : Nat) : Nat := if keyIsPart key then 65536 else twoMegs
def keyPieces (key : Nat) : Nat := keyBytesOf key / 4096

def PtuPart.pte (x : PtuPart) (key : Nat) : Pte := Tab.getD x.ptes key Pte.home
/-- Sets an entry; one that is home and nothing else is unlisted. -/
def PtuPart.setPte (x : PtuPart) (key : Nat) (e : Pte) : PtuPart := { x with ptes := if e = Pte.home then Tab.del x.ptes key else Tab.set x.ptes key e }
/-- Keys of the 32 parts of a page. -/
def partKeys (key : Nat) : List Nat := (List.range 32).map fun k => partKey (keyWindow key) (keyPage key) k

/-- An entry as the table holds it (R307). -/
def pteWord (e : Pte) : Nat := e.res.toNat + 4 * bit e.ro + 8 * bit e.busy + 16 * bit e.wd + 32 * bit e.evict + 2 ^ 16 * e.rgn.toNat + 2 ^ 32 * e.frame.toNat

def xlatIsland : Nat := 25
/-- Events of the class are limited per code and partition (R325). -/
def xlatNote (h : Hard) (code : Nat) (p : Part) (args : List (Nat × Nat)) (b : Block) : Block := noteLimited h code xlatIsland (some p) 0 (fun n => args ++ [aCount n]) b

/-- The window of a partition that contains an address (R306). -/
def windowAt (j : Jig) (a : Nat) : Option KeyWindow := j.windows.find? fun w => decide (w.base ≤ a) && decide (a < w.base + w.size)

/-- The open region of a window; one whose closing has taken its epoch is open no more (R320). -/
def Block.windowRegion (b : Block) (p : Part) (w : Nat) : Option (Nat × Region) :=
  match b.regions.find? fun e => decide (e.2.part = p) && decide (e.2.window = some (Fin.ofNat 16 w)) with
  | some e => if (b.ptuPart p).changes.any fun c => decide (c.kind = 3 ∧ c.window = e.1 ∧ 1 ≤ c.stage) then none else some e
  | none => none

/-! ### The table region (R309) -/

/-- Where a window's page array begins in the table region: the windows in order, whole lines each; the split tables from 4 MiB (the placement is the model's, DESIGN CHOICE, log entry 24). -/
def arrayBase (j : Jig) (w : Nat) : Nat := ((j.windows.filter fun x => decide (x.kind = 0) && decide (x.window < w)).map fun x => alignTo (8 * (x.size / twoMegs)) 64).sum

/-- The table region's line of a key's entry, and the keys of the line's eight entries. -/
def tableLine (j : Jig) (x : PtuPart) (key : Nat) : Nat × List Nat :=
  if keyIsPart key then
    ((4194304 + 256 * (x.pte (keyTop key)).frame.toNat + 8 * keyPart key) / 64, (List.range 8).map fun i => partKey (keyWindow key) (keyPage key) (keyPart key / 8 * 8 + i))
  else ((arrayBase j (keyWindow key) + 8 * keyPage key) / 64, (List.range 8).map fun i => pageKey (keyWindow key) (keyPage key / 8 * 8 + i))

/-- Writes changed entries through to the table region. -/
def tableStore (p : Part) (keys : List Nat) (b : Block) : Block :=
  match b.jigOf p, (b.ptuPart p).table with
  | some j, some rid =>
    let x := b.ptuPart p
    let lines := (keys.map fun k => tableLine j x k).dedup
    newReqs p rid .quiet (lines.map fun l => (l.1, .write (lineOf (l.2.flatMap fun k => leBytes 8 (pteWord (x.pte k)))))) b
  | _, _ => b

/-! ### The cache (R310) -/

def xlatCap (c : Cfg) : Nat := if c = .s ∨ c = .m then 512 else 2048
def PtuPart.touch (x : PtuPart) (c : Cfg) (key : Nat) : PtuPart := { x with cache := (key :: x.cache.filter fun k => decide (k ≠ key)).take (xlatCap c) }
def PtuPart.uncache (x : PtuPart) (keys : List Nat) : PtuPart := { x with cache := x.cache.filter fun k => !keys.contains k }

/-- The read of an entry that is not cached; those that want it meanwhile share it. -/
def startRead (p : Part) (key : Nat) (b : Block) : Block :=
  match b.jigOf p, (b.ptuPart p).table with
  | some j, some rid =>
    let x := b.ptuPart p
    if x.reading.contains key then b
    else newReqs p rid (.table key) [((tableLine j x key).1, .read)] (modPtu p (fun x => { x with reading := key :: x.reading }) b)
  | _, _ => b

/-! ### Translating a request (R306, R311) -/

/-- What translation finds: a fault (cause, window, page), a page being changed, an entry to read, or the line. -/
inductive Xl where
  | fault (cause window page : Nat)
  | busy
  | read (key : Nat)
  | go (rid line key : Nat)
  deriving DecidableEq, Repr

def domWrites : DomOp → Bool | .read => false | _ => true
def domAccess : DomOp → Nat | .read => 0 | .write _ => 1 | .atomic .. => 2

/-- Translates a request against its partition's windows and tables. -/
def classify (b : Block) (p : Part) (q : Stalled) : Xl :=
  let a := q.addr.toNat
  match b.jigOf p with
  | none => .fault 1 0x1F (2 ^ 50 + a / twoMegs)
  | some j => match windowAt j a with
    | none => .fault 1 0x1F (2 ^ 50 + a / twoMegs)
    | some w =>
      let off := a - w.base
      let top := pageKey w.window (off / twoMegs)
      match b.windowRegion p w.window with
      | none => .fault 2 w.window top
      | some (rid, _) =>
        if w.kind ≠ 0 then .go rid (off / 64) top
        else
          let x := b.ptuPart p
          let t := x.pte top
          let key := if t.res = 3 then partKey w.window (off / twoMegs) (off % twoMegs / 65536) else top
          let e := x.pte key
          if x.table.isSome && !x.cache.contains key then .read key
          else if e.busy || t.busy then .busy
          else if e.wd then .fault 5 w.window key
          else if e.res = 2 then .fault 3 w.window key
          else if e.ro && domWrites q.op then .fault 4 w.window key
          else if e.res = 1 then .go e.rgn.toNat (1024 * e.frame.toNat + off % keyBytesOf key / 64) key
          else .go rid (off / 64) key

/-- A request that may go on now. -/
def Xl.ready (x : PtuPart) : Xl → Bool
  | .busy => false
  | .read k => !x.reading.contains k
  | _ => true

def stallCap : Nat := 1024

def stall (p : Part) (q : Stalled) (b : Block) : Block := modPtu p (fun x => { x with stalls := x.stalls ++ [q] }) b

/-! ### The fault ring (R312 to R315) -/

def PtuPart.ringFull (x : PtuPart) : Bool := decide ((x.wr - x.rd).toNat = 512)

/-- The fault-ring source of a partition: its level, and the occurrences it fires on besides (R358). -/
def ringSource (h : Hard) (p : Part) (b : Block) : Block :=
  let x := b.ptuPart p
  let was := (b.src h.cfg (256 + p.val)).cond
  let c := decide (x.wr ≠ x.rd) || x.overflow || x.dmaErr
  let b := setLevel h (256 + p.val) c b
  if was && c then fire h (256 + p.val) b else b

/-- The level alone, after the driver's writes. -/
def ringLevel (h : Hard) (p : Part) (b : Block) : Block :=
  let x := b.ptuPart p
  setLevel h (256 + p.val) (decide (x.wr ≠ x.rd) || x.overflow || x.dmaErr) b

/-- The 32 B of an entry (R312). -/
def faultEntry (x : PtuPart) (p : Part) (f : XFault) : Bytes :=
  let _ := p
  let attached := (x.stalls.filter fun q => decide (q.fault = some f.id)).length - 1
  leBytes 8 f.addr.toNat ++ leBytes 4 (f.pasid.toNat + 2 ^ 20 * f.cause.toNat + 2 ^ 24 * f.access.toNat) ++ leBytes 2 f.engine.toNat ++ leBytes 2 f.id.toNat ++ leBytes 8 f.tick.toNat
    ++ leBytes 2 (satNat 16 attached) ++ leBytes 2 f.window ++ leBytes 4 (bit (x.wr.getLsbD 9))

/-- Writes the entries of held faults, oldest stall first, while the ring is in use and has room; the outcome of the DMA is given (R314, R315). -/
def ringWrite (h : Hard) (p : Part) (ok : Bool) : Nat → Block → Block
  | 0, b => b
  | n + 1, b =>
    let x := b.ptuPart p
    match x.faults.find? fun f => !f.written with
    | none => b
    | some f =>
      if !x.en || x.ringFull then b
      else if ok = false then
        let b := ringSource h p (modPtu p (fun x => { x with dmaErr := true, en := false }) b)
        xlatNote h 0x0707 p [aHalf x.wr.toNat, aHalf f.id.toNat] b
      else
        let at' : Word := (x.base.setWidth 64 <<< 12) + BitVec.ofNat 64 (32 * (x.wr.toNat % 512))
        let b := emit (.dmaWrite at' (faultEntry x p f)) b
        let b := modPtu p (fun x => { x with wr := x.wr + 1, faults := x.faults.map fun g => if g.id = f.id then { g with written := true } else g }) b
        ringWrite h p ok n (ringSource h p b)

/-- A request faults: it attaches to an outstanding fault of its page, cause and PASID, or makes a new one (R313, R314; log entry 25). -/
def faultOn (h : Hard) (p : Part) (ok : Bool) (q : Stalled) (cause window page : Nat) (b : Block) : Block :=
  let x := b.ptuPart p
  match x.faults.find? fun f => decide (f.page = page ∧ f.cause.toNat = cause ∧ f.pasid = q.pasid) with
  | some f => stall p { q with fault := some f.id } b
  | none =>
    let id := x.nextId + 1
    let f : XFault := { id := id, page := page, addr := q.addr, pasid := q.pasid, cause := BitVec.ofNat 4 cause, access := BitVec.ofNat 2 (domAccess q.op), engine := q.engine,
                        tick := q.since, window := window, written := false }
    let b := stall p { q with fault := some id } (modPtu p (fun x => { x with nextId := id, faults := x.faults ++ [f] }) b)
    if x.en && x.ringFull then
      if x.overflow then b
      else xlatNote h 0x0701 p [aHalf x.wr.toNat, aHalf x.rd.toNat] (ringSource h p (modPtu p (fun x => { x with overflow := true }) b))
    else ringWrite h p ok (x.faults.length + 1) b

/-- The operation of a request at its line. -/
def domOp : DomOp → MemOp
  | .read => .read
  | .write d => .write d
  | .atomic aop a c => .atomic aop a c

/-- Translates a request and sends it on, lets it wait, or faults it; `fresh` counts a hit (R324). -/
def xlat (h : Hard) (p : Part) (ok fresh : Bool) (q : Stalled) (b : Block) : Block :=
  match classify b p q with
  | .fault c w page => faultOn h p ok q c w page b
  | .busy => stall p { q with fault := none } b
  | .read key => stall p { q with fault := none } (startRead p key (modPtu p (fun x => { x with misses := x.misses + 1 }) b))
  | .go rid line key =>
    let x := b.ptuPart p
    let hit := x.cache.contains key
    let b := modPtu p (fun x => { (x.touch h.cfg key).began with hits := if hit && fresh then x.hits + 1 else x.hits, misses := if hit then x.misses else x.misses + 1 }) b
    newReq p rid line (domOp q.op) { src := q.src, engine := q.engine, pasid := q.pasid, use := some x.epoch } (match q.op with | .atomic .. => q.addr.toNat % 64 | _ => 0)
      (q.scheduled && decide (q.op = .read) && (match b.region rid with | some r => decide (r.kind ≠ 2) | none => false)) b

/-- A request arrives: held at its port while the stall table is full (R313). -/
def xlatNew (h : Hard) (p : Part) (ok : Bool) (q : Stalled) (b : Block) : Block :=
  if stallCap ≤ (b.ptuPart p).stalls.length ∨ (b.island .ptu).asleep = true then stall p q b else xlat h p ok true q b

/-- Takes stalled requests out and translates them afresh, in order. -/
def replay (h : Hard) (p : Part) (fresh : Bool) (sel : Nat → Stalled → Bool) (b : Block) : Block :=
  let st := (b.ptuPart p).stalls
  let idx := (List.range st.length).zip st
  let go := (idx.filter fun e => sel e.1 e.2).map fun e => e.2
  if go = [] then b
  else
    let b := modPtu p (fun x => { x with stalls := (idx.filter fun e => !sel e.1 e.2).map fun e => e.2 }) b
    push (.part p) (go.foldl (fun b q => xlat h p true fresh q b) b)

/-- What waits in the stall table and need not wait any more goes on. -/
def retry (h : Hard) (p : Part) (b : Block) : Block :=
  if (b.island .ptu).asleep || (b.island .ptu).inReset then b
  else replay h p false (fun n q => decide (n < stallCap) && q.fault.isNone && (classify b p q).ready (b.ptuPart p)) b

/-- Requests on a key's page, stalled for whatever cause. -/
def onPage (b : Block) (p : Part) (key : Nat) (q : Stalled) : Bool :=
  match b.jigOf p with
  | none => false
  | some j => match windowAt j q.addr.toNat with
    | none => false
    | some w => decide (w.window = keyWindow key) && decide (keyOffset key ≤ q.addr.toNat - w.base) && decide (q.addr.toNat - w.base < keyOffset key + keyBytesOf key)

/-- The entry read for a key has come back (R309). -/
def tableRead (h : Hard) (p : Part) (key : Nat) (st : Byte) (b : Block) : Block :=
  let b := modPtu p (fun x => { x with reading := x.reading.filter fun k => decide (k ≠ key) }) b
  if st = stOk then push (.part p) (modPtu p (fun x => x.touch h.cfg key) b)
  else
    let hit (q : Stalled) : Bool := q.fault.isNone && decide (classify b p q = .read key)
    let qs := (b.ptuPart p).stalls.filter hit
    let b := if st = stMemUncorrectable then xlatNote h 0x0704 p [aByte (keyWindow key), (5, keyPage key)] b else b
    let b := modPtu p (fun x => { x with stalls := x.stalls.filter fun q => !hit q }) b
    push (.part p) (qs.foldl (fun b q => answer { src := q.src, engine := q.engine, pasid := q.pasid, use := none } p st 0 b) b)

/-- Stalled requests end with `ST_ABORTED` (R314, R316, R323). -/
def endStalls (p : Part) (sel : Stalled → Bool) (b : Block) : Block :=
  let qs := (b.ptuPart p).stalls.filter sel
  if qs = [] then b
  else
    let b := modPtu p (fun x => { x with stalls := x.stalls.filter fun q => !sel q }) b
    push (.part p) (qs.foldl (fun b q => answer { src := q.src, engine := q.engine, pasid := q.pasid, use := none } p stAborted 0 b) b)

/-! ### Epochs (R319) -/

/-- Four epochs live at the most. -/
def PtuPart.epochFree (x : PtuPart) : Bool := decide ((x.uses.filter fun u => decide (0 < u.2)).length < 4)
/-- A new epoch; the one it ends lives on while it has uses. -/
def PtuPart.newEpoch (x : PtuPart) : PtuPart := { x with epoch := x.epoch + 1, uses := (x.epoch + 1, 0) :: x.uses.filter fun u => decide (0 < u.2) }

/-! ### Frames of the reserves (R317, R321) -/

def frameKey (rid f : Nat) : Nat := rid * 2 ^ 31 + f
/-- Frames of a reserve's data area. -/
def frameCount (r : Region) : Nat := r.pages / 16
/-- The lowest place for a page's 32 frames, or a part's one. -/
def findFrames (x : PtuPart) (rid : Nat) (r : Region) (small : Bool) : Option Nat :=
  if small then (List.range (frameCount r)).find? fun f => !Tab.has x.frames (frameKey rid f)
  else ((List.range (frameCount r / 32)).find? fun g => (List.range 32).all fun i => !Tab.has x.frames (frameKey rid (32 * g + i))).map fun g => 32 * g
def keyFrames (key : Nat) : Nat := if keyIsPart key then 1 else 32
def PtuPart.takeFrames (x : PtuPart) (rid f n key : Nat) : PtuPart := { x with frames := (List.range n).foldl (fun t i => Tab.set t (frameKey rid (f + i)) key) x.frames }
def PtuPart.dropFrames (x : PtuPart) (rid f n : Nat) : PtuPart := { x with frames := (List.range n).foldl (fun t i => Tab.del t (frameKey rid (f + i))) x.frames }

/-- The pool reserves of a partition (R317): kept kind 2 regions no window names. -/
def reservesOf (b : Block) (p : Part) : List (Nat × Region) :=
  b.regions.filter fun e => decide (e.2.part = p ∧ e.2.kind = 2 ∧ e.2.role = 0 ∧ e.2.window = none) && decide ((b.ptuPart p).table ≠ some e.1)
    && (match b.jigOf p with | some j => j.regions.any fun r => decide (r.regionId = e.2.regionId ∧ r.keeper = j.memberIndex) | none => false)

/-- A reserve takes a page while it is active (R323). -/
def reserveOpen (r : Region) : Bool := decide (r.state = 2 ∨ r.state = 3)

/-- Switch stages to a tray: the fewest seen in the last second, 5 for one not heard from (R321). -/
def stagesTo (b : Block) (p : Part) (node : Option (BitVec 16)) : Nat :=
  match node with
  | none => 5
  | some n => (((b.ahuPart p).hops.filter fun x => decide (x.1 = n) && decide (b.now.toNat < x.2.2.toNat + 1000000000)).map fun x => x.2.1).foldl min 5

/-- What R321 weighs for a reserve, as one number to be least: stages, pages of the window on its tray, bytes placed there, handle. -/
def reserveWeight (b : Block) (p : Part) (w : Nat) (rid : Nat) (r : Region) : Nat :=
  let x := b.ptuPart p
  let same (o : Nat) : Bool := match b.region o with | some y => decide (trayNode b y = trayNode b r) | none => false
  let pages := (x.ptes.filter fun e => decide (e.2.res = 1) && decide (keyWindow e.1 = w) && same e.2.rgn.toNat).length
  let frames := (x.frames.filter fun f => same (f.1 / 2 ^ 31)).length
  ((min (stagesTo b p (trayNode b r)) 15 * 2 ^ 40 + min pages (2 ^ 40 - 1)) * 2 ^ 40 + min frames (2 ^ 40 - 1)) * 1024 + rid

/-- The reserve and frames of a page moved to the pool; none, or a status when no reserve can take it. -/
def chooseReserve (b : Block) (p : Part) (key : Nat) (pin : BitVec 10) : (Nat × Nat) ⊕ Byte :=
  let rs := (reservesOf b p).filter fun e => decide (pin = 0x3FF) || decide (e.1 = pin.toNat)
  let act := rs.filter fun e => reserveOpen e.2
  let fits := act.filterMap fun e => (findFrames (b.ptuPart p) e.1 e.2 (keyIsPart key)).map fun f => (e.1, e.2, f)
  match fits.foldl (fun (best : Option (Nat × Region × Nat)) e => match best with
      | none => some e
      | some m => if reserveWeight b p (keyWindow key) e.1 e.2.1 < reserveWeight b p (keyWindow key) m.1 m.2.1 then some e else best) none with
  | some e => .inl (e.1, e.2.2)
  | none => .inr (if rs ≠ [] ∧ act = [] then stRegionRevoked else stNoSlot)

/-! ### Changes of translations (R318 to R320) -/

def Block.change (b : Block) (p : Part) (id : Nat) : Option XChange := (b.ptuPart p).changes.find? fun c => decide (c.id = id)
def setChange (p : Part) (c : XChange) (b : Block) : Block := modPtu p (fun x => { x with changes := x.changes.map fun y => if y.id = c.id then c else y }) b
def newChange (p : Part) (c : XChange) (b : Block) : Block :=
  modPtu p (fun x => { x with nextChg := x.nextChg + 1, changes := x.changes ++ [{ c with id := x.nextChg }] }) b
/-- A change before anything is set. -/
def XChange.blank (kind : Nat) (ctx : Option CmdCtx) : XChange :=
  { id := 0, kind := kind, ctx := ctx, window := 0, todo := [], small := false, arg := 0, reserve := 0x3FF, bounce := 0, stage := 0, epoch := 0, cursor := 0, frame := none, done := 0, began := none, last := 0 }

/-- The page, or a part of it, is being changed. -/
def pageBusy (x : PtuPart) (key : Nat) : Bool :=
  (x.pte key).busy || (x.pte (keyTop key)).busy || (!keyIsPart key && decide ((x.pte key).res = 3) && (partKeys key).any fun k => (x.pte k).busy)

/-- A page counts as done with its last part. -/
def XChange.counts (c : XChange) (key : Nat) : Nat := if c.small || !keyIsPart key || decide (keyPart key = 31) then 1 else 0

/-- A change ends; its command completes with the pages done. -/
def endChange (h : Hard) (p : Part) (c : XChange) (st : Byte) (reason : Nat) (b : Block) : Block :=
  push (.part p) (completeOpt h c.ctx st reason c.done 0 (modPtu p (fun x => { x with changes := x.changes.filter fun y => decide (y.id ≠ c.id) }) b))

/-- The home lines of a key: its window's region and first line. -/
def homeOfKey (b : Block) (p : Part) (key : Nat) : Option (Nat × Nat) := (b.windowRegion p (keyWindow key)).map fun e => (e.1, keyOffset key / 64)

/-- Returns a key's home pages to fresh (R253, R318). -/
def freshHome (p : Part) (key : Nat) (what : BundleFor) (b : Block) : Block :=
  match homeOfKey b p key with
  | some (rid, line) => newReqs p rid what [(line, .fresh (keyPieces key))] b
  | none => b

/-- A page's change is cut short: `BUSY` clears, its residence stays, a partly written home is fresh again, taken frames are free (R318, R351). -/
def cutPage (p : Part) (c : XChange) (b : Block) : Block :=
  match c.todo with
  | [] => b
  | key :: _ =>
    if c.stage = 0 ∨ 2 ≤ c.kind then b
    else
      let e := (b.ptuPart p).pte key
      let b := { b with bundles := b.bundles.map fun y => match y.what with | .move id _ => if y.part = p ∧ id = c.id then { y with what := .quiet } else y | _ => y }
      let b := if c.kind = 0 ∧ c.arg = 0 ∧ 0 < c.cursor then freshHome p key .quiet b else b
      let b := match c.frame with | some f => modPtu p (fun x => x.dropFrames f.1 f.2 (keyFrames key)) b | none => b
      tableStore p [key] (modPtu p (fun x => x.setPte key { e with busy := false }) b)

/-- A change fails at the page in progress: earlier pages stay as they were made. -/
def failChange (h : Hard) (p : Part) (c : XChange) (st : Byte) (reason : Nat) (b : Block) : Block := endChange h p c st reason (cutPage p c b)

/-- The next piece of a copy, or what follows its last: the home made fresh as a page leaves it, the host's acknowledgement, or nothing (R318, R351). `stage` 4: copied, to be rewritten. -/
def copyNext (h : Hard) (p : Part) (c : XChange) (b : Block) : Block :=
  match c.todo with
  | [] => b
  | key :: _ =>
    let e := (b.ptuPart p).pte key
    let pieces := keyPieces key
    if c.cursor < pieces then
      if c.arg = 2 ∧ (match b.bounce c.bounce with | some x => !x.room || decide (x.outq ≠ []) | none => true) = true then setChange p { c with stage := 2 } b
      else
        let src : Option (Nat × Nat) := if e.res = 1 then some (e.rgn.toNat, 1024 * e.frame.toNat) else homeOfKey b p key
        match src with
        | none => failChange h p c stRegionRevoked 0 b
        | some (rid, line) => newReqs p rid (.move c.id false) ((List.range 64).map fun i => (line + 64 * c.cursor + i, .read)) (setChange p { c with stage := 2 } b)
    else if c.arg = 2 ∧ (match b.bounce c.bounce with | some x => decide (2 ^ 31 ≤ (x.d2hHead - c.last).toNat) | none => false) = true then setChange p { c with stage := 3 } b
    else if c.cursor = pieces ∧ e.res = 0 then
      if b.bundles.any fun y => decide (y.what = .move c.id true) then b else freshHome p key (.move c.id true) (setChange p { c with stage := 3 } b)
    else setChange p { c with stage := 4 } b

/-- The destination lines of a page under copy. -/
def copyDest (b : Block) (p : Part) (c : XChange) (key : Nat) : Option (Nat × Nat) := if c.arg = 1 then c.frame.map fun f => (f.1, 1024 * f.2) else homeOfKey b p key

/-- A page has its new residence: the entry is rewritten, `BUSY` clears, frames left are free, and what waits on the page goes on (R318, R323). -/
def pageMoved (h : Hard) (p : Part) (c : XChange) (key : Nat) (b : Block) : Block :=
  let e := (b.ptuPart p).pte key
  let b := if e.res = 1 then modPtu p (fun x => x.dropFrames e.rgn.toNat e.frame.toNat (keyFrames key)) b else b
  let e' : Pte := match c.arg, c.frame with
    | 1, some f => { e with res := 1, rgn := BitVec.ofNat 10 f.1, frame := BitVec.ofNat 31 f.2, busy := false }
    | 2, _ => { e with res := 2, rgn := 0, frame := 0, busy := false }
    | _, _ => { e with res := 0, rgn := 0, frame := 0, busy := false }
  let b := tableStore p [key] (modPtu p (fun x => (x.setPte key e').uncache [key]) b)
  let b := setChange p { c with done := c.done + c.counts key, todo := c.todo.drop 1, stage := 0, cursor := 0, frame := none, began := none } b
  push (.part p) (replay h p true (fun _ q => onPage b p key q) b)

/-- Frames taken by the parts of a page. -/
def partFrames (x : PtuPart) (key : Nat) : List (Nat × Nat) := ((partKeys key).map fun k => x.pte k).filterMap fun e => if e.res = 1 then some (e.rgn.toNat, e.frame.toNat) else none

/-- The lowest free split table (R308). -/
def freeSplit (x : PtuPart) : Option Nat := (List.range 8192).find? fun n => !(x.ptes.any fun e => decide (e.2.res = 3) && decide (e.2.frame.toNat = n))

/-- The entries of a page once an advice has acted (R318); none: it cannot. -/
def advised (x : PtuPart) (key advice : Nat) : PtuPart ⊕ Byte :=
  let e := x.pte key
  match advice with
  | 1 => .inl (x.setPte key { e with ro := true, busy := false })
  | 2 => .inl (x.setPte key { e with ro := false, wd := false, busy := false })
  | 3 => match freeSplit x with
    | none => .inr stNoSlot
    | some n =>
      let x := (List.range 32).foldl (fun x i => x.setPte (partKey (keyWindow key) (keyPage key) i)
        { e with busy := false, evict := false, frame := if e.res = 1 then e.frame + BitVec.ofNat 31 i else 0 }) x
      .inl (x.setPte key { Pte.home with res := 3, frame := BitVec.ofNat 31 n })
  | 4 =>
    let ps := (partKeys key).map fun k => x.pte k
    let p0 := ps.headD Pte.home
    let one := ps.all fun q => decide (q.res = p0.res)
    let pool := decide (p0.res ≠ 1) || (decide (p0.frame.toNat % 32 = 0) && ((List.range 32).zip ps).all fun q => decide (q.2.rgn = p0.rgn ∧ q.2.frame.toNat = p0.frame.toNat + q.1))
    if one && pool then
      let x := (partKeys key).foldl (fun x k => x.setPte k Pte.home) x
      .inl (x.setPte key { p0 with busy := false, evict := false, ro := ps.any fun q => q.ro, wd := ps.any fun q => q.wd })
    else .inr stAborted
  | _ =>
    let x := if e.res = 3 then (partKeys key).foldl (fun x k => x.setPte k Pte.home) ((partFrames x key).foldl (fun x f => x.dropFrames f.1 f.2 1) x)
      else if e.res = 1 then x.dropFrames e.rgn.toNat e.frame.toNat (keyFrames key) else x
    .inl (x.setPte key { Pte.home with ro := e.ro, wd := e.wd })

/-- An advice acts on the page in progress. -/
def adviceActs (h : Hard) (p : Part) (c : XChange) (key : Nat) (b : Block) : Block :=
  match advised (b.ptuPart p) key c.arg with
  | .inr st => failChange h p c st 0 b
  | .inl x =>
    let b := modPtu p (fun _ => x.uncache (key :: partKeys key)) b
    let b := tableStore p (if c.arg = 3 then key :: partKeys key else [key]) b
    let b := setChange p { c with done := c.done + c.counts key, todo := c.todo.drop 1, stage := 0, cursor := 0 } b
    push (.part p) (replay h p true (fun _ q => onPage b p key q && (q.fault.isNone || decide (c.arg = 2))) b)

/-- Every use of an epoch older than the change has ended (R319): the copy, advice or command goes on. -/
def changeDrained (h : Hard) (p : Part) (c : XChange) (b : Block) : Block :=
  match c.kind, c.todo with
  | 0, key :: _ =>
    if c.arg = 1 then
      match chooseReserve b p key c.reserve with
      | .inr st => failChange h p c st 0 (if st = stNoSlot then xlatNote h 0x0705 p [aByte (keyWindow key), (5, keyPage key)] b else b)
      | .inl f => copyNext h p { c with frame := some f } (setChange p { c with frame := some f } (modPtu p (fun x => x.takeFrames f.1 f.2 (keyFrames key) key) b))
    else if ((b.ptuPart p).pte key).res = 2 then
      match b.jigOf p with
      | none => b
      | some j =>
        let base := ((j.windows.find? fun w => decide (w.window = keyWindow key)).map fun w => w.base).getD 0
        if (match b.bounce c.bounce with | some x => decide (x.state ≠ 1) | none => true) then failChange h p c stAborted 0 b
        else putD2h h c.bounce { rtype := 0x83, status := stOk, reqId := (match c.ctx with | some x => x.cmdId.setWidth 16 | none => 0), psize := keyIsPart key, addr := BitVec.ofNat 57 (base + keyOffset key), payload := [] }
          (setChange p { c with stage := 3, began := some b.now } b)
    else copyNext h p c b
  | 1, key :: _ =>
    if c.arg = 5 then freshHome p key (.move c.id true) (setChange p { c with stage := 2 } b) else adviceActs h p c key b
  | 3, _ =>
    let d := (b.region c.window).bind fun r => r.deferral
    endChange h p c stOk 0 (signalDeferral h d (closeRegion h c.window b))
  | 4, _ =>
    let b := endChange h p c stOk 0 b
    match b.region c.window with
    | some r => if r.state = 1 then b else completeOpen h c.window stOk b
    | none => b
  | _, _ => endChange h p c stOk 0 b

/-- Abandon copies and line requests that a destroying command waits for (R299, R342): keys of tags, and of requests past 2,048. -/
def drainWaits (b : Block) (p : Part) (todo : List Nat) : Bool :=
  todo.any fun n => if n < 2048 then (match b.tagSt p n with | some x => x.silent && decide (x.kind = 1) | none => false) else (b.memReq (n - 2048)).isSome

/-- An unfinished fault of cause 3 to 5 on a page (R318). -/
def faultPending (b : Block) (p : Part) (key : Nat) : Bool :=
  (b.ptuPart p).faults.any fun f => decide (3 ≤ f.cause.toNat) &&
    onPage b p key { pasid := f.pasid, engine := f.engine, src := .port 0, op := .read, addr := f.addr, since := f.tick, fault := none, scheduled := false }

/-- An advice that would change nothing on its page. -/
def adviceIdle (x : PtuPart) (key advice : Nat) : Bool :=
  let e := x.pte key
  match advice with
  | 1 => e.ro
  | 2 => !e.ro && !e.wd
  | 3 => decide (e.res = 3)
  | 4 => decide (e.res ≠ 3)
  | _ => false

/-- Ends the page in progress without a change. -/
def skipPage (p : Part) (c : XChange) (n : Nat) (b : Block) : Block := setChange p { c with done := c.done + n, todo := c.todo.drop 1 } b

/-- Takes the change's epoch (R319). -/
def takeEpoch (p : Part) (c : XChange) (b : Block) : XChange × Block :=
  let b := modPtu p (fun x => x.newEpoch) b
  let c : XChange := { c with stage := 1, epoch := (b.ptuPart p).epoch }
  (c, setChange p c b)

/-- Begins with the first page that is left: none while it waits (R318). -/
def beginPage (h : Hard) (p : Part) (c : XChange) (key : Nat) (b : Block) : Option Block :=
  let x := b.ptuPart p
  let e := x.pte key
  let whole := decide (c.kind = 1) && (decide (c.arg = 3) || decide (c.arg = 4) || decide (c.arg = 5))
  if !keyIsPart key && decide (e.res = 3) && !whole then some (setChange p { c with todo := partKeys key ++ c.todo.drop 1 } b)
  else if keyIsPart key && decide ((x.pte (keyTop key)).res ≠ 3) then some (failChange h p c stAborted 0x0102 b)
  else if pageBusy x key then none
  else
    let b := if e.evict then tableStore p [key] (modPtu p (fun x => x.setPte key { e with evict := false }) b) else b
    let x := b.ptuPart p
    let e := x.pte key
    if (b.windowRegion p (keyWindow key)).isNone then some (failChange h p c stObjectGone 0 b)
    else if c.kind = 1 ∧ c.arg = 6 then
      some (skipPage p c (c.counts key) (tableStore p [key] (modPtu p (fun x => (x.setPte key { e with evict := true }).uncache [key]) b)))
    else if c.kind = 1 ∧ adviceIdle x key c.arg = true then some (skipPage p c 0 b)
    else if c.kind = 0 ∧ e.res.toNat = c.arg then some (skipPage p c (c.counts key) b)
    else if c.kind = 0 ∧ e.res ≠ 0 ∧ c.arg ≠ 0 then some (failChange h p c stAborted 0x0102 b)
    else if c.kind = 0 ∧ c.arg ≠ 0 ∧ faultPending b p key = true then some (failChange h p c stFaultPending 0 b)
    else if x.epochFree = false then none
    else
      let b := tableStore p [key] (modPtu p (fun x => (x.setPte key { e with busy := true }).uncache (key :: if whole then partKeys key else [])) b)
      let d := takeEpoch p c b
      some (if (d.2.ptuPart p).drained d.1.epoch then changeDrained h p d.1 d.2 else d.2)

/-- What an invalidation covers is dropped, is no longer marked for eviction (R318) and, when asked, withdrawn (R320). -/
def withdraw (p : Part) (c : XChange) (b : Block) : XChange × Block :=
  let b := modPtu p (fun x => x.uncache c.todo) b
  let marked := c.todo.filter fun k => ((b.ptuPart p).pte k).evict
  let b := if marked = [] then b else tableStore p marked (modPtu p (fun x => marked.foldl (fun x k => x.setPte k { x.pte k with evict := false }) x) b)
  if c.arg = 0 then (c, b)
  else
    let zero (k : Nat) : Bool := match b.jigOf p with | some j => j.windows.any fun w => decide (w.window = keyWindow k ∧ w.kind = 0) | none => false
    let ks := c.todo.filter fun k => zero k && decide (((b.ptuPart p).pte k).res ≠ 3) && (!keyIsPart k || decide (((b.ptuPart p).pte (keyTop k)).res = 3))
    let b := modPtu p (fun x => ks.foldl (fun x k => x.setPte k { x.pte k with wd := true }) x) b
    ({ c with done := (ks.map fun k => c.counts k).sum }, tableStore p ks b)

/-- A destruction has drained (R342): its command completes; a process death is recorded (R345). -/
def destroyed (h : Hard) (p : Part) (c : XChange) (b : Block) : Block :=
  let b := endChange h p { c with done := 0 } stOk 0 b
  if c.arg = 0 then b else note h 0x0806 24 (some p) [aW3 (c.arg - 1), aCount c.done] b

/-- One step of a change that has not begun: none while it waits. -/
def stepChange (h : Hard) (p : Part) (c : XChange) (b : Block) : Option Block :=
  if c.kind = 6 then (if drainWaits b p c.todo then none else some (destroyed h p c b))
  else if c.stage ≠ 0 then none
  else if c.kind ≤ 1 then
    match c.todo with
    | [] => some (endChange h p c stOk 0 b)
    | key :: _ => beginPage h p c key b
  else if (b.ptuPart p).epochFree = false then none
  else
    let w := if c.kind = 2 then withdraw p c b else (c, b)
    let d := takeEpoch p w.1 w.2
    some (if (d.2.ptuPart p).drained d.1.epoch then changeDrained h p d.1 d.2 else d.2)

/-- A change goes as far as it can. -/
def runChange (h : Hard) (p : Part) (id : Nat) : Nat → Block → Block
  | 0, b => b
  | n + 1, b =>
    match b.change p id with
    | none => b
    | some c => match stepChange h p c b with
      | none => b
      | some b => runChange h p id n b

/-- The partition's changes, oldest first (R323). -/
def kickChanges (h : Hard) (p : Part) (b : Block) : Block :=
  (b.ptuPart p).changes.foldl (fun b c => runChange h p c.id (40 * c.todo.length + 8) b) b

/-- The reserve that a page moves to no longer takes it (R323). -/
def moveBarred (b : Block) (c : XChange) : Bool :=
  decide (c.kind = 0 ∧ c.arg = 1) && (match c.frame.bind fun f => b.region f.1 with | some r => !reserveOpen r | none => true)

/-- A bundle of a page's lines has ended (R318, R351). -/
def moveDone (h : Hard) (p : Part) (id : Nat) (wrote : Bool) (y : Bundle) (b : Block) : Block :=
  match b.change p id with
  | none => b
  | some c =>
    match c.todo with
    | [] => b
    | key :: _ =>
      if y.status ≠ stOk then failChange h p c (if wrote && moveBarred b c then stRegionRevoked else y.status) 0 b
      else if c.kind = 1 then adviceActs h p c key b
      else if wrote then
        if c.cursor < keyPieces key then
          let c : XChange := { c with cursor := c.cursor + 1 }
          if ((b.ptuPart p).pte key).res = 2 then setChange p { c with stage := if c.cursor = keyPieces key then 4 else 3 } b
          else copyNext h p c (setChange p c b)
        else
          let c : XChange := { c with cursor := c.cursor + 1, stage := 4 }
          if c.arg = 2 then push (.part p) (pageMoved h p c key (setChange p c b)) else setChange p c b
      else if c.arg = 2 then
        match b.jigOf p with
        | none => b
        | some j =>
          let base := ((j.windows.find? fun w => decide (w.window = keyWindow key)).map fun w => w.base).getD 0
          let data := y.lines.flatMap fun l => lineBytes l.2
          let c : XChange := { c with cursor := c.cursor + 1, began := some (c.began.getD b.now) }
          let b := putD2h h c.bounce { rtype := 0x82, status := stOk, reqId := (match c.ctx with | some x => x.cmdId.setWidth 16 | none => 0), psize := false,
                                       addr := BitVec.ofNat 57 (base + keyOffset key + 4096 * (c.cursor - 1)), payload := data } b
          let c : XChange := { c with last := (match b.bounce c.bounce with | some x => x.d2hTail + BitVec.ofNat 32 x.outq.length | none => 0) }
          copyNext h p c (setChange p c b)
      else match copyDest b p c key with
        | none => failChange h p c stRegionRevoked 0 b
        | some (rid, line) =>
          newReqs p rid (.move id true) ((List.range 64).map fun i => (line + 64 * c.cursor + i, .write ((y.lines.map fun l => l.2).getD i 0))) b

end Sys2Proof.Machine
end

