-- ==== Sys2Proof/Machine/Session.lean ====
section
/-! DEFINITION. Peer sessions (R147): who a member is to this one (R13, R26, R149 to R155), the session table, secured messages, a session's end and a departure (R156, R157), with what both do to keys, pairs, regions and bounce windows. -/

namespace Sys2Proof.Machine

/-! ### Bounce windows (R350, R352) -/

/-- A window ends: its key is orphaned, what it has not taken is discarded, its source goes (R352, R359). -/
def closeBounce (h : Hard) (w : BitVec 6) (x : Bounce) (b : Block) : Block :=
  let b := modAhu x.part (fun a => { a with fences := a.fences.filter fun (f : FenceRun) => match f.flush with | some (v, _) => decide (v ≠ w) | none => true }) (endKey h x.keySlot b)
  let b := dropSrc h (280 + w.toNat) { b with host := { b.host with bounces := Tab.del b.host.bounces w.toNat } }
  push (.part x.part) (signalDeferral h x.dying b)

/-- A record of the window the HBE has begun. -/
def bounceBusy (b : Block) (w : BitVec 6) : Bool := b.bundles.any fun y => match y.what with | .bounce v _ _ _ => decide (v = w) | _ => false

/-- An ending window ends once the record begun has completed. -/
def bounceSettle (h : Hard) (w : BitVec 6) (b : Block) : Block :=
  match b.bounce w with
  | some x => if x.state = 3 ∧ bounceBusy b w = false then closeBounce h w x b else b
  | none => b

/-- A `WRITE` or `READ_REQ` has ended: its data, or its failure, goes to the host (R350). -/
def bounceDone (h : Hard) (w : BitVec 6) (reqId : BitVec 16) (read : Bool) (addr : BitVec 57) (y : Bundle) (b : Block) : Block :=
  let rec' : D2h := { rtype := 0x85, status := y.status, reqId := reqId, psize := false, addr := addr, payload := [] }
  let b := if y.status ≠ stOk then putD2h h w rec' b
    else if read then putD2h h w { rec' with rtype := 0x81, status := stOk, payload := y.lines.flatMap fun l => lineBytes l.2 } b
    else b
  bounceSettle h w b

/-- Prefetches that use a window end at the page in progress (R351, R352). -/
def failPrefetches (h : Hard) (p : Part) (w : BitVec 6) (st : Byte) (b : Block) : Block :=
  ((b.ptuPart p).changes.filter fun c => decide (c.kind = 0 ∧ c.bounce = w) && (decide (c.arg = 2) || (match c.todo with | k :: _ => decide (((b.ptuPart p).pte k).res = 2) | [] => false))).foldl
    (fun b c => failChange h p c st 0 b) b

/-- A window is to end (R352): at once, or once the record the HBE has begun has completed. -/
def endBounce (h : Hard) (w : BitVec 6) (st : Byte) (b : Block) : Block :=
  match b.bounce w with
  | none => b
  | some x => bounceSettle h w (modBounce w (fun y => { y with state := 3 }) (failPrefetches h x.part w st b))

/-! ### Roles (R149 to R153) -/

def admNote (h : Hard) (code : Nat) (p : Part) (args : List (Nat × Nat)) (b : Block) : Block := note h code 27 (some p) args b

/-- Place of an index in the `ANCHORS` record. -/
def anchorRank (j : Jig) (i : BitVec 16) : Nat := j.anchors.idxOf i
/-- The standbys in the present term: those of `ANCHORS` after the anchor. -/
def standbys (j : Jig) (a : Adm) : List (BitVec 16) := j.anchors.drop (anchorRank j a.anchor + 1)
/-- The delegate of an index under a group size 2^`log` (R152); none with delegation off. -/
def delegateOf (log : Nat) (i : BitVec 16) : Option (BitVec 16) :=
  if log = 15 then none else some (BitVec.ofNat 16 (i.toNat / 2 ^ log * 2 ^ log))
/-- Whether `d` is the delegate that admits `i` (R152): the anchor and the standbys have none. -/
def isDelegateOf (j : Jig) (a : Adm) (log : Nat) (d i : BitVec 16) : Bool :=
  decide (delegateOf log i = some d ∧ d ≠ i ∧ i ≠ a.anchor) && !(standbys j a).contains i

/-- The newest token this member holds of a region it opened or mirrors. -/
def Block.heldToken (b : Block) (p : Part) (id : BitVec 32) : Option Token :=
  match b.regionById p id with
  | some e => some e.2.token
  | none => (b.mirrorEnt p id).bind fun x => x.token

/-- Keeper and mirror of a shared region now: of the newest token held, else the Jig's (R26, R265, R266). -/
def Block.keeperOf (b : Block) (p : Part) (r : RegionRec) : BitVec 16 := match b.heldToken p r.regionId with | some t => t.keeper | none => r.keeper
def Block.mirrorOf (b : Block) (p : Part) (r : RegionRec) : BitVec 16 := match b.heldToken p r.regionId with | some t => t.mirror | none => r.mirror

/-- Regions this member keeps and shares that an accelerator member reads. -/
def readsHere (b : Block) (p : Part) (i : BitVec 16) : Bool := b.regions.any fun e => decide (e.2.part = p ∧ e.2.role = 0 ∧ e.2.kind ≠ 0) && e.2.readers.contains i

/-- R26: the pair needs a session for a role, whoever starts it. `asKeeper` takes in every member that may read a region this one keeps. -/
def pairListed (b : Block) (p : Part) (j : Jig) (asKeeper : Bool) (m : MemberRef) : Bool :=
  let i := memberIndex m
  let me := j.memberIndex
  let a := b.adm' p
  match memberKind m with
  | 0 =>
    let shared : List RegionRec := j.regions.filter fun r => decide (r.kind ≠ 0)
    decide (i ≠ me) && decide (i.toNat < j.memberCount)
      && (decide (i = a.anchor) || (standbys j a).contains i || decide (me = a.anchor) || (standbys j a).contains me
        || (shared.any fun r => decide ((b.keeperOf p r = i ∧ b.mirrorOf p r = me) ∨ (b.keeperOf p r = me ∧ b.mirrorOf p r = i)))
        || (shared.any fun r => decide (b.keeperOf p r = i) && j.windows.any fun w => decide (w.regionId = r.regionId))
        || readsHere b p i || (asKeeper && shared.any fun r => decide (b.keeperOf p r = me)))
  | 1 => j.allow.any fun e => decide (e.kind = 1 ∧ e.index = i)
  | 2 => (j.allow.any fun e => decide (e.kind = 2 ∧ e.index = i)) && j.groups.any fun g => g.admitted && decide (g.switch = i)
  | _ => false

/-- A delegate pair (R152), under a group size. -/
def delegatePair (j : Jig) (a : Adm) (log : Nat) (m : MemberRef) : Bool :=
  isAccel m && (isDelegateOf j a log (memberIndex m) j.memberIndex || isDelegateOf j a log j.memberIndex (memberIndex m))

/-! ### The session table (R147, R159) -/

/-- The key of an attempt beside the session it is to replace, or beside a departure under way (R26, R158). -/
def besideKey (m : MemberRef) : Nat := m.toNat + 2 ^ 32

/-- With no session and no departure left, the attempt beside takes the pair's own entry. -/
def settleBeside (p : Part) (m : MemberRef) (b : Block) : Block :=
  let q := b.peer p m
  let x := b.peerAt p (besideKey m)
  let own : Peer := { x with relay := q.relay, port := q.port, admitCtx := x.admitCtx.orElse fun _ => q.admitCtx }
  if q.state = 7 ∨ q.state = 8 ∨ x.state = 0 then b
  else modAdm p (fun a => { a with peers := Tab.set (Tab.del a.peers (besideKey m)) m.toNat own }) b

/-- A session stands, or is joining. -/
def Peer.hasSession (q : Peer) : Bool := decide (q.secret ≠ 0 ∧ (q.state = 6 ∨ q.state = 7 ∨ q.state = 8))

/-! ### The end of a session -/

/-- Replacements that wait for a member's confirmation fail (R123). -/
def failAwaits (h : Hard) (p : Part) (m : MemberRef) (b : Block) : Block :=
  (b.ks.repls.filter fun e => e.2.await.contains m && decide ((b.slot e.1).attr.owner = BitVec.ofNat 4 p.val)).foldl (fun b e => failRepl h e.1 4 stPeerDeparted b) b

/-- Reads held by a `REVERIFY` to the member end. -/
def failReverifies (h : Hard) (p : Part) (i : BitVec 16) (b : Block) : Block :=
  (b.memReqs.filter fun m => decide (m.part = p ∧ m.rever = 1) && (match b.region m.region with | some r => decide (r.token.keeper = i) | none => true)).foldl
    (fun b m => finish h m stPeerDeparted 0 b) b

/-- A session closes: its secret is orphaned with what descends from it, the pair's transactions end, a host member's windows end, nobody waits for it any longer. -/
def closeSession (h : Hard) (p : Part) (m : MemberRef) (st : Byte) (b : Block) : Block :=
  let q := b.peer p m
  if q.secret = 0 then b
  else
    let b := ((b.host.bounces.filter fun e => decide (memberKind m = 1) && decide (e.2.part = p ∧ e.2.host = memberIndex m)).map fun e => BitVec.ofNat 6 e.1).foldl (fun b w => endBounce h w st b) b
    let b := modPeer p m (fun q => { q with secret := 0, sessionId := 0, probes := 0, authFails := 0, sent := 0, received := 0, wrapOut := 0, wrapIn := none, delegate := false, relay := none }) b
    let b := endKey h q.secret b
    let b := if isAccel m then failReverifies h p (memberIndex m) (pairClosed p (memberIndex m) b) else b
    let b := failAwaits h p m b
    let b := modAdm p (fun a => { a with rosterPend := a.rosterPend.map fun r => { r with await := r.await.filter fun x => decide (x ≠ m) },
                                         drawn := a.drawn.map fun g => { g with await := g.await.filter fun x => decide (x ≠ m) } }) b
    push (.adm p) (push (.fences p) (push (.part p) b))

/-! ### Departures (R156, R157) -/

/-- The effective epoch of a departure recorded now: the first, not below 1, whose boundary lies at least 100 ms ahead. -/
def departEpoch (b : Block) (p : Part) : BitVec 24 :=
  match b.jigOf p with
  | none => 1
  | some j =>
    let t := b.now.toNat + 100000000
    if t ≤ j.epochZero ∨ j.rekeyPeriod = 0 then 1 else BitVec.ofNat 24 (max 1 ((t - j.epochZero + j.rekeyPeriod - 1) / j.rekeyPeriod))

/-- The body of a `DEPART`. -/
def departBody (m : MemberRef) (cause : Byte) (e : BitVec 24) : Bytes := leBytes 4 m.toNat ++ leBytes 1 cause.toNat ++ leBytes 3 e.toNat

/-- A change of the roster at the anchor: sent to the live standbys, in force once they have acknowledged it (R150). -/
def changeRoster (h : Hard) (p : Part) (e : RosterEntry) (grant : Option MemberRef) (b : Block) : Block :=
  match b.jigOf p with
  | none => b
  | some j =>
    let a := b.adm' p
    let ss := ((standbys j a).map accel).filter fun m => (b.peer p m).inSession
    let b := modAdm p (fun a => { a with rosterSeq := a.rosterSeq + 1, rosterPend := a.rosterPend ++ [{ entry := e, await := ss, grant := grant }] }) b
    let body := leBytes 2 e.index.toNat ++ leBytes 2 e.state.toNat ++ leBytes 4 0 ++ leBytes 16 e.tag.toNat
    push (.adm p) (ss.foldl (fun b m => sendTo h p m 0x07 body b) b)

/-- A member is on its way out until the boundary of an epoch; `told` by the anchor. -/
def setDeparting (p : Part) (m : MemberRef) (cause : Byte) (e : BitVec 24) (told : Bool) (b : Block) : Block :=
  let b := modAdm p (fun a => { a with departing := (a.departing.filter fun d => decide (d.member ≠ m)) ++ [{ member := m, cause := cause, epoch := e, told := told }] }) b
  if (b.peer p m).state = 7 ∨ (b.peer p m).state = 8 then modPeer p m (fun q => { q with state := 8, epoch := e.setWidth 32 }) b else b

/-- The roster's entry of an index with the changes on their way (R150, R151); none: free. -/
def Block.rosterNow (b : Block) (p : Part) (i : BitVec 16) : Option RosterEntry :=
  let a := b.adm' p
  match (a.rosterPend.filter fun r => decide (r.entry.index = i)).getLast? with
  | some r => if r.entry.state = 0 then none else some r.entry
  | none => Tab.get? a.roster i.toNat

/-- The anchor records an accelerator's departure and tells every member (R156). -/
def recordDeparture (h : Hard) (p : Part) (m : MemberRef) (cause : Byte) (b : Block) : Block :=
  if (b.adm' p).departing.any fun d => decide (d.member = m) && d.told then b
  else
    let e := departEpoch b p
    let b := match b.rosterNow p (memberIndex m) with
      | some x => changeRoster h p { x with state := 2 } none b
      | none => b
    let b := setDeparting p m cause e true b
    (((b.adm' p).peers.filter fun x => x.2.inSession && decide (x.1 ≠ m.toNat)).map fun x => BitVec.ofNat 32 x.1).foldl (fun b x => sendTo h p x 0x0A (departBody m cause e) b) b

/-- A departure this member has seen: recorded by the anchor, reported to it by the others; a host or switch is each member's own to record (R14, R156). -/
def seeDeparture (h : Hard) (p : Part) (m : MemberRef) (cause : Byte) (b : Block) : Block :=
  let a := b.adm' p
  if !isAccel m then setDeparting p m cause (departEpoch b p) true b
  else if a.anchor = b.selfIndex p then recordDeparture h p m cause b
  else
    let e := departEpoch b p
    let b := if a.departing.any fun d => decide (d.member = m) && d.told then b else setDeparting p m cause e false b
    if (b.peer p (accel a.anchor)).inSession then sendTo h p (accel a.anchor) 0x0A (departBody m cause e) b else b

/-- Regions of a lost keeper at a reader (R268): revoked when their memory is gone, or no live mirror can take them over. -/
def readersLose (h : Hard) (p : Part) (i : BitVec 16) (b : Block) : Block :=
  (b.regions.filter fun e => decide (e.2.part = p ∧ e.2.role ≠ 0 ∧ e.2.kind ≠ 0 ∧ e.2.token.keeper = i)
      && (decide (e.2.kind = 1) || e.2.token.noMirror || b.gone p e.2.token.mirror)).foldl (fun b e => revokeRegion h e.1 b) b

/-- A member counted as lost until it is admitted again: END_SESSION or a clamp notice (R153); its departure counts as well. -/
def lostMember (b : Block) (p : Part) (i : BitVec 16) : Bool :=
  let a := b.adm' p
  a.lost.contains i || a.departed.contains i || a.departing.any fun d => decide (d.member = accel i)

/-- With neither anchor nor standby left, `EV_ADM_NO_ANCHOR` (R155). -/
def noAnchorCheck (h : Hard) (p : Part) (b : Block) : Block :=
  match b.jigOf p with
  | none => b
  | some j =>
    let a := b.adm' p
    if a.noAnchor ∨ a.keyed = false ∨ !(a.anchor :: standbys j a).all (lostMember b p) then b
    else admNote h 0x0306 p [aW4 a.term.toNat] (modAdm p (fun a => { a with noAnchor := true }) b)

/-- A member counts as lost from now on (R153). -/
def countLost (p : Part) (i : BitVec 16) (b : Block) : Block := modAdm p (fun a => { a with lost := (i :: a.lost).dedup }) b

/-- Whether a watched anchor or standby counts as lost (R153): its loss, or five heartbeats missed in a row since it was last heard. -/
def watchLost (b : Block) (p : Part) (i : BitVec 16) : Bool :=
  lostMember b p i || match Tab.get? (b.adm' p).heard i.toNat with | some t => decide (t.toNat + 5000000 ≤ b.now.toNat) | none => false

/-- The taker records the departures its predecessor has not recorded (R156). -/
def tellDepartures (h : Hard) (p : Part) (b : Block) : Block :=
  ((b.adm' p).departing.filter fun d => !d.told).foldl (fun b d => recordDeparture h p d.member d.cause b) b

/-- Digests' first 128 bits: the identity tag of R150. -/
def identityTag (leaf : Digest) : BitVec 128 := leaf.setWidth 128

/-- The anchor's own index is live under its own certificate (R15, R150). -/
def ownIndex (p : Part) (i : BitVec 16) (b : Block) : Block :=
  modAdm p (fun a => { a with roster := Tab.set a.roster i.toNat { index := i, state := 1, tag := identityTag (Config.sha384 b.lc.cert) } }) b

/-- Standby takeover (R154): of a standby the anchor has admitted, when every holder before it in `ANCHORS`, from the anchor on, is lost. -/
def takeAnchor (h : Hard) (p : Part) (b : Block) : Block :=
  match b.jigOf p with
  | none => b
  | some j =>
    let a := b.adm' p
    let me := j.memberIndex
    let before := (j.anchors.take (anchorRank j me)).drop (anchorRank j a.anchor)
    if a.byAnchor = false ∨ !(standbys j a).contains me ∨ !before.all (watchLost b p) then b
    else
      let b := ownIndex p me (modAdm p (fun a => { a with term := a.term + 1, anchor := me }) b)
      let a := b.adm' p
      let b := admNote h 0x0305 p [aHalf me.toNat, aW4 a.term.toNat] b
      let body := leBytes 4 a.term.toNat ++ leBytes 2 me.toNat ++ leBytes 2 0
      tellDepartures h p (((a.peers.filter fun x => x.2.inSession).map fun x => BitVec.ofNat 32 x.1).foldl (fun b x => sendTo h p x 0x09 body b) b)

/-- An accelerator member counts as lost: a standby may take over, or no anchor is left (R153 to R155). -/
def memberLost (h : Hard) (p : Part) (i : BitVec 16) (b : Block) : Block := noAnchorCheck h p (takeAnchor h p (countLost p i b))

/-- A session with a peer is lost: a departure of cause 2 or 3 (R147, R156); regions it keeps are taken over or revoked (R265, R268). -/
def sessionLost (h : Hard) (p : Part) (m : MemberRef) (cause : Byte) (b : Block) : Block :=
  let b := closeSession h p m stPeerDeparted (seeDeparture h p m cause b)
  if !isAccel m then b
  else
    let i := memberIndex m
    memberLost h p i (readersLose h p i (keeperLost h p i b))

/-- A departed reader leaves the reader sets (R273). -/
def dropReader (p : Part) (i : BitVec 16) (b : Block) : Block :=
  { b with regions := Tab.mapV b.regions fun _ r => if r.part = p then { r with readers := r.readers.filter fun x => decide (x ≠ i), reverifies := r.reverifies.filter fun v => decide (v.1 ≠ i) } else r }

/-- The anchor frees a departed member's roster entry (R157). -/
def freeIndex (h : Hard) (p : Part) (i : BitVec 16) (b : Block) : Block :=
  if (b.adm' p).anchor = b.selfIndex p then changeRoster h p { index := i, state := 0, tag := 0 } none b else b

/-- The boundary of a departure's effective epoch (R157). -/
def departNow (h : Hard) (p : Part) (d : Departing) (b : Block) : Block :=
  let m := d.member
  let i := memberIndex m
  let b := modAdm p (fun a => { a with departing := a.departing.filter fun x => decide (x.member ≠ m), departed := if isAccel m then (i :: a.departed).dedup else a.departed }) b
  let b := if (b.peer p m).inSession then sendEnv h p m (.spdm 0xEC .none []) b else b
  let b := closeSession h p m stPeerDeparted b
  let b := admNote h 0x0303 p [aW4 m.toNat, aByte d.cause.toNat, aW3 d.epoch.toNat] b
  let b := match (b.peer p m).admitCtx with | some c => complete h c stPeerDeparted 0 0 0 b | none => b
  let b := modPeer p m (fun q => { q with state := 9, reason := d.cause.setWidth 16, epoch := d.epoch.setWidth 32, admitCtx := none }) b
  let b := settleBeside p m b
  if !isAccel m then b
  else
    let b := veneerDepart h p i b
    let b := readersLose h p i (keeperLost h p i b)
    let b := (b.regions.filter fun e => decide (e.2.part = p ∧ e.2.role ≠ 0 ∧ e.2.kind ≠ 0 ∧ e.2.token.keeper = i)).foldl (fun b e => closeRegion h e.1 b) b
    let b := freeIndex h p i (dropReader p i b)
    memberLost h p i (push (.part p) b)

end Sys2Proof.Machine
end

