-- ==== Sys2Proof/Machine/Admit.lean ====
section
/-! DEFINITION. The admission of a peer (R135 to R164): ports of envelopes, announcements, the attempt with its two connections and its session, the checks, `JOIN`, key delivery, the roster's grants, and the pool reserves a keyed partition opens (R317). -/

namespace Sys2Proof.Machine

/-! ### Attempts (R140, R144, R159) -/

/-- The session-table key of a member's attempt. -/
def attKey (b : Block) (p : Part) (m : MemberRef) : Nat := if (b.peer p m).state = 7 ∨ (b.peer p m).state = 8 then besideKey m else m.toNat
def Block.att (b : Block) (p : Part) (m : MemberRef) : Peer := b.peerAt p (attKey b p m)
def modAtt (p : Part) (m : MemberRef) (f : Peer → Peer) (b : Block) : Block := modPeerAt p (attKey b p m) f b

/-- The key of the session a member joins in: its attempt's, else the one that has replaced an older session. -/
def joinKey (b : Block) (p : Part) (m : MemberRef) : Nat := if (b.peerAt p (besideKey m)).state = 6 then besideKey m else m.toNat

/-- An attempt is running in an entry. -/
def Peer.attempting (q : Peer) : Bool := decide (2 ≤ q.state.toNat ∧ q.state.toNat ≤ 6)

def contextCount (c : Cfg) : Nat := if c = .s then 4 else 16
def Block.contexts (b : Block) : Nat := (b.adm.map fun e => Tab.count e.2.peers fun _ q => q.attempting).sum

/-- SPDM request and response codes (SPDM 1.3; PRESUMED, log entry 6), the requests of a connection in their order. -/
def cVersion : Byte := 0x84
def cKeyExchange : Byte := 0xE4
def cFinish : Byte := 0xE5
def cKeyUpdate : Byte := 0xE9
def cEndSession : Byte := 0xEC
def cError : Byte := 0x7F
def reqCode (n : Nat) : Byte := [0x84, 0xE1, 0xE3, 0x81, 0x82, 0x83, 0xE0].getD n 0
def rspCode (n : Nat) : Byte := [0x04, 0x61, 0x63, 0x01, 0x02, 0x03, 0x60].getD n 0
def errBusy : Byte := 0x03
def errUnexpected : Byte := 0x04
def errUnsupported : Byte := 0x07

/-- The request codes of the subset of R139. -/
def subsetCodes : List Byte := [0x84, 0xE1, 0xE3, 0x81, 0x82, 0x83, 0xE0, cKeyExchange, cFinish, cKeyUpdate, cEndSession]

/-- The capabilities and algorithms of R139, as the block offers, asks for and agrees to them. -/
def ourCaps : SpdmBody := .capabilities [.cert, .chal, .meas, .encrypt, .mac, .mutAuth, .keyEx, .keyUpd] 14 61440 61440
def ourAlgs : SpdmBody := .algorithms .ecdsaP384 .ecdsaP384 .sha384 .sha384 .secp384r1 .aes256gcm .spdmSchedule .dmtf

/-- What request `n` of a connection says (R139, R140). -/
def reqBody (n : Nat) : SpdmBody :=
  match n with
  | 1 => ourCaps
  | 2 => ourAlgs
  | 4 => .slot 0
  | 5 => .challenge 0 false
  | 6 => .measureAll
  | _ => .none

/-- A message enters the transcript of an attempt, its companion with it (R141). -/
def noteScript (p : Part) (m : MemberRef) (msg : Bytes) (b : Block) : Block := modAtt p m (fun q => { q with script := q.script ++ [msg] }) b

/-- Sends an SPDM request and waits for its answer. -/
def ask (h : Hard) (p : Part) (m : MemberRef) (code : Byte) (body : SpdmBody) (comp : Bytes) (b : Block) : Block :=
  let k := attKey b p m
  let s := newSent b p m k (.spdm code body comp)
  sendSent h p m k s (countSent p m k s.env (modPeerAt p k (fun q => { q with asked := b.now, resent := false, asking := some s, script := q.script ++ [s.env.plain] }) b))

/-- Sends an SPDM answer, kept to be sent again when the request is. -/
def reply (h : Hard) (p : Part) (m : MemberRef) (code : Byte) (body : SpdmBody) (comp : Bytes) (b : Block) : Block :=
  let k := attKey b p m
  let s := newSent b p m k (.spdm code body comp)
  sendSent h p m k s (countSent p m k s.env (modPeerAt p k (fun q => { q with answered := some s, script := q.script ++ [s.env.plain] }) b))

/-- This side sends the requests of the connection that runs. -/
def Peer.asks (q : Peer) : Bool := if q.requester then decide (q.state = 2 ∨ q.state = 3 ∨ q.state = 5) else decide (q.state = 4)

/-- Fresh attempt data under the present image and group size (R160, R161); what the driver's admission brought stays. -/
def Peer.started (q : Peer) (requester : Bool) (now : Word) (j : Jig) (log : Nat) : Peer :=
  { Peer.reset with state := 2, requester := requester, asked := now, image := some j, groupLog := log, reason := q.reason, admitCtx := q.admitCtx, relay := q.relay, port := q.port }

/-- The first request leaves (R159). -/
def startAttempt (h : Hard) (p : Part) (j : Jig) (m : MemberRef) (b : Block) : Block :=
  ask h p m cVersion .none [] (modAtt p m (fun q => q.started true b.now j (b.adm' p).groupLog) b)

/-- The anchor's order of work (R152): standbys, delegates, members it is the delegate of, members with an absent delegate, the rest. -/
def admitRank (b : Block) (p : Part) (j : Jig) (m : MemberRef) : Nat :=
  let a := b.adm' p
  let i := memberIndex m
  if a.anchor ≠ j.memberIndex ∨ !isAccel m then 0
  else if (standbys j a).contains i then 0
  else match delegateOf a.groupLog i with
    | none => 2
    | some d => if d = i then 1 else if d = a.anchor then 2
      else if (Tab.get? a.roster d.toNat).isNone && decide (a.formStart.toNat + 1000000000 ≤ b.now.toNat) then 3 else 4

/-- A discovered pair may start now (R152, R160): asked for by the driver, listed, a member of this delegate's group once it is keyed, or this member's delegate while its own anchor session does not stand. -/
def mayStart (b : Block) (p : Part) (j : Jig) (m : MemberRef) (q : Peer) : Bool :=
  let a := b.adm' p
  q.admitCtx.isSome || pairListed b p j true m
    || (isAccel m && isDelegateOf j a a.groupLog j.memberIndex (memberIndex m) && a.keyed)
    || (isAccel m && isDelegateOf j a a.groupLog (memberIndex m) j.memberIndex && !(b.peer p (accel a.anchor)).inSession)

/-- The discovered peers start, in order, while contexts are free. -/
def startAttempts (h : Hard) (p : Part) (b : Block) : Block :=
  match b.jigOf p with
  | none => b
  | some j =>
    let ready := (b.adm' p).peers.filter fun e => decide (e.2.state = 1) && decide (e.2.asked.toNat ≤ b.now.toNat) && mayStart b p j (BitVec.ofNat 32 e.1) e.2
    let order := sortBy (fun e => admitRank b p j (BitVec.ofNat 32 e.1)) ready
    order.foldl (fun b e => if b.contexts < contextCount h.cfg then startAttempt h p j (BitVec.ofNat 32 e.1) b else b) b

/-- An entry that waits its second after a refusal (R144). -/
def Peer.refused (reason : Nat) (now : Word) : Peer := { Peer.reset with state := 10, reason := BitVec.ofNat 16 reason, refusedAt := now }

/-- The entries a refusal leaves: an attempt beside a session waits beside it; a session that has replaced an older one and does not join is gone; a departure under way goes on. -/
def refusedEntries (m : MemberRef) (k : Nat) (q : Peer) (reason : Nat) (now : Word) (t : Tab Peer) : Tab Peer :=
  if k ≠ m.toNat then Tab.upd (Tab.set t k (Peer.refused reason now)) m.toNat Peer.reset fun x => { x with reason := BitVec.ofNat 16 reason }
  else if q.state = 8 then Tab.set (Tab.upd t m.toNat Peer.reset fun x => { x with rejoin := false, admitCtx := none, reason := BitVec.ofNat 16 reason }) (besideKey m) (Peer.refused reason now)
  else Tab.set t k (Peer.refused reason now)

/-- The attempt in entry `k` ends with a reason (R144, R145): a session built so far ends with END_SESSION, a waiting command completes, the pair is refused for a second. -/
def refuseQuiet (h : Hard) (p : Part) (m : MemberRef) (k reason : Nat) (b : Block) : Block :=
  let q := b.peerAt p k
  let b := if q.secret ≠ 0 ∨ reason = 0x000B then sendAt h p m k (.spdm cEndSession .none []) b else b
  let b := if q.secret = 0 then b else if q.rejoin then closeSession h p m stPeerDeparted b else endKey h q.secret b
  let b := match q.admitCtx with | some c => complete h c (if reason = 0x000B then stNoSlot else stPeerDeparted) reason 0 0 b | none => b
  push (.adm p) (settleBeside p m (modAdm p (fun a => { a with peers := refusedEntries m k q reason b.now a.peers }) b))

/-- The same with its event. -/
def refuseAt (h : Hard) (p : Part) (m : MemberRef) (k reason : Nat) (b : Block) : Block :=
  refuseQuiet h p m k reason (admNote h 0x0302 p [aW4 m.toNat, aHalf reason, aByte (b.peerAt p k).state.toNat] b)

def refuse (h : Hard) (p : Part) (m : MemberRef) (reason : Nat) (b : Block) : Block := refuseAt h p m (attKey b p m) reason b

/-- A secured message in entry `k` of a member: one that fails authentication is dropped and counted, the third in a row ends the session (R147). -/
def secInAt (h : Hard) (sec : Sec) (k : Nat) (f : Block → Block) (b : Block) : Block :=
  let q := b.peerAt sec.part k
  if !b.live || !q.hasSession then b
  else if sec.auth then f (modPeerAt sec.part k (fun q => { q with authFails := 0, received := q.received + 1 }) b)
  else
    let n := q.authFails + 1
    let b := modPeerAt sec.part k (fun q => { q with authFails := n }) b
    if n < 3 then b
    else
      let b := admNote h 0x0307 sec.part [aW4 sec.peer.toNat, aCount n] b
      if q.state = 6 then refuseAt h sec.part sec.peer k 0x000D b else sessionLost h sec.part sec.peer 3 b

/-- A secured message of a member. -/
def secIn (h : Hard) (sec : Sec) (f : Block → Block) (b : Block) : Block := secInAt h sec sec.peer.toNat f b

/-! ### Signatures and the key exchange (R141, R142, R185) -/

/-- The root-port value whose identity signs (R95): the selected one on a Closed chip, the test root's on an Open one. -/
def signRoot (h : Hard) (b : Block) : Key := if lcClosed b then b.keyVal 1 else testRoot h

/-- An entry of a companion (R141). -/
def compEntry (type : Nat) (data : Bytes) : Bytes := leBytes 2 type ++ leBytes 2 0 ++ leBytes 4 data.length ++ padTo8 data

/-- A signed message: its body with the ECDSA signature, and its companion with the ML-DSA-87 signature over the same M, of which the signature field and the type 1 entry are no part (R141). -/
def signBody (h : Hard) (b : Block) (q : Peer) (code : Byte) (body : Bytes → SpdmBody) (comp : Bytes) : SpdmBody × Bytes :=
  let msg := Config.spdmSigned code (q.script ++ [Config.spdmBytes code (body []) ++ comp])
  let k := signRoot h b
  (body (leBytes 96 (Config.ecdsaSign (idEcdsa k) msg).toNat), compEntry 1 (leBytes 4627 (Config.mldsaSign (idMldsa k) msg "swiwyn-spdm").toNat) ++ comp)

/-- Pairwise consistency and verify after sign (R185): a second failure Clamps. -/
def tested (h : Hard) (t : SelfTest) (f : Block → Block) (b : Block) : Block := if t = .fail then clamp h 5 27 none [] b else f b

/-- Pairs that fail once are drawn again (R185). -/
def drawTested (t : SelfTest) (f : Block → Block) (b : Block) : Block := if t = .retry then f (f b) else f b

/-- An ephemeral ECDH P-384 key of a draw. -/
def ecdhOf (d : BitVec 512) : Nat := d.toNat % (p384Order - 1) + 1

/-- The DHE share of an ephemeral key. -/
def shareOf (d : Nat) : Bytes := leBytes 96 (Config.ecdsaPublic d).toNat

/-- The hybrid DHE secret (R142). -/
def hybridDhe (ecdh : BitVec 384) (kem : Key) : BitVec 384 :=
  (Config.kmac256 (leBytes 48 ecdh.toNat ++ keyBytes kem) [] "SWY-HYBRID-DHE").setWidth 384

/-- The requester's fresh ML-KEM and ECDH pairs (R142). -/
def drawPairs (p : Part) (m : MemberRef) (b : Block) : Block :=
  let b := drawn (modAtt p m (fun q => { q with kem := b.draw }) b)
  drawn (modAtt p m (fun q => { q with ecdh := ecdhOf b.draw }) b)

/-! ### The measurement match (R146) -/

/-- The allow entries that apply to a partner. -/
def allowFor (j : Jig) (kind : Nat) (leaf : Digest) : List AllowEntry := j.allow.filter fun e => decide (e.kind.toNat = kind) && (decide (kind = 0) || decide (e.identity = leaf))

/-- The reason of a failed match, 0 when it holds. -/
def measureReason (j : Jig) (kind : Nat) (leaf : Digest) (blocks : List (Byte × Digest)) : Nat :=
  let es := allowFor j kind leaf
  if es = [] then 0x0003
  else if !((es.map fun e => e.measIndex).dedup.all fun i => match blocks.find? fun x => decide (x.1 = i) with
      | some x => es.any fun e => decide (e.measIndex = i ∧ e.measurement = x.2)
      | none => false) then 0x0005
  else if kind ≠ 0 ∧ (es.map fun e => e.index).dedup.length ≠ 1 then 0x0009
  else 0

/-! ### Keys: draw, wrap, deliver (R128, R149) -/

/-- The nonce of a blob this member wraps for a peer: the direction, then `WRAP_SEQ`. -/
def wrapIv (fromRequester : Bool) (seq : Word) : Bytes := leBytes 4 (if fromRequester then 0 else 1) ++ leBytes 8 seq.toNat

/-- Bytes 0 to 31 of a blob. -/
def blobHead (kind : Nat) (domain : BitVec 32) (attr : Word) (source dest : MemberRef) (seq : Word) : Bytes :=
  leBytes 2 1 ++ leBytes 1 kind ++ leBytes 1 0 ++ leBytes 4 domain.toNat ++ leBytes 8 attr.toNat ++ leBytes 4 source.toNat ++ leBytes 4 dest.toNat ++ leBytes 8 seq.toNat

/-- The attribute word a blob carries (R128). -/
def blobAttr (a : Attr) : Word := attrWord { a with parent := 0, owner := 0, st := 0 }

/-- Wraps a slot's key for a peer under its session (R128); counts the blob. -/
def wrapFor (p : Part) (m : MemberRef) (s : Slot) (b : Block) : Bytes × Block :=
  match b.jigOf p with
  | none => ([], b)
  | some j =>
    let q := b.peer p m
    let k := b.slot s.toNat
    let hd := blobHead 1 j.domainId (blobAttr k.attr) (accel j.memberIndex) m q.wrapOut
    let g := gcmSeal (kdf (b.keyVal q.secret) [] "SWY-KEY-WRAP") (wrapIv q.requester q.wrapOut) hd (keyBytes k.value)
    (hd ++ g.1 ++ tagBytes g.2, modPeer p m (fun q => { q with wrapOut := q.wrapOut + 1 }) b)

/-- Sends keys to a member (R149) in `KEY_DELIVER`. Group 0 names the domain partition key. -/
def deliverKeys (h : Hard) (p : Part) (m : MemberRef) (ks : List (BitVec 32 × Slot)) (b : Block) : Block :=
  if ks = [] then b
  else
    let r := ks.foldl (fun (acc : Bytes × Block) k =>
      let w := wrapFor p m k.2 acc.2
      (acc.1 ++ leBytes 4 k.1.toNat ++ leBytes 4 0 ++ w.1, w.2)) ([], b)
    sendTo h p m 0x03 r.1 r.2

/-- The live standbys. -/
def liveStandbys (b : Block) (p : Part) : List MemberRef :=
  match b.jigOf p with | some j => ((standbys j (b.adm' p)).map accel).filter fun m => (b.peer p m).inSession | none => []

/-- A standby gets a new group key, and a `PROBE` behind it whose answer acknowledges the key (R149; log entry 28). -/
def giveStandby (h : Hard) (p : Part) (g : BitVec 32) (s : Slot) (b : Block) (m : MemberRef) : Block :=
  sendTo h p m 0x0B [] (modPeer p m (fun q => { q with probes := q.probes + 1, probeTick := b.now }) (deliverKeys h p m [(g, s)] b))

/-- The keyed anchor draws the key of a group that is first named, and wraps it to both standbys (R149). -/
def drawGroup (h : Hard) (p : Part) (b : Block) (g : BitVec 32) : Block :=
  let a := b.adm' p
  if a.anchor ≠ b.selfIndex p ∨ a.keyed = false ∨ g = 0 ∨ (Tab.get? a.groupSlots g.toNat).isSome = true then b
  else match takeSlot (b.draw.setWidth 256) (childAttr b 7 (BitVec.ofNat 4 p.val) (16 + p.val) 0) (drawn b) with
    | none => b
    | some (s, b) =>
      let ss := liveStandbys b p
      ss.foldl (giveStandby h p g s) (modAdm p (fun a => { a with groupSlots := Tab.set a.groupSlots g.toNat s, drawn := if ss = [] then a.drawn else a.drawn ++ [{ group := g, await := ss, wants := [] }] }) b)

/-- A group key the standbys have not all acknowledged: nobody is answered with it yet (R149). -/
def groupWaits (b : Block) (p : Part) (g : BitVec 32) : Bool := (b.adm' p).drawn.any fun w => decide (w.group = g)

/-- A member waits for a group key on its way to the standbys. -/
def awaitGroups (p : Part) (m : MemberRef) (gs : List (BitVec 32)) (b : Block) : Block :=
  modAdm p (fun a => { a with drawn := a.drawn.map fun w => if gs.contains w.group && !w.wants.contains m then { w with wants := w.wants ++ [m] } else w }) b

/-- The group keys that can be given now. -/
def heldGroups (b : Block) (p : Part) (gs : List (BitVec 32)) : List (BitVec 32 × Slot) :=
  gs.filterMap fun g => if groupWaits b p g then none else (Tab.get? (b.adm' p).groupSlots g.toNat).map fun s => (g, s)

/-- The groups of a list whose key this member does not hold. -/
def groupsMissing (b : Block) (p : Part) (gs : List (BitVec 32)) : List (BitVec 32) := gs.filter fun g => (Tab.get? (b.adm' p).groupSlots g.toNat).isNone

/-- The groups whose keys a member is given: those whose tree, whose runs name all its members (R230), holds its index; of a switch those it serves. -/
def groupsOf' (j : Jig) (m : MemberRef) : List (BitVec 32) :=
  if isAccel m then (j.trees.filter fun t => t.runs.any fun r => decide (r.firstMember ≤ (memberIndex m).toNat ∧ (memberIndex m).toNat < r.firstMember + r.count)).map fun t => t.groupId
  else (j.groups.filter fun g => g.admitted && decide (g.switch = memberIndex m)).map fun g => g.groupId

/-! ### Pool reserves (R317) -/

/-- Opens a reserve as its keeper: none when its mirror holds it after a takeover, or nothing is free. -/
def openReserve (h : Hard) (p : Part) (j : Jig) (r : RegionRec) (b : Block) : Block :=
  let taken := match (b.mirrorEnt p r.regionId).bind fun x => x.token with | some t => decide (t.keeper ≠ j.memberIndex) | none => false
  if (b.regionById p r.regionId).isSome ∨ taken = true then b
  else match b.freeRegion, chooseTree h.cfg b p none, openKey p 2 0 r.regionId 0 b with
    | some rid, some me, some (s, b) =>
      let t := freshToken r.regionId j.memberIndex r.mirror j.domainId 0 (pagesOf r.size) (b.markOf p r.regionId 0 0)
      firstToken h rid (setRegion rid { openedRegion p none none 2 0 me r.offset r.node s t b.now with readers := otherMembers b p } b)
    | _, _, _ => b

/-- The reserves of an image: its own kind 2 regions no window names. -/
def reserveRecs (j : Jig) : List RegionRec := j.regions.filter fun r => decide (r.kind = 2 ∧ r.keeper = j.memberIndex) && !(j.windows.any fun w => decide (w.regionId = r.regionId))

def openReserves (h : Hard) (p : Part) (b : Block) : Block :=
  match b.jigOf p with
  | none => b
  | some j => (reserveRecs j).foldl (fun b r => openReserve h p j r b) b

/-- The partition holds the domain partition key now: its links and its reserves come to life (R149, R200, R317). -/
def becomeKeyed (h : Hard) (p : Part) (s : Slot) (b : Block) : Block :=
  push (.adm p) (push (.part p) (openReserves h p (linkKeyed h p (modAdm p (fun a => { a with keyed := true, domainSlot := s }) b))))

/-- Groups of the Jig for which the member holds no key. -/
def groupsLacking (b : Block) (p : Part) : List (BitVec 32) :=
  match b.jigOf p with | some j => groupsMissing b p (j.groups.map fun g => g.groupId) | none => []

def fetchBody (gs : List (BitVec 32)) : Bytes := leBytes 4 gs.length ++ gs.flatMap fun g => leBytes 4 g.toNat

/-- Asks the anchor for group keys (R149). -/
def fetchGroups (h : Hard) (p : Part) (gs : List (BitVec 32)) (b : Block) : Block :=
  let a := accel (b.adm' p).anchor
  if gs = [] ∨ (b.peer p a).inSession = false then b else sendTo h p a 0x04 (fetchBody gs) b

/-- Has group keys fetched from the anchor for a member that waits for them (R149). -/
def fetchFor (h : Hard) (p : Part) (m : MemberRef) (gs : List (BitVec 32)) (b : Block) : Block :=
  if (b.adm' p).anchor = b.selfIndex p then b
  else fetchGroups h p gs (modAdm p (fun a => { a with wantGroups := a.wantGroups ++ gs.map fun g => (m, g) }) b)

/-! ### Joining (R147, R148, R151, R152) -/

/-- The image an attempt began with (R160), else the present one. -/
def Peer.jig (q : Peer) (j : Jig) : Jig := q.image.getD j

/-- The `PROOF` of member `m` under the session's transcript hash TH (R148). -/
def joinProof (b : Block) (p : Part) (th : Digest) (m : MemberRef) : BitVec 128 :=
  kmac128 (b.keyVal (b.adm' p).domainSlot) (leBytes 48 th.toNat ++ leBytes 4 m.toNat) "SWY-JOIN-PROOF"

/-- This member's own `JOIN`, in the session of entry `k`. -/
def sendJoin (h : Hard) (p : Part) (m : MemberRef) (k : Nat) (b : Block) : Block :=
  match b.jigOf p with
  | none => b
  | some now =>
    let q := b.peerAt p k
    let j := q.jig now
    let a := b.adm' p
    let me := accel j.memberIndex
    let flags := bit (decide (a.anchor = j.memberIndex)) + 2 * bit ((standbys j a).contains j.memberIndex)
      + 4 * bit (isAccel m && isDelegateOf j a q.groupLog j.memberIndex (memberIndex m)) + 8 * bit a.keyed
    let proof : BitVec 128 := if a.keyed then joinProof b p q.th me else 0
    sendAt h p m k (.dove 0x01 (leBytes 4 me.toNat ++ leBytes 4 j.domainId.toNat ++ leBytes 48 j.ownerDigest.toNat ++ leBytes 48 j.commonDigest.toNat ++ leBytes 8 j.serial.toNat ++ leBytes 4 a.term.toNat ++ leBytes 4 flags
      ++ leBytes 16 proof.toNat)) b

/-- A session begins in an entry. -/
def Peer.inStep6 (q : Peer) (s : Slot) (sid : BitVec 32) : Peer :=
  { q with state := 6, secret := s, sessionId := sid, step := 0, sent := 0, received := 0, authFails := 0, probes := 0, wrapOut := 0, wrapIn := none,
           asking := none, answered := none, joinIn := false, ackOut := false, ackIn := false, ackHeld := false }

/-- An entry whose session has been replaced by the one of the attempt `q` (R159): admitted or departing as it was, with a session that is yet to join. -/
def Peer.replacedBy (old q : Peer) : Peer :=
  { q with state := old.state, rejoin := true, reason := old.reason, epoch := old.epoch, admEpoch := old.admEpoch, relay := old.relay, port := old.port,
           admitCtx := q.admitCtx.orElse fun _ => old.admitCtx }

/-- The session stands at FINISH (R26, R116, R147, R159): its secret enters a slot; one under the identity tag of a session that stands ends that session first, one under another waits beside it for its `JOIN`. No free key slot counts as a full table (DESIGN CHOICE, log entry 28). -/
def sessionUp (h : Hard) (p : Part) (m : MemberRef) (b : Block) : Block :=
  let k := attKey b p m
  let q := b.peerAt p k
  let old := b.peer p m
  let again := decide (k ≠ m.toNat) && decide (old.tag = q.tag)
  let ends := bit (again && decide (old.secret ≠ 0))
  let held := (b.adm.map fun e => Tab.count e.2.peers fun _ x => decide (x.secret ≠ 0)).sum - ends
  let own := Tab.count (b.adm' p).peers (fun _ x => decide (x.secret ≠ 0)) - ends
  if 262144 ≤ held ∨ 131072 ≤ own ∨ b.lowestFreeSlot = none then refuse h p m 0x000B b
  else
    let b := if again then closeSession h p m stPeerDeparted b else b
    match takeSlot (kdf (Config.exportSecret q.dhe q.th) (leBytes 4 m.toNat) "SWY-SESSION") (childAttr b 4 (BitVec.ofNat 4 p.val) (16 + p.val) 0) b with
    | none => b
    | some (s, b) =>
      let up := q.inStep6 s (b.adm' p).nextSid
      let place (t : Tab Peer) : Tab Peer := if again then Tab.set (Tab.del t k) m.toNat (old.replacedBy up) else Tab.set t k up
      sendJoin h p m (if again then m.toNat else k) (modAdm p (fun a => { a with nextSid := a.nextSid + 1, peers := place a.peers }) b)

/-- The peers whose measurements an allow list does not hold (R80, R146). -/
def staleMeas (new : Jig) (m : MemberRef) (q : Peer) : Bool :=
  decide (measureReason new (memberKind m) q.leaf q.meas ≠ 0)
    || (decide (memberKind m ≠ 0) && !((allowFor new (memberKind m) q.leaf).any fun a => decide (a.index = memberIndex m)))

/-- A peer is released at an activation (R80, R156 cause 4). -/
def dropPeer (h : Hard) (p : Part) (m : MemberRef) (b : Block) : Block :=
  let b := if isAccel m && decide ((b.adm' p).anchor = b.selfIndex p) then recordDeparture h p m 4 b else setDeparting p m 4 (departEpoch b p) false b
  closeSession h p m stPeerDeparted (sendEnv h p m (.spdm cEndSession .none []) b)

/-- The delegate session of this member that its own anchor session now replaces (R152): of no pair R26 lists. -/
def delegatesDone (b : Block) (p : Part) (j : Jig) : List MemberRef :=
  let a := b.adm' p
  ((a.peers.filter fun x => x.2.inSession && decide (x.1 < 2 ^ 32)).map fun x => (BitVec.ofNat 32 x.1, x.2)).filterMap fun x =>
    if isAccel x.1 && isDelegateOf j a x.2.groupLog (memberIndex x.1) j.memberIndex && !pairListed b p j true x.1 then some x.1 else none

/-- The entry of a session that ended and is no departure: with none under way it is free. -/
def freeEntry (p : Part) (m : MemberRef) (b : Block) : Block :=
  settleBeside p m (modPeer p m (fun q => { q with state := if q.state = 8 then 8 else 0, rejoin := false }) b)

/-- A session ends as asked, and not as a departure. -/
def endSession (h : Hard) (p : Part) (b : Block) (m : MemberRef) : Block :=
  freeEntry p m (closeSession h p m stPeerDeparted (sendEnv h p m (.spdm cEndSession .none []) b))

/-- The whole roster, for a standby that is admitted (R150, R151). -/
def sendRoster (h : Hard) (p : Part) (m : MemberRef) (b : Block) : Block :=
  (b.adm' p).roster.foldl (fun b e => sendTo h p m 0x07 (leBytes 2 e.2.index.toNat ++ leBytes 2 e.2.state.toNat ++ leBytes 4 0 ++ leBytes 16 e.2.tag.toNat) b) b

/-- What an admission brings about besides its record: the member's own anchor session takes the place of the delegate's (R152); a standby, and a new anchor from a former one outside its family, get the roster (R154); a region whose mirror this was has its mirror again (R265). -/
def welcomed (h : Hard) (p : Part) (j : Jig) (m : MemberRef) (b : Block) : Block :=
  let a := b.adm' p
  let b := if m = accel a.anchor then fetchGroups h p (groupsLacking b p) ((delegatesDone b p j).foldl (endSession h p) b) else b
  let b := if (a.anchor = j.memberIndex ∧ isAccel m ∧ (standbys j a).contains (memberIndex m) = true) ∨ (m = accel a.anchor ∧ j.anchors.contains j.memberIndex = false) then sendRoster h p m b else b
  (b.regions.filter fun e => decide (e.2.part = p ∧ e.2.role = 0 ∧ e.2.kind = 2) && e.2.token.noMirror && decide (accel e.2.token.mirror = m)).foldl (fun b e => wantPub e.1 b) b

/-- Both sides have said yes: the pair is admitted (R159), a waiting command completes. An attempt that began under an older image is held to the present one (R160). -/
def admitted (h : Hard) (p : Part) (m : MemberRef) (b : Block) : Block :=
  match b.jigOf p with
  | none => b
  | some j =>
    let q := b.peer p m
    let now : BitVec 32 := (b.epochSt p).epoch.setWidth 32
    let roles := bit q.anchor + 2 * bit q.standby + 4 * bit q.delegate + 8 * bit q.keyed
    let leaving := (b.adm' p).departing.any fun d => decide (d.member = m)
    let b := modPeer p m (fun q => { q with state := if leaving then 8 else 7, rejoin := false, epoch := if leaving then q.epoch else now, admEpoch := now, image := none, admitCtx := none }) b
    let b := admNote h 0x0301 p [aW4 m.toNat, aW4 q.sessionId.toNat, aByte roles] b
    let b := match q.admitCtx with | some c => complete h c stOk 0 (q.sessionId.toNat + 2 ^ 32 * (b.adm' p).term.toNat) 0 b | none => b
    let away (i : BitVec 16) : Bool := !isAccel m || decide (i ≠ memberIndex m)
    let b := modAdm p (fun a => { a with departed := a.departed.filter away, lost := a.lost.filter away, heard := if isAccel m then Tab.set a.heard (memberIndex m).toNat b.now else a.heard,
                                         byAnchor := a.byAnchor || decide (m = accel a.anchor), noAnchor := if m = accel a.anchor then false else a.noAnchor }) b
    let b := push (.adm p) (push (.part p) (welcomed h p j m b))
    if q.jig j ≠ j ∧ staleMeas j m q = true then dropPeer h p m b else b

/-- This side's yes (R149, R151): keys first for an unkeyed member it can key, then `JOIN_ACK`; it waits while a group key is on its way to the standbys. Group keys this member lacks are fetched and passed on. -/
def sendAck (h : Hard) (p : Part) (m : MemberRef) (b : Block) : Block :=
  match b.jigOf p with
  | none => b
  | some now =>
    let q := b.peer p m
    let gives := !q.keyed && (b.adm' p).keyed && decide (memberKind m ≠ 1)
    let gs := if gives then groupsOf' (q.jig now) m else []
    let b := gs.foldl (drawGroup h p) b
    if gs.any (groupWaits b p) then awaitGroups p m gs (modPeer p m (fun q => { q with ackHeld := true }) b)
    else
      let b := if gives then fetchFor h p m (groupsMissing b p gs) (deliverKeys h p m ((if isAccel m then [((0 : BitVec 32), (b.adm' p).domainSlot)] else []) ++ heldGroups b p gs) b) else b
      let b := sendTo h p m 0x02 (leBytes 8 0) (modPeer p m (fun q => { q with ackOut := true, ackHeld := false }) b)
      if q.ackIn then admitted h p m b else b

/-- Which of the two sides can key the other, if one must (R148). -/
def canKey (b : Block) (p : Part) (j : Jig) (m : MemberRef) (log : Nat) (body : Join) : Bool :=
  let a := b.adm' p
  if !isAccel m ∨ (a.keyed ∧ body.keyed) then true
  else if a.keyed then decide (a.anchor = j.memberIndex) || (standbys j a).contains j.memberIndex || isDelegateOf j a log j.memberIndex (memberIndex m)
  else body.keyed && (body.isAnchor || body.isStandby || body.isDelegate)

/-- An accelerator's index is to be claimed from the anchor: this member is its delegate and not the anchor. -/
def mustClaim (b : Block) (p : Part) (j : Jig) (m : MemberRef) (log : Nat) (body : Join) : Bool :=
  let a := b.adm' p
  isAccel m && decide (a.anchor ≠ j.memberIndex) && isDelegateOf j a log j.memberIndex (memberIndex m) && !body.keyed

/-- The roster with the changes under way, or the entry of the pair, shows the index with another identity (R15, R151, R158). -/
def indexTaken (b : Block) (p : Part) (m : MemberRef) (tag : BitVec 128) : Bool :=
  (isAccel m && match b.rosterNow p (memberIndex m) with | some e => decide (e.state ≠ 0 ∧ e.tag ≠ tag) | none => false)
    || decide (((b.peer p m).state = 7 ∨ (b.peer p m).state = 8) ∧ (b.peer p m).tag ≠ tag)

/-- The reason `JOIN` is refused with (R145, R154, R155), 0 when it passes. -/
def joinReason (b : Block) (p : Part) (j : Jig) (m : MemberRef) (q : Peer) (body : Join) : Nat :=
  let i := memberIndex m
  let a := b.adm' p
  if body.domainId ≠ j.domainId ∨ body.ownerDigest ≠ j.ownerDigest then 0x0007
  else if isAccel m ∧ body.commonDigest ≠ j.commonDigest then 0x0005
  else if indexTaken b p m q.tag then 0x0008
  else if body.member ≠ m ∨ (isAccel m ∧ j.memberCount ≤ i.toNat) ∨ (!isAccel m ∧ !((allowFor j (memberKind m) q.leaf).any fun e => decide (e.index = i))) then 0x0009
  else if isAccel m ∧ a.keyed ∧ body.keyed ∧ body.proof ≠ joinProof b p q.th m then 0x000A
  else if q.overtaken ∨ (isAccel m ∧ a.noAnchor) ∨ !canKey b p j m q.groupLog body ∨ (mustClaim b p j m q.groupLog body ∧ (b.peer p (accel a.anchor)).inSession = false) then 0x000C
  else if !pairListed b p j true m ∧ !delegatePair j a q.groupLog m then 0x000F
  else 0

/-- A departure under way no longer takes place here (R158): the entry is admitted again, with the epoch of its admission (R162). -/
def undoDeparting (p : Part) (m : MemberRef) (b : Block) : Block :=
  let b := modAdm p (fun a => { a with departing := a.departing.filter fun d => decide (d.member ≠ m), lost := a.lost.filter fun i => !isAccel m || decide (i ≠ memberIndex m) }) b
  if (b.peer p m).state = 8 then settleBeside p m (modPeer p m (fun q => { q with state := if q.secret = 0 then 0 else 7, epoch := q.admEpoch }) b) else b

/-- The anchor withdraws a departure under way (R158). -/
def withdrawDeparture (h : Hard) (p : Part) (m : MemberRef) (b : Block) : Block :=
  if !((b.adm' p).departing.any fun d => decide (d.member = m)) then b
  else
    let b := undoDeparting p m b
    (((b.adm' p).peers.filter fun x => x.2.inSession && decide (x.1 < 2 ^ 32)).map fun x => BitVec.ofNat 32 x.1).foldl (fun b x => sendTo h p x 0x0A (departBody m 0 0) b) b

/-- The anchor's part of a `JOIN` or claim: the index is granted once the standbys know (R150, R151). -/
def grantIndex (h : Hard) (p : Part) (i : BitVec 16) (tag : BitVec 128) (grant : MemberRef) (b : Block) : Block :=
  changeRoster h p { index := i, state := 1, tag := tag } (some grant) (withdrawDeparture h p (accel i) b)

/-- The index is live under the identity, with no change under way. -/
def rosterLive (b : Block) (p : Part) (i : BitVec 16) (tag : BitVec 128) : Bool :=
  let a := b.adm' p
  (match Tab.get? a.roster i.toNat with | some e => decide (e.state = 1 ∧ e.tag = tag) | none => false) && !(a.rosterPend.any fun r => decide (r.entry.index = i))

/-- `JOIN` passes: the answer leaves at once, or waits for the roster's change or the anchor's grant. -/
def joinPasses (h : Hard) (p : Part) (j : Jig) (m : MemberRef) (body : Join) (b : Block) : Block :=
  let q := b.peer p m
  let a := b.adm' p
  let b := modPeer p m (fun q => { q with joinIn := true, keyed := body.keyed, anchor := body.isAnchor, standby := body.isStandby,
                                          delegate := body.isDelegate || (isAccel m && isDelegateOf j a q.groupLog j.memberIndex (memberIndex m) && !body.keyed) }) b
  if isAccel m ∧ a.anchor = j.memberIndex ∧ rosterLive b p (memberIndex m) q.tag = false then
    grantIndex h p (memberIndex m) q.tag m (modPeer p m (fun q => { q with ackHeld := true }) b)
  else if mustClaim b p j m q.groupLog body then
    sendTo h p (accel a.anchor) 0x05 (leBytes 2 (memberIndex m).toNat ++ leBytes 6 0 ++ leBytes 16 q.tag.toNat) (modPeer p m (fun q => { q with ackHeld := true }) b)
  else sendAck h p m b

/-! ### What admission leaves to be done -/

/-- Roster changes all standbys have acknowledged take effect, with the grants they release (R150). -/
def rosterStep (h : Hard) (p : Part) (b : Block) : Block :=
  let ready := (b.adm' p).rosterPend.filter fun r => decide (r.await = [])
  let b := modAdm p (fun a => { a with rosterPend := a.rosterPend.filter fun r => decide (r.await ≠ []),
                                       roster := ready.foldl (fun t r => if r.entry.state = 0 then Tab.del t r.entry.index.toNat else Tab.set t r.entry.index.toNat r.entry) a.roster }) b
  ready.foldl (fun b r => match r.grant with
    | none => b
    | some m =>
      if m = accel r.entry.index then (if (b.peer p m).ackHeld then sendAck h p m b else b)
      else sendTo h p m 0x06 (leBytes 2 r.entry.index.toNat ++ leBytes 2 0) b) b

/-- A group key goes to the members that waited for it: a held `JOIN_ACK` leaves, or the key alone. -/
def giveWaiting (h : Hard) (p : Part) (b : Block) (w : GroupWait) : Block :=
  w.wants.foldl (fun b m => if (b.peer p m).ackHeld then sendAck h p m b else if (b.peer p m).hasSession then deliverKeys h p m (heldGroups b p [w.group]) b else b) b

/-- Group keys all standbys have acknowledged are given out (R149). -/
def groupStep (h : Hard) (p : Part) (b : Block) : Block :=
  let ready := (b.adm' p).drawn.filter fun w => decide (w.await = [])
  ready.foldl (giveWaiting h p) (modAdm p (fun a => { a with drawn := a.drawn.filter fun w => decide (w.await ≠ []) }) b)

def admWork (h : Hard) (p : Part) (b : Block) : Block := startAttempts h p (groupStep h p (rosterStep h p b))

/-! ### Leaving (R156, R161) -/

/-- A member leaves the domain by itself (R156, R161): `DEPART` to each peer, then END_SESSION; how many sessions ended. -/
def selfRelease (h : Hard) (p : Part) (b : Block) : Nat × Block :=
  let me := b.selfRef p
  let e := departEpoch b p
  let ms := ((b.adm' p).peers.filter fun x => x.2.hasSession && decide (x.1 < 2 ^ 32)).map fun x => BitVec.ofNat 32 x.1
  let b := ms.foldl (fun b m => sendTo h p m 0x0A (departBody me 1 e) b) b
  let b := ms.foldl (endSession h p) b
  let b := ((b.adm' p).peers.filter fun x => x.2.secret ≠ 0).foldl (fun b x => endKey h x.2.secret b) b
  let b := ((b.adm' p).peers.filter fun x => x.2.admitCtx.isSome).foldl (fun b x => completeOpt h x.2.admitCtx stPeerDeparted 0 0 0 b) b
  (ms.length, modAdm p (fun a => { a with selfOff := true, peers := Tab.keep a.peers fun _ q => decide (q.state = 8 ∨ q.state = 9) }) b)

end Sys2Proof.Machine
end

