-- ==== Sys2Proof/Machine/Settle.lean ====
section
/-! DEFINITION. The work a command leaves behind, done before its effect ends: requests go on, bundles end, publications, fences, translation changes and the release of a partition advance until nothing can (R251, R262, R297, R313, R323, R344). -/

namespace Sys2Proof.Machine

/-! ### The end of a partition's release (R344) -/

/-- The partition's state changes; its status source fires (R358). -/
def setPartState (h : Hard) (p : Part) (n : BitVec 2) (b : Block) : Block := fire h (272 + p.val) (modPart p (fun s => { s with state := n }) b)

/-- Whatever a partition leaves in the islands when its release ends. -/
def wipePart (p : Part) (b : Block) : Block :=
  { b with
    adm := Tab.del b.adm p.val, ahu := Tab.del b.ahu p.val, ptu := Tab.del b.ptu p.val, epochs := Tab.del b.epochs p.val,
    pports := Tab.keep b.pports fun n _ => decide (n % 8 ≠ p.val), lparts := Tab.keep b.lparts fun n _ => decide (n % 8 ≠ p.val), meparts := Tab.keep b.meparts fun n _ => decide (n % 8 ≠ p.val),
    vgroups := b.vgroups.filter fun g => decide (g.part ≠ p), marks := b.marks.filter fun m => decide (m.part ≠ p), mirrors := b.mirrors.filter fun m => decide (m.part ≠ p),
    memReqs := b.memReqs.filter fun m => decide (m.part ≠ p), bundles := b.bundles.filter fun y => decide (y.part ≠ p),
    shim := b.shim.filter fun x => decide (x.2.part ≠ p) }

/-- Still to be cleared, or a command of the partition still to end. -/
def releaseWaits (b : Block) (p : Part) : Bool :=
  decide ((b.ptuPart p).changes ≠ []) || (b.mes.any fun e => e.2.placed.any fun f => decide (f.part = p)) || (b.host.bounces.any fun e => decide (e.2.part = p))
    || (b.host.queues.any fun e => decide (e.2.part = p) && e.2.flight.any fun f => decide (f.opcode ≠ 0x12 ∧ f.opcode ≠ 0x13))

/-- A hand-off of a release that its mirror can no longer take: the region closes. -/
def closeStranded (h : Hard) (p : Part) (b : Block) : Block :=
  (b.regions.filter fun e => decide (e.2.part = p) && e.2.closing && !b.session p (if e.2.state = 7 then e.2.token.keeper else e.2.token.mirror)).foldl (fun b e => closeRegion h e.1 b) b

/-- The slot of a partition's root (R111). -/
def rootSlot (p : Part) : Nat := 16 + p.val

/-- Its regions handed off, a released partition departs, its keys are orphaned and its grid shares are free (R344). -/
def leaveDomain (h : Hard) (p : Part) (b : Block) : Block :=
  if b.slotLive (rootSlot p) = false then b
  else
    let b := (selfRelease h p b).2
    rebuildGrids h (modPart p (fun s => { s with gridOff := true }) (invalidate h (rootSlot p) none b))

/-- The release goes on once the regions are gone, and completes once everything is cleared. -/
def releaseStep (h : Hard) (p : Part) (b : Block) : Block :=
  match (b.part p).release with
  | none => b
  | some ctx =>
    let b := closeStranded h p b
    if b.regions.any fun e => decide (e.2.part = p) then b
    else
      let b := leaveDomain h p b
      if releaseWaits b p then b
      else
        let b := setPartState h p 0 (wipePart p b)
        let b := complete h ctx stOk 0 0 0 b
        let fresh (s : PartSt) : PartSt := { PartSt.reset with qDone := s.qDone, qStatus := s.qStatus, qQueue := s.qQueue, qVector := s.qVector, qCqLog := s.qCqLog,
                                                               qSqLog := s.qSqLog, qPasid := s.qPasid, qSqBase := s.qSqBase, qCqBase := s.qCqBase }
        compatApply (modPart p fresh b)

/-! ### Deferred frees (R343) -/

/-- A dying region nobody names any longer, whose window has not begun to close. -/
def regionDue (b : Block) (e : Nat × Region) : Bool :=
  e.2.dying && !b.isNamed 2 (BitVec.ofNat 32 e.1) && !((b.ptuPart e.2.part).changes.any fun c => decide (c.kind = 3 ∧ c.window = e.1))

/-- A dying bounce window nobody names any longer. -/
def bounceDue (b : Block) (e : Nat × Bounce) : Bool := e.2.dying.isSome && decide (e.2.state ≠ 3) && !b.isNamed 4 (BitVec.ofNat 32 e.1)

/-- A freed fence object nobody names any longer. -/
def fenceDue (b : Block) (e : Nat × FenceObj) : Bool :=
  e.2.freed && e.2.deferral.isSome && !e.2.claimed && decide (e.2.waits = []) && !b.isNamed 3 (b.fenceHandle e.1)

/-- Objects whose last reference has gone are freed: a region's window closes, a bounce window ends, a fence's slot is free and its deferral fence is signalled. -/
def freeDying (h : Hard) (b : Block) : Block :=
  let b := (b.regions.filter (regionDue b)).foldl (fun b e => push (.part e.2.part) (newChange e.2.part { XChange.blank 3 none with window := e.1 } b)) b
  let b := (b.host.bounces.filter (bounceDue b)).foldl (fun b e => endBounce h (BitVec.ofNat 6 e.1) stAborted b) b
  (b.host.fences.filter (fenceDue b)).foldl (fun b e => signalDeferral h e.2.deferral (freeFence e.1 b)) b

def anyDying (b : Block) : Bool := b.regions.any (regionDue b) || b.host.bounces.any (bounceDue b) || b.host.fences.any (fenceDue b)

/-! ### Bundles -/

/-- A bundle of line requests has ended. -/
def bundleDone (h : Hard) (id : Nat) (b : Block) : Block :=
  match b.bundle id with
  | none => b
  | some y =>
    let b := dropBundle id b
    match y.what with
    | .pair peer mtype x => pairDone h y.part peer mtype x y b
    | .bounce w reqId read addr => bounceDone h w reqId read addr y b
    | .move c wrote => moveDone h y.part c wrote y b
    | .table key => tableRead h y.part key y.status b
    | .slot me n => slotFilled me y.part n y b
    | .reverify rid peer page lines =>
      match b.region rid with
      | none => b
      | some r =>
        let more := if lines ∨ y.status ≠ stOk then [] else pageFills b rid r page
        if more = [] then answerReverify h rid peer b else newReqs r.part rid (.reverify rid peer page true) more b
    | .audit rid page lines =>
      match b.region rid with
      | none => b
      | some r =>
        if !lines ∧ y.status ≠ stOk ∧ r.repair.isSome then b
        else
          let more := if lines ∨ y.status ≠ stOk then [] else pageFills b rid r page
          if more = [] then auditPassed h rid b else newReqs r.part rid (.audit rid page true) more b
    | .gather rid => gathered rid y b
    | .quiet => b

/-! ### The loop -/

/-- Everything of a partition that may have been waiting for room, a key, a session or an epoch. -/
def partWork (h : Hard) (p : Part) (b : Block) : Block :=
  let b := (b.memReqs.filter fun m => decide (m.part = p)).foldl (fun b m => advanceReq h m.id b) b
  let b := kickChanges h p (retry h p b)
  let b := (b.regions.filter fun e => decide (e.2.part = p) && e.2.pub.isSome).foldl (fun b e => push (.pub e.1) b) b
  releaseStep h p b

def doWork (h : Hard) (w : Work) (b : Block) : Block :=
  match w with
  | .req id => advanceReq h id b
  | .bundle id => bundleDone h id b
  | .pub rid => pubStep h rid b
  | .fences p => fenceStep h p b
  | .part p => partWork h p b
  | .adm p => admWork h p b

/-- Does the work in order; nothing runs on while the block is halted (R371). -/
def settleFuel (h : Hard) : Nat → Block → Block
  | 0, b => b
  | n + 1, b =>
    match b.work with
    | [] => if !b.rst.halted && anyDying b then settleFuel h n (freeDying h b) else b
    | w :: ws => if b.rst.halted then { b with work := [] } else settleFuel h n (doWork h w { b with work := ws.filter fun x => decide (x ≠ w) })

/-- The steps of work one command may leave (log entry 27). -/
def settleBound : Nat := 1048576

def settle (h : Hard) (b : Block) : Block := settleFuel h settleBound b

/-- A command of the running islands, with the work it leaves. -/
def act (f : Hard → Block → Block) (s : State) : Host.Outcome State Fault Refusal := onB (fun h => whenLive fun b => settle h (f h b)) s

/-- A command fetched from a queue, with the work it leaves. -/
def actCmd (ctx : CmdCtx) (opcode otype : Nat) (f : Hard → Queue → Block → Block) (s : State) : Host.Outcome State Fault Refusal :=
  onB (fun h b => settle h (runCmd h ctx opcode otype (f h) b)) s

/-- A secured message that arrives in a session, with the work it leaves. -/
def actSec (sec : Sec) (f : Hard → Block → Block) (s : State) : Host.Outcome State Fault Refusal := onB (fun h b => settle h (secIn h sec (f h) b)) s

/-- Every partition is looked at again: after a change of the ports, the islands or the stacks. -/
def pushAll (b : Block) : Block := allParts.foldl (fun b p => if b.partExists p then push (.part p) b else b) b

end Sys2Proof.Machine
end

