-- ==== Sys2Proof/Machine/Access.lean ====
section
/-! DEFINITION. How the driver's writes reach the registers (R371, R404, R407), and the wake of an island (R44, R366). -/

namespace Sys2Proof.Machine

/-- The D2H rings of every window are looked at again. -/
def drainRings (h : Hard) (b : Block) : Block :=
  b.host.bounces.foldl (fun b e => drainD2h h (BitVec.ofNat 6 e.1) e.2.outq.length b) b

/-- An island runs again (R44, R366): its keys are on their way, its stub is restored and the latches set meanwhile go on, what waited for it goes on. -/
def wakeIsland (h : Hard) (i : Island) (b : Block) : Block :=
  let st := b.island i
  if st.asleep = false then b
  else
    let b := modIsland i (fun st => { st with asleep := false, stubLatch := [], retained := false }) b
    let b := st.stubLatch.foldl (fun b x => fire h x b) (refillGroups i (cacheRefill i b))
    let b := match i with
      | .le n => allParts.foldl (fun b p => drainInbuf h n p b) b
      | .hbe => drainRings h b
      | _ => b
    pushAll b

/-- A driver's write to a register, with the work it leaves (R407). -/
def regAct (f : Hard → Block → Block) (s : State) : Host.Outcome State Fault Refusal := onB (fun h b => if b.regs then settle h (f h b) else b) s

/-- An island's page takes a write: not while absent or in engine reset; an island asleep wakes (R3, R407). -/
def islandReg (i : Island) (f : Hard → Block → Block) (h : Hard) (b : Block) : Block :=
  if !islandPresent h.cfg i || (b.island i).inReset then b else f h (wakeIsland h i b)

/-- A partition's page takes a write once the partition is created (R407). -/
def partReg (p : Part) (f : Hard → Block → Block) (h : Hard) (b : Block) : Block := if b.partExists p then f h b else b

end Sys2Proof.Machine
end

