-- ==== Sys2Proof/Machine/Admission.lean ====
section
/-! DEFINITION. The commands of admission (R135 to R165, R411): envelopes and announcements, the SPDM requests and responses of an attempt, the messages of a session, roster, heartbeats and takeover, departures, and the driver's two commands. -/

namespace Sys2Proof.Machine

/-! ### Envelopes and discovery -/

def Reasm.got (r : Reasm) : Nat := (r.frags.map fun f => f.2.length).sum
/-- A fragment lies over one already held. -/
def Reasm.overlaps (r : Reasm) (off len : Nat) : Bool := r.frags.any fun f => decide (off < f.1 + f.2.length ∧ f.1 < off + len)

/-- The message of all fragments. -/
def Reasm.message (r : Reasm) : Bytes := (sortBy (fun f => f.1) r.frags).flatMap fun f => f.2

def spdmErr (h : Hard) (p : Part) (m : MemberRef) (e : Byte) (b : Block) : Block := sendEnv h p m (.spdm cError (.error e) []) b

/-- A fragment's header (R135, R136): the version, a known kind, zero in the reserved word, `DST` this member, or 0 in an announcement (DEDUCED, log entry 28), the lengths, and the message whole where a host relays it. -/
def fragmentOk (b : Block) (p : Part) (hd : EnvHead) (data : Bytes) : Bool :=
  decide (hd.version = 1 ∧ 1 ≤ hd.kind.toNat ∧ hd.kind.toNat ≤ 3 ∧ hd.resv = 0 ∧ hd.dst = if hd.kind = 1 then 0 else b.selfRef p)
    && decide (1 ≤ hd.totalLen.toNat ∧ hd.totalLen.toNat ≤ 61440 ∧ data.length = hd.fragLen.toNat ∧ hd.fragOffset.toNat + data.length ≤ hd.totalLen.toNat)
    && (if hd.kind = 2 then decide (hd.spdmLen.toNat ≤ hd.totalLen.toNat) else decide (hd.spdmLen = hd.totalLen))
    && (if memberKind hd.src = 1 then decide (data.length = hd.totalLen.toNat) else decide (data.length ≤ 480))

/-- The request code of an SPDM message outside the subset of R139 (SPDM 1.3: the second byte, requests from 0x80 on; PRESUMED, log entry 6). -/
def outsideSubset (spdm : Bytes) : Bool :=
  match spdm with
  | _ :: c :: _ => decide (0x80 ≤ c.toNat) && !subsetCodes.contains c
  | _ => false

/-- A complete message goes on to admission as the command it carries; an SPDM request outside the subset is answered ERROR UnsupportedRequest (R139). -/
def envelopeDone (h : Hard) (p : Part) (hd : EnvHead) (msg : Bytes) (b : Block) : Block :=
  let b := emit (.envelope p hd.src hd.kind hd.spdmLen.toNat msg) b
  if hd.kind = 2 ∧ outsideSubset (msg.take hd.spdmLen.toNat) = true then spdmErr h p hd.src errUnsupported b else b

/-- ENVELOPE_FRAGMENT (R135, R136): reassembled by sender and `MSG_ID`. -/
def execEnvelopeFragment (part : Part) (hd : EnvHead) (data : Bytes) (s : State) : Host.Outcome State Fault Refusal :=
  act (fun h b =>
    let off := hd.fragOffset.toNat
    let same (r : Reasm) : Bool := decide (r.src = hd.src ∧ r.msgId = hd.msgId)
    let drop (b : Block) : Block := modAdm part (fun a => { a with reasm := a.reasm.filter fun r => !same r }) b
    if (b.jigOf part).isNone ∨ fragmentOk b part hd data = false then b
    else
      match (b.adm' part).reasm.find? same with
      | none =>
        if data.length = hd.totalLen.toNat then envelopeDone h part hd data b
        else modAdm part (fun a => { a with reasm := a.reasm ++ [{ src := hd.src, msgId := hd.msgId, totalLen := hd.totalLen, started := b.now, frags := [(off, data)] }] }) b
      | some r =>
        if r.totalLen ≠ hd.totalLen ∨ r.overlaps off data.length = true then drop b
        else
          let r' : Reasm := { r with frags := r.frags ++ [(off, data)] }
          if r'.got = hd.totalLen.toNat then envelopeDone h part hd r'.message (drop b)
          else modAdm part (fun a => { a with reasm := a.reasm.map fun x => if same x then r' else x }) b) s

/-- ENVELOPE_REASSEMBLY_TIMEOUT (R136): a message not complete 10 ms after its first fragment is discarded. -/
def execEnvelopeReassemblyTimeout (part : Part) (src : MemberRef) (msgId : BitVec 16) (s : State) : Host.Outcome State Fault Refusal :=
  act (fun _ b => modAdm part (fun a => { a with reasm := a.reasm.filter fun r => !(decide (r.src = src ∧ r.msgId = msgId) && decide (r.started.toNat + 10000000 ≤ b.now.toNat)) }) b) s

/-- The sessions with anchor and standbys stand (R138). -/
def formed (b : Block) (p : Part) (j : Jig) : Bool :=
  let a := b.adm' p
  (((a.anchor :: standbys j a).filter fun i => decide (i ≠ j.memberIndex)).all fun i => (b.peer p (accel i)).inSession)

/-- ANNOUNCEMENT_SEND (R137, R138, R411): every 100 ms until the partition is formed, then every second. -/
def execAnnouncementSend (part : Part) (s : State) : Host.Outcome State Fault Refusal :=
  act (fun h b =>
    match b.jigOf part with
    | none => b
    | some j =>
      let a := b.adm' part
      if b.now.toNat < a.announceAt.toNat ∨ a.selfOff = true then b
      else
        let body := leBytes 48 j.ownerDigest.toNat ++ leBytes 8 j.serial.toNat ++ leBytes 4 a.term.toNat
          ++ leBytes 4 (bit (lcClosed b) + 2 * bit a.keyed + 4 * bit (decide (a.anchor = j.memberIndex)))
        sendAnnouncement h.cfg part j body (modAdm part (fun a => { a with announceAt := b.now + (if formed b part j then 1000000000 else 100000000) }) b)) s

/-- A member becomes discovered, and its admission starts (R159); beside a departure under way where there is one (R158). -/
def discover (p : Part) (m : MemberRef) (b : Block) : Block :=
  let q := b.peer p m
  let found (q : Peer) : Peer := { Peer.reset with state := 1, reason := q.reason, admitCtx := q.admitCtx, relay := q.relay, port := q.port }
  if q.state = 0 ∨ q.state = 9 then push (.adm p) (modPeer p m found b)
  else if q.state = 8 ∧ (b.peerAt p (besideKey m)).state = 0 then push (.adm p) (modPeerAt p (besideKey m) found b)
  else b

/-- A pair admission needs on an announcement (R26, R152): listed; of a delegate's group; or this member's delegate while its own anchor session does not stand. -/
def pairNeeded (b : Block) (p : Part) (j : Jig) (m : MemberRef) : Bool :=
  let a := b.adm' p
  pairListed b p j false m || (isAccel m && isDelegateOf j a a.groupLog j.memberIndex (memberIndex m))
    || (isAccel m && isDelegateOf j a a.groupLog (memberIndex m) j.memberIndex && !(b.peer p (accel a.anchor)).inSession)

/-- ANNOUNCEMENT (R138, R152, R159): a matching announcement of a member this one needs. DESIGN CHOICE (log entry 28): a sender's reserved bits [31:18] (R13) are not looked at. -/
def execAnnouncement (part : Part) (a : Announce) (s : State) : Host.Outcome State Fault Refusal :=
  act (fun _ b =>
    match b.jigOf part with
    | none => b
    | some j =>
      let x := b.adm' part
      if a.domainId ≠ j.domainId ∨ a.ownerDigest ≠ j.ownerDigest ∨ memberKind a.sender = 1 ∨ x.manual = true ∨ x.selfOff = true ∨ (b.peer part a.sender).inSession then b
      else if pairNeeded b part j a.sender then discover part a.sender b else b) s

/-! ### SPDM requests (R139 to R144) -/

/-- This side answers the requests of the connection that runs. -/
def Peer.answers (q : Peer) : Bool := if q.requester then decide (q.state = 4) else decide (q.state = 2 ∨ q.state = 3)

def Sent.code (s : Sent) : Byte := match s.env with | .spdm c _ _ => c | .dove _ _ => 0

/-- The last answer of an attempt, if it was one of that code: its request has been sent again (R144). -/
def Peer.answeredWith (q : Peer) (code : Byte) : Option Sent := q.answered.bind fun s => if s.code = code then some s else none

/-- Answers a request that comes again as it was answered; any other is unexpected while an attempt runs and changes nothing. -/
def repeated (h : Hard) (p : Part) (m : MemberRef) (code : Byte) (b : Block) : Block :=
  let q := b.att p m
  if !q.attempting then b
  else match q.answeredWith code with
    | some s => sendSent h p m (attKey b p m) s b
    | none => spdmErr h p m errUnexpected b

/-- Request `n` of the connection that runs is due. -/
def turnOf (b : Block) (p : Part) (m : MemberRef) (n : Nat) : Bool := (b.jigOf p).isSome && (b.att p m).answers && decide ((b.att p m).step = n)

/-- Request `n` of a connection, answered in its order with what `say` gives; then `k`. -/
def spdmTurn (h : Hard) (p : Part) (m : MemberRef) (n : Nat) (msg : Bytes) (say : Block → SpdmBody × Bytes) (k : Block → Block) (b : Block) : Block :=
  if turnOf b p m n then
    let b := noteScript p m msg b
    let x := say b
    k (reply h p m (rspCode n) x.1 x.2 (modAtt p m (fun q => { q with step := n + 1 }) b))
  else repeated h p m (rspCode n) b

/-- An attempt of a member begins with its GET_VERSION. -/
def beginAttempt (h : Hard) (p : Part) (j : Jig) (m : MemberRef) (msg : Bytes) (b : Block) : Block :=
  reply h p m (rspCode 0) (.version 0x13) [] (noteScript p m msg (modAtt p m (fun q => { q.started false b.now j (b.adm' p).groupLog with step := 1 }) b))

/-- GET_VERSION (R140, R144, R159): when both have sent one, the lower member reference goes on as requester. -/
def execGetVersion (part : Part) (peer : MemberRef) (msg : Bytes) (s : State) : Host.Outcome State Fault Refusal :=
  act (fun h b => match b.jigOf part with
    | none => b
    | some j =>
      let q := b.att part peer
      if (b.adm' part).selfOff = true ∨ memberKind peer = 3 ∨ (memberKind peer = 1 ∧ (b.peer part peer).relay.isNone) then b
      else if q.requester ∧ q.state = 2 ∧ q.step = 0 then (if (b.selfRef part).toNat < peer.toNat then b else beginAttempt h part j peer msg b)
      else if q.requester ∧ q.state = 4 then spdmTurn h part peer 0 msg (fun _ => (.version 0x13, [])) id b
      else if q.state = 2 ∨ q.state = 3 then (if q.requester ∨ (q.answeredWith (rspCode 0)).isSome then repeated h part peer (rspCode 0) b else beginAttempt h part j peer msg b)
      else if q.state = 0 ∨ q.state = 1 ∨ q.state = 9 then
        if contextCount h.cfg ≤ b.contexts then spdmErr h part peer errBusy b else beginAttempt h part j peer msg b
      else b) s

/-- GET_CAPABILITIES (R139). -/
def execGetCapabilities (part : Part) (peer : MemberRef) (msg : Bytes) (s : State) : Host.Outcome State Fault Refusal :=
  act (fun h => spdmTurn h part peer 1 msg (fun _ => (ourCaps, [])) id) s

/-- NEGOTIATE_ALGORITHMS (R139): an offer without the profile's algorithms ends the attempt. -/
def execNegotiateAlgorithms (part : Part) (peer : MemberRef) (offerOk : Bool) (msg : Bytes) (s : State) : Host.Outcome State Fault Refusal :=
  act (fun h b =>
    if turnOf b part peer 2 && !offerOk then refuse h part peer 0x0001 b
    else spdmTurn h part peer 2 msg (fun _ => (ourAlgs, [])) (modAtt part peer fun q => { q with state := if q.state = 2 then 3 else q.state }) b) s

/-- The certificate chain of slot 0 (R143). -/
def ourChain (b : Block) : List Bytes := if lcClosed b then [Config.provisioningRoot, b.lc.cert] else [b.lc.cert]

/-- GET_DIGESTS (R139). -/
def execGetDigests (part : Part) (peer : MemberRef) (msg : Bytes) (s : State) : Host.Outcome State Fault Refusal :=
  act (fun h => spdmTurn h part peer 3 msg (fun b => (.digests (Config.sha384 (ourChain b).flatten), [])) id) s

/-- GET_CERTIFICATE (R143): the chain of slot 0. -/
def execGetCertificate (part : Part) (peer : MemberRef) (msg : Bytes) (s : State) : Host.Outcome State Fault Refusal :=
  act (fun h => spdmTurn h part peer 4 msg (fun b => (.chain (ourChain b), [])) id) s

/-- The signature tests of a request that is due and asks for a signature (R185). -/
def signedTurn (h : Hard) (p : Part) (m : MemberRef) (n : Nat) (msg : Bytes) (t : SelfTest) (body : Block → Bytes → SpdmBody) (k : Block → Block) (b : Block) : Block :=
  if turnOf b p m n then tested h t (spdmTurn h p m n msg (fun b => signBody h b (b.att p m) (rspCode n) (body b) []) k) b
  else repeated h p m (rspCode n) b

/-- CHALLENGE (R141): answered with both signature halves. -/
def execChallenge (part : Part) (peer : MemberRef) (msg : Bytes) (test : SelfTest) (s : State) : Host.Outcome State Fault Refusal :=
  act (fun h => signedTurn h part peer 5 msg test (fun _ sig => .signed 0 sig) id) s

/-- The block's measurement blocks (R107, R146). -/
def ourMeasurements (h : Hard) (b : Block) : List (Byte × Bytes) :=
  [(1, leBytes 48 Config.romDigest.toNat), (2, leBytes 48 b.lc.patchHash.toNat), (3, leBytes 8 (lcStateWord h b).toNat), (4, leBytes 48 (Config.sha384 b.lc.cert).toNat)]

/-- KEY_EXCHANGE leaves (R140 to R142): both fresh public keys. -/
def askExchange (h : Hard) (p : Part) (m : MemberRef) (t : SelfTest) (b : Block) : Block :=
  let b := drawTested t (drawPairs p m) (modAtt p m (fun q => { q with state := 5, step := 0 }) b)
  let q := b.att p m
  ask h p m cKeyExchange (.keyExchange 0 (shareOf q.ecdh)) (compEntry 2 (leBytes 1568 (Config.mlkemPublic q.kem).toNat)) b

/-- GET_MEASUREMENTS (R140, R146): the last request of a connection, answered with the signed blocks. The responder starts the reverse connection; the requester, answered it, the key exchange. -/
def execGetMeasurements (part : Part) (peer : MemberRef) (msg : Bytes) (test : SelfTest) (s : State) : Host.Outcome State Fault Refusal :=
  act (fun h => signedTurn h part peer 6 msg test (fun b sig => .measurements (ourMeasurements h b) sig) (fun b =>
    if (b.att part peer).requester then askExchange h part peer test b
    else ask h part peer cVersion .none [] (modAtt part peer (fun q => { q with state := 4, step := 0 }) b))) s

/-- The transcript hash as it stands (R148; log entry 6). -/
def takeHash (p : Part) (m : MemberRef) (b : Block) : Block := modAtt p m (fun q => { q with th := Config.transcriptHash q.script }) b

/-- KEY_EXCHANGE (R141, R142): the responder encapsulates to the requester's key, forms the hybrid DHE secret and answers signed, asking for the requester's signature. -/
def execKeyExchange (part : Part) (peer : MemberRef) (ek share msg : Bytes) (test : SelfTest) (s : State) : Host.Outcome State Fault Refusal :=
  act (fun h b =>
    let q := b.att part peer
    if q.state ≠ 5 ∨ q.requester = true ∨ q.step ≠ 0 then repeated h part peer 0x64 b
    else tested h test (fun b =>
      let b := noteScript part peer msg b
      let kem := Config.mlkemEncap ek (b.draw.setWidth 256)
      let b := drawTested test (fun b => drawn (modAtt part peer (fun q => { q with ecdh := ecdhOf b.draw }) b)) (drawn b)
      let d := (b.att part peer).ecdh
      let x := signBody h b (b.att part peer) 0x64 (fun sig => .keyExchangeRsp (shareOf d) true sig) (compEntry 3 kem.1)
      takeHash part peer (reply h part peer 0x64 x.1 x.2 (modAtt part peer (fun q => { q with step := 1, dhe := hybridDhe (Config.ecdhP384 d share) kem.2 }) b))) b) s

/-- FINISH (R140, R141, R147): both signature halves, then the session stands. -/
def execFinish (part : Part) (peer : MemberRef) (ecdsaOk mldsaOk : Bool) (msg : Bytes) (s : State) : Host.Outcome State Fault Refusal :=
  act (fun h b =>
    let q := b.att part peer
    if q.state ≠ 5 ∨ q.requester = true ∨ q.step ≠ 1 then repeated h part peer 0x65 b
    else if !ecdsaOk ∨ !mldsaOk then refuse h part peer 0x0004 b
    else
      let th := Config.transcriptHash (q.script ++ [msg])
      sessionUp h part peer (modAtt part peer (fun q => { q with th := th }) (reply h part peer 0x65 .none [] (noteScript part peer msg b)))) s

/-- KEY_UPDATE (R147): both directions start anew. -/
def execKeyUpdate (sec : Sec) (s : State) : Host.Outcome State Fault Refusal :=
  actSec sec (fun h b => sendEnv h sec.part sec.peer (.spdm 0x69 .none []) (modPeer sec.part sec.peer (fun q => { q with sent := 0, received := 0 }) b)) s

/-- END_SESSION (R147, R152 to R154): the session closes; a watched anchor or standby counts as lost. An attempt that had not joined ends with 0x000D (DESIGN CHOICE, log entry 28). -/
def execEndSession (sec : Sec) (s : State) : Host.Outcome State Fault Refusal :=
  onB (fun h b => settle h (secInAt h sec (joinKey b sec.part sec.peer) (fun b =>
    let p := sec.part
    let m := sec.peer
    let k := joinKey b p m
    let q := b.peerAt p k
    let b := sendAt h p m k (.spdm 0x6C .none []) b
    if q.state = 6 then refuseAt h p m k 0x000D (modPeerAt p k (fun q => { q with secret := 0 }) (endKey h q.secret b))
    else
      let b := freeEntry p m (closeSession h p m stPeerDeparted b)
      if isAccel m then memberLost h p (memberIndex m) b else b) b)) s

/-! ### SPDM responses (R139, R143 to R146) -/

/-- The next request of the connection. -/
def askNext (h : Hard) (p : Part) (m : MemberRef) (n : Nat) (b : Block) : Block := ask h p m (reqCode n) (reqBody n) [] (modAtt p m (fun q => { q with step := n }) b)

/-- The reverse or forward connection has passed its last check. -/
def attested (p : Part) (m : MemberRef) (b : Block) : Block := modAtt p m (fun q => { q with state := if q.requester then 4 else 5, step := 0 }) b

/-- A certificate chain's checks (R143, R145): the reason, 0 when it passes. -/
def certReason (b : Block) (j : Jig) (m : MemberRef) (chainOk selfIssued atRoot : Bool) (leaf : Digest) : Nat :=
  if !chainOk ∨ (memberKind m ≠ 1 ∧ (if lcClosed b then !atRoot else !selfIssued)) then 0x0002
  else if memberKind m ≠ 0 ∧ allowFor j (memberKind m) leaf = [] then 0x0003
  else 0

/-- The measurements' checks (R145, R146, R18). -/
def attestReason (b : Block) (j : Jig) (m : MemberRef) (leaf : Digest) (ecdsaOk mldsaOk : Bool) (blocks : List (Byte × Digest)) (lcWord : Word) : Nat :=
  if !ecdsaOk ∨ !mldsaOk then 0x0004
  else if measureReason j (memberKind m) leaf blocks ≠ 0 then measureReason j (memberKind m) leaf blocks
  else if memberKind m ≠ 1 ∧ (lcWord.getLsbD 0 ≠ lcClosed b ∨ (lcClosed b = true ∧ lcWord.getLsbD 9 = false)) then 0x0006
  else 0

/-- KEY_EXCHANGE_RSP has passed: the requester forms the hybrid DHE secret and sends its signed FINISH (R140 to R142). -/
def finishOut (h : Hard) (p : Part) (m : MemberRef) (share kemCt : Bytes) (b : Block) : Block :=
  let b := takeHash p m (modAtt p m (fun q => { q with step := 1, dhe := hybridDhe (Config.ecdhP384 q.ecdh share) (Config.mlkemDecap q.kem kemCt) }) b)
  let x := signBody h b (b.att p m) cFinish (fun sig => .signed 0 sig) []
  ask h p m cFinish x.1 x.2 b

/-- SPDM_RESPONSE (R139 to R146): the answer to the request that is out; its check, then the next request. -/
def execSpdmResponse (part : Part) (peer : MemberRef) (rsp : SpdmResp) (msg : Bytes) (test : SelfTest) (s : State) : Host.Outcome State Fault Refusal :=
  act (fun h b =>
    match b.jigOf part with
    | none => b
    | some now =>
      let q := b.att part peer
      let j := q.jig now
      let deny (n : Nat) : Block := refuse h part peer n b
      let turn (n : Nat) : Bool := q.asks && decide (q.state ≠ 5) && decide (q.step = n)
      let heard := noteScript part peer msg b
      match rsp with
      | .version ok => if !turn 0 then b else if ok then askNext h part peer 1 heard else deny 0x0001
      | .capabilities ok => if !turn 1 then b else if ok then askNext h part peer 2 heard else deny 0x0001
      | .algorithms ok => if !turn 2 then b else if ok then askNext h part peer 3 (modAtt part peer (fun q => { q with state := if q.state = 2 then 3 else q.state }) heard) else deny 0x0001
      | .digests => if !turn 3 then b else askNext h part peer 4 heard
      | .certificate chainOk selfIssued atRoot leaf =>
        if !turn 4 then b
        else if certReason b j peer chainOk selfIssued atRoot leaf ≠ 0 then deny (certReason b j peer chainOk selfIssued atRoot leaf)
        else askNext h part peer 5 (modAtt part peer (fun q => { q with leaf := leaf, tag := identityTag leaf }) heard)
      | .challengeAuth e m => if !turn 5 then b else if e && m then askNext h part peer 6 heard else deny 0x0004
      | .measurements e m blocks lcWord =>
        if !turn 6 then b
        else if attestReason b j peer q.leaf e m blocks lcWord ≠ 0 then deny (attestReason b j peer q.leaf e m blocks lcWord)
        else attested part peer (modAtt part peer (fun q => { q with meas := blocks }) heard)
      | .keyExchangeRsp e m share kemCt =>
        if q.state ≠ 5 ∨ q.requester = false ∨ q.step ≠ 0 then b
        else if e && m then tested h test (finishOut h part peer share kemCt) heard else deny 0x0004
      | .finishRsp => if q.state ≠ 5 ∨ q.requester = false ∨ q.step ≠ 1 then b else sessionUp h part peer (takeHash part peer b)
      | .keyUpdateAck => modPeer part peer (fun q => { q with sent := 0, received := 0 }) b
      | .endSessionAck => b
      | .busy =>
        if !turn 0 ∨ q.state ≠ 2 then b
        else
          let d := 1000000 + b.draw.toNat % 3000001
          push (.adm part) (modAtt part peer (fun q => { q with state := 1, asked := b.now + BitVec.ofNat 64 d }) (drawn b))
      | .unsupported => if q.asks then deny 0x0001 else b) s

/-- The request code that is out, for `EV_ADM_TIMEOUT`. -/
def Peer.codeOut (q : Peer) : Byte := match q.asking with | some x => x.code | none => 0

/-- SPDM_REQUEST_TIMEOUT (R144): sent once more after 100 ms with the same `MSG_ID`, then the attempt ends. -/
def execSpdmRequestTimeout (part : Part) (peer : MemberRef) (s : State) : Host.Outcome State Fault Refusal :=
  act (fun h b =>
    let k := attKey b part peer
    let q := b.peerAt part k
    if q.asks = false ∨ b.now.toNat < q.asked.toNat + 100000000 then b
    else if !q.resent then
      match q.asking with
      | some x => sendSent h part peer k x (modPeerAt part k (fun q => { q with asked := b.now, resent := true }) b)
      | none => b
    else refuseQuiet h part peer k 0x000D (admNote h 0x0304 part [aW4 peer.toNat, aByte q.state.toNat, aByte q.codeOut.toNat] b)) s

/-- BUSY_RETRY (R144): the delay drawn has passed. -/
def execBusyRetry (part : Part) (peer : MemberRef) (s : State) : Host.Outcome State Fault Refusal :=
  act (fun h b => match b.jigOf part with
    | none => b
    | some j =>
      let q := b.att part peer
      if q.state ≠ 1 ∨ q.requester = false ∨ b.now.toNat < q.asked.toNat ∨ contextCount h.cfg ≤ b.contexts then b else startAttempt h part j peer b) s

/-- ADMISSION_RETRY (R144, R159): a refused pair may try again after a second. -/
def execAdmissionRetry (part : Part) (peer : MemberRef) (s : State) : Host.Outcome State Fault Refusal :=
  act (fun _ b =>
    let k := attKey b part peer
    let q := b.peerAt part k
    if q.state ≠ 10 ∨ b.now.toNat < q.refusedAt.toNat + 1000000000 then b else modPeerAt part k (fun q => { q with state := 0 }) b) s

/-! ### Joining and keys -/

/-- A message of the session a member joins in. -/
def actJoin (sec : Sec) (f : Hard → Nat → Block → Block) (s : State) : Host.Outcome State Fault Refusal :=
  onB (fun h b => settle h (secInAt h sec (joinKey b sec.part sec.peer) (f h (joinKey b sec.part sec.peer)) b)) s

/-- A `JOIN_ACK` that refuses. -/
def denyJoin (h : Hard) (p : Part) (m : MemberRef) (k reason : Nat) (b : Block) : Block :=
  refuseAt h p m k reason (sendAt h p m k (.dove 0x02 (leBytes 2 reason ++ leBytes 6 0)) b)

/-- JOIN (R145, R148, R151), under the image the attempt began with (R160). -/
def execJoin (sec : Sec) (body : Join) (s : State) : Host.Outcome State Fault Refusal :=
  actJoin sec (fun h k b =>
    match b.jigOf sec.part with
    | none => b
    | some now =>
      let q := b.peerAt sec.part k
      let j := q.jig now
      if q.joinIn then b
      else
        let r := joinReason b sec.part j sec.peer q body
        if r ≠ 0 then denyJoin h sec.part sec.peer k r b else joinPasses h sec.part j sec.peer body b) s

/-- JOIN_ACK (R147, R159): with both sides' yes the pair is admitted. -/
def execJoinAck (sec : Sec) (reason : BitVec 16) (s : State) : Host.Outcome State Fault Refusal :=
  actJoin sec (fun h k b =>
    let q := b.peerAt sec.part k
    if q.ackIn ∨ !(decide (q.state = 6) || q.rejoin) then b
    else if reason ≠ 0 then refuseAt h sec.part sec.peer k reason.toNat b
    else
      let b := modPeerAt sec.part k (fun q => { q with ackIn := true }) b
      if q.ackOut then admitted h sec.part sec.peer b else b) s

/-- KEY_FETCH (R149): what is held is given, what can be drawn once the standbys have it; the rest is asked of the anchor and passed on. -/
def execKeyFetch (sec : Sec) (groups : List (BitVec 32)) (s : State) : Host.Outcome State Fault Refusal :=
  actSec sec (fun h b =>
    let p := sec.part
    if (b.adm' p).keyed = false ∨ !isAccel sec.peer then b
    else
      let b := groups.foldl (drawGroup h p) b
      fetchFor h p sec.peer (groupsMissing b p groups) (awaitGroups p sec.peer groups (deliverKeys h p sec.peer (heldGroups b p groups) b))) s

/-- A blob opened under the session it came in (R127, R128): its attribute word, value and `WRAP_SEQ`; or the generation a refusal names. -/
def openBlob (b : Block) (p : Part) (m : MemberRef) (j : Jig) (last : Option Word) (bs : Bytes) : (Attr × Key × Word) ⊕ Nat :=
  let q := b.peer p m
  let at' := attrOfWord (BitVec.ofNat 64 (fieldAt bs 8 8))
  let seq : Word := BitVec.ofNat 64 (fieldAt bs 24 8)
  match gcmOpen (kdf (b.keyVal q.secret) [] "SWY-KEY-WRAP") (wrapIv (!q.requester) seq) (bs.take 32) (bytesAt bs 32 32) (tagOf (bytesAt bs 64 16)) with
  | none => .inr 0
  | some k =>
    let headOk := decide (bs.length = 80 ∧ fieldAt bs 0 2 = 1 ∧ fieldAt bs 2 1 = 1 ∧ fieldAt bs 4 4 = j.domainId.toNat ∧ fieldAt bs 16 4 = m.toNat ∧ fieldAt bs 20 4 = j.memberIndex.toNat)
    let newer := match last with | some x => decide (x.toNat < seq.toNat) | none => true
    if !headOk ∨ !newer ∨ (lcClosed b ∧ at'.testRoot) then .inr at'.generation.toNat else .inl (at', BitVec.ofNat 256 (leVal k), seq)

/-- Opens every blob of a message, in order; the first that is refused refuses all. -/
def openBlobs (b : Block) (p : Part) (m : MemberRef) (j : Jig) : Option Word → List (BitVec 32 × Bytes) → List (BitVec 32 × Attr × Key) ⊕ Nat
  | _, [] => .inl []
  | last, e :: t => match openBlob b p m j last e.2 with
    | .inr g => .inr g
    | .inl r => match openBlobs b p m j (some r.2.2) t with
      | .inl ks => .inl ((e.1, r.1, r.2.1) :: ks)
      | .inr g => .inr g

/-- Imports one key (R115): under the partition root, with the test-root flag of either. -/
def importKey (p : Part) (a : Attr) (v : Key) (b : Block) : Option (Slot × Block) :=
  let root := (b.slot (16 + p.val)).attr
  takeSlot v { a with st := 1, owner := BitVec.ofNat 4 p.val, parent := BitVec.ofNat 12 (16 + p.val), testRoot := a.testRoot || root.testRoot } b

/-- Imports the keys of a message that are not held yet. -/
def importKeys (h : Hard) (p : Part) : List (BitVec 32 × Attr × Key) → Block → Option Block
  | [], b => some b
  | (g, a, v) :: t, b =>
    let x := b.adm' p
    if (g = 0 ∧ x.keyed = true) ∨ (g ≠ 0 ∧ (Tab.get? x.groupSlots g.toNat).isSome = true) then importKeys h p t b
    else match importKey p a v b with
      | none => none
      | some (s, b) => importKeys h p t (if g = 0 then becomeKeyed h p s b else modAdm p (fun x => { x with groupSlots := Tab.set x.groupSlots g.toNat s }) b)

/-- A message of keys is refused whole (R127). -/
def refuseKeys (h : Hard) (p : Part) (m : MemberRef) (gen : Nat) (b : Block) : Block :=
  let b := admNote h 0x0208 p [aHalf 0xFFFF, aHalf gen, aW4 m.toNat] b
  if (b.peer p m).state = 6 ∨ (b.peer p m).rejoin = true then refuseAt h p m m.toNat 0x000C b else b

/-- KEY_DELIVER (R127, R128, R149, R154). -/
def execKeyDeliver (sec : Sec) (term : BitVec 32) (entries : List (BitVec 32 × Bytes)) (s : State) : Host.Outcome State Fault Refusal :=
  actSec sec (fun h b =>
    let p := sec.part
    match b.jigOf p with
    | none => b
    | some j =>
      let q := b.peer p sec.peer
      if term.toNat < (b.adm' p).term.toNat ∨ !isAccel sec.peer ∨ !(q.anchor || q.standby || q.delegate) then b
      else match openBlobs b p sec.peer j q.wrapIn entries with
        | .inr g => refuseKeys h p sec.peer g b
        | .inl ks =>
          let newest : Option Word := match entries.getLast? with | some e => some (BitVec.ofNat 64 (fieldAt e.2 24 8)) | none => q.wrapIn
          match importKeys h p ks b with
          | none => refuseKeys h p sec.peer 0 b
          | some b =>
            let b := modPeer p sec.peer (fun q => { q with wrapIn := newest }) b
            let b := modAdm p (fun a => { a with term := if a.term.toNat < term.toNat then term else a.term }) b
            let wants := (b.adm' p).wantGroups.filter fun w => (Tab.get? (b.adm' p).groupSlots w.2.toNat).isSome
            let b := modAdm p (fun a => { a with wantGroups := a.wantGroups.filter fun w => !wants.contains w }) b
            push (.part p) (wants.foldl (fun b w => if (b.peer p w.1).hasSession then deliverKeys h p w.1 (heldGroups b p [w.2]) b else b) b)) s

/-! ### The roster (R150 to R152) -/

/-- ROSTER_CLAIM (R151): the anchor grants or refuses an index, by the roster with the changes under way. -/
def execRosterClaim (sec : Sec) (index : BitVec 16) (tag : BitVec 128) (s : State) : Host.Outcome State Fault Refusal :=
  actSec sec (fun h b =>
    let p := sec.part
    match b.jigOf p with
    | none => b
    | some j =>
      let grant (r : Nat) : Block := sendTo h p sec.peer 0x06 (leBytes 2 index.toNat ++ leBytes 2 r) b
      if (b.adm' p).anchor ≠ j.memberIndex then b
      else if j.memberCount ≤ index.toNat then grant 0x0009
      else if indexTaken b p (accel index) tag then grant 0x0008
      else if rosterLive b p index tag then grant 0
      else grantIndex h p index tag sec.peer b) s

/-- ROSTER_GRANT (R151, R154): the `JOIN_ACK` held for it leaves, or the admission ends. -/
def execRosterGrant (sec : Sec) (index : BitVec 16) (reason : BitVec 16) (term : BitVec 32) (s : State) : Host.Outcome State Fault Refusal :=
  actSec sec (fun h b =>
    let p := sec.part
    let m := accel index
    if term.toNat < (b.adm' p).term.toNat ∨ sec.peer ≠ accel (b.adm' p).anchor ∨ (b.peer p m).ackHeld = false then b
    else if reason = 0 then sendAck h p m b
    else denyJoin h p m m.toNat reason.toNat b) s

/-- ROSTER_SYNC (R150, R154): a standby takes an entry from the anchor and acknowledges it; a new anchor family from the anchor of the image before. -/
def execRosterSync (sec : Sec) (entry : RosterEntry) (s : State) : Host.Outcome State Fault Refusal :=
  actSec sec (fun h b =>
    let p := sec.part
    if sec.peer ≠ accel (b.adm' p).anchor ∧ (b.peer p sec.peer).anchor = false then b
    else
      let b := modAdm p (fun a => { a with rosterSeq := a.rosterSeq + 1, roster := if entry.state = 0 then Tab.del a.roster entry.index.toNat else Tab.set a.roster entry.index.toNat entry }) b
      sendTo h p sec.peer 0x07 (leBytes 2 entry.index.toNat ++ leBytes 6 0) b) s

/-- The oldest change of an index that waits for a standby has its acknowledgement. -/
def ackRoster (m : MemberRef) (index : BitVec 16) : List RosterPend → List RosterPend
  | [] => []
  | r :: t => if r.entry.index = index ∧ r.await.contains m = true then { r with await := r.await.filter fun x => decide (x ≠ m) } :: t else r :: ackRoster m index t

/-- ROSTER_SYNC_ACK (R150). -/
def execRosterSyncAck (sec : Sec) (index : BitVec 16) (s : State) : Host.Outcome State Fault Refusal :=
  actSec sec (fun _ b => push (.adm sec.part) (modAdm sec.part (fun a => { a with rosterPend := ackRoster sec.peer index a.rosterPend }) b)) s

/-! ### Heartbeats and takeover (R153 to R155) -/

/-- HEARTBEAT_SEND (R153): the anchor to both standbys, standby 1 to standby 2. -/
def execHeartbeatSend (part : Part) (s : State) : Host.Outcome State Fault Refusal :=
  act (fun h b =>
    match b.jigOf part with
    | none => b
    | some j =>
      let a := b.adm' part
      let dests := if a.anchor = j.memberIndex then standbys j a else if (standbys j a).contains j.memberIndex then j.anchors.drop (anchorRank j j.memberIndex + 1) else []
      ((dests.map accel).filter fun m => (b.peer part m).inSession).foldl (fun b m => sendTo h part m 0x08 (leBytes 4 a.term.toNat ++ leBytes 4 a.rosterSeq.toNat) b) b) s

/-- HEARTBEAT (R153). -/
def execHeartbeat (sec : Sec) (term : BitVec 32) (rosterSeq : BitVec 32) (s : State) : Host.Outcome State Fault Refusal :=
  actSec sec (fun _ b =>
    if (b.adm' sec.part).term.toNat ≤ term.toNat ∧ isAccel sec.peer then modAdm sec.part (fun a => { a with heard := Tab.set a.heard (memberIndex sec.peer).toNat b.now }) (let _ := rosterSeq; b) else b) s

/-- HEARTBEAT_LOST (R153, R154): five heartbeats of a watched member missed in a row. -/
def execHeartbeatLost (part : Part) (s : State) : Host.Outcome State Fault Refusal := act (fun h b => noAnchorCheck h part (takeAnchor h part b)) s

/-- The sender is the next of `ANCHORS` after the anchor: those between are gone or without a session. -/
def nextAnchor (b : Block) (p : Part) (j : Jig) (i : BitVec 16) : Bool :=
  let a := b.adm' p
  let r := anchorRank j i
  decide (anchorRank j a.anchor < r ∧ r < j.anchors.length) && ((j.anchors.take r).drop (anchorRank j a.anchor + 1)).all fun x => lostMember b p x || !(b.peer p (accel x)).inSession

/-- Admissions under way by the old anchor can no longer join (R154): at that anchor all of them, at another member its own with it. -/
def overtake (p : Part) (me old : BitVec 16) (b : Block) : Block :=
  modAdm p (fun a => { a with peers := Tab.mapV a.peers fun n q =>
    if q.attempting && (decide (me = old) || decide (n = (accel old).toNat)) then { q with overtaken := true } else q }) b

/-- The admissions a former anchor holds for the roster end now: a change the standbys have not acknowledged does not take effect. -/
def dropHeld (h : Hard) (p : Part) (b : Block) : Block :=
  let held := ((b.adm' p).peers.filter fun e => e.2.ackHeld && decide (e.1 < 2 ^ 32)).map fun e => BitVec.ofNat 32 e.1
  held.foldl (fun b m => denyJoin h p m m.toNat 0x000C b) (modAdm p (fun a => { a with rosterPend := [], drawn := [] }) b)

/-- TAKEOVER (R154): the new anchor and its term are taken; a former anchor stops anchoring. -/
def execTakeover (sec : Sec) (term : BitVec 32) (newAnchor : BitVec 16) (s : State) : Host.Outcome State Fault Refusal :=
  actSec sec (fun h b =>
    let p := sec.part
    match b.jigOf p with
    | none => b
    | some j =>
      let old := (b.adm' p).anchor
      if term.toNat ≤ (b.adm' p).term.toNat ∨ sec.peer ≠ accel newAnchor ∨ nextAnchor b p j newAnchor = false then b
      else
        let b := overtake p j.memberIndex old b
        let b := modAdm p (fun a => { a with term := term, anchor := newAnchor, noAnchor := false, heard := Tab.set a.heard newAnchor.toNat b.now,
                                             peers := Tab.mapV a.peers fun n q => { q with anchor := decide (n = (accel newAnchor).toNat) } }) b
        if old = j.memberIndex then dropHeld h p b else b) s

/-! ### Departures (R156 to R158) -/

/-- A departure this member hears of: an anchor or keeper that leaves counts as lost (R153). -/
def heardDeparture (h : Hard) (p : Part) (m : MemberRef) (b : Block) : Block := if isAccel m then memberLost h p (memberIndex m) b else b

/-- DEPART (R156, R158): a report to the anchor, the member's own, the anchor's with its effective epoch, or its withdrawal. The roster holds accelerators alone; another member's departure is each member's own to record. -/
def execDepart (sec : Sec) (member : MemberRef) (cause : Byte) (epoch : BitVec 24) (s : State) : Host.Outcome State Fault Refusal :=
  actSec sec (fun h b =>
    let p := sec.part
    let a := b.adm' p
    let fromAnchor := decide (sec.peer = accel a.anchor)
    if a.anchor = b.selfIndex p then
      if epoch = 0 then b
      else if isAccel member then heardDeparture h p member (recordDeparture h p member cause b)
      else setDeparting p member cause (departEpoch b p) true b
    else if epoch = 0 then (if fromAnchor then undoDeparting p member b else b)
    else if fromAnchor ∨ sec.peer = member then heardDeparture h p member (setDeparting p member cause epoch (fromAnchor || !isAccel member) b)
    else b) s

/-- PROBE (R147). -/
def execProbe (sec : Sec) (s : State) : Host.Outcome State Fault Refusal := actSec sec (fun h b => sendTo h sec.part sec.peer 0x0C [] b) s

/-- PROBE_ACK (R147): a standby's also acknowledges the group keys sent before the probe (R149; log entry 28). -/
def execProbeAck (sec : Sec) (s : State) : Host.Outcome State Fault Refusal :=
  actSec sec (fun _ b =>
    let b := modPeer sec.part sec.peer (fun q => { q with probes := 0 }) b
    push (.adm sec.part) (modAdm sec.part (fun a => { a with drawn := a.drawn.map fun g => { g with await := g.await.filter fun x => decide (x ≠ sec.peer) } }) b)) s

/-- PROBE_TIMEOUT (R147): a request has gone unanswered for 10 ms and a probe leaves; after three the session is lost. -/
def execProbeTimeout (part : Part) (peer : MemberRef) (s : State) : Host.Outcome State Fault Refusal :=
  act (fun h b =>
    let q := b.peer part peer
    if !q.inSession ∨ (q.probes ≠ 0 ∧ b.now.toNat < q.probeTick.toNat + 10000000) then b
    else if q.probes < 3 then sendTo h part peer 0x0B [] (modPeer part peer (fun q => { q with probes := q.probes + 1, probeTick := b.now }) b)
    else sessionLost h part peer 2 b) s

/-- KEY_UPDATE_TRIGGER (R147): the requester refreshes the keys at 2^24 messages in a direction. -/
def execKeyUpdateTrigger (part : Part) (peer : MemberRef) (s : State) : Host.Outcome State Fault Refusal :=
  act (fun h b =>
    let q := b.peer part peer
    if !q.inSession ∨ q.requester = false ∨ (q.sent < 2 ^ 24 ∧ q.received < 2 ^ 24) then b else sendEnv h part peer (.spdm cKeyUpdate .updateAllKeys []) b) s

/-- DEPARTURE_EFFECTIVE (R157): the boundary of the effective epoch has come. -/
def execDepartureEffective (part : Part) (member : MemberRef) (s : State) : Host.Outcome State Fault Refusal :=
  act (fun h b =>
    match (b.adm' part).departing.find? fun d => decide (d.member = member), b.jigOf part with
    | some d, some j => if epochStart j d.epoch ≤ b.now.toNat then departNow h part d b else b
    | _, _ => b) s

/-- FORMATION_LATE (R165): at the anchor, members without a session 12 s after formation started. -/
def execFormationLate (part : Part) (s : State) : Host.Outcome State Fault Refusal :=
  act (fun h b =>
    match b.jigOf part with
    | none => b
    | some j =>
      let a := b.adm' part
      let late := ((List.range j.memberCount).filter fun n => decide (n ≠ j.memberIndex.toNat) && !(b.peer part (accel (BitVec.ofNat 16 n))).inSession).length
      if a.anchor ≠ j.memberIndex ∨ b.now.toNat < a.formStart.toNat + 12000000000 ∨ late = 0 then b else admNote h 0x0308 part [aCount late] b) s

/-- DELEGATE_ABSENT (R152): a second after formation started the anchor admits the members of absent delegates itself. -/
def execDelegateAbsent (part : Part) (s : State) : Host.Outcome State Fault Refusal :=
  act (fun _ b => if (b.adm' part).formStart.toNat + 1000000000 ≤ b.now.toNat then push (.adm part) b else b) s

/-- ENVELOPE_PORT_FAILOVER (R411): the member's port has been down for a millisecond; the next takes over. -/
def execEnvelopePortFailover (part : Part) (member : MemberRef) (s : State) : Host.Outcome State Fault Refusal :=
  act (fun h b =>
    let ps := envPorts h.cfg b part member
    let cur := match (b.peer part member).port with | some k => some k | none => ps.head?
    match cur with
    | none => b
    | some k =>
      let x := b.port k
      if x.linkUp ∨ b.now.toNat < x.downSince.toNat + 1000000 then b
      else
        let next := ((ps.dropWhile fun y => decide (y ≠ k)).drop 1 ++ ps).find? fun y => (b.port y).linkUp
        match next with
        | some y => modPeer part member (fun q => { q with port := some y }) b
        | none => b) s

/-! ### The driver's commands (R161) -/

/-- A peer the Jig has room for. DESIGN CHOICE (log entry 28): a reserved bit [31:18] that is set is not looked at here (R13); the reference stays as it came, an entry of its own beside the true reference. -/
def peerKnown (j : Jig) (m : MemberRef) : Bool :=
  match memberKind m with
  | 0 => decide ((memberIndex m).toNat < j.memberCount)
  | 3 => false
  | k => j.allow.any fun e => decide (e.kind.toNat = k ∧ e.index = memberIndex m)

/-- CMD_PEER_ADMIT (R159 to R161, R346). -/
def execCmdPeerAdmit (ctx : CmdCtx) (peer : MemberRef) (manual : Bool) (deleg : BitVec 4) (relay : Word) (s : State) : Host.Outcome State Fault Refusal :=
  actCmd ctx 0x03 0 (fun h q b =>
    let p := q.part
    match b.jigOf p with
    | none => b
    | some j =>
      let x := b.peer p peer
      if peer = accel j.memberIndex then
        if deleg ≠ 0 ∧ (deleg.toNat < 4 ∨ deleg = 0xD ∨ deleg = 0xE) then complete h ctx stPeerDeparted 0x0009 0 0 b
        else
          let b := modAdm p (fun a => { a with manual := manual, selfOff := false, groupLog := if deleg = 0 then a.groupLog else deleg.toNat }) b
          push (.adm p) (complete h ctx stOk 0 (2 ^ 32 * (b.adm' p).term.toNat) 0 b)
      else if !peerKnown j peer then complete h ctx stPeerDeparted 0x0009 0 0 b
      else if isAccel peer && b.gone p (memberIndex peer) then complete h ctx stPeerDeparted 0 0 0 b
      else if memberKind peer = 1 ∧ (relay.toNat % 4096 ≠ 0 ∨ relay = 0) then complete h ctx stAborted 0x0102 0 0 b
      else if x.state = 7 then complete h ctx stOk 0 (x.sessionId.toNat + 2 ^ 32 * (b.adm' p).term.toNat) 0 b
      else
        let y := b.att p peer
        if y.admitCtx.isSome then complete h ctx stNoSlot 0 0 0 b
        else if y.state = 10 then complete h ctx stPeerDeparted y.reason.toNat 0 0 b
        else
          let area : Option Relay := if memberKind peer = 1 then some { ctx := some ctx, outq := [], addr := relay, outProd := 0, outCons := 0, inProd := 0, inCons := 0 } else x.relay
          discover p peer (modAtt p peer (fun y => { y with admitCtx := some ctx }) (modPeer p peer (fun y => { y with relay := area }) b))) s

/-- CMD_PEER_RELEASE (R156, R161). -/
def execCmdPeerRelease (ctx : CmdCtx) (peer : MemberRef) (s : State) : Host.Outcome State Fault Refusal :=
  actCmd ctx 0x04 0 (fun h q b =>
    let p := q.part
    if peer = b.selfRef p then
      let r := selfRelease h p b
      complete h ctx stOk 0 r.1 0 r.2
    else if isAccel peer then complete h ctx stNotOwner 0 0 0 b
    else if (b.peer p peer).inSession = false then complete h ctx stPeerDeparted 0 0 0 b
    else complete h ctx stOk 0 1 0 (endSession h p b peer)) s

/-- RELAY_DOORBELL (R347): the host side's indices, read from the relay area; indices outside the rules end the session as lost. -/
def execRelayDoorbell (part : Part) (host : BitVec 16) (inProd outCons : BitVec 32) (s : State) : Host.Outcome State Fault Refusal :=
  regAct (partReg part fun h b =>
    let m : MemberRef := 0x10000 ||| host.setWidth 32
    match (b.peer part m).relay, b.jigOf part with
    | some r, some j =>
      if 8 < (inProd - r.inCons).toNat ∨ (r.outProd - r.outCons).toNat < (outCons - r.outCons).toNat then
        let b := noteLimited h 0x0809 24 (some part) host.toNat (fun n => [aHalf host.toNat, aCount n]) (modPeer part m (fun q => { q with relay := none }) b)
        if (b.peer part m).inSession then sessionLost h part m 2 b else if (b.att part m).attempting then refuse h part m 0x000D b else b
      else
        let b := modPeer part m (fun q => { q with relay := some { r with inProd := inProd, inCons := inProd, outCons := outCons } }) b
        let slots := (List.range (inProd - r.inCons).toNat).map fun i => Out.dmaRead (r.addr + BitVec.ofNat 64 (0x81000 + 0x10000 * ((r.inCons.toNat + i) % 8))) 65536
        relayDrain h part m j (r.outq.length + 1) (emits (slots ++ [.dmaWrite (r.addr + 12) (leBytes 4 inProd.toNat)]) b)
    | _, _ => b) s

end Sys2Proof.Machine
end

