-- ==== Sys2Proof/Machine/Memory.lean ====
section
/-! DEFINITION. The commands of protected memory (R245 to R275, R306, R412): requests of the compute dies, what the memories answer, Plane's steps, the memory control messages, and the region commands. -/

namespace Sys2Proof.Machine

/-! ### Requests and memories -/

/-- The address as a domain request port carries it: in units of its operation (R276). -/
def portAddr (op : DomOp) (a : BitVec 57) : BitVec 57 :=
  let w := match op with | .atomic aop _ _ => atomicWidth aop | _ => 64
  BitVec.ofNat 57 (a.toNat / w * w)

/-- The operations of R276. -/
def domOpDefined : DomOp → Bool
  | .atomic aop _ _ => decide (1 ≤ aop.toNat ∧ aop.toNat ≤ 7)
  | _ => true

/-- A request of a compute die reaches the PTU. -/
def domainRequest (h : Hard) (die : Fin 4) (p : Part) (pasid : BitVec 20) (engine : BitVec 16) (op : DomOp) (a : BitVec 57) (scheduled ringOk : Bool) (b : Block) : Block :=
  if !b.partExists p || (b.island .ptu).inReset || !domOpDefined op then b
  else xlatNew h p ringOk { pasid := pasid, engine := engine, src := .port die, op := op, addr := portAddr op a, since := b.now, fault := none, scheduled := scheduled } b

/-- DOMAIN_REQUEST (R276, R306, R311). -/
def execDomainRequest (die : Fin 4) (part : Part) (pasid : BitVec 20) (engine : BitVec 16) (op : DomOp) (addr : BitVec 57) (scheduled ringOk : Bool) (s : State) : Host.Outcome State Fault Refusal :=
  act (fun h b => domainRequest h die part pasid engine op addr scheduled ringOk b) s

/-- HBM_RESPONSE (R269): an object an ME asked its stack for. -/
def execHbmResponse (me : Fin 8) (region : BitVec 10) (obj : MemObj) (status : BitVec 2) (data : Line) (s : State) : Host.Outcome State Fault Refusal :=
  act (fun h b =>
    let rid := region.toNat
    match b.region rid with
    | some r => if r.me = me ∧ r.kind ≠ 2 ∧ b.fetches.contains (rid, obj) = true then objArrives h rid obj status data b else b
    | none => b) s

/-- A page in a re-encryption slot is sealed once its lines and its path are at hand (R251). -/
def reencDone (h : Hard) (me : Fin 8) (p : Part) (n : Nat) (b : Block) : Block :=
  match Tab.get? (b.mePart me p).slots n with
  | none => b
  | some x =>
    match b.region x.region with
    | none => b
    | some r =>
      if x.await ≠ [] ∨ (b.island (.me me)).inReset = true ∨ (b.island (.me me)).asleep = true ∨ pageReading b x.region x.page = true then b
      else if !regionKeysReady b (.me me) r then wantRegionKeys (.me me) r b
      else match walk b x.region r x.page with
        | .cb .. =>
          let room := roomFor h.cfg x.region r ((List.range 7).map fun t => .tagLine (7 * x.page + t)) (touchPath x.region r x.page b)
          if room.1 then sealSlot h x.region r n x room.2 else room.2
        | _ => newReqs p x.region .quiet [(64 * x.page, .path)] b

/-- REENCRYPTION_DONE (R251). -/
def execReencryptionDone (me : Fin 8) (part : Part) (slot : Fin 2) (s : State) : Host.Outcome State Fault Refusal :=
  act (fun h b => reencDone h me part slot.val b) s

/-- A stage request: dropped when the buffer has no room for its lines (R256). -/
def stageRequest (p : Part) (rid page : Nat) (lines : BitVec 64) (dataTick : Word) (b : Block) : Block :=
  match b.region rid with
  | none => b
  | some r =>
    if r.part ≠ p ∨ r.kind = 2 ∨ r.role ≠ 0 ∨ r.pages ≤ page then b
    else
      let have' := (b.mePart r.me p).staging
      let new : List Staged := (((List.range 64).filter fun j => lines.getLsbD j).filter fun j => !have'.any fun s => decide (s.region = rid ∧ s.line = 64 * page + j)).map fun j =>
        { region := rid, line := 64 * page + j, complete := false, dataTick := dataTick }
      if new = [] ∨ stagingCap < have'.length + new.length then b
      else newReqs p rid .quiet [(64 * page, .path)] (modMePart r.me p (fun m => { m with staging := m.staging ++ new }) b)

/-- STAGE_REQUEST (R256). -/
def execStageRequest (part : Part) (region : BitVec 10) (page : Nat) (lines : BitVec 64) (dataTick : Word) (s : State) : Host.Outcome State Fault Refusal :=
  act (fun _ b => stageRequest part region.toNat page lines dataTick b) s

/-! ### Plane (R257 to R259) -/

/-- The regions of a partition that its scrub walks on an ME, by handle. -/
def scrubRegions (b : Block) (n : Fin 8) (p : Part) : List (Nat × Region) :=
  b.regions.filter fun e => decide (e.2.part = p ∧ e.2.me = n ∧ e.2.role = 0 ∧ (e.2.state = 2 ∨ e.2.state = 3 ∨ e.2.state = 9))

/-- Plane work of a partition on an ME that goes before the sweep: a repair, a page in a re-encryption slot, a footprint being cleared; before the scrub also a sweep (R257). -/
def planeBusy (b : Block) (n : Fin 8) (p : Part) (scrub : Bool) : Bool :=
  (b.regions.any fun e => decide (e.2.part = p ∧ e.2.me = n ∧ e.2.role = 0) && (e.2.repair.isSome || (scrub && e.2.sweeping)))
    || decide ((b.mePart n p).slots ≠ []) || ((b.me n).placed.any fun f => f.clearing && decide (f.part = p))

/-- Plane may go on: within its budget, in the partition's idle cells where nothing else of it is queued there, or without a limit (R257, R259). -/
def planeMay (b : Block) (n : Fin 8) (p : Part) (free : Bool) : Bool :=
  free || decide ((b.mePart n p).planeShare ≠ 0)
    || !(b.memReqs.any fun m => decide (m.part = p) && m.isDom && (match b.region m.region with | some r => decide (r.me = n) | none => false))

/-- The next page of the scrub, with what follows: the page after it, else the first of the next region, else a new pass (R258). -/
def scrubStep (n : Fin 8) (p : Part) (b : Block) : Block :=
  let m := b.mePart n p
  if m.scrubPeriod = 0 ∨ (b.island (.me n)).inReset = true ∨ (b.island (.me n)).asleep = true ∨ planeBusy b n p true = true ∨ planeMay b n p false = false then b
  else match (scrubRegions b n p).find? fun e => decide (m.scrubRegion ≤ e.1) with
    | none => if scrubRegions b n p = [] then b else modMePart n p (fun m => { m with scrubRegion := 0, page := 0, passes := m.passes + 1 }) b
    | some (rid, r) =>
      let page := if m.scrubRegion = rid then m.page.toNat else 0
      if r.pub.isSome then b
      else
        let more := (scrubRegions b n p).any fun e => decide (rid < e.1)
        let b := modMePart n p (fun m =>
          if page + 1 < r.pages then { m with scrubRegion := rid, page := BitVec.ofNat 36 (page + 1) }
          else if more then { m with scrubRegion := rid + 1, page := 0 }
          else { m with scrubRegion := 0, page := 0, passes := m.passes + 1 }) b
        newReqs p rid .quiet ((List.range 64).map fun j => (64 * page + j, MemOp.fill)) (dropPath rid r page b)

/-- SCRUB_STEP (R258). -/
def execScrubStep (me : Fin 8) (part : Part) (s : State) : Host.Outcome State Fault Refusal := act (fun _ b => scrubStep me part b) s

/-- Nodes of a page's path that stand under the previous generation are to be recomputed (R259 step 3). -/
def sweepNodes (rid : Nat) (r : Region) (page : Nat) (b : Block) : Block :=
  (List.range (r.levels - 1)).foldl (fun b k =>
    let i := page / 8 ^ (k + 1)
    match nodeAt b rid r (k + 2) (i / 8) with
    | some parent => if nodeFresh parent (i % 8) = false ∧ r.isPrev (nodeGen parent (i % 8)) = true then modTree rid r (.node (k + 1) i) (fun e => { e with dirty := true }) b else b
    | none => b) b

/-- The sweep passes a page. -/
def sweepPass (rid : Nat) (r : Region) (page : Nat) (b : Block) : Block :=
  modRegion rid (fun x => { x with token := { x.token with sweepPtr := x.token.sweepPtr + 1 } }) (sweepNodes rid r page b)

/-- A pool page is re-encrypted by the publication of one of its lines, unchanged; one without written lines by a new counter block (R250, R259, R262). -/
def sweepPool (rid : Nat) (r : Region) (page : Nat) (cb : Line) (b : Block) : Block :=
  match cbWritten cb with
  | [] =>
    let m := newMajor rid b
    wantPub rid (markWritten rid r 0 page (putTree rid r (.node 0 page) (cbNew m.1) true false m.2))
  | j :: _ =>
    if r.pub.isSome ∨ (b.memReqs.any fun m => decide (m.region = rid ∧ m.line / 64 = page) && m.isWrite) = true then b
    else if ((List.range 64).any fun i => (unpublished b rid r (64 * page + i)).isSome) then wantPub rid b
    else newReqs r.part rid .quiet [(64 * page + j, .atomic 0 0 0)] b

/-- The sweep's end: nothing of the region is left under the old generation (R259). -/
def sweepEnd (h : Hard) (rid : Nat) (r : Region) (b : Block) : Block :=
  if ((b.mePart r.me r.part).slots.any fun s => decide (s.2.region = rid)) then b
  else if r.kind ≠ 2 then endSweep h rid (flushCache r.me r.part b)
  else if r.pub.isSome then b
  else if ((b.mePart r.me r.part).cache.any fun e => decide (e.region = rid) && e.dirty) then wantPub rid b
  else wantPub rid (endSweep h rid b)

/-- One page of the rekey sweep (R259, R273). -/
def sweepStep (h : Hard) (p : Part) (rid : Nat) (b : Block) : Block :=
  match b.region rid with
  | none => b
  | some r =>
    let i : Island := .me r.me
    if r.part ≠ p ∨ r.sweeping = false ∨ r.role ≠ 0 ∨ ¬ (r.state = 2 ∨ r.state = 3 ∨ r.state = 9) ∨ (b.island i).inReset = true ∨ (b.island i).asleep = true
        ∨ planeBusy b r.me p false = true ∨ planeMay b r.me p (decide (2 ^ 39 < b.useCount i r.keySlot)) = false then b
    else if !regionKeysReady b i r then wantRegionKeys i r b
    else
      let page := r.token.sweepPtr.toNat
      if r.pages ≤ page then sweepEnd h rid r b
      else match walk b rid r page with
        | .need .. => newReqs p rid .quiet [(64 * page, .path)] b
        | .fresh _ => sweepPass rid r page b
        | .cb cb parent =>
          if r.isPrev (nodeGen parent (page % 8)) = false ∨ (slotOf b rid r page).isSome = true then sweepPass rid r page b
          else if r.kind = 2 then sweepPool rid r page cb b
          else match freeReenc b r with
            | none => b
            | some n => if sealsFit b r (cbWritten cb).length then sweepPass rid r page (openReenc rid r page n cb [] b) else b

/-- SWEEP_STEP (R259). -/
def execSweepStep (part : Part) (region : BitVec 10) (s : State) : Host.Outcome State Fault Refusal := act (fun h b => sweepStep h part region.toNat b) s

/-- The zero fill of a footprint has ended (R271). -/
def clearDone (h : Hard) (n : Fin 8) (id : BitVec 32) (b : Block) : Block :=
  match (b.me n).placed.find? fun f => f.clearing && decide (f.regionId = id) with
  | none => b
  | some f =>
    let b := modMe n (fun s => { s with placed := s.placed.erase f }) b
    push (.part f.part) (meLevel h n (note h 0x050D (16 + n.val) (some f.part) [aW4 id.toNat, aW6 f.size] b))

/-- MEM_CLEAR_DONE (R271). -/
def execMemClearDone (me : Fin 8) (regionId : BitVec 32) (s : State) : Host.Outcome State Fault Refusal := act (fun h b => clearDone h me regionId b) s

/-- HBM_READY_CHANGE (R274, R358). -/
def execHbmReadyChange (me : Fin 8) (ready : Bool) (s : State) : Host.Outcome State Fault Refusal :=
  onB (fun h b =>
    if decide (meCount h.cfg ≤ me.val) || !b.up then b
    else settle h (pushAll (meLevel h me (modMe me (fun x => { x with ready := ready }) b)))) s

/-! ### Tokens (R260 to R263) -/

/-- A memory control message to a member, over its session if there is one. -/
def sendMemTo (h : Hard) (p : Part) (m : BitVec 16) (subtype : Nat) (id : BitVec 32) (body : Bytes) (b : Block) : Block := if b.session p m then sendMem h p m subtype id body b else b

/-- The `TOKEN_SEQ` of the last token accepted for a region, at its mirror entry or its object; none before the first (R261). -/
def lastSeq (b : Block) (p : Part) (id : BitVec 32) : Option Nat :=
  let m := (b.mirrorEnt p id).bind fun x => x.token.map fun t => t.tokenSeq.toNat
  let o := (b.regionById p id).bind fun e => if e.2.state = 1 then none else some e.2.token.tokenSeq.toNat
  match m, o with
  | some x, some y => some (max x y)
  | some x, none => some x
  | none, o => o

/-- Mirror entries of a chip (R246). -/
def mirrorCap : Nat := 4096

/-- The mirror's copy takes an accepted token; another member's mirror holds none (R246, R262). -/
def mirrorToken (b : Block) (p : Part) (t : Token) : Block :=
  if t.mirror = b.selfIndex p ∧ t.noMirror = false then
    if (b.mirrorEnt p t.regionId).isNone ∧ mirrorCap ≤ b.mirrors.length then b
    else putMirror { part := p, regionId := t.regionId, token := some t, intent := none, heard := b.now } b
  else { b with mirrors := b.mirrors.filter fun x => !(decide (x.part = p) && decide (x.regionId = t.regionId)) }

/-- A token reaches this member (R261, R263, R264): accepted when it is newer, the answer to a `REVERIFY` even when it is the one held; a member that neither mirrors nor reads the region leaves its reader set (log entry 29). -/
def tokenIn (h : Hard) (p : Part) (t : Token) (b : Block) : Block :=
  if (b.adm' p).keyed = false ∨ tokenOk b p t = false ∨ t.keeper = b.selfIndex p then b
  else
    let seq := t.tokenSeq.toNat
    let newer := match lastSeq b p t.regionId with | some n => decide (n < seq) | none => true
    let obj := b.regionById p t.regionId
    if !newer then
      match obj with
      | some (rid, r) => if r.role ≠ 0 ∧ seq = r.token.tokenSeq.toNat then push (.part p) (reverified rid t b) else b
      | none => b
    else
      let mirrors := decide (t.mirror = b.selfIndex p ∧ t.noMirror = false)
      if obj.isNone ∧ mirrors = false ∧ (b.mirrorEnt p t.regionId).isNone then sendMemTo h p t.keeper 6 t.regionId [] b
      else
        let keyed := match obj with | some (rid, _) => tokenKeys h rid t b | none => some b
        match keyed with
        | none => b
        | some b =>
          let b := mirrorToken b p t
          let b := match obj.bind fun e => (b.region e.1).map fun r => (e.1, r) with
            | some (rid, r) => acceptToken h rid r t (if r.role = 0 then { b with ahu := Tab.upd b.ahu p.val AhuPart.reset fun a => { a with dirty := a.dirty.filter fun d => decide (d.1 / 2 ^ 41 ≠ rid) } } else b)
            | none => b
          sendMemTo h p t.keeper 2 t.regionId (leBytes 8 seq) b

/-- TOKEN (R261). -/
def execToken (sec : Sec) (tok : Token) (s : State) : Host.Outcome State Fault Refusal :=
  actSec sec (fun h b => if isAccel sec.peer then tokenIn h sec.part tok b else b) s

/-- The region this member keeps under an identifier. -/
def keptById (b : Block) (p : Part) (id : BitVec 32) : Option (Nat × Region) := (b.regionById p id).bind fun e => if e.2.role = 0 then some e else none

/-- The hand-off has been acknowledged: the roles are swapped, and the old keeper mirrors the region (R266). -/
def handedOff (h : Hard) (rid : Nat) (r : Region) (b : Block) : Block :=
  let p := r.part
  let b := putMirror { part := p, regionId := r.regionId, token := some r.token, intent := none, heard := b.now } b
  let b := completeOpt h r.ctx stOk 0 r.token.tokenSeq.toNat 0 (setRegion rid { r with role := 1, state := 2, ctx := none, readers := [], published := r.token.tokenSeq } (dropTree rid r b))
  push (.fences p) (push (.part p) (if r.closing then closeRegion h rid b else b))

/-- A member acknowledges a token (R262, R266). -/
def tokenAcked (h : Hard) (p : Part) (m : BitVec 16) (id : BitVec 32) (seq : Word) (b : Block) : Block :=
  match keptById b p id with
  | none => b
  | some (rid, r) =>
    if seq ≠ r.token.tokenSeq then b
    else if r.state = 7 then (if m = r.token.keeper then handedOff h rid r b else b)
    else match r.pub with
      | none => b
      | some x =>
        if x.phase = 3 ∧ m = r.token.mirror then pubAcked h rid r x b
        else if x.phase = 4 then push (.pub rid) (setRegion rid { r with pub := some { x with await := x.await.filter fun y => decide (y ≠ m) } } b)
        else b

/-- TOKEN_ACK (R262, R266). -/
def execTokenAck (sec : Sec) (regionId : BitVec 32) (tokenSeq : Word) (s : State) : Host.Outcome State Fault Refusal :=
  actSec sec (fun h b => if isAccel sec.peer then tokenAcked h sec.part (memberIndex sec.peer) regionId tokenSeq b else b) s

/-- INTENT (R262, R265): held by the mirror until the matching token. -/
def execIntent (sec : Sec) (regionId : BitVec 32) (tokenSeq : Word) (entries : List IntentEntry) (s : State) : Host.Outcome State Fault Refusal :=
  actSec sec (fun h b =>
    match b.mirrorEnt sec.part regionId with
    | none => b
    | some m =>
      if (match m.token with | some t => decide (accel t.keeper = sec.peer) | none => false) then
        sendMem h sec.part (memberIndex sec.peer) 4 regionId (leBytes 8 tokenSeq.toNat) (putMirror { m with intent := some (tokenSeq, entries), heard := b.now } b)
      else b) s

/-- INTENT_ACK (R262). -/
def execIntentAck (sec : Sec) (regionId : BitVec 32) (tokenSeq : Word) (s : State) : Host.Outcome State Fault Refusal :=
  actSec sec (fun _ b =>
    match keptById b sec.part regionId with
    | none => b
    | some (rid, r) => match r.pub with
      | none => b
      | some x =>
        if x.phase = 1 ∧ sec.peer = accel r.token.mirror ∧ tokenSeq = r.token.tokenSeq + 1 then push (.pub rid) (setRegion rid { r with pub := some { x with await := [] } } b)
        else b) s

/-! ### Readers (R263, R264, R268, R270) -/

/-- Readers of a region (R260). -/
def readerCap : Nat := 65535

/-- `READ_OPEN` at the keeper: the reader set takes the member, which has the current token at once or with the publication that runs; without the region it is refused. -/
def readOpened (h : Hard) (p : Part) (m : BitVec 16) (id : BitVec 32) (b : Block) : Block :=
  let refuse (st : Byte) : Block := sendMem h p m 10 id (leBytes 1 st.toNat ++ leBytes 7 0) b
  match keptById b p id with
  | none => refuse stRegionRevoked
  | some (rid, r) =>
    if r.kind = 0 ∨ r.state = 7 ∨ r.state = 8 ∨ r.dying = true then refuse stRegionRevoked
    else if r.readers.contains m = false ∧ readerCap ≤ r.readers.length then refuse stNoSlot
    else
      let b := setRegion rid { r with readers := if r.readers.contains m then r.readers else r.readers ++ [m] } b
      match r.pub with
      | some x => if x.phase = 4 ∨ x.takeover.isSome = true then sendToken h p m (currentToken b r) b else b
      | none => sendToken h p m (currentToken b r) b

/-- READ_OPEN (R263). -/
def execReadOpen (sec : Sec) (regionId : BitVec 32) (s : State) : Host.Outcome State Fault Refusal :=
  actSec sec (fun h b => if isAccel sec.peer then readOpened h sec.part (memberIndex sec.peer) regionId b else b) s

/-- READ_CLOSE (R260). -/
def execReadClose (sec : Sec) (regionId : BitVec 32) (s : State) : Host.Outcome State Fault Refusal :=
  actSec sec (fun _ b =>
    match keptById b sec.part regionId with
    | none => b
    | some (rid, r) =>
      let m := memberIndex sec.peer
      if !isAccel sec.peer then b
      else push (.pub rid) (setRegion rid { r with readers := r.readers.filter fun x => decide (x ≠ m), pub := r.pub.map fun x => if x.phase = 4 then { x with await := x.await.filter fun y => decide (y ≠ m) } else x } b)) s

/-- REVERIFY (R264, R273). -/
def execReverify (sec : Sec) (regionId : BitVec 32) (page tokenSeq : Word) (s : State) : Host.Outcome State Fault Refusal :=
  let _ := tokenSeq
  actSec sec (fun _ b =>
    match keptById b sec.part regionId with
    | none => b
    | some (rid, r) =>
      let m := memberIndex sec.peer
      if !isAccel sec.peer ∨ r.kind ≠ 2 ∨ r.pages ≤ page.toNat then b
      else if r.pub.isSome then setRegion rid { r with reverifies := r.reverifies ++ [(m, page.toNat)] } b
      else startReverify rid r m page.toNat b) s

/-- REPAIR_REQ (R270, R273): the keeper repairs the node; a counter block it fetches itself first, since one it cannot read costs its page (log entry 30). -/
def execRepairReq (sec : Sec) (regionId : BitVec 32) (level : Byte) (index : Word) (s : State) : Host.Outcome State Fault Refusal :=
  actSec sec (fun h b =>
    match keptById b sec.part regionId with
    | none => b
    | some (rid, r) =>
      let k := level.toNat
      let i := index.toNat
      if !isAccel sec.peer ∨ r.kind ≠ 2 ∨ r.levels ≤ k ∨ nodesAt r.pages k ≤ i then b
      else if k = 0 then (if r.pub.isSome then b else newReqs r.part rid .quiet [(64 * i, .path)] (dropPath rid r i b))
      else if r.pub.isSome then setRegion rid { r with repairs := r.repairs ++ [(k, i)] } b
      else startRepair h rid r k i b) s

/-- The mirror takes a hand-off (R266): it keeps the region from the token on, and sends it on as after a takeover. -/
def takeHandoff (h : Hard) (p : Part) (from' : BitVec 16) (t : Token) (b : Block) : Block :=
  match (b.mirrorEnt p t.regionId).bind fun m => m.token with
  | none => b
  | some t0 =>
    if tokenOk b p t = false ∨ t.keeper ≠ b.selfIndex p ∨ t0.keeper ≠ from' ∨ t.tokenSeq.toNat ≤ t0.tokenSeq.toNat then b
    else match becomeKeeper h p t b with
      | none => b
      | some (rid, b) =>
        let b := { b with mirrors := b.mirrors.filter fun x => !(decide (x.part = p) && decide (x.regionId = t.regionId)) }
        let b := modRegion rid (fun r => { r with state := 2 }) b
        let b := sendMemTo h p from' 2 t.regionId (leBytes 8 t.tokenSeq.toNat) (keeperMoved h p t.regionId t.keeper b)
        push (.fences p) (push (.part p) (sendTakeover h p from' t (reverified rid t b)))

/-- HANDOFF (R266). -/
def execHandoff (sec : Sec) (tok : Token) (s : State) : Host.Outcome State Fault Refusal :=
  actSec sec (fun h b => if isAccel sec.peer then takeHandoff h sec.part (memberIndex sec.peer) tok b else b) s

/-- REFUSE (R268): an open ends, an open region is revoked. -/
def execRefuse (sec : Sec) (regionId : BitVec 32) (status : Byte) (s : State) : Host.Outcome State Fault Refusal :=
  let _ := status
  actSec sec (fun h b =>
    match b.regionById sec.part regionId with
    | none => b
    | some (rid, r) =>
      if r.role = 0 ∨ sec.peer ≠ accel r.token.keeper then b
      else if r.state = 1 then closeRegion h rid b
      else revokeRegion h rid b) s

/-- RELAY (R265): the anchor passes the token on over its own sessions; a member it names takes it. -/
def execRelay (sec : Sec) (dests : List (BitVec 16)) (tok : Token) (s : State) : Host.Outcome State Fault Refusal :=
  actSec sec (fun h b =>
    let p := sec.part
    let me := b.selfIndex p
    if !isAccel sec.peer then b
    else
      let b := if (b.adm' p).anchor = me then (dests.filter fun d => decide (d ≠ me)).foldl (fun b d => sendMemTo h p d 11 tok.regionId (leBytes 2 1 ++ leBytes 2 d.toNat ++ tokenBody tok) b) b else b
      if dests.contains me then tokenIn h p tok b else b) s

/-- MIRROR_TAKEOVER (R265): at a mirror whose keeper is lost. -/
def execMirrorTakeover (part : Part) (regionId : BitVec 32) (s : State) : Host.Outcome State Fault Refusal :=
  act (fun h b =>
    match b.mirrorEnt part regionId with
    | none => b
    | some m => match m.token with
      | none => b
      | some t => if b.session part t.keeper = false ∨ b.gone part t.keeper = true then takeover h m b else b) s

/-! ### Repair (R270, R412) -/

/-- The children below a node. -/
def childrenOf (r : Region) (k i : Nat) : List Nat := ((List.range 8).map fun j => 8 * i + j).filter fun c => decide (c < nodesAt r.pages (k - 1))

/-- A node's children as the keeper has them: from the tree cache as clean, else as fetched. -/
def repairKids (b : Block) (rid : Nat) (r : Region) (k i : Nat) (got : List (BitVec 2 × Line)) : List (BitVec 2 × Line) :=
  ((childrenOf r k i).zip got).map fun x => match b.treeEnt rid r (.node (k - 1) x.1) with | some e => ((0 : BitVec 2), e.line) | none => x.2

/-- What a child may have been: for one changed in the cache since the node was written, also with the content it had then (DEDUCED, log entry 90). -/
def kidCands (b : Block) (rid : Nat) (r : Region) (level index : Nat) (c : BitVec 2 × Line) : List Cand :=
  let old := match b.treeEnt rid r (.node level index) with
    | some e => (match e.pubd with | some l => if e.dirty then candidates b r level index 0 l else [] | none => [])
    | none => []
  (candidates b r level index c.1 c.2 ++ old).dedup

/-- A repair is decided (R270): the one candidate that matches is written back; without a match among clean children the member Clamps; else every page below is lost. -/
def repairNode (h : Hard) (rid : Nat) (r : Region) (k i : Nat) (got : List (BitVec 2 × Line)) (b : Block) : Block :=
  match nodeAt b rid r (k + 1) (i / 8) with
  | none => newReqs r.part rid .quiet [(64 * (i * 8 ^ k), .path)] b
  | some parent =>
    let kids := repairKids b rid r k i got
    let cs := ((childrenOf r k i).zip kids).map fun x => kidCands b rid r (k - 1) x.1 x.2
    let key := b.regionKey r (r.isPrev (nodeGen parent (i % 8)))
    match (combos cs 0 nodeNew).filter fun n => decide (objMac key k i n = nodeMac parent (i % 8)) with
    | [n] =>
      let b := putTree rid r (.node k i) n (decide (r.kind = 2)) false (makeRoom h.cfg r (if (b.treeEnt rid r (.node k i)).isSome then 0 else 1) b).2
      repairEnded h rid k i 0 (if r.kind = 2 then modTree rid r (.node k i) (fun e => { e with pubd := some n }) b else emit (.hbmWrite r.me rid (.node k i) n) b)
    | [] =>
      if kids.all fun c => decide (c.1 = 0) then integrity h rid r (.node k i) b
      else repairEnded h rid k i (pagesUnder r k i) (loseBelow h rid k i b)
    | _ => repairEnded h rid k i (pagesUnder r k i) (loseBelow h rid k i b)

/-- REPAIR_DONE (R270, R412). -/
def execRepairDone (part : Part) (region : BitVec 10) (level : Nat) (index : Nat) (children : List (BitVec 2 × Line)) (s : State) : Host.Outcome State Fault Refusal :=
  act (fun h b =>
    let rid := region.toNat
    match b.region rid with
    | none => b
    | some r =>
      if r.part ≠ part ∨ r.role ≠ 0 ∨ r.repair ≠ some (level, index) ∨ r.levels ≤ level then b
      else if level = 0 then repairEnded h rid 0 index 1 (losePage h rid index 1 b)
      else if children.length ≠ (childrenOf r level index).length then b
      else repairNode h rid r level index children b) s

/-- REGION_OPEN_TIMEOUT (R268): no token within 1 s. -/
def execRegionOpenTimeout (part : Part) (region : BitVec 10) (s : State) : Host.Outcome State Fault Refusal :=
  act (fun h b =>
    match b.region region.toNat with
    | none => b
    | some r => if r.part = part ∧ r.state = 1 ∧ r.openTick.toNat + second ≤ b.now.toNat then closeRegion h region.toNat b else b) s

/-! ### Region commands (R272) -/

/-- Region objects a PASID holds. -/
def regionsHeld (b : Block) (pasid : BitVec 20) : Nat := Tab.count b.regions fun _ r => decide (r.pasid = some pasid)

/-- The object of a window, whatever its state. -/
def windowObject (b : Block) (p : Part) (w : Nat) : Option (Nat × Region) := b.regions.find? fun e => decide (e.2.part = p ∧ e.2.window = some (Fin.ofNat 16 w))

/-- The region of a window as its open finds it: keeper here or elsewhere. -/
def openAs (b : Block) (p : Part) (j : Jig) (rr : RegionRec) : BitVec 2 × Option Token :=
  let held := (b.mirrorEnt p rr.regionId).bind fun m => m.token
  match held with
  | some t => (1, some t)
  | none => if rr.keeper = j.memberIndex then (0, none) else if rr.mirror = j.memberIndex then (1, none) else (2, none)

/-- The object of an open, its epoch still to be taken (R319, R320). -/
def openObject (ctx : CmdCtx) (rid : Nat) (r : Region) (b : Block) : Block :=
  push (.part r.part) (newChange r.part { XChange.blank 4 none with window := rid } (setRegion rid { r with ctx := some ctx } b))

/-- An open that nothing turned away: what the region needs is placed and derived. -/
def openFresh (h : Hard) (ctx : CmdCtx) (q : Queue) (j : Jig) (kw : KeyWindow) (pin : Option (Fin 8)) (b : Block) : Block :=
  let p := q.part
  let w : Option (Fin 16) := some (Fin.ofNat 16 kw.window)
  let none' (b : Block) : Block := complete h ctx stNoSlot 0 0 0 b
  match b.freeRegion with
  | none => none' b
  | some rid =>
    if kw.kind = 0 then
      let pages := pagesOf kw.size
      if 1024 ≤ rootEntries b b.jigs then none' b else
      match chooseStack h.cfg b p pin (footprintOf pages), openKey p 0 (BitVec.ofNat 8 kw.window) kw.regionId kw.generation b with
      | some (n, off), some (s, b) =>
        let t := freshToken kw.regionId j.memberIndex 0 j.domainId kw.generation pages (b.markOf p kw.regionId kw.window kw.generation)
        let b := placeFoot n { regionId := kw.regionId, part := p, base := off, size := footprintOf pages, clearing := false, pool := false } b
        openObject ctx rid (openedRegion p (some q.pasid) w 0 0 n off 0 s { t with noMirror := true } b.now) b
      | _, _ => none' b
    else match j.regions.find? fun r => decide (r.regionId = kw.regionId) with
      | none => complete h ctx stObjectGone 0 0 0 b
      | some rr =>
        let as := openAs b p j rr
        let pages := pagesOf rr.size
        if (b.adm' p).keyed = false then complete h ctx stKeyOrphaned 0 0 0 b
        else if as.1 = 0 then
          let place : Option (Fin 8 × Nat) := if rr.kind = 1 then chooseStack h.cfg b p pin (footprintOf pages) else (chooseTree h.cfg b p pin).map fun n => (n, rr.offset)
          match place, openKey p rr.kind 0 rr.regionId kw.generation b with
          | some (n, off), some (s, b) =>
            let b := if rr.kind = 1 then placeFoot n { regionId := rr.regionId, part := p, base := off, size := footprintOf pages, clearing := false, pool := false } b else b
            let t := freshToken rr.regionId j.memberIndex rr.mirror j.domainId kw.generation pages (b.markOf p rr.regionId 0 kw.generation)
            firstToken h rid (openObject ctx rid (openedRegion p (some q.pasid) w rr.kind 0 n off rr.node s t b.now) b)
          | _, _ => none' b
        else
          let keeper := match as.2 with | some t => t.keeper | none => rr.keeper
          if b.session p keeper = false then complete h ctx stPeerDeparted 0 0 0 b
          else
            let t : Token := match as.2 with | some t => t | none => freshToken rr.regionId keeper rr.mirror j.domainId kw.generation pages 0
            match chooseTree h.cfg b p pin, openKey p rr.kind 0 rr.regionId t.generation b with
            | some n, some (s, b) =>
              let r := openedRegion p (some q.pasid) w rr.kind as.1 n rr.offset rr.node s t b.now
              let b := openObject ctx rid { r with state := 1 } b
              let b := match as.2 with
                | some t => (match tokenKeys h rid t b with | some b => (match b.region rid with | some r => acceptToken h rid r t b | none => b) | none => b)
                | none => b
              sendMem h p keeper 5 rr.regionId [] b
            | _, _ => none' b

/-- `CMD_REGION_OPEN`: an open window keeps its object (R272). -/
def openRegion (h : Hard) (ctx : CmdCtx) (q : Queue) (window : Fin 16) (treeMe : BitVec 4) (b : Block) : Block :=
  let p := q.part
  let fin (st : Byte) (b : Block) : Block := complete h ctx st 0 0 0 b
  match b.jigOf p with
  | none => fin stObjectGone b
  | some j => match j.windows.find? fun w => decide (w.window = window.val) with
    | none => fin stObjectGone b
    | some kw => match windowObject b p window.val with
      | some (rid, r) =>
        if r.dying ∨ r.closing then fin stObjectGone b
        else if r.pasid = none then
          if (match b.sliceOf q.pasid with | some sl => decide (sl.rgn.toNat ≤ regionsHeld b q.pasid) | none => true) then fin stNoSlot b
          else complete h ctx stOk 0 (rid + 1024 * r.role.toNat) r.token.tokenSeq.toNat (setRegion rid { r with pasid := some q.pasid } b)
        else if r.pasid = some q.pasid then complete h ctx stOk 0 (rid + 1024 * r.role.toNat) (if r.kind = 0 then 0 else r.token.tokenSeq.toNat) b
        else fin stNotOwner b
      | none =>
        if meCount h.cfg ≤ treeMe.toNat ∧ treeMe.toNat ≤ 0xE then complete h ctx stAborted 0x0102 0 0 b
        else if (match b.sliceOf q.pasid with | some sl => decide (sl.rgn.toNat ≤ regionsHeld b q.pasid) | none => true) then fin stNoSlot b
        else openFresh h ctx q j kw (if treeMe = 0xF then none else some (Fin.ofNat 8 treeMe.toNat)) b

/-- CMD_REGION_OPEN (R246, R263, R268, R272, R321). -/
def execCmdRegionOpen (ctx : CmdCtx) (window : Fin 16) (treeMe : BitVec 4) (s : State) : Host.Outcome State Fault Refusal :=
  actCmd ctx 0x05 0 (fun h q b => openRegion h ctx q window treeMe b) s

/-- The region object a command names (R327, R343): its owner's, and not dying before the command was fetched. -/
def namedRegion (b : Block) (ctx : CmdCtx) (q : Queue) (rid : Nat) : (Byte) ⊕ Region :=
  match b.region rid with
  | none => .inl stObjectGone
  | some r => if r.pasid ≠ some q.pasid then .inl stNotOwner else if r.dying && !b.holdsName ctx 2 (BitVec.ofNat 32 rid) then .inl stObjectGone else .inr r

/-- CMD_REGION_HANDOFF (R266, R272). -/
def execCmdRegionHandoff (ctx : CmdCtx) (region : BitVec 10) (s : State) : Host.Outcome State Fault Refusal :=
  actCmd ctx 0x06 0 (fun h q b =>
    let rid := region.toNat
    let fin (st : Byte) : Block := complete h ctx st 0 0 0 b
    match namedRegion b ctx q rid with
    | .inl st => fin st
    | .inr r =>
      if r.role ≠ 0 ∨ r.kind ≠ 2 then fin stNotOwner
      else if r.state = 5 ∨ r.state = 7 ∨ r.state = 8 ∨ r.ctx.isSome = true then fin stRegionRevoked
      else if b.session r.part r.token.mirror = false ∨ r.token.mirror = b.selfIndex r.part then fin stPeerDeparted
      else wantPub rid (setRegion rid { r with handing := true, ctx := some ctx } b)) s

/-- Requests and fetches of a cleared region begin again. -/
def restartReqs (rid : Nat) (r : Region) (b : Block) : Block :=
  let b := eachTag r.part (fun _ x => decide (x.kind = 0 ∧ x.region = rid ∧ x.mtype = mRead)) (fun t _ b => quarantine r.part t (dropQueued r.part t b)) b
  { b with fetches := b.fetches.filter fun f => decide (f.1 ≠ rid), memReqs := b.memReqs.map fun m => if m.region = rid then { m with wants := [], fetched := none } else m }

/-- A region's root with every child fresh: nothing written before is left (R271). -/
def clearRoot (h : Hard) (rid : Nat) (r : Region) (b : Block) : Block :=
  let b := dropTree rid r (restartReqs rid r (endSweep h rid b))
  let b := modMePart r.me r.part (fun m => { m with staging := m.staging.filter fun s => decide (s.region ≠ rid), slots := Tab.keep m.slots fun _ s => decide (s.region ≠ rid) }) b
  let b := modAhu r.part (fun a => { a with dirty := a.dirty.filter fun e => decide (e.1 / 2 ^ 41 ≠ rid) }) b
  let b := { b with bundles := b.bundles.filter fun y => decide (y.what ≠ .gather rid) && (match y.what with | .slot me n => !(decide (me = r.me) && decide (y.part = r.part) && (Tab.get? (b.mePart r.me r.part).slots n).isNone) | _ => true) }
  modRegion rid (fun x => { x with lost := [], repair := none, backs := [], token := { x.token with root := nodeNew, unreadable := false },
                                   pub := x.pub.map fun u => if u.phase < 2 then { u with lines := [], bad := [] } else u }) b

/-- CMD_REGION_CLEAR (R271, R272, R273). -/
def execCmdRegionClear (ctx : CmdCtx) (region : BitVec 10) (s : State) : Host.Outcome State Fault Refusal :=
  actCmd ctx 0x07 0 (fun h q b =>
    let rid := region.toNat
    let fin (st : Byte) : Block := complete h ctx st 0 0 0 b
    match namedRegion b ctx q rid with
    | .inl st => fin st
    | .inr r =>
      if r.role ≠ 0 then fin stNotOwner
      else if r.state = 5 ∨ r.state = 7 ∨ r.state = 8 ∨ r.ctx.isSome = true then fin stRegionRevoked
      else
        let b := push (.part r.part) (clearRoot h rid r b)
        if r.kind = 2 then wantPub rid (modRegion rid (fun x => { x with state := 9, ctx := some ctx }) b)
        else complete h ctx stOk 0 (if r.kind = 0 then 0 else r.token.tokenSeq.toNat) 0 (modRegion rid (fun x => { x with state := 2 }) b)) s

end Sys2Proof.Machine
end

