-- ==== Sys2Proof/Machine/Transactions.lean ====
section
/-! DEFINITION. The commands of memory-semantic traffic (R276 to R305): a pair's messages at the keeper and at the requester, tray responses, what is sent again or expires; and what a port's mode and link do to the messages on it (R208, R211, R322). -/

namespace Sys2Proof.Machine

/-- A pair's message reaches the AHU. -/
def ahuTakes (b : Block) (p : Part) (peer : BitVec 16) : Bool := b.session p peer && !(b.island .ahu).inReset

/-! ### Messages at the keeper (R284, R287, R296) -/

/-- READ (R287). -/
def execRead (part : Part) (peer : BitVec 16) (x : Xact) (s : State) : Host.Outcome State Fault Refusal :=
  act (fun h b => keepReceive h part peer { dseq := x.dseq.toNat, mtype := mRead, x := x, lines := [], aop := 0, opA := 0, opB := 0 } b) s

/-- WRITE (R287, R290). -/
def execWrite (part : Part) (peer : BitVec 16) (x : Xact) (lines : List Line) (s : State) : Host.Outcome State Fault Refusal :=
  act (fun h b => keepReceive h part peer { dseq := x.dseq.toNat, mtype := mWrite, x := x, lines := lines, aop := 0, opA := 0, opB := 0 } b) s

/-- ATOMIC (R287, R291, R292). -/
def execAtomic (part : Part) (peer : BitVec 16) (x : Xact) (aop : Byte) (a b : Word) (s : State) : Host.Outcome State Fault Refusal :=
  act (fun h blk => keepReceive h part peer { dseq := x.dseq.toNat, mtype := mAtomic, x := x, lines := [], aop := aop, opA := a, opB := b } blk) s

/-- FENCE_REQ (R295, R296). -/
def execFenceReq (part : Part) (peer : BitVec 16) (x : Xact) (s : State) : Host.Outcome State Fault Refusal :=
  act (fun h b => if ahuTakes b part peer then fenceAsked h part peer x b else b) s

/-! ### Responses at the requester (R282, R284, R293) -/

/-- READ_RSP (R284): one line, as the block asks for. -/
def execReadRsp (part : Part) (peer : BitVec 16) (x : Xact) (lines : List Line) (s : State) : Host.Outcome State Fault Refusal :=
  act (fun h b => match lines with
    | [l] => if ahuTakes b part peer = true ∧ x.count = 1 then rspArrives h part peer mRead x l b else b
    | _ => b) s

/-- WRITE_ACK (R284, R290). -/
def execWriteAck (part : Part) (peer : BitVec 16) (x : Xact) (s : State) : Host.Outcome State Fault Refusal :=
  act (fun h b => if ahuTakes b part peer then rspArrives h part peer mWrite x 0 b else b) s

/-- ATOMIC_RSP (R284, R293). -/
def execAtomicRsp (part : Part) (peer : BitVec 16) (x : Xact) (old : Word) (s : State) : Host.Outcome State Fault Refusal :=
  act (fun h b => if ahuTakes b part peer then rspArrives h part peer mAtomic x (old.setWidth 512) b else b) s

/-- FENCE_ACK (R295, R296, R297). -/
def execFenceAck (part : Part) (peer : BitVec 16) (x : Xact) (tokenSeq : Word) (s : State) : Host.Outcome State Fault Refusal :=
  act (fun _ b =>
    if ahuTakes b part peer = false then b
    else match matchTag b part peer mFence x with
      | none => staleRsp part b
      | some (t, y) => fenceAnswered part peer t y x.aux.toNat tokenSeq b) s

/-- COMPUTE_DIE_FENCE (R297). -/
def execComputeDieFence (die : Fin 4) (part : Part) (s : State) : Host.Outcome State Fault Refusal :=
  act (fun _ b => if b.partExists part then takeFence part none (some die) 0 none 0 [] none b else b) s

/-- The node a tray request of the partition names in its frame (R280). -/
def frameNode (b : Block) (p : Part) (x : TagSt) : BitVec 16 := match b.jigOf p with | some j => if j.addrNode then x.node else 0 | none => 0

/-- A tray's answer is the one its tag's request asks for (R282). -/
def trayMatches (b : Block) (p : Part) (r : TrayRsp) (x : TagSt) : Bool :=
  let write := decide (x.mtype = mWrite)
  decide (x.kind = 0 ∧ bitsOf r.tag.toNat 11 3 = p.val ∧ r.reqPart.toNat = p.val ∧ r.count = 1 ∧ r.node = frameNode b p x ∧ r.offset = x.offset)
    && decide (r.op = if write then 4 else 3) && (write || decide (r.lines.length = 1))

/-- A tray message arrives: a read's object is looked at, a write's acknowledgement counted; any other is stale (R280, R282). -/
def trayAnswered (h : Hard) (p : Part) (r : TrayRsp) (b : Block) : Block :=
  let t := bitsOf r.tag.toNat 0 11
  if (r.op ≠ 3 ∧ r.op ≠ 4) ∨ (b.island .ahu).inReset = true then b
  else match b.tagSt p t with
    | none => staleRsp p b
    | some x =>
      if trayMatches b p r x = false then staleRsp p b
      else
        let b := freeTag p t (dropQueued p t b)
        if x.mtype = mWrite then
          push (.pub x.region) (modRegion x.region (fun y => if y.regionId = x.regionId then { y with pub := y.pub.map fun u => { u with tags := u.tags.filter fun n => decide (n ≠ t) } } else y) b)
        else if (match b.region x.region with | some y => decide (y.regionId = x.regionId) | none => false) && b.fetches.contains (x.region, x.obj) then
          objArrives h x.region x.obj (BitVec.ofNat 2 (bitsOf r.mstat.toNat 0 2)) (r.lines.headD 0) b
        else b

/-- TRAY_RESPONSE (R280, R282). -/
def execTrayResponse (part : Part) (r : TrayRsp) (s : State) : Host.Outcome State Fault Refusal := act (fun h b => trayAnswered h part r b) s

/-! ### Sent again, given up, expired (R282, R288, R292, R295, R297, R298) -/

/-- RETRANSMIT (R282, R288): with the due messages of the pair before it, in `DSEQ` order. -/
def execRetransmit (part : Part) (tag : Fin 2048) (s : State) : Host.Outcome State Fault Refusal :=
  act (fun h b => match b.tagSt part tag.val with
    | none => b
    | some x =>
      if resendDue b part tag.val x = false then b
      else if x.kind = 0 then resend h part tag.val b
      else (dueUpTo b part x.peer (x.dseq.getD 0)).foldl (fun b t => resend h part t b) b) s

/-- An abandon copy is due in place of a message (R288): an atomic unanswered for 1,000,000 ticks, or a write or atomic whose requester was aborted. -/
def abandonDue (b : Block) (x : TagSt) : Bool :=
  decide (x.kind = 1) && x.dseq.isSome && !x.abandon && x.mutates
    && (x.silent || (decide (x.mtype = mAtomic) && (match x.first with | some t => decide (t.toNat + 1000000 ≤ b.now.toNat) | none => false)))

/-- ABANDON_COPY (R288, R299). -/
def execAbandonCopy (part : Part) (tag : Fin 2048) (s : State) : Host.Outcome State Fault Refusal :=
  act (fun h b => match b.tagSt part tag.val with
    | none => b
    | some x =>
      if abandonDue b x = false then b
      else
        let b := modAhu part (fun a => { a with abandoned := a.abandoned + 1 }) (modTag part tag.val (fun y => { y with abandon := true }) (dropQueued part tag.val b))
        sendAsk h part tag.val b) s

/-- ATOMIC_WINDOW_EXPIRE (R292). -/
def execAtomicWindowExpire (part : Part) (peer : BitVec 16) (dseq : Word) (s : State) : Host.Outcome State Fault Refusal :=
  act (fun _ b => modKeep part peer (fun k => { k with window := k.window.filter fun w => !decide (w.dseq = dseq.toNat ∧ w.tick.toNat + 500000 ≤ b.now.toNat) }) b) s

/-- Acquires of the partition's fences still unanswered by a member. -/
def acquireTags (b : Block) (p : Part) (peer : BitVec 16) : List Nat :=
  ((b.ahuPart p).fences.flatMap fun f => f.acquire.filterMap fun a => if a.want.isNone then a.tag else none).filter fun t => match b.tagSt p t with
    | some x => decide (x.peer = peer) && decide (x.last.toNat + 100000 ≤ b.now.toNat) && !queuedTag b p t
    | none => false

/-- An acquire goes out again, to the region's present keeper (R295, R297). -/
def resendAcquire (h : Hard) (p : Part) (t : Nat) (b : Block) : Block :=
  match b.tagSt p t with
  | none => b
  | some x =>
    let keeper := match b.regionById p x.regionId with | some (_, r) => r.token.keeper | none => x.peer
    sendAsk h p t (modTag p t (fun y => { y with peer := keeper }) b)

/-- FENCE_REQ_RESEND (R297). -/
def execFenceReqResend (part : Part) (peer : BitVec 16) (s : State) : Host.Outcome State Fault Refusal :=
  act (fun h b =>
    let q := b.pairReq part peer
    let b := match q.fenceTag with
      | some t => if q.visible < q.target ∧ q.asked.toNat + 100000 ≤ b.now.toNat then sendAsk h part t (modPair part peer (fun q => { q with asked := b.now }) b) else b
      | none => b
    (acquireTags b part peer).foldl (fun b t => resendAcquire h part t b) b) s

/-- An answered acquire whose token has not come within 100 µs (R295); asked once. -/
def acquireLate (b : Block) (r : Region) (a : Acquire) : Bool :=
  decide (a.regionId = r.regionId) && decide (a.answered ≠ BitVec.allOnes 64) && decide (a.answered.toNat + 100000 ≤ b.now.toNat)
    && (match a.want with | some w => decide (r.token.tokenSeq.toNat < w.toNat) | none => false)

/-- ACQUIRE_TIMEOUT (R295). -/
def execAcquireTimeout (part : Part) (regionId : BitVec 32) (s : State) : Host.Outcome State Fault Refusal :=
  act (fun h b => match b.regionById part regionId with
    | none => b
    | some (_, r) =>
      if r.role ≠ 0 ∧ ((b.ahuPart part).fences.any fun f => f.acquire.any (acquireLate b r)) = true then
        sendMemTo h part r.token.keeper 5 regionId [] (modAhu part (fun a => { a with fences := a.fences.map fun f => { f with acquire := f.acquire.map fun q => if acquireLate b r q then { q with answered := BitVec.allOnes 64 } else q } }) b)
      else b) s

/-- TAG_QUARANTINE_END (R298). -/
def execTagQuarantineEnd (part : Part) (tag : Fin 2048) (s : State) : Host.Outcome State Fault Refusal :=
  act (fun _ b => match b.tagSt part tag.val with
    | none => b
    | some x => if x.kind = 2 ∧ x.quarEnd.toNat ≤ b.now.toNat then freeTag part tag.val b else b) s

/-! ### Ports (R208, R211, R322) -/

/-- A frame left in a queue as its port leaves the domain: its transaction ends with `ST_ABORTED`; a message that has its number, or a write of the block's own, goes again another way (R208, R302; log entry 31). -/
def abortQueued (h : Hard) (p : Part) (q : QFrame) (b : Block) : Block :=
  match q.tag.bind fun t => (b.tagSt p t).map fun x => (t, x) with
  | none => b
  | some (t, x) =>
    if x.kind = 0 then
      if x.mtype = mWrite ∨ x.first.isSome = true then modTag p t (fun y => { y with first := some (y.first.getD b.now) }) b
      else
        let b := { freeTag p t b with fetches := b.fetches.erase (x.region, x.obj) }
        (waiters b x.region x.obj).foldl (fun b m => finish h m stAborted 0 b) b
    else if x.kind = 1 ∧ x.dseq = none ∧ x.mtype ≠ mFence then endAsk p t stAborted b
    else b

/-- What waits in a port's queues, or at their crossing (R203). -/
def portQueues (b : Block) (k : Port) : List QFrame :=
  (b.port k).queue0 ++ (b.port k).wait0 ++ allParts.flatMap fun p => (b.portPart k p).queue3 ++ (b.portPart k p).wait3

/-- Destinations whose port is not pinned leave it. -/
def dropDests (k : Port) (p : Part) (b : Block) : Block :=
  modPtu p (fun x => { x with chosen := x.chosen.filter fun e => !decide (e.port = k) || x.pins.any fun q => q.names e.dkind e.dest && decide (q.port = k) }) b

/-- A drained port takes its new mode. -/
def takeMode (h : Hard) (k : Port) (m : BitVec 2) (b : Block) : Block :=
  let left := portQueues b k
  let b := modPort k (fun x => { x with drain := none, mode := m, queue0 := [], wait0 := [] }) b
  let b := allParts.foldl (fun b p => if (b.portPart k p).queue3 = [] ∧ (b.portPart k p).wait3 = [] then b else modPortPart k p (fun x => { x with queue3 := [], wait3 := [] }) b) b
  let b := left.foldl (fun b q => abortQueued h q.part q b) b
  let b := if m = 2 ∨ m = 3 then allParts.foldl (fun b p => if b.partExists p then dropDests k p b else b) b else b
  pushAll (setPortLevel h k b)

/-- PORT_MODE_DRAINED (R208): the queues are empty, or 100 µs have passed. -/
def execPortModeDrained (port : Port) (s : State) : Host.Outcome State Fault Refusal :=
  onB (fun h b =>
    if !b.up || b.rst.halted then b
    else match (b.port port).drain with
      | none => b
      | some (m, t) => if portQueues b port = [] ∨ t.toNat + 100000 ≤ b.now.toNat then settle h (takeMode h port m b) else b) s

/-- LINK_UP_CHANGE (R211, R358): what waited for a port goes on. -/
def execLinkUpChange (port : Port) (up : Bool) (s : State) : Host.Outcome State Fault Refusal :=
  onB (fun h b => if !b.up || !portPresent h.cfg port then b else settle h (pushAll (linkUpChange h port up b))) s

end Sys2Proof.Machine
end

