-- ==== Sys2Proof/Machine/Translation.lean ====
section
/-! DEFINITION. The commands of translation (R306 to R325): faults completed and their ring, moves, advice and invalidation, drains and ends of moves, ports that move and pins. -/

namespace Sys2Proof.Machine

/-! ### The fault ring (R312 to R315) -/

/-- The driver completes a fault (R314): one that is not outstanding is recorded; one without its entry yet waits for it. -/
def faultDone (h : Hard) (p : Part) (id : BitVec 16) (again : Bool) (b : Block) : Block :=
  match (b.ptuPart p).faults.find? fun f => decide (f.id = id) with
  | none => xlatNote h 0x0703 p [aHalf id.toNat] b
  | some f =>
    if f.written = false then b
    else
      let b := modPtu p (fun x => { x with faults := x.faults.filter fun g => decide (g.id ≠ id) }) b
      if again then replay h p true (fun _ q => decide (q.fault = some id)) b else endStalls p (fun q => decide (q.fault = some id)) b

/-- FDONE_REPLAY (R314). -/
def execFdoneReplay (part : Part) (faultId : BitVec 16) (s : State) : Host.Outcome State Fault Refusal :=
  regAct (islandReg .ptu (partReg part fun h b => faultDone h part faultId true b)) s

/-- FDONE_FAIL (R314). -/
def execFdoneFail (part : Part) (faultId : BitVec 16) (s : State) : Host.Outcome State Fault Refusal :=
  regAct (islandReg .ptu (partReg part fun h b => faultDone h part faultId false b)) s

/-- A consumer index that lies between `RD` and `WR` (R324). -/
def PtuPart.consumes (x : PtuPart) (rd : BitVec 10) : Bool := decide ((rd - x.rd).toNat ≤ (x.wr - x.rd).toNat)

/-- The driver advances `RD` (R312, R314, R324). -/
def ringConsumed (h : Hard) (p : Part) (rd : BitVec 10) (ok : Bool) (b : Block) : Block :=
  if (b.ptuPart p).consumes rd = false then b
  else
    let b := ringLevel h p (modPtu p (fun x => { x with rd := rd }) b)
    ringWrite h p ok (b.ptuPart p).faults.length b

/-- FAULT_RING_CONSUME (R314). -/
def execFaultRingConsume (part : Part) (rd : BitVec 10) (dmaOk : Bool) (s : State) : Host.Outcome State Fault Refusal :=
  regAct (islandReg .ptu (partReg part fun h b => ringConsumed h part rd dmaOk b)) s

/-- The driver writes the ring's base and whether it is in use (R315). -/
def ringBased (h : Hard) (p : Part) (val : Word) (ok : Bool) (b : Block) : Block :=
  let b := modPtu p (fun x => { x with base := BitVec.ofNat 52 (wbits val 12 52), en := wbit val 0 }) b
  ringWrite h p ok (b.ptuPart p).faults.length b

/-- FAULT_RING_ENABLE (R315). -/
def execFaultRingEnable (part : Part) (val : Word) (dmaOk : Bool) (s : State) : Host.Outcome State Fault Refusal :=
  regAct (islandReg .ptu (partReg part fun h b => ringBased h part val dmaOk b)) s

/-! ### Moves, advice, invalidation (R318, R320) -/

/-- The pages a command names, as page keys with the kind of their window: none when one lies in no window. -/
def coveredKeys (j : Jig) (addr pages : Nat) (small : Bool) : Option (List (Nat × Nat)) :=
  let size := if small then 65536 else twoMegs
  (List.range pages).mapM fun i =>
    let a := addr + size * i
    (windowAt j a).map fun w =>
      let off := a - w.base
      (if small then partKey w.window (off / twoMegs) (off % twoMegs / 65536) else pageKey w.window (off / twoMegs), w.kind.toNat)

/-- The keys of a move or an advice: aligned, at least one page, all in kind 0 windows. -/
def moveKeys (b : Block) (p : Part) (addr : BitVec 57) (pages : BitVec 16) (small : Bool) : Option (List Nat) :=
  match b.jigOf p with
  | none => none
  | some j =>
    if pages = 0 ∨ addr.toNat % (if small then 65536 else twoMegs) ≠ 0 then none
    else match coveredKeys j addr.toNat pages.toNat small with
      | some ks => if ks.all fun k => decide (k.2 = 0) then some (ks.map fun k => k.1) else none
      | none => none

/-- A page, or a part of it, lives with the host. -/
def atHost (x : PtuPart) (key : Nat) : Bool :=
  if (x.pte key).res = 3 then (partKeys key).any fun k => decide ((x.pte k).res = 2) else decide ((x.pte key).res = 2)

/-- What keeps a bounce window from serving a move of a queue's partition. -/
def bounceRefusal (b : Block) (ctx : CmdCtx) (q : Queue) (w : BitVec 6) : Option Byte :=
  match b.bounce w with
  | none => some stObjectGone
  | some x =>
    if x.part ≠ q.part ∨ x.pasid ≠ q.pasid then some stNotOwner
    else if x.dying.isSome && !b.holdsName ctx 4 (w.setWidth 32) then some stObjectGone
    else if x.state ≠ 1 then some stAborted else none

/-- What keeps a reserve from taking a move. -/
def reserveRefusal (b : Block) (p : Part) (rid : BitVec 10) : Option Byte :=
  if rid = 0x3FF ∨ ((reservesOf b p).any fun e => decide (e.1 = rid.toNat)) = true then none
  else if (b.region rid.toNat).isNone then some stObjectGone else some stNotOwner

/-- CMD_PREFETCH (R318). -/
def execCmdPrefetch (ctx : CmdCtx) (addr : BitVec 57) (pages : BitVec 16) (psize : Bool) (dest : BitVec 2) (bounce : BitVec 6) (reserve : BitVec 10) (s : State) : Host.Outcome State Fault Refusal :=
  actCmd ctx 0x0F 0 (fun h q b =>
    match moveKeys b q.part addr pages psize with
    | none => complete h ctx stAborted 0x0102 0 0 b
    | some ks =>
      let usesBounce := decide (dest = 2) || (decide (dest = 0) && ks.any (atHost (b.ptuPart q.part)))
      let no := if dest = 1 then reserveRefusal b q.part reserve else if usesBounce then bounceRefusal b ctx q bounce else none
      if dest = 3 then complete h ctx stAborted 0x0102 0 0 b
      else match no with
        | some st => complete h ctx st 0 0 0 b
        | none => push (.part q.part) (newChange q.part { XChange.blank 0 (some ctx) with todo := ks, small := psize, arg := dest.toNat, reserve := reserve, bounce := bounce } b)) s

/-- CMD_ADVISE (R318). -/
def execCmdAdvise (ctx : CmdCtx) (addr : BitVec 57) (pages : BitVec 16) (psize : Bool) (advice : BitVec 4) (s : State) : Host.Outcome State Fault Refusal :=
  actCmd ctx 0x10 0 (fun h q b =>
    let bad := decide (advice = 0) || decide (6 < advice.toNat) || (psize && decide (advice = 3 ∨ advice = 4))
    match (if bad then none else moveKeys b q.part addr pages psize) with
    | none => complete h ctx stAborted 0x0102 0 0 b
    | some ks => push (.part q.part) (newChange q.part { XChange.blank 1 (some ctx) with todo := ks, small := psize, arg := advice.toNat } b)) s

/-- A page's key and, when it is split, its parts' keys. -/
def withParts (x : PtuPart) (key : Nat) : List Nat := if !keyIsPart key && decide ((x.pte key).res = 3) then key :: partKeys key else [key]

/-- The keys an invalidation covers (R320), among them the pages marked for eviction (R318); none: its operands are malformed, or it would withdraw part of a page that is not split. -/
def invalKeys (b : Block) (p : Part) (addr : BitVec 57) (pages : BitVec 16) (small wd : Bool) : Option (List Nat) :=
  let x := b.ptuPart p
  match b.jigOf p with
  | none => none
  | some j =>
    if pages = 0 then
      let all := (j.windows.filter fun w => decide (w.kind = 0)).flatMap fun w => (List.range (w.size / twoMegs)).map (pageKey w.window)
      let zero (k : Nat) : Bool := j.windows.any fun w => decide (w.window = keyWindow k ∧ w.kind = 0)
      if wd then some ((x.cache.filter fun k => !zero k) ++ all.flatMap (withParts x))
      else some (x.cache ++ ((x.ptes.filter fun e => e.2.evict).map fun e => e.1).filter fun k => !x.cache.contains k)
    else if addr.toNat % (if small then 65536 else twoMegs) ≠ 0 then none
    else match coveredKeys j addr.toNat pages.toNat small with
      | none => none
      | some ks =>
        let one (k : Nat × Nat) : List Nat := if small && (decide (k.2 ≠ 0) || decide ((x.pte (keyTop k.1)).res ≠ 3)) then [keyTop k.1] else withParts x k.1
        if wd && small && ks.any (fun k => decide (k.2 = 0) && decide ((x.pte (keyTop k.1)).res ≠ 3)) then none else some (ks.flatMap one)

/-- CMD_INVALIDATE_XLAT (R320). -/
def execCmdInvalidateXlat (ctx : CmdCtx) (addr : BitVec 57) (pages : BitVec 16) (psize withdraw : Bool) (s : State) : Host.Outcome State Fault Refusal :=
  actCmd ctx 0x0E 0 (fun h q b => match invalKeys b q.part addr pages psize withdraw with
    | none => complete h ctx stAborted 0x0102 0 0 b
    | some ks => push (.part q.part) (newChange q.part { XChange.blank 2 (some ctx) with todo := ks, small := psize, arg := bit withdraw } b)) s

/-! ### Drains, copies and background moves (R316, R318, R319) -/

/-- EPOCH_DRAIN_DONE (R319): changes whose older uses have all ended go on. -/
def execEpochDrainDone (part : Part) (s : State) : Host.Outcome State Fault Refusal :=
  act (fun h b => push (.part part) ((b.ptuPart part).changes.foldl (fun b c => match b.change part c.id with
    | some c => if c.stage = 1 ∧ (b.ptuPart part).drained c.epoch = true then changeDrained h part c b else b
    | none => b) b)) s

/-- PAGE_MOVE_DONE (R318): pages whose copy is whole take their new residence. -/
def execPageMoveDone (part : Part) (s : State) : Host.Outcome State Fault Refusal :=
  act (fun h b => (b.ptuPart part).changes.foldl (fun b c => match b.change part c.id with
    | some c => (match c.todo with | key :: _ => if c.stage = 4 then pageMoved h part c key b else b | [] => b)
    | none => b) b) s

/-- The next page Plane moves to the pool: the lowest marked one that no change holds (R316, R318); the budget is timing, in whose place the partition's idle cells may serve (R257). -/
def evictNext (b : Block) (p : Part) : Option Nat :=
  let x := b.ptuPart p
  (x.ptes.find? fun e => e.2.evict && !pageBusy x e.1 && !(x.changes.any fun c => decide (c.kind = 0) && c.ctx.isNone && c.todo.contains e.1)).map fun e => e.1

/-- EVICT_MOVE (R318): as `CMD_PREFETCH` with `DEST` 1 would, with no command to complete. -/
def execEvictMove (part : Part) (s : State) : Host.Outcome State Fault Refusal :=
  act (fun _ b => match evictNext b part with
    | none => b
    | some key => push (.part part) (newChange part { XChange.blank 0 none with todo := [key], small := keyIsPart key, arg := 1 } b)) s

/-! ### Ports (R321, R322, R324) -/

/-- A queued frame is bound for a destination. -/
def boundFor (e : PinEnt) (q : QFrame) : Bool :=
  if e.dkind = 2 then decide (q.ftype = 8 ∧ q.node = e.dest) else decide (q.ftype = 1 ∧ q.switch = false ∧ q.dest = e.dest ∧ e.dkind = 0)

/-- One destination leaves a port that is down, with the frames that wait for it there, when another port can take it. -/
def moveDest (c : Cfg) (p : Part) (k : Port) (e : PinEnt) (n : Nat × Block) : Nat × Block :=
  let b := n.2
  let x := b.ptuPart p
  let rest := x.chosen.filter fun y => decide (y ≠ e)
  match fewestDests { x with chosen := rest } ((((List.range 64).map fun n => Fin.ofNat 64 n).filter (portOpen c b p)).filter fun m => decide (m ≠ k)) with
  | none => n
  | some m =>
    let fs := ((b.portPart k p).queue3 ++ (b.portPart k p).wait3).filter (boundFor e)
    let b := modPtu p (fun x => { x with chosen := rest ++ [{ e with port := m }] }) b
    let b := modPortPart k p (fun y => PortPart.put3 b.now [] { y with queue3 := y.queue3.filter fun q => !boundFor e q, wait3 := y.wait3.filter fun q => !boundFor e q }) b
    (n.1 + 1, modPortPart m p (PortPart.put3 b.now fs) b)

/-- PORT_MOVED (R322). -/
def execPortMoved (part : Part) (port : Port) (s : State) : Host.Outcome State Fault Refusal :=
  act (fun h b =>
    let x := b.ptuPart part
    let y := b.port port
    let es := x.chosen.filter fun e => decide (e.port = port) && !(x.pins.any fun q => q.names e.dkind e.dest)
    if y.linkUp = true ∨ b.now.toNat < y.downSince.toNat + 1000000 ∨ portPresent h.cfg port = false then b
    else
      let r := es.foldl (fun n e => moveDest h.cfg part port e n) (0, b)
      if r.1 = 0 then b else push (.part part) (xlatNote h 0x0706 part [aByte port.val, aCount r.1] r.2)) s

/-- A port that can be pinned (R324). -/
def pinnable (c : Cfg) (b : Block) (p : Part) (k : Port) : Bool :=
  portPresent c k && (match b.jigOf p with | some j => decide (j.share (portIsland k) ≠ 0) | none => false)

/-- The pin of the selected destination is written (R324): refused for a port without a share, and past 256 pins. -/
def pinWritten (h : Hard) (p : Part) (val : Word) (b : Block) : Block :=
  let x := b.ptuPart p
  let port : Port := Fin.ofNat 64 (wbits val 8 6)
  let rest := x.pins.filter fun e => !e.names x.selKind x.selDest
  let ok := wbit val 63 && pinnable h.cfg b p port && decide (rest.length < 256)
  push (.part p) (modPtu p (fun x => { x with pins := if ok then rest ++ [{ dkind := x.selKind, dest := x.selDest, port := port }] else rest }) b)

/-- PIN_WRITE (R324). -/
def execPinWrite (part : Part) (val : Word) (s : State) : Host.Outcome State Fault Refusal :=
  regAct (islandReg .ptu (partReg part fun h b => pinWritten h part val b)) s

end Sys2Proof.Machine
end

