-- ==== Sys2Proof/Machine/Objects.lean ====
section
/-! DEFINITION. The host-visible objects (R326): quotas, the abort of a command before its completion point (R341), the destruction of queues, regions, fences, bounce windows and partitions (R342 to R344), and process death (R345). -/

namespace Sys2Proof.Machine

/-! ### Quotas (R19, R326) -/

def queuesHeld (b : Block) (pasid : BitVec 20) : Nat := Tab.count b.host.queues fun _ q => decide (q.pasid = pasid)
/-- Fence slots against the quota: objects and pending signals, not deferral fences (R338, R343). -/
def fencesHeld (b : Block) (pasid : BitVec 20) : Nat := Tab.count b.host.fences fun _ o => decide (o.pasid = pasid ∧ o.kind ≠ 2)
def bouncesHeld (b : Block) (pasid : BitVec 20) : Nat := Tab.count b.host.bounces fun _ x => decide (x.pasid = pasid)

def fenceCap : Nat := 16384

/-- Takes the lowest free fence slot. -/
def allocFence (pasid : BitVec 20) (p : Part) (shared : Bool) (kind : BitVec 2) (b : Block) : Option (Nat × Block) :=
  (Tab.lowestFree b.host.fences 0 fenceCap).map fun s =>
    (s, setFence s { pasid := pasid, part := p, shared := shared, status := none, claimed := false, waits := [], freed := false, kind := kind, deferral := none } b)

/-! ### Loads of a Jig waiting their turn (R75) -/

/-- TC begins the next load it has taken. -/
def nextLoad (b : Block) : Block :=
  match b.tcLoad, b.tcQueue with
  | none, l :: rest =>
    let b := { b with tcLoad := some { l with begun := b.now }, tcQueue := rest }
    emit (.dmaRead l.addr l.length.toNat) (modPart l.part (fun s => { s with verifying := true }) b)
  | _, _ => b

/-- Withdraws the loads for which `sel` holds; their commands are still to be completed. -/
def dropLoads (sel : JigLoad → Bool) (b : Block) : Block :=
  let b := { b with tcQueue := b.tcQueue.filter fun l => !sel l }
  match b.tcLoad with
  | some l => if sel l then nextLoad (modPart l.part (fun s => { s with verifying := false }) { b with tcLoad := none }) else b
  | none => b

/-- The report of a load that ends without a check's verdict: by an abort, a release, a reset or its queue (R83). The spec states no `REASON` for it: a free value; no record offends (log entry 86). -/
def rejectOpen (p : Part) (b : Block) : Block :=
  opened (modPart p (fun s => { s with rejType := 0, rejOffset := 0, rejReason := b.openVal.setWidth 16 }) b)

/-! ### The abort of one command (R341): none past its completion point -/

/-- R81: a load not begun, and a replacement before its commit point. -/
def cancelLoad (h : Hard) (p : Part) (ctx : CmdCtx) (b : Block) : Option Block :=
  let done (b : Block) : Option Block := some (complete h ctx stAborted 0 0 0 (rejectOpen p b))
  let mine (l : JigLoad) : Bool := decide (l.ctx = ctx)
  if b.tcQueue.any mine || (match b.tcLoad with | some l => mine l && l.replace | none => false) then done (dropLoads mine b)
  else match (b.part p).pending with
    | some j => if j.ctx = ctx ∧ j.committed = false then done (modPart p (fun s => { s with pending := none }) b) else none
    | none => none

/-- R160: an admission before this side's `JOIN_ACK`. -/
def cancelAdmit (h : Hard) (p : Part) (ctx : CmdCtx) (b : Block) : Option Block :=
  match (b.adm' p).peers.find? fun e => decide (e.2.admitCtx = some ctx) with
  | none => none
  | some e =>
    let m : MemberRef := BitVec.ofNat 32 e.1
    let q := b.peerAt p e.1
    if q.ackOut then none
    else
      let b := complete h ctx stAborted 0 0 0 (modPeerAt p e.1 (fun q => { q with admitCtx := none }) b)
      some (if q.rejoin then endSession h p b m
        else if q.attempting || decide (q.state = 1) then
          let b := if q.secret ≠ 0 then endKey h q.secret (sendAt h p m e.1 (.spdm cEndSession .none []) b) else b
          push (.adm p) (modAdm p (fun a => { a with peers := Tab.del a.peers e.1 }) b)
        else b)

/-- R272: a hand-off before `HANDOFF` is sent. -/
def cancelHandoff (h : Hard) (ctx : CmdCtx) (b : Block) : Option Block :=
  match b.regions.find? fun e => decide (e.2.ctx = some ctx) with
  | some (rid, r) => if r.handing ∧ r.state ≠ 7 then some (complete h ctx stAborted 0 0 0 (setRegion rid { r with handing := false, ctx := none } b)) else none
  | none => none

/-- R124: a replacement before its commit tick. -/
def cancelReplace (h : Hard) (ctx : CmdCtx) (b : Block) : Option Block :=
  match b.ks.repls.find? fun e => decide (e.2.ctx = some ctx) with
  | some (s, r) => if r.stage = .committed ∨ (r.commitTick ≠ 0 ∧ r.commitTick.toNat ≤ b.now.toNat) then none else some (failRepl h s 5 stAborted b)
  | none => none

/-- A fence not released, or a wait whose object is not signalled. -/
def cancelFence (h : Hard) (p : Part) (ctx : CmdCtx) (b : Block) : Option Block :=
  let mine (f : FenceRun) : Bool := decide (f.ctx = some ctx)
  if (b.ahuPart p).fences.any mine then some (complete h ctx stAborted 0 0 0 (cutFences h p mine b))
  else match b.host.fences.find? fun e => e.2.waits.contains ctx with
    | some (s, o) => some (fenceSettle s (complete h ctx stAborted 0 0 0 (setFence s { o with waits := o.waits.filter fun w => decide (w ≠ ctx) } b)))
    | none => none

/-- A move or advice with pages left, or an invalidation whose epoch is not taken. -/
def cancelChange (h : Hard) (p : Part) (ctx : CmdCtx) (b : Block) : Option Block :=
  match (b.ptuPart p).changes.find? fun c => decide (c.ctx = some ctx) with
  | some c =>
    if c.kind ≤ 1 then some (failChange h p c stAborted 0 b)
    else if c.kind = 2 ∧ c.stage = 0 then some (endChange h p { c with done := 0 } stAborted 0 b) else none
  | none => none

/-- Aborts a command of a queue, its record written; none at or after its completion point. -/
def cancel (h : Hard) (q : Queue) (f : InFlight) (b : Block) : Option Block :=
  if f.started = false then some (complete h f.ctx stAborted 0 0 0 b)
  else match f.opcode.toNat with
    | 0x02 => cancelLoad h q.part f.ctx b
    | 0x03 => cancelAdmit h q.part f.ctx b
    | 0x06 => cancelHandoff h f.ctx b
    | 0x09 => cancelReplace h f.ctx b
    | 0x0D => cancelFence h q.part f.ctx b
    | 0x0E => cancelChange h q.part f.ctx b
    | 0x0F => cancelChange h q.part f.ctx b
    | 0x10 => cancelChange h q.part f.ctx b
    | _ => none

/-- Aborts each command of a queue for which `sel` holds; one past its completion point goes on. -/
def cancelAll (h : Hard) (n : Nat) (sel : InFlight → Bool) (b : Block) : Block :=
  match Tab.get? b.host.queues n with
  | none => b
  | some q => (q.flight.filter sel).foldl (fun b f => (cancel h q f b).getD b) b

/-- Aborts every command that names an object (R342). -/
def cancelNaming (h : Hard) (otype : Byte) (handle : BitVec 32) (b : Block) : Block :=
  b.host.queues.foldl (fun b e => cancelAll h e.1 (fun f => f.names.contains (otype, handle)) b) b

/-! ### The abort of requesters (R299) -/

/-- A local write or atomic on its way to its memory engine: answered, and left to reach it. -/
def releaseWrite (p : Part) (m : MemReq) (b : Block) : Block :=
  let r := newBundle p .quiet 1 b
  answer m.by' p stAborted 0 (putReq { m with by' := ownAsker r.1 (resultKey m.line m.op), scheduled := false } r.2)

/-- Ends the transactions of the requesters for which `sel` holds, each with its one response; with what is still to drain (R299, R342). -/
def abortAskers (h : Hard) (p : Part) (sel : Asker → Bool) (b : Block) : List Nat × Block :=
  let ms := b.memReqs.filter fun m => decide (m.part = p) && m.isDom && m.by'.use.isSome && sel m.by'
  let late (m : MemReq) : Bool := m.isWrite && m.begun
  let ts := (b.ahuPart p).tags.filter fun e => e.2.isAsk && !e.2.silent && e.2.by'.use.isSome && sel e.2.by'
  let copies := (ts.filter fun e => e.2.dseq.isSome && decide (e.2.kind = 1) && e.2.mutates).map fun e => e.1
  let b := ms.foldl (fun b m => if late m then releaseWrite p m b else finish h m stAborted 0 b) b
  let b := ts.foldl (fun b e => abortAsk p e.1 e.2 b) b
  (copies ++ (ms.filter late).map fun m => 2048 + m.id, push (.part p) b)

/-- Waits for what a destruction left on its way, then completes its command. -/
def awaitDrain (p : Part) (ctx : Option CmdCtx) (ws : List Nat) (arg done : Nat) (b : Block) : Block :=
  push (.part p) (newChange p { XChange.blank 6 ctx with todo := ws, arg := arg, done := done } b)

/-! ### Queues (R342, R344) -/

/-- Writes of a queue's moves that are on their way. -/
def movesOf (b : Block) (p : Part) (n : Nat) : List Nat :=
  let ids := ((b.ptuPart p).changes.filter fun c => match c.ctx with | some x => decide (x.queue.toNat = n) | none => false).map fun c => c.id
  let bs := (b.bundles.filter fun y => decide (y.part = p) && (match y.what with | .move id _ => ids.contains id | _ => false)).map fun y => y.id
  (b.memReqs.filter fun m => m.isWrite && (match m.by'.src with | .bundle id _ => bs.contains id | .port _ => false)).map fun m => 2048 + m.id

/-- A queue dies: its commands are aborted, its arms halt, its relays raise no event, no record is written any more; with what is still to drain. -/
def destroyQueue (h : Hard) (n : Nat) (b : Block) : List Nat × Block :=
  match Tab.get? b.host.queues n with
  | none => ([], b)
  | some q =>
    let ws := movesOf b q.part n
    let mine (c : Option CmdCtx) : Bool := match c with | some x => decide (x.queue.toNat = n) | none => false
    let b := setQueue n { q with state := 2, held := [] } b
    let b := { b with vgroups := b.vgroups.map fun g => if mine g.ctx then { g with ctx := none, haltReq := decide (g.state = 2) || g.haltReq } else g }
    let b := modAdm q.part (fun a => { a with peers := Tab.mapV a.peers fun _ x => { x with relay := x.relay.map fun r => if mine r.ctx then { r with ctx := none } else r } }) b
    (ws, queueSettle h n (cancelAll h n (fun _ => true) b))

/-! ### Regions (R343, R344) -/

/-- A use of a window's translations remains (R319, R343): in its region, or in a frame of a reserve that holds one of its pages. -/
def windowUsed (b : Block) (rid : Nat) (r : Region) : Bool :=
  let p := r.part
  let frames := (b.ptuPart p).frames
  let inWindow (region line : Nat) : Bool := decide (region = rid)
    || (match Tab.get? frames (frameKey region (line / 1024)), r.window with | some k, some w => decide (r.kind = 0 ∧ keyWindow k = w.val) | _, _ => false)
  (b.memReqs.any fun m => decide (m.part = p) && m.by'.use.isSome && inWindow m.region m.line)
    || ((b.ahuPart p).tags.any fun e => e.2.isAsk && !e.2.silent && e.2.by'.use.isSome && inWindow e.2.region (e.2.offset.toNat / 64))

/-- A region begins to close; its command, if one waits, completes at the end of the drain (R320). -/
def closeObject (rid : Nat) (r : Region) (ctx : Option CmdCtx) (b : Block) : Block :=
  push (.part r.part) (newChange r.part { XChange.blank 3 ctx with window := rid } (setRegion rid { r with dying := true } b))

/-- The deferral fence of a free that has to wait: `ST_NO_SLOT` with none left (R343). -/
def deferFree (h : Hard) (ctx : CmdCtx) (q : Queue) (k : BitVec 32 → Block → Block) (b : Block) : Block :=
  match allocFence q.pasid q.part false 2 b with
  | none => complete h ctx stNoSlot 0 0 0 b
  | some (s, b') => let f := b'.fenceHandle s; complete h ctx stOk 0 f.toNat 0 (k f b')

/-- `CMD_OBJ_FREE` of a region. -/
def freeRegion (h : Hard) (ctx : CmdCtx) (q : Queue) (rid : Nat) (refs : Bool) (b : Block) : Block :=
  match b.region rid with
  | none => complete h ctx stObjectGone 0 0 0 b
  | some r =>
    if r.pasid ≠ some q.pasid then complete h ctx stNotOwner 0 0 0 b
    else if r.dying then complete h ctx stObjectGone 0 0 0 b
    else if refs then
      let b := cancelNaming h 2 (BitVec.ofNat 32 rid) b
      match b.region rid with | some r => closeObject rid r (some ctx) b | none => complete h ctx stOk 0 0 0 b
    else if b.isNamed 2 (BitVec.ofNat 32 rid) = false ∧ windowUsed b rid r = false then closeObject rid r (some ctx) b
    else deferFree h ctx q (fun f b => modRegion rid (fun r => { r with dying := true, deferral := some f }) b) b

/-! ### Fences (R339, R343) -/

/-- `CMD_OBJ_FREE` of a fence object: one not signalled is signalled `ST_ABORTED` first. -/
def freeFenceObj (h : Hard) (ctx : CmdCtx) (q : Queue) (handle : BitVec 32) (refs : Bool) (b : Block) : Block :=
  match b.fenceSlot handle with
  | none => complete h ctx stObjectGone 0 0 0 b
  | some (s, o) =>
    if o.kind = 1 ∨ o.freed then complete h ctx stObjectGone 0 0 0 b
    else if o.pasid ≠ q.pasid then complete h ctx stNotOwner 0 0 0 b
    else
      let stay := !refs && (o.claimed || b.isNamed 3 handle)
      let wait (b : Block) : Block := if o.status.isNone then signalObj h s stAborted b else b
      if stay then deferFree h ctx q (fun f b => wait (setFence s { o with freed := true, deferral := some f } b)) b
      else
        let b := if refs then cancelNaming h 3 handle b else b
        let b := match b.fenceObj s with | some o => if o.status.isNone then signalObj h s stAborted b else b | none => b
        complete h ctx stOk 0 0 0 (match b.fenceObj s with | some o => fenceSettle s (setFence s { o with freed := true } b) | none => b)

/-! ### Bounce windows (R343, R352) -/

/-- `CMD_OBJ_FREE` of a bounce window. -/
def freeBounce (h : Hard) (ctx : CmdCtx) (q : Queue) (w : BitVec 6) (refs : Bool) (b : Block) : Block :=
  match b.bounce w with
  | none => complete h ctx stObjectGone 0 0 0 b
  | some x =>
    if x.pasid ≠ q.pasid ∨ x.part ≠ q.part then complete h ctx stNotOwner 0 0 0 b
    else if x.dying.isSome ∨ x.state = 3 then complete h ctx stObjectGone 0 0 0 b
    else if refs then
      let b := cancelNaming h 4 (w.setWidth 32) b
      let r := abortAskers h q.part (fun a => decide (a.engine = bounceEngine w)) (endStalls q.part (fun s => decide (s.engine = bounceEngine w)) b)
      awaitDrain q.part (some ctx) r.1 0 0 (endBounce h w stAborted r.2)
    else if b.isNamed 4 (w.setWidth 32) = false then complete h ctx stOk 0 0 0 (endBounce h w stAborted b)
    else deferFree h ctx q (fun f b => modBounce w (fun x => { x with dying := some f }) b) b

/-! ### Partitions (R344) -/

/-- Every fence object of a partition not signalled yet is signalled. -/
def signalAll (h : Hard) (sel : FenceObj → Bool) (st : Byte) (b : Block) : Block :=
  (b.host.fences.filter fun e => decide (e.2.kind ≠ 1) && e.2.status.isNone && sel e.2).foldl (fun b e => signalObj h e.1 st b) b

/-- The loads and admissions of a released partition end with `ST_OBJECT_GONE` (R77, R160). -/
def releaseLoads (h : Hard) (p : Part) (b : Block) : Block :=
  let ls := (b.tcLoad.toList ++ b.tcQueue).filter fun l => decide (l.part = p)
  let b := ls.foldl (fun b l => complete h l.ctx stObjectGone 0 0 0 (rejectOpen p b)) (dropLoads (fun l => decide (l.part = p)) b)
  let b := match (b.part p).pending with
    | some j => complete h j.ctx stObjectGone 0 0 0 (rejectOpen p <| modPart p (fun s => { s with pending := none }) b)
    | none => b
  ((b.adm' p).peers.filter fun e => e.2.admitCtx.isSome).foldl (fun b e =>
    completeOpt h e.2.admitCtx stObjectGone 0 0 0 (modAdm p (fun a => { a with peers := Tab.upd a.peers e.1 Peer.reset (fun q => { q with admitCtx := none }) }) b)) b

/-- The kept pool regions with a live mirror are handed off, all others close (R344). -/
def releaseRegions (h : Hard) (p : Part) (b : Block) : Block :=
  (b.regions.filter fun e => decide (e.2.part = p)).foldl (fun b e => match b.region e.1 with
    | none => b
    | some r =>
      if r.role = 0 ∧ r.kind = 2 ∧ mirrorLive b r = true ∧ (r.state = 2 ∨ r.state = 3 ∨ r.state = 9) then wantPub e.1 (setRegion e.1 { r with handing := true, closing := true } b)
      else if r.role = 0 ∧ r.state = 7 then setRegion e.1 { r with closing := true } b
      else closeRegion h e.1 b) b

/-- The release of a partition is taken (R344): what follows goes on in `releaseStep`. -/
def releasePart (h : Hard) (p : Part) (ctx : CmdCtx) (b : Block) : Block :=
  let b := setPartState h p 3 (modPart p (fun s => { s with release := some ctx }) b)
  let b := releaseLoads h p b
  let b := (b.host.queues.filter fun e => decide (e.2.part = p)).foldl (fun b e => cancelAll h e.1 (fun f => decide (f.ctx ≠ ctx ∧ f.opcode ≠ 0x13)) b) b
  let b := { b with vgroups := b.vgroups.map fun (g : VGroup) => if g.part = p then { g with ctx := none, haltReq := decide (g.state = 2) || g.haltReq } else g }
  let b := ((b.ptuPart p).changes.filter fun (c : XChange) => decide (c.kind ≤ 1)).foldl (fun b c => failChange h p c stAborted 0 b) b
  let b := (abortAskers h p (fun _ => true) (endStalls p (fun _ => true) b)).2
  let b := ringLevel h p (modPtu p (fun x => { x with wr := 0, rd := 0, faults := [], changes := x.changes.filter fun (c : XChange) => decide (c.kind = 6) }) b)
  let fs := (b.ahuPart p).fences
  let b := fs.foldl (fun b f => fenceEnd h p f stAborted b) (modAhu p (fun a => { a with fences := [] }) b)
  let b := signalAll h (fun o => decide (o.part = p)) stAborted b
  let b := ((b.host.bounces.filter fun e => decide (e.2.part = p)).map fun e => BitVec.ofNat 6 e.1).foldl (fun b w => endBounce h w stAborted b) b
  push (.part p) (releaseRegions h p b)

/-! ### Process death (R345) -/

/-- Objects a process ends with. -/
def objectsOf (b : Block) (pasid : BitVec 20) : Nat :=
  queuesHeld b pasid + Tab.count b.host.fences (fun _ o => decide (o.pasid = pasid)) + regionsHeld b pasid + bouncesHeld b pasid

/-- A PASID dies: its queues are destroyed, its fence objects abandoned, its requests aborted, its regions and windows closed, its user keys invalidated (R345); samples are no longer sealed under it (R376). -/
def processDeath (h : Hard) (p : Part) (pasid : BitVec 20) (b : Block) : Block :=
  let n := objectsOf b pasid
  let qs := (b.host.queues.filter fun e => decide (e.2.pasid = pasid)).map fun e => e.1
  let b := { b with host := { b.host with queues := Tab.mapV b.host.queues fun _ q => if q.pasid = pasid then { q with state := 2, held := [] } else q } }
  let b := signalAll h (fun o => decide (o.pasid = pasid)) stAbandoned b
  let r := qs.foldl (fun (r : List Nat × Block) n => let d := destroyQueue h n r.2; (r.1 ++ d.1, d.2)) ([], b)
  let a := abortAskers h p (fun a => decide (a.pasid = pasid)) (endStalls p (fun s => decide (s.pasid = pasid)) r.2)
  let b := ((a.2.host.fences.filter fun e => decide (e.2.pasid = pasid ∧ e.2.kind ≠ 1)).map fun e => e.1).foldl (fun b s => match b.fenceObj s with
    | some o => fenceSettle s (setFence s { o with freed := true } b)
    | none => b) a.2
  let b := (b.regions.filter fun e => decide (e.2.pasid = some pasid)).foldl (fun b e => if e.2.dying then b else closeObject e.1 e.2 none b) b
  let b := ((b.host.bounces.filter fun e => decide (e.2.pasid = pasid)).map fun e => BitVec.ofNat 6 e.1).foldl (fun b w => endBounce h w stAborted b) b
  let ks := (b.ks.slots.filter fun e => decide (e.2.attr.type = 13 ∧ e.2.pasid = pasid ∧ e.2.attr.owner = BitVec.ofNat 4 p.val)).map fun e => BitVec.ofNat 12 e.1
  let b := ks.foldl (fun b s => endKey h s b) b
  let b := if (b.rstPart p).dumpPasid = pasid then modRstPart p (fun r => { r with dumpEn := false }) b else b
  awaitDrain p none (r.1 ++ a.1) (pasid.toNat + 1) n b

end Sys2Proof.Machine
end

