-- ==== Sys2Proof/Machine/Operands.lean ====
section
/-! DEFINITION. Descriptors (R334, R336): the header, the operand fields of each command, the reserved bits, the objects a command names (R343), and the host reasons of R337. -/

namespace Sys2Proof.Machine

/-- A field of a descriptor: width bits at a byte offset and a bit in that byte on. -/
def descField (d : Line) (off bit' w : Nat) : Nat := bitsOf d.toNat (8 * off + bit') w

/-- The operand fields of each command as (byte offset, bit, width) (R336); none: an unknown `OPCODE`. -/
def operandFields (opcode : Nat) : Option (List (Nat × Nat × Nat)) :=
  match opcode with
  | 0x01 => some [(16, 0, 3)]
  | 0x02 => some [(16, 0, 4), (24, 0, 64), (32, 0, 32)]
  | 0x03 => some [(16, 0, 32), (20, 0, 1), (20, 4, 4), (24, 0, 64)]
  | 0x04 => some [(16, 0, 32)]
  | 0x05 => some [(16, 0, 4), (17, 0, 4)]
  | 0x06 => some [(16, 0, 10)]
  | 0x07 => some [(16, 0, 10)]
  | 0x08 => some [(16, 0, 12), (18, 0, 4), (19, 0, 6), (20, 0, 12), (32, 0, 256)]
  | 0x09 => some [(16, 0, 12), (24, 0, 64)]
  | 0x0A => some [(16, 0, 12)]
  | 0x0B => some [(16, 0, 12), (20, 0, 32), (24, 0, 64)]
  | 0x0C => some [(16, 0, 32), (20, 0, 3), (24, 0, 64), (32, 0, 64)]
  | 0x0D => some [(16, 0, 3), (16, 4, 3), (20, 0, 32), (24, 0, 64)]
  | 0x0E => some [(16, 0, 57), (24, 0, 16), (26, 0, 2)]
  | 0x0F => some [(16, 0, 57), (24, 0, 16), (26, 1, 1), (27, 0, 2), (28, 0, 6), (30, 0, 10)]
  | 0x10 => some [(16, 0, 57), (24, 0, 16), (26, 1, 1), (27, 0, 4)]
  | 0x11 => some [(16, 0, 8), (20, 0, 32)]
  | 0x12 => some [(16, 0, 8), (17, 0, 1), (20, 0, 32)]
  | 0x13 => some [(16, 0, 16), (20, 0, 32), (24, 0, 64), (32, 0, 32)]
  | 0x14 => some [(16, 0, 16), (18, 0, 4), (24, 0, 64), (32, 0, 64), (40, 0, 8)]
  | _ => none

/-- A mask of the bits a field takes. -/
def fieldMask (f : Nat × Nat × Nat) : Nat := (2 ^ f.2.2 - 1) * 2 ^ (8 * f.1 + f.2.1)

/-- The bits of a descriptor that must be zero: of the header [7:2] of byte 1 and bytes 2 to 7, and every operand bit no field takes. -/
def reservedMask (fs : List (Nat × Nat × Nat)) : Nat :=
  fieldMask (1, 2, 54) + ((2 ^ 384 - 1) * 2 ^ 128 - (fs.map fieldMask).sum)

/-- What a descriptor's header says (R334). -/
structure DescHead where
  opcode  : Nat
  intr    : Bool
  ordered : Bool
  cookie  : Word
  deriving DecidableEq, Repr

def descHead (d : Line) : DescHead :=
  { opcode := descField d 0 0 8, intr := decide (descField d 1 0 1 = 1), ordered := decide (descField d 1 1 1 = 1), cookie := BitVec.ofNat 64 (descField d 8 0 64) }

/-- The host reason of a descriptor the block cannot take (R337); none: it can. -/
def descReason (d : Line) : Option Nat :=
  match operandFields (descHead d).opcode with
  | none => some 0x0100
  | some fs => if d.toNat &&& reservedMask fs = 0 then none else some 0x0101

/-- The objects a descriptor names, as (object type, handle): regions 2, fences 3, bounce windows 4. A free names nothing: it is not what keeps its object. -/
def descNames (d : Line) : List (Byte × BitVec 32) :=
  let half (off : Nat) : BitVec 32 := BitVec.ofNat 32 (descField d off 0 16)
  match (descHead d).opcode with
  | 0x06 => [(2, BitVec.ofNat 32 (descField d 16 0 10))]
  | 0x07 => [(2, BitVec.ofNat 32 (descField d 16 0 10))]
  | 0x0D =>
    let n := descField d 16 4 3
    (if descField d 20 0 32 = 0 then [] else [(3, BitVec.ofNat 32 (descField d 20 0 32))])
      ++ if descField d 16 0 2 = 0 then ((List.range (min n 4)).map fun i => (2, half (24 + 2 * i))) else []
  | 0x0F =>
    if descField d 27 0 2 = 1 then (if descField d 30 0 10 = 0x3FF then [] else [(2, BitVec.ofNat 32 (descField d 30 0 10))])
    else [(4, BitVec.ofNat 32 (descField d 28 0 6))]
  | _ => []

end Sys2Proof.Machine
end

