-- ==== Sys2Proof/Machine/HostIf.lean ====
section
/-! DEFINITION. The host interface (R326 to R357): slices, queues and their doorbells, descriptors, partitions, fences, aborts, frees, queries, and the bounce windows' commands. -/

namespace Sys2Proof.Machine

/-! ### Slices and queues (R19, R21, R328 to R331) -/

/-- An entry after a write of one of its two words (R354). -/
def Slice.written (s : Slice) (quota : Bool) (val : Word) : Slice :=
  if quota then { s with bw := BitVec.ofNat 7 (wbits val 54 7), fence := BitVec.ofNat 15 (wbits val 39 15), rgn := BitVec.ofNat 11 (wbits val 28 11), q := BitVec.ofNat 9 (wbits val 19 9) }
  else { s with valid := wbit val 63, part := BitVec.ofNat 3 (wbits val 24 3), pasid := BitVec.ofNat 20 (wbits val 0 20) }

def Block.slice (b : Block) (k : Nat) : Slice := Tab.getD b.host.slices k Slice.reset

/-- Another valid entry names the PASID (R19). -/
def sliceTaken (b : Block) (k : Nat) (pasid : BitVec 20) : Bool := b.host.slices.any fun e => decide (e.1 ≠ k) && e.2.valid && decide (e.2.pasid = pasid)

/-- A write of a slice entry (R21, R328). -/
def sliceWritten (h : Hard) (k : Nat) (quota : Bool) (val : Word) (b : Block) : Block :=
  let old := b.slice k
  let new := old.written quota val
  if new.valid && sliceTaken b k new.pasid then fire h 420 (note h 0x0803 24 (some (Fin.ofNat 8 new.part.toNat)) [aHalf k, aW3 new.pasid.toNat] b)
  else
    let b := { b with host := { b.host with slices := Tab.set b.host.slices k new } }
    if old.valid && decide (new.valid = false ∨ new.part ≠ old.part ∨ new.pasid ≠ old.pasid) then processDeath h (Fin.ofNat 8 old.part.toNat) old.pasid b else b

/-- SLICE_WRITE (R328). -/
def execSliceWrite (entry : Fin 64) (quota : Bool) (val : Word) (s : State) : Host.Outcome State Fault Refusal :=
  regAct (islandReg .hbe fun h b => sliceWritten h entry.val quota val b) s

/-- What `SWY_PART_QRES_n` is to report: the status that applies first, with the free queue number (R330). -/
def queueStatus (b : Block) (p : Part) (pasid : BitVec 20) (sqLog cqLog : Nat) : Byte × Nat :=
  if sqLog < 4 ∨ 12 < sqLog ∨ cqLog < sqLog ∨ 14 < cqLog then (stAborted, 0)
  else match b.sliceOf pasid with
    | none => (stNotOwner, 0)
    | some sl =>
      if sl.part.toNat ≠ p.val then (stNotOwner, 0)
      else match (if sl.q.toNat ≤ queuesHeld b pasid then none else Tab.lowestFree b.host.queues 0 256) with
        | none => (stNoSlot, 0)
        | some n => (stOk, n)

/-- A write of `SWY_PART_QNEW_n` (R330, R355). -/
def queueCreated (h : Hard) (p : Part) (val : Word) (b : Block) : Block :=
  let vector : BitVec 11 := BitVec.ofNat 11 (wbits val 44 11)
  let b := modPart p (fun s => { s with qVector := vector, qCqLog := BitVec.ofNat 4 (wbits val 40 4), qSqLog := BitVec.ofNat 4 (wbits val 36 4), qPasid := BitVec.ofNat 20 (wbits val 12 20) }) b
  if wbit val 63 = false then b
  else
    let s := b.part p
    let r := queueStatus b p s.qPasid s.qSqLog.toNat s.qCqLog.toNat
    let b := modPart p (fun s => { s with qDone := true, qStatus := r.1, qQueue := BitVec.ofNat 8 r.2 }) b
    if r.1 ≠ stOk then b
    else
      ownSrc h r.2 p vector.toNat (setQueue r.2
        { part := p, pasid := s.qPasid, sqBase := s.qSqBase, cqBase := s.qCqBase, sqLog := s.qSqLog.toNat, cqLog := s.qCqLog.toNat, sqTail := 0, cqHead := 0, sqHead := 0, cqTail := 0,
          state := 1, tailErr := false, held := [], flight := [], aborted := [] } b)

/-- QUEUE_CREATE (R330). -/
def execQueueCreate (part : Part) (val : Word) (s : State) : Host.Outcome State Fault Refusal := regAct (fun h b => queueCreated h part val b) s

/-- A write of `SQ_TAIL` (R331): more than the ring ahead of `SQ_HEAD`, or behind it, is ignored and noted in `TAIL_ERR`. -/
def sqTailWritten (queue : BitVec 8) (index : BitVec 32) (b : Block) : Block :=
  match b.queue queue with
  | none => b
  | some q =>
    if q.state ≠ 1 then b
    else setQueue queue.toNat (if (index - q.sqHead).toNat ≤ 2 ^ q.sqLog then { q with sqTail := index } else { q with tailErr := true }) b

/-- SQ_TAIL_WRITE. -/
def execSqTailWrite (queue : BitVec 8) (index : BitVec 32) (s : State) : Host.Outcome State Fault Refusal := regAct (fun _ b => sqTailWritten queue index b) s

/-- A write of `CQ_HEAD` (R331, R332): the room it makes takes records that were held. -/
def cqHeadWritten (h : Hard) (queue : BitVec 8) (index : BitVec 32) (b : Block) : Block :=
  match b.queue queue with
  | none => b
  | some q =>
    if q.state ≠ 1 then b
    else if (index - q.cqHead).toNat ≤ (q.cqTail - q.cqHead).toNat then drainHeld h queue.toNat (q.held.length + 1) (setQueue queue.toNat { q with cqHead := index } b)
    else setQueue queue.toNat { q with tailErr := true } b

/-- CQ_HEAD_WRITE. -/
def execCqHeadWrite (queue : BitVec 8) (index : BitVec 32) (s : State) : Host.Outcome State Fault Refusal := regAct (fun h b => cqHeadWritten h queue index b) s

/-! ### Descriptors (R331 to R337) -/

/-- An object that takes no new command (R343). -/
def namesDying (b : Block) (x : Byte × BitVec 32) : Bool :=
  match x.1.toNat with
  | 2 => (match b.region x.2.toNat with | some r => r.dying | none => false)
  | 3 => (match b.fenceSlot x.2 with | some (_, o) => o.freed | none => false)
  | 4 => (match b.bounce (BitVec.ofNat 6 x.2.toNat) with | some w => w.dying.isSome | none => false)
  | _ => false

/-- The block takes the descriptor at `SQ_HEAD`. -/
def takeDescriptor (h : Hard) (n : BitVec 8) (q : Queue) (d : Line) (b : Block) : Block :=
  let hd := descHead d
  let ctx : CmdCtx := { queue := n, cmdId := q.sqHead, cookie := hd.cookie, intr := hd.intr }
  let b := emit (.dmaRead ((q.sqBase.setWidth 64) <<< 12 + BitVec.ofNat 64 (64 * (q.sqHead.toNat % 2 ^ q.sqLog))) 64) b
  let taken (f : List InFlight) : Queue := { q with sqHead := q.sqHead + 1, flight := q.flight ++ f, aborted := q.aborted.filter fun x => decide (x ≠ q.sqHead) }
  if q.aborted.contains q.sqHead then complete h ctx stAborted 0 0 0 (setQueue n.toNat (taken []) b)
  else match descReason d with
    | some r => complete h ctx stAborted r 0 0 (setQueue n.toNat (taken []) b)
    | none =>
      let f : InFlight := { ctx := ctx, opcode := BitVec.ofNat 8 hd.opcode, ordered := hd.ordered, started := false, names := (descNames d).filter fun x => !namesDying b x }
      setQueue n.toNat (taken [f]) b

/-- A failed DMA of the submission ring (0) or the completion ring (1) puts the queue in state 3 (R331). -/
def ringFailed (h : Hard) (queue : BitVec 8) (q : Queue) (ring : Nat) (b : Block) : Block :=
  note h 0x0807 24 (some q.part) [aByte queue.toNat, aByte ring] (setQueue queue.toNat { q with state := 3 } b)

/-- DESCRIPTOR_FETCH (R331, R332): not while the queue holds records; a failed DMA, of the completion ring when `cqFail`, fails the queue. -/
def execDescriptorFetch (queue : BitVec 8) (desc : Option Line) (cqFail : Bool) (s : State) : Host.Outcome State Fault Refusal :=
  act (fun h b => match b.queue queue with
    | none => b
    | some q =>
      if q.state = 1 ∧ cqFail = true then ringFailed h queue q 1 b
      else if q.state ≠ 1 ∨ q.held ≠ [] ∨ q.sqHead = q.sqTail ∨ b.jtag.tcHalt = true then b
      else match desc with
        | none => ringFailed h queue q 0 b
        | some d => takeDescriptor h queue q d b) s

/-! ### Partitions (R92, R97, R116, R337) -/

/-- No partition can be created: the root port carries K_dev and the root is absent, or a record is incomplete or awaits its reset (R91, R92, R97, R98). -/
def createBarred (h : Hard) (b : Block) : Bool :=
  (b.lc.rootSel && !rootPresent h.bat) || decide (b.lc.phase ≠ 0 ∧ b.lc.phase ≠ 4) || transitionOpen h.fuse

/-- CMD_PART_CREATE (R116, R337). -/
def execCmdPartCreate (ctx : CmdCtx) (part : Part) (s : State) : Host.Outcome State Fault Refusal :=
  actCmd ctx 0x01 0 (fun h q b =>
    if part ≠ q.part then complete h ctx stNotOwner 0 0 0 b
    else if b.partExists part ∨ createBarred h b = true then complete h ctx stNoSlot 0 0 0 b
    else if b.noRandom then awaitEntropy ctx part b
    else
      let v := kdf (b.keyVal 1) (leBytes 1 part.val ++ leBytes 32 b.draw.toNat) "SWY-PART-ROOT"
      let b := putKey (rootSlot part) v (childAttr b 3 (BitVec.ofNat 4 part.val) 1 0) (drawn (entropyServed ctx b))
      let b := { b with log := { b.log with rings := Tab.del b.log.rings part.val, pages := Tab.del b.log.pages part.val }, tel := { b.tel with owners := Tab.del b.tel.owners part.val } }
      complete h ctx stOk 0 0 0 (setPartState h part 1 (modPart part (fun s => { s with createTick := b.now, held := false }) b))) s

/-! ### Fences (R338) -/

/-- A new fence slot under the PASID's quota. -/
def quotaFence (q : Queue) (shared : Bool) (kind : BitVec 2) (b : Block) : Option (Nat × Block) :=
  match b.sliceOf q.pasid with
  | some sl => if sl.fence.toNat ≤ fencesHeld b q.pasid then none else allocFence q.pasid q.part shared kind b
  | none => none

/-- The fence object a command names: a status when it cannot. -/
def namedFence (b : Block) (ctx : CmdCtx) (f : BitVec 32) : Byte ⊕ (Nat × FenceObj) :=
  match b.fenceSlot f with
  | none => .inl stObjectGone
  | some (s, o) => if o.kind = 1 ∨ (o.freed = true ∧ b.holdsName ctx 3 f = false) then .inl stObjectGone else .inr (s, o)

/-- The regions named in acquires, by identifier: a status when one cannot be; one of another kind than 2 is a malformed operand (DEDUCED, log entry 93). -/
def acquireIds (b : Block) (ctx : CmdCtx) (q : Queue) (acq : List (BitVec 16)) : (Byte × Nat) ⊕ List (BitVec 32) :=
  acq.foldl (fun r n => match r with
    | .inl st => .inl st
    | .inr ids => match namedRegion b ctx q n.toNat with
      | .inl st => .inl (st, 0)
      | .inr g => if g.kind ≠ 2 then .inl (stAborted, 0x0102) else .inr (ids ++ [g.regionId])) (.inr [])

/-- Mode 0: a fence of the partition, with its acquires, and the object it signals. -/
def fenceSignal (h : Hard) (ctx : CmdCtx) (q : Queue) (fence : BitVec 32) (acq : List (BitVec 16)) (b : Block) : Block :=
  match acquireIds b ctx q acq with
  | .inl no => complete h ctx no.1 no.2 0 0 b
  | .inr ids =>
    let go (object : BitVec 32) (b : Block) : Block := match quotaFence q false 1 b with
      | none => complete h ctx stNoSlot 0 0 0 b
      | some (s, b) =>
        let b := match b.fenceSlot object with | some (o, x) => setFence o { x with claimed := true } b | none => b
        takeFence q.part (some ctx) none object (some s) q.pasid ids none b
    if fence = 0 then go 0 b
    else match namedFence b ctx fence with
      | .inl st => complete h ctx st 0 0 0 b
      | .inr (_, o) => if o.pasid ≠ q.pasid ∨ o.claimed = true ∨ o.status.isSome = true ∨ o.kind = 2 then complete h ctx stNotOwner 0 0 0 b else go fence b

/-- Mode 1: a wait. -/
def fenceWait (h : Hard) (ctx : CmdCtx) (q : Queue) (fence : BitVec 32) (b : Block) : Block :=
  match namedFence b ctx fence with
  | .inl st => complete h ctx st 0 0 0 b
  | .inr (s, o) =>
    if o.pasid ≠ q.pasid ∧ (o.shared = false ∨ o.part ≠ q.part) then complete h ctx stNotOwner 0 0 0 b
    else match o.status with
      | some st => complete h ctx st 0 0 0 b
      | none => setFence s { o with waits := o.waits ++ [ctx] } b

/-- CMD_FENCE (R295, R297, R338). -/
def execCmdFence (ctx : CmdCtx) (mode : BitVec 2) (shared : Bool) (acqCount : BitVec 3) (fence : BitVec 32) (acq : List (BitVec 16)) (s : State) : Host.Outcome State Fault Refusal :=
  actCmd ctx 0x0D 0 (fun h q b =>
    match mode.toNat with
    | 0 => if 4 < acqCount.toNat ∨ ((acq.take acqCount.toNat).any fun n => decide (1024 ≤ n.toNat)) = true then complete h ctx stAborted 0x0102 0 0 b else fenceSignal h ctx q fence (acq.take acqCount.toNat) b
    | 1 => fenceWait h ctx q fence b
    | 2 => (match quotaFence q shared 0 b with
      | none => complete h ctx stNoSlot 0 0 0 b
      | some (s, b) => complete h ctx stOk 0 (b.fenceHandle s).toNat 0 b)
    | _ => complete h ctx stAborted 0x0102 0 0 b) s

/-! ### Aborts and frees (R341 to R344) -/

/-- An abort of a command by its identifier: not submitted, not fetched, running, or past its completion point (R234, R341). -/
def abortTarget (h : Hard) (ctx : CmdCtx) (n : BitVec 8) (t : Queue) (target : BitVec 32) (b : Block) : Block :=
  let nothing (b : Block) : Block := complete h ctx stNothingToAbort 0 0 0 b
  let done (b : Block) : Block := complete h ctx stOk 0 0 0 b
  let d := (t.sqTail - target).toNat
  if d = 0 ∨ 2 ^ 32 - 2 ^ t.sqLog < d then nothing b
  else if (target - t.sqHead).toNat < (t.sqTail - t.sqHead).toNat then done (setQueue n.toNat { t with aborted := target :: t.aborted.filter fun x => decide (x ≠ target) } b)
  else match t.flight.find? fun f => decide (f.ctx.cmdId = target) with
    | some f => if f.opcode = 0x11 then nothing b else (match cancel h t f b with | some b => done b | none => nothing b)
    | none =>
      let arm (g : VGroup) : Bool := g.final && (match g.ctx with | some c => decide (c.queue = n ∧ c.cmdId = target) | none => false)
      if b.vgroups.any arm then done { b with vgroups := b.vgroups.map fun g => if arm g then { g with haltReq := decide (g.state = 2) || g.haltReq } else g } else nothing b

/-- CMD_ABORT (R341). -/
def execCmdAbort (ctx : CmdCtx) (queue : BitVec 8) (target : BitVec 32) (s : State) : Host.Outcome State Fault Refusal :=
  actCmd ctx 0x11 0 (fun h q b => match b.queue queue with
    | none => complete h ctx stNotOwner 0 0 0 b
    | some t => if t.pasid ≠ q.pasid then complete h ctx stNotOwner 0 0 0 b else abortTarget h ctx queue t target b) s

/-- `CMD_OBJ_FREE` of a queue (R342, R344). -/
def freeQueue (h : Hard) (ctx : CmdCtx) (q : Queue) (n : Nat) (b : Block) : Block :=
  match Tab.get? b.host.queues n with
  | none => complete h ctx stObjectGone 0 0 0 b
  | some t =>
    if t.pasid ≠ q.pasid then complete h ctx stNotOwner 0 0 0 b
    else if t.state = 2 then complete h ctx stObjectGone 0 0 0 b
    else
      let r := destroyQueue h n b
      awaitDrain q.part (some ctx) r.1 0 0 r.2

/-- CMD_OBJ_FREE (R343, R344). -/
def execCmdObjFree (ctx : CmdCtx) (otype : Byte) (abortRefs : Bool) (handle : BitVec 32) (s : State) : Host.Outcome State Fault Refusal :=
  actCmd ctx 0x12 otype.toNat (fun h q b =>
    let n := handle.toNat
    let bad (b : Block) : Block := complete h ctx stAborted 0x0102 0 0 b
    match otype.toNat with
    | 1 => if n < 256 then freeQueue h ctx q n b else bad b
    | 2 => if n < 1024 then freeRegion h ctx q n abortRefs b else bad b
    | 3 => freeFenceObj h ctx q handle abortRefs b
    | 4 => if n < 64 then freeBounce h ctx q (BitVec.ofNat 6 n) abortRefs b else bad b
    | 5 => if 8 ≤ n then bad b else if n ≠ q.part.val then complete h ctx stNotOwner 0 0 0 b else releasePart h q.part ctx b
    | _ => bad b) s

/-! ### Queries (R340) -/

/-- `REASON` of a peer's entry (R162): of a departure under way its cause, else as the entry holds it. -/
def peerReason (a : Adm) (m : Nat) (q : Peer) : Nat :=
  match (if q.state = 8 then a.departing.find? fun d => decide (d.member.toNat = m) else none) with
  | some d => d.cause.toNat
  | none => q.reason.toNat

/-- A peer's entry of the peer table (R162). -/
def peerEntry (a : Adm) (m : Nat) (q : Peer) : Bytes :=
  leBytes 4 m ++ leBytes 4 q.sessionId.toNat ++ leBytes 1 (q.state.toNat + 16 * bit q.anchor + 32 * bit q.standby + 64 * bit q.delegate + 128 * bit q.keyed) ++ [0]
    ++ leBytes 2 (peerReason a m q) ++ leBytes 4 q.epoch.toNat

/-- Byte 23 of a region's current token (R261); 0x04 for a local region (R272). -/
def regionFlags (r : Region) : Nat :=
  if r.kind = 0 then 0x04
  else bit r.token.unreadable + 2 * bit r.token.sweep + 4 * bit r.token.noMirror + 8 * bit r.token.audit

/-- A region's entry of the region table (R272). -/
def regionEntry (rid : Nat) (r : Region) : Bytes :=
  let shared (n : Nat) : Nat := if r.kind = 0 then 0 else n
  leBytes 4 r.regionId.toNat ++ leBytes 2 (rid % 1024) ++ leBytes 1 ((if r.handing then 7 else r.state.toNat) + 16 * r.role.toNat + 64 * r.kind.toNat) ++ leBytes 1 (regionFlags r) ++ leBytes 2 r.token.keeper.toNat
    ++ leBytes 2 (shared r.token.mirror.toNat) ++ leBytes 2 r.gen.toNat ++ leBytes 2 0 ++ leBytes 8 (shared r.token.tokenSeq.toNat)
    ++ leBytes 8 (r.token.sweepPtr.toNat % 2 ^ 36 + 2 ^ 36 * satNat 28 r.lost.length)

/-- One queue's sample, in port then class order (R207, R340). -/
def sampleEntry (le : Nat) (l : LePart) (i : Nat) : Bytes :=
  let s := Tab.getD l.samples i QSample.zero
  let x := Tab.getD l.maxima i QSample.zero
  leBytes 1 (4 * le + i / 4) ++ leBytes 1 (i % 4) ++ leBytes 2 0 ++ leBytes 4 s.depth.toNat ++ leBytes 4 s.delay.toNat ++ leBytes 4 x.delay.toNat

/-- TC's clock in MHz (R28). -/
def tcMhz : Cfg → Nat | .s => 400 | _ => 1000

/-- Clock frequencies in MHz (R28, R32): islands, TC. -/
def clockEntry (h : Hard) (b : Block) : Bytes :=
  leBytes 8 b.now.toNat ++ leBytes 8 b.clk.loadTick.toNat ++ leBytes 2 (100 * islClk h.cfg) ++ leBytes 2 (tcMhz h.cfg) ++ leBytes 2 5000 ++ leBytes 2 3150 ++ leBytes 8 0

/-- The partition's coarsened readings (R340, R393). -/
def environmentEntry (b : Block) (p : Part) : Bytes :=
  let t := Tab.getD b.tel.owners p.val TelOwner.reset
  leBytes 2 t.power.toNat ++ leBytes 2 t.temp.toNat ++ leBytes 1 t.throttle.toNat ++ leBytes 3 0 ++ leBytes 8 t.tick.toNat ++ leBytes 16 0

/-- Hardware slots, free slots, quota and holdings (R340). -/
def limitEntry (slots free quota held : Nat) : Bytes := leBytes 2 slots ++ leBytes 2 free ++ leBytes 2 quota ++ leBytes 2 held

def limitEntries (b : Block) (q : Queue) : List Bytes :=
  let sl := (b.sliceOf q.pasid).getD Slice.reset
  let keys := Tab.count b.ks.slots fun n k => decide (64 ≤ n ∧ k.attr.st ≠ 0)
  [ limitEntry 256 (256 - b.host.queues.length) sl.q.toNat (queuesHeld b q.pasid), limitEntry 1024 (1024 - b.regions.length) sl.rgn.toNat (regionsHeld b q.pasid),
    limitEntry fenceCap (fenceCap - b.host.fences.length) sl.fence.toNat (fencesHeld b q.pasid), limitEntry 64 (64 - b.host.bounces.length) sl.bw.toNat (bouncesHeld b q.pasid),
    limitEntry 4032 (4032 - keys) 0xFFFF (Tab.count b.ks.slots fun n k => decide (64 ≤ n ∧ k.attr.type = 13 ∧ k.pasid = q.pasid ∧ k.attr.st ≠ 0)) ]

/-- The entries of a query: none for a selector or an argument there is not. -/
def queryEntries (h : Hard) (b : Block) (q : Queue) (selector : BitVec 16) (arg : BitVec 32) : Option (List Bytes) :=
  match selector.toNat with
  | 1 => some (((b.adm' q.part).peers.filter fun e => decide (e.1 < 2 ^ 32 ∧ e.2.state ≠ 0)).map fun e => peerEntry (b.adm' q.part) e.1 e.2)
  | 2 => some ((b.regions.filter fun e => decide (e.2.part = q.part) && decide ((b.ptuPart q.part).table ≠ some e.1)).map fun e => regionEntry e.1 e.2)
  | 3 => if arg.toNat < leCount h.cfg then some ((List.range 16).map (sampleEntry arg.toNat (b.lePart (Fin.ofNat 16 arg.toNat) q.part))) else none
  | 4 => some [clockEntry h b]
  | 5 => some [environmentEntry b q.part]
  | 6 => some (limitEntries b q)
  | _ => none

/-- Whole entries that fit in `len` bytes. -/
def fitting : Nat → List Bytes → Bytes
  | _, [] => []
  | len, e :: t => if e.length ≤ len then e ++ fitting (len - e.length) t else []

/-- CMD_QUERY (R337, R340). -/
def execCmdQuery (ctx : CmdCtx) (selector : BitVec 16) (arg : BitVec 32) (addr : Word) (len : BitVec 32) (dmaOk : Bool) (s : State) : Host.Outcome State Fault Refusal :=
  actCmd ctx 0x13 0 (fun h q b => match (if addr.toNat % 8 = 0 then queryEntries h b q selector arg else none) with
    | none => complete h ctx stAborted 0x0102 0 0 b
    | some es =>
      let out := fitting len.toNat es
      if dmaOk = false then complete h ctx stAborted 0x0104 0 0 b
      else complete h ctx stOk 0 out.length es.length (if out = [] then b else emit (.dmaWrite addr out) b)) s

end Sys2Proof.Machine
end

