-- ==== Sys2Proof/Machine/BounceIf.lean ====
section
/-! DEFINITION. The bounce windows' commands (R348 to R353): opening, the H2D records, the doorbells of both rings, and the time a page may take. -/

namespace Sys2Proof.Machine

/-! ### Opening a window (R348) -/

/-- A free window whose generation may rise under the session: another session's key is new whatever the generation (R116, R348). -/
def windowFresh (b : Block) (sess : Nat) (w : Nat) : Bool :=
  decide (Tab.getD b.host.bwGen w 0 ≠ 0xFFFF) || decide (Tab.get? b.host.bwSess w ≠ some sess)

/-- The window an opening takes: the pinned one, or the lowest free one; a status when none can be taken. -/
def chooseWindow (b : Block) (sess : Nat) (window : Byte) : Byte ⊕ Nat :=
  if window = 0xFF then
    let free := (List.range 64).filter fun w => !Tab.has b.host.bounces w
    match free.find? (windowFresh b sess) with
    | some w => .inr w
    | none => .inl (if free = [] then stNoSlot else stUsageLimit)
  else if Tab.has b.host.bounces window.toNat then .inl stNoSlot
  else if windowFresh b sess window.toNat then .inr window.toNat else .inl stUsageLimit

/-- Opens window `w` under a host member's session. -/
def openWindow (h : Hard) (ctx : CmdCtx) (q : Queue) (host : BitVec 16) (secret : Slot) (sess w : Nat) (slotsLog : Nat) (h2d d2h : Word) (b : Block) : Block :=
  let gen := Tab.getD b.host.bwGen w 0 + 1
  match deriveKey 10 q.part secret gen.toNat (leBytes 1 w ++ leBytes 2 gen.toNat) "SWY-BOUNCE" b with
  | none => complete h ctx stNoSlot 0 0 0 b
  | some (k, b) =>
    let x : Bounce := { part := q.part, pasid := q.pasid, host := host, state := 1, cause := 0, slotsLog := slotsLog, h2dBase := h2d, d2hBase := d2h, h2dHead := 0, h2dTail := 0, d2hHead := 0,
                        d2hTail := 0, seqIn := 0, seqOut := 0, keySlot := k, outq := [], dying := none }
    let b := { b with host := { b.host with bounces := Tab.set b.host.bounces w x, bwGen := Tab.set b.host.bwGen w gen, bwSess := Tab.set b.host.bwSess w sess } }
    complete h ctx stOk 0 (w + 2 ^ 16 * gen.toNat) 0 (ownSrc h (280 + w) q.part (vectorBase (.part q.part)) b)

/-- CMD_BOUNCE_OPEN (R348). -/
def execCmdBounceOpen (ctx : CmdCtx) (host : BitVec 16) (slotsLog : BitVec 4) (h2dBase d2hBase : Word) (window : Byte) (s : State) : Host.Outcome State Fault Refusal :=
  actCmd ctx 0x14 0 (fun h q b =>
    let x := b.peer q.part (0x10000 ||| host.setWidth 32)
    let sess := q.part.val * 2 ^ 32 + x.sessionId.toNat
    let quota := match b.sliceOf q.pasid with | some sl => sl.bw.toNat | none => 0
    if slotsLog.toNat < 4 ∨ 12 < slotsLog.toNat ∨ h2dBase.toNat % 4096 ≠ 0 ∨ d2hBase.toNat % 4096 ≠ 0 ∨ (window ≠ 0xFF ∧ 64 ≤ window.toNat) then complete h ctx stAborted 0x0102 0 0 b
    else if x.inSession = false then complete h ctx stPeerDeparted 0 0 0 b
    else if quota ≤ bouncesHeld b q.pasid then complete h ctx stNoSlot 0 0 0 b
    else match chooseWindow b sess window with
      | .inl st => complete h ctx st 0 0 0 b
      | .inr w => openWindow h ctx q host x.secret sess w slotsLog.toNat h2dBase d2hBase b) s

/-! ### H2D records (R349, R350, R352) -/

/-- The 32 B header of a record as it stands in the ring; `resv` is a reserved bit that is set. -/
def recordHeader (r : BounceRec) : Bytes := (bounceHeader r.rtype r.status r.reqId r.length.toNat r.psize r.seq r.addr).take 24 ++ leBytes 8 (bit r.resv)

/-- A header the block can take (R349, R350). -/
def headerGood (r : BounceRec) : Bool :=
  let n := r.length.toNat
  decide (1 ≤ r.rtype.toNat ∧ r.rtype.toNat ≤ 4) && decide (r.status = 0) && !r.resv && !r.psize && decide (n % 64 = 0 ∧ n ≤ 4096) && decide (r.addr.toNat % 64 = 0)
    && (decide (r.payload.length = n) || decide (r.rtype = 2 ∧ r.payload = [])) && (decide (r.rtype ≠ 3) || decide (n = 4096))

/-- The prefetch from the host that a `PAGE_DATA` record continues (R351). -/
def pageAsked (b : Block) (w : BitVec 6) (x : Bounce) (r : BounceRec) : Option (XChange × Nat) :=
  match b.jigOf x.part with
  | none => none
  | some j => ((b.ptuPart x.part).changes.filterMap fun c => match c.todo with
    | [] => none
    | key :: _ =>
      let base := ((j.windows.find? fun v => decide (v.window = keyWindow key)).map fun v => v.base).getD 0
      let mine := decide (c.kind = 0 ∧ c.bounce = w ∧ c.arg = 0 ∧ c.stage = 3 ∧ ((b.ptuPart x.part).pte key).res = 2)
      if mine && (match c.ctx with | some k => decide (k.cmdId.setWidth 16 = r.reqId) | none => false) && decide (r.addr.toNat = base + keyOffset key + 4096 * c.cursor) then some (c, key) else none).head?

/-- The cause for which a record fails its window, with its plaintext when it does not (R352). -/
def recordCheck (b : Block) (w : BitVec 6) (x : Bounce) (key : Key) (r : BounceRec) : Nat ⊕ Bytes :=
  match gcmOpen key (bounceIv false r.seq) (recordHeader r) r.payload r.tag with
  | none => .inl 1
  | some data =>
    if r.seq ≠ x.seqIn then .inl 2
    else if headerGood r = false then .inl 3
    else if r.rtype = 3 ∧ (pageAsked b w x r).isNone = true then .inl 4 else .inr data

/-- The window fails: state 2, and it stays so until it is freed (R352). -/
def bounceFail (h : Hard) (w : BitVec 6) (x : Bounce) (cause : Nat) (seq : Word) (b : Block) : Block :=
  let b := modBounce w (fun y => { y with state := 2, cause := BitVec.ofNat 4 cause }) b
  let b := noteLimited h 0x0805 24 (some x.part) w.toNat (fun n => [aByte w.toNat, aByte cause, aW8 seq.toNat, aCount n]) b
  fireStub h .hbe (280 + w.toNat) (failPrefetches h x.part w stAborted b)

/-- One 64 B line of a record's request, through the PTU (R350). -/
def bounceLine (h : Hard) (w : BitVec 6) (x : Bounce) (id i : Nat) (op : DomOp) (addr : BitVec 57) (b : Block) : Block :=
  xlatNew h x.part true { pasid := x.pasid, engine := bounceEngine w, src := .bundle id i, op := op, addr := addr, since := b.now, fault := none, scheduled := false } b

/-- A record's lines as domain requests, in address order. -/
def bounceLines (h : Hard) (w : BitVec 6) (x : Bounce) (r : BounceRec) (read : Bool) (op : Nat → DomOp) (b : Block) : Block :=
  let n := r.length.toNat / 64
  let y := newBundle x.part (.bounce w r.reqId read r.addr) n b
  (List.range n).foldl (fun b i => bounceLine h w x y.1 i (op i) (r.addr + BitVec.ofNat 57 (64 * i)) b) y.2

/-- What a record that passed its checks does. -/
def recordRun (h : Hard) (w : BitVec 6) (x : Bounce) (r : BounceRec) (data : Bytes) (b : Block) : Block :=
  match r.rtype.toNat with
  | 1 => if r.length = 0 then b else bounceLines h w x r false (fun i => .write (lineOf (bytesAt data (64 * i) 64))) b
  | 2 =>
    if r.length = 0 then putD2h h w { rtype := 0x81, status := stOk, reqId := r.reqId, psize := false, addr := r.addr, payload := [] } b
    else bounceLines h w x r true (fun _ => .read) b
  | 3 => (match pageAsked b w x r with
    | none => b
    | some (c, key) => match copyDest b x.part c key with
      | none => failChange h x.part c stRegionRevoked 0 b
      | some (rid, line) =>
        newReqs x.part rid (.move c.id true) ((List.range 64).map fun i => (line + 64 * c.cursor + i, .write (lineOf (bytesAt data (64 * i) 64))))
          (setChange x.part { c with began := some (c.began.getD b.now) } b))
  | _ => takeFence x.part none none 0 none 0 [] (some (w, r.reqId)) b

/-- Page lines of the window's prefetches are being written. -/
def pageBusyIn (b : Block) (w : BitVec 6) (p : Part) : Bool :=
  let ids := ((b.ptuPart p).changes.filter fun c => decide (c.bounce = w ∧ c.kind = 0)).map fun c => c.id
  b.bundles.any fun y => decide (y.part = p) && (match y.what with | .move id true => ids.contains id | _ => false)

/-- The HBE takes the record at `H2D_HEAD` of an open window, of the type a row names: its record before has run, and the ring holds it (R350, R352). -/
def takeRecord (rtype : Byte) (h : Hard) (w : BitVec 6) (r : BounceRec) (b : Block) : Block :=
  match b.bounce w with
  | none => b
  | some x =>
    let valid := decide (1 ≤ r.rtype.toNat ∧ r.rtype.toNat ≤ 4)
    if x.state ≠ 1 ∨ x.h2dHead = x.h2dTail ∨ bounceBusy b w = true ∨ pageBusyIn b w x.part = true ∨ (b.island .hbe).asleep = true ∨ (b.island .hbe).inReset = true ∨ (valid = true ∧ r.rtype ≠ rtype) then b
    else match bounceKey b x with
      | none => wantKey .hbe x.keySlot b
      | some key =>
        let b := emit (.dmaRead (x.h2dBase + BitVec.ofNat 64 (bounceSlot * (x.h2dHead.toNat % 2 ^ x.slotsLog))) bounceSlot) b
        match recordCheck b w x key r with
        | .inl cause => bounceFail h w x cause r.seq b
        | .inr data =>
          let b := modBounce w (fun y => { y with h2dHead := y.h2dHead + 1, seqIn := y.seqIn + 1 }) (touchKey .hbe x.keySlot b)
          recordRun h w { x with seqIn := x.seqIn + 1 } r data b

/-- BOUNCE_WRITE (R350). -/
def execBounceWrite (window : BitVec 6) (r : BounceRec) (s : State) : Host.Outcome State Fault Refusal := act (fun h b => takeRecord 1 h window r b) s
/-- READ_REQ (R350). -/
def execReadReq (window : BitVec 6) (r : BounceRec) (s : State) : Host.Outcome State Fault Refusal := act (fun h b => takeRecord 2 h window r b) s
/-- PAGE_DATA (R351). -/
def execPageData (window : BitVec 6) (r : BounceRec) (s : State) : Host.Outcome State Fault Refusal := act (fun h b => takeRecord 3 h window r b) s
/-- FLUSH (R350). -/
def execFlush (window : BitVec 6) (r : BounceRec) (s : State) : Host.Outcome State Fault Refusal := act (fun h b => takeRecord 4 h window r b) s

/-! ### Doorbells and time (R350, R351, R354) -/

/-- A write of `H2D_TAIL`: more than the ring ahead of `H2D_HEAD` is ignored (R354). -/
def h2dTailWritten (w : BitVec 6) (tail : BitVec 32) (b : Block) : Block :=
  match b.bounce w with
  | none => b
  | some x => if (tail - x.h2dHead).toNat ≤ 2 ^ x.slotsLog then modBounce w (fun y => { y with h2dTail := tail }) b else b

/-- H2D_TAIL_WRITE. -/
def execH2dTailWrite (window : BitVec 6) (tail : BitVec 32) (s : State) : Host.Outcome State Fault Refusal := regAct (islandReg .hbe fun _ b => h2dTailWritten window tail b) s

/-- The moves to the host that wait for room in the window's ring, or for its records to be consumed (R351). -/
def movesGoOn (h : Hard) (w : BitVec 6) (p : Part) (b : Block) : Block :=
  ((b.ptuPart p).changes.filter fun c => decide (c.kind = 0 ∧ c.arg = 2 ∧ c.bounce = w ∧ (c.stage = 2 ∨ c.stage = 3)) && !(b.bundles.any fun y => decide (y.part = p) && (match y.what with | .move id _ => decide (id = c.id) | _ => false))).foldl
    (fun b c => match b.change p c.id with | some c => copyNext h p c b | none => b) b

/-- A write of `D2H_HEAD`: records that waited for room go on, and so do the moves to the host. -/
def d2hHeadWritten (h : Hard) (w : BitVec 6) (head : BitVec 32) (b : Block) : Block :=
  match b.bounce w with
  | none => b
  | some x => movesGoOn h w x.part (drainD2h h w x.outq.length (modBounce w (fun y => { y with d2hHead := head }) b))

/-- D2H_HEAD_WRITE. -/
def execD2hHeadWrite (window : BitVec 6) (head : BitVec 32) (s : State) : Host.Outcome State Fault Refusal := regAct (islandReg .hbe fun h b => d2hHeadWritten h window head b) s

/-- BOUNCE_PAGE_TIMEOUT (R351): 1 s after a page's first record. -/
def execBouncePageTimeout (window : BitVec 6) (s : State) : Host.Outcome State Fault Refusal :=
  act (fun h b => match b.bounce window with
    | none => b
    | some x =>
      ((b.ptuPart x.part).changes.filter fun c => decide (c.kind = 0 ∧ c.bounce = window) && (match c.began with | some t => decide (t.toNat + second ≤ b.now.toNat) | none => false)).foldl
        (fun b c => failChange h x.part c stAborted 0 b) b) s

end Sys2Proof.Machine
end

