-- ==== Sys2Proof/Machine/Telemetry.lean ====
section
/-! DEFINITION. Telemetry (R392 to R395): the raw posting and the coarsened readings each owner is shown. -/

namespace Sys2Proof.Machine

/-- The key of an owner in tables of owners: partitions 0 to 7, the operator 8. -/
def ownerKey : Owner → Nat | .part p => p.val | .operator => 8

def powerWindow (t : TelOwner) : Nat := t.cfg.powerAvg * 100000000
def throttleWindow (t : TelOwner) : Nat := t.cfg.throttlePeriod * 1000000000

/-- The first multiple of `w` at or after tick `t` (R393, R394). -/
def alignUp (t : Word) (w : Nat) : Word := BitVec.ofNat 64 ((t.toNat + w - 1) / w * w)

/-- An owner's readings start at tick `t` (R394): the windows that start before it are not reported. -/
def telStart (cfg : TelemetryRec) (t : Word) : TelOwner :=
  let n := { TelOwner.reset with cfg := cfg }
  { n with winStart := alignUp t (powerWindow n), perStart := alignUp t (throttleWindow n) }

/-- New values take effect with the first windows that start at or after `t`; a straddling window is discarded, the reading stands (R394). -/
def telChange (cfg : TelemetryRec) (t : Word) (o : TelOwner) : TelOwner :=
  let n := { o with cfg := cfg }
  { n with winStart := alignUp t (powerWindow n), perStart := alignUp t (throttleWindow n), sum := 0, num := 0, hot := none, deepest := 0 }

/-- The owner's windows are gathered: the operator's always, a partition's once its Jig is loaded. -/
def Block.telOn (b : Block) (o : Owner) : Bool := match o with | .operator => true | .part p => (b.jigOf p).isSome

def Block.telOf (b : Block) (o : Owner) : TelOwner := Tab.getD b.tel.owners (ownerKey o) TelOwner.reset
def setTel (o : Owner) (t : TelOwner) (b : Block) : Block := { b with tel := { b.tel with owners := Tab.set b.tel.owners (ownerKey o) t } }

/-- Ends the power window that has passed (R393): mean power rounded down to the step, highest temperature rounded toward minus infinity; a window without readings states no mean (log entry 9). -/
def endPower (free : BitVec 512) (t : TelOwner) : TelOwner :=
  let stepW := t.cfg.powerStep * 5000
  let power := if t.num = 0 then free.extractLsb' 0 16 else BitVec.ofNat 16 (t.sum / t.num / stepW * t.cfg.powerStep)
  let temp := match t.hot with
    | none => free.extractLsb' 16 16
    | some x => BitVec.ofInt 16 (Int.fdiv x (16 * t.cfg.tempStep) * t.cfg.tempStep)
  let e : Word := BitVec.ofNat 64 (t.winStart.toNat + powerWindow t)
  { t with power := power, temp := temp, seq := t.seq + 1, tick := e, winStart := e, sum := 0, num := 0, hot := none }

def endThrottle (t : TelOwner) : TelOwner :=
  { t with throttle := t.deepest, perStart := BitVec.ofNat 64 (t.perStart.toNat + throttleWindow t), deepest := 0 }

/-- Whether the window that gathers has ended. -/
def powerDue (b : Block) (t : TelOwner) : Bool := decide (t.winStart.toNat + powerWindow t ≤ b.now.toNat)
def throttleDue (b : Block) (t : TelOwner) : Bool := decide (t.perStart.toNat + throttleWindow t ≤ b.now.toNat)

/-- Of several windows that have passed, the last is the one reported; those after the first had no reading. -/
def lastPower (b : Block) (t : TelOwner) : TelOwner :=
  let k := (b.now.toNat - t.winStart.toNat) / powerWindow t - 1
  if k = 0 then t else { t with winStart := t.winStart + BitVec.ofNat 64 (k * powerWindow t), seq := t.seq + BitVec.ofNat 16 k, sum := 0, num := 0, hot := none }

def lastThrottle (b : Block) (t : TelOwner) : TelOwner :=
  let k := (b.now.toNat - t.perStart.toNat) / throttleWindow t - 1
  if k = 0 then t else { t with perStart := t.perStart + BitVec.ofNat 64 (k * throttleWindow t), deepest := 0 }

/-- Ends an owner's windows that have passed. -/
def rollPower (o : Owner) (b : Block) : Block :=
  if b.telOn o && powerDue b (b.telOf o) then setTel o (endPower b.openVal (lastPower b (b.telOf o))) (opened b) else b

def rollThrottle (o : Owner) (b : Block) : Block :=
  if b.telOn o && throttleDue b (b.telOf o) then setTel o (endThrottle (lastThrottle b (b.telOf o))) b else b

/-- A temperature of a posting, in units of 1/16 °C (R392). -/
def hottest (fab : BitVec 16) (cmp : List (BitVec 16)) : Int := cmp.foldl (fun a t => max a t.toInt) fab.toInt

/-- Takes one reading into an owner's windows. -/
def gather (powerMw : BitVec 32) (throttle : BitVec 2) (hot : Int) (o : Owner) (b : Block) : Block :=
  if !b.telOn o then b
  else
    let b := rollThrottle o (rollPower o b)
    let t := b.telOf o
    let t := if t.winStart.toNat ≤ b.now.toNat then
        { t with sum := t.sum + powerMw.toNat, num := t.num + 1, hot := some (match t.hot with | none => hot | some x => max x hot) } else t
    let t := if t.perStart.toNat ≤ b.now.toNat then { t with deepest := if t.deepest.toNat < throttle.toNat then throttle else t.deepest } else t
    setTel o t b

def allOwners : List Owner := [.part 0, .part 1, .part 2, .part 3, .part 4, .part 5, .part 6, .part 7, .operator]

/-- TELEMETRY_POSTING (R392). -/
def execTelemetryPosting (powerMw : BitVec 32) (throttle : BitVec 2) (seq tempFab : BitVec 16) (tempCmp : List (BitVec 16)) (s : State) :
    Host.Outcome State Fault Refusal :=
  onB (fun _ => whenUp fun b =>
    let b := { b with tel := { b.tel with raw := some (powerMw, throttle, seq, tempFab :: tempCmp.take 4) } }
    if b.clk.loaded then allOwners.foldl (fun b o => gather powerMw throttle (hottest tempFab (tempCmp.take 4)) o b) b else b) s

/-- TELEMETRY_WINDOW_END (R393, R394). -/
def execTelemetryWindowEnd (owner : Owner) (s : State) : Host.Outcome State Fault Refusal :=
  onB (fun _ => whenUp fun b => if b.clk.loaded then rollPower owner b else b) s

/-- THROTTLE_PERIOD_END (R393). -/
def execThrottlePeriodEnd (owner : Owner) (s : State) : Host.Outcome State Fault Refusal :=
  onB (fun _ => whenUp fun b => if b.clk.loaded then rollThrottle owner b else b) s

end Sys2Proof.Machine
end

