-- ==== Sys2Proof/Machine/Interrupts.lean ====
section
/-! DEFINITION. The interrupt controller's commands (R362 to R364) and the reading of the trouble log (R388). -/

namespace Sys2Proof.Machine

def Block.icPage (b : Block) (k : Nat) : IcPage := Tab.getD b.ic.pages k IcPage.reset
def modIcPage (k : Nat) (f : IcPage → IcPage) (b : Block) : Block := { b with ic := { b.ic with pages := Tab.upd b.ic.pages k IcPage.reset f } }

/-- The owner with key `k` (0 to 7 partitions, 8 the operator). -/
def ownerOfKey (k : Nat) : Owner := if k = 8 then .operator else .part (Fin.ofNat 8 k)

/-- A source the owner may be served (R362). -/
def eligible (pg : IcPage) (o : Owner) (s : Src) : Bool :=
  decide (s.owner = some o) && decide (s.state = 1) && !s.mask && !pg.pmask && decide (pg.thresh.toNat ≤ s.prio.toNat)

/-- The order of choice within an owner (R362): higher `PRIO`, then a source that returned to pending, then the lower number. -/
def srcBefore (x y : Nat × Src) : Bool :=
  if x.2.prio ≠ y.2.prio then decide (y.2.prio.toNat < x.2.prio.toNat)
  else if x.2.requeued ≠ y.2.requeued then x.2.requeued
  else decide (x.1 < y.1)

def bestSrc : List (Nat × Src) → Option (Nat × Src)
  | [] => none
  | x :: t => match bestSrc t with | none => some x | some y => if srcBefore x y then some x else some y

/-- The source served for an owner. -/
def Block.chosenSrc (b : Block) (k : Nat) : Option (Nat × Src) :=
  bestSrc (b.ic.srcs.filter fun e => eligible (b.icPage k) (ownerOfKey k) e.2)

/-- The next owner with an eligible source, from `k` on, among the next `n` (R362). -/
def Block.nextOwner (b : Block) (k : Nat) : Nat → Option (Nat × Nat × Src)
  | 0 => none
  | n + 1 => match b.chosenSrc (k % 9) with | some e => some (k % 9, e.1, e.2) | none => b.nextOwner (k + 1) n

/-- Delivers one source: its MSI-X write, and active (R360 to R362); an event source's latch clears. -/
def deliverSrc (x : Nat) (s : Src) (b : Block) : Block :=
  emit (.msix s.vector) (setSrc x { s with state := 2, requeued := false, cond := if srcIsLevel x then s.cond else false } b)

/-- INTERRUPT_DELIVERY (R362). -/
def execInterruptDelivery (s : State) : Host.Outcome State Fault Refusal :=
  onB (fun _ => whenUp fun b =>
    match b.nextOwner b.ic.turn 9 with
    | none => b
    | some (k, x, src) => deliverSrc x src { b with ic := { b.ic with turn := (k + 1) % 9 } }) s

/-- A completion by the owner of page `o` (R363). -/
def icDone (h : Hard) (o : Owner) (x : Nat) (b : Block) : Block :=
  let src := b.src h.cfg x
  if x ≤ 420 ∧ src.owner = some o ∧ (src.state = 2 ∨ src.state = 3) then setSrc x (src.completed (icPap h.cfg)) b
  else
    let b := modIcPage (ownerKey o) (fun p => { p with stray := p.stray + 1 }) b
    { b with ic := { b.ic with strayTotal := b.ic.strayTotal + 1 } }

/-- INTERRUPT_DONE (R363). -/
def execInterruptDone (owner : Owner) (source : BitVec 10) (s : State) : Host.Outcome State Fault Refusal :=
  onB (fun h => whenPages (icDone h owner source.toNat)) s

/-- A write of SETPEND (R364). -/
def icSetpend (h : Hard) (o : Owner) (x : Nat) (b : Block) : Block :=
  if (b.src h.cfg x).owner = some o then fire h x b else b

/-- INTERRUPT_SETPEND (R364). -/
def execInterruptSetpend (owner : Owner) (source : BitVec 10) (s : State) : Host.Outcome State Fault Refusal :=
  onB (fun h => whenPages (icSetpend h owner source.toNat)) s

/-! ### Reading the log (R386, R388) -/

/-- The 32 bytes of an entry (R387). -/
def entryBytes (e : LogEntry) : Bytes :=
  leBytes 8 e.tick.toNat ++ leBytes 2 e.code.toNat ++ leBytes 1 e.island.toNat ++ leBytes 1 e.part.toNat
    ++ leBytes 1 (e.sev.toNat + 16 * e.view.toNat) ++ leBytes 3 0 ++ leBytes 16 e.args.toNat

/-- Every entry the log holds. -/
def Block.logEntries (b : Block) : List LogEntry := b.log.rings.flatMap fun r => r.2

/-- Entry number `n` of view `v`, if the log still holds it. -/
def Block.logEntry (b : Block) (v n : Nat) : Option LogEntry :=
  b.logEntries.find? fun e => decide (Tab.get? e.nums v = some n)

/-- Word `k` of the entry at `RD` of view `v` (R388): zero when there is none. -/
def Block.logWord (b : Block) (v k : Nat) : Word :=
  match b.logEntry v (b.logPage v).rd.toNat with
  | some e => BitVec.ofNat 64 (fieldAt (entryBytes e) (8 * k) 8)
  | none => 0

def modLogPage (v : Nat) (f : LogPage → LogPage) (b : Block) : Block := { b with log := { b.log with pages := Tab.upd b.log.pages v LogPage.reset f } }

/-- A read of word 3 advances `RD`, and `GONE` is set when there is no entry (R388). -/
def logAdvance (v : Nat) (b : Block) : Block :=
  let gone := (b.logEntry v (b.logPage v).rd.toNat).isNone
  modLogPage v (fun pg => { pg with rd := pg.rd + 1, gone := pg.gone || gone }) b

/-- LOG_DATA_READ (R388), of a page that answers; a read of one that does not is HOST_ACCESS_SIZE's. -/
def execLogDataRead (owner : Owner) (s : State) : Host.Outcome State Fault Refusal :=
  onB (fun _ => whenPages fun b => emit (.regRead (b.logWord (ownerKey owner) 3)) (logAdvance (ownerKey owner) b)) s

end Sys2Proof.Machine
end

