-- ==== Sys2Proof/Machine/Jig.lean ====
section
/-! DEFINITION. Loading, replacing and activating a Jig (R75 to R81), and the Expert mailbox (R83, R84). -/

namespace Sys2Proof.Machine

/-! ### Step 9 (R56, R79) -/

/-- The header but `SERIAL` and `ACTIVATE_TICK`, and the domain parameters but `MEMBER_COUNT`: what a replacement must keep. -/
def keptHeader (j : Jig) : Bytes := j.header.take 16 ++ j.header.drop 32
def keptParams (j : Jig) : Bool × Nat × Nat := (j.addrNode, j.epochZero, j.rekeyPeriod)

/-- `ACTIVATE_TICK` is an epoch boundary at least 1 ms ahead (R61, R79). -/
def activateOk (j : Jig) (now : Word) : Bool :=
  decide (j.epochZero ≤ j.activateTick.toNat) && decide (j.rekeyPeriod ≠ 0) && decide ((j.activateTick.toNat - j.epochZero) % j.rekeyPeriod = 0)
    && decide (now.toNat + 1000000 ≤ j.activateTick.toNat)

/-- R76 step 9: none when the replacement may go on. -/
def step9 (b : Block) (p : Part) (old new : Jig) (img : Bytes) : Option Rej :=
  let at' (t r : Nat) : Option Rej := some { reason := r, type := t, off := offOf (records img) t }
  if (b.part p).pending.isSome then some { reason := 0x35, type := 0, off := 0 }
  else if keptHeader new ≠ keptHeader old then at' 1 0x32
  else if new.ownerKeys ≠ old.ownerKeys then at' 2 0x32
  else if new.dumpBody ≠ old.dumpBody then at' 3 0x32
  else if keptParams new ≠ keptParams old then at' 4 0x32
  else if new.serial.toNat ≤ old.serial.toNat then at' 1 0x33
  else if activateOk new b.now = false then at' 1 0x34
  else none

/-! ### Step 10 (R66, R71, R180, R232) -/

/-- Ports on which two schedules both have entries. -/
def sharedPorts (a c : Schedule) : List Nat := ((a.entries.filter fun e => c.entries.any fun f => decide (f.port = e.port)).map fun e => e.port).dedup

/-- The grids of two schedules with a shared port agree (R71). -/
def gridsAgree (a c : Schedule) : Bool := decide (a.slotTicks = c.slotTicks ∧ a.cycleSlots = c.cycleSlots ∧ a.cycleZero = c.cycleZero)

/-- Two entries of different partitions on one port collide (R40, R71): the same slot and direction, or egress pins less than a slot apart, modulo the cycle. -/
def entriesCollide (a c : Schedule) (e f : SchedEntry) : Bool :=
  decide (e.port = f.port) && decide (e.egress = f.egress) &&
    (decide (e.slot = f.slot) ||
      (e.egress &&
        let m : Int := a.slotTicks * a.cycleSlots
        let x := (((e.slot : Int) - f.slot) * a.slotTicks + a.extEgress - c.extEgress) % m
        decide (min x (m - x) < a.slotTicks)))

/-- The port frame limit over several images (R232). -/
def portFramesOk (js : List Jig) (port : Nat) : Bool :=
  let ss := js.filterMap fun j => j.schedule.bind fun s => if egressFrames j s port = [] then none else some (s, egressFrames j s port)
  match ss with
  | [] => true
  | s :: _ => slotFramesOk s.1.cycleSlots ((ss.map fun x => pinWindow x.1).foldl max 1) (ss.flatMap fun x => x.2)

/-- The Jigs beside an image of partition `p` from the tick `from'` at which it takes force: those in force then, and again after each later committed replacement (R80). -/
def stagesFrom (b : Block) (p : Part) (from' : Nat) : List (Nat × List (Nat × Jig)) :=
  (from' :: b.gridTicks.filter fun t => decide (from' < t)).map fun t => (t, (b.jigsAt t).filter fun x => decide (x.1 ≠ p.val))

/-- Every stage's grid of an island can be filled (R180). -/
def stagesFit (c : Cfg) (i : Island) (mine : Nat × Jig) : List (Nat × List (Nat × Jig)) → List Nat → Bool
  | [], _ => true
  | s :: t, cells =>
    let bs := gridBasis c i (mine :: s.2)
    islandFits c i cells bs && stagesFit c i mine t (islandGrid c i cells bs)

/-- R76 step 10, for an image beside the other loaded and committed ones, from the tick it takes force: the status and the rejection, none when it fits. -/
def step10 (h : Hard) (b : Block) (p : Part) (j : Jig) (from' : Nat) (offs : Nat → Nat) : Option (Byte × Rej) :=
  let stages := stagesFrom b p from'
  let others := (stages.flatMap fun s => s.2.map fun x => x.2).dedup
  let at' (st : Byte) (t r : Nat) : Option (Byte × Rej) := some (st, { reason := r, type := t, off := offs t })
  let some' (f : List (Nat × Jig) → Bool) : Bool := stages.any fun s => f ((p.val, j) :: s.2)
  let total (f : Jig → Nat) (js : List (Nat × Jig)) : Nat := (js.map fun x => f x.2).sum
  if (List.range 25).any fun n => some' fun js => decide (64 < total (fun x => x.shares.getD n 0) js) then at' stNoSlot 0x10 0x40
  else if some' fun js => decide (1024 < rootEntries b js) || decide (4096 < total (fun x => (x.regions.filter fun r => decide (r.mirror = x.memberIndex)).length) js) then
    at' stNoSlot 0x21 0x41
  else if some' fun js => decide (256 < total (fun x => x.groups.length) js) then at' stNoSlot 0x40 0x42
  else
    let pairs := others.filterMap fun o => match j.schedule, o.schedule with | some a, some c => if sharedPorts a c = [] then none else some (a, c) | _, _ => none
    if pairs.any fun x => !gridsAgree x.1 x.2 then at' stJigRejected 0x30 0x24
    else if pairs.any fun x => x.1.entries.any fun e => x.2.entries.any fun f => entriesCollide x.1 x.2 e f then at' stJigRejected 0x30 0x22
    else if (List.range (portCount h.cfg)).any fun k => some' fun js => !portFramesOk (js.map fun x => x.2) k then at' stJigRejected 0x30 0x22
    else if (cipherIslands h.cfg).any fun i => !stagesFit h.cfg i (p.val, j) stages ((b.island i).grid.at from') then at' stJigRejected 0x11 0x21
    else none

/-! ### Outcomes of a load (R76, R83) -/

/-- The report of a load that ends. -/
def setReject (p : Part) (r : Rej) (b : Block) : Block :=
  modPart p (fun s => { s with rejType := BitVec.ofNat 16 r.type, rejOffset := BitVec.ofNat 24 r.off, rejReason := BitVec.ofNat 16 r.reason }) b

/-- A load fails: reported, recorded and completed (R75, R76). -/
def loadFails (h : Hard) (p : Part) (ctx : CmdCtx) (st : Byte) (hostReason : Nat) (r : Rej) (b : Block) : Block :=
  complete h ctx st hostReason 0 0 (note h 0x0802 27 (some p) [aHalf r.reason, aHalf r.type, aW3 r.off] (setReject p r b))

/-- The table region of a partition (R309): 8 MiB on the lowest stack with a share, under the local region key of window byte 0x10. -/
def openTable (h : Hard) (p : Part) (j : Jig) (b : Block) : Block :=
  let pages := pagesOf 8388608
  match (ownMes h.cfg b p).head?, b.freeRegion with
  | some n, some rid =>
    match placeAt (b.me n) (footprintOf pages), openKey p 0 0x10 0 0 b with
    | some off, some (s, b) =>
      let b := placeFoot n { regionId := 0, part := p, base := off, size := footprintOf pages, clearing := false, pool := false } b
      let t := freshToken 0 j.memberIndex 0 j.domainId 0 pages (b.markOf p 0 16 0)
      modPtu p (fun x => { x with table := some rid }) (setRegion rid (openedRegion p none none 0 0 n off 0 s { t with noMirror := true } b.now) b)
    | _, _ => b
  | _, _ => b

/-- The dump secret and the dump key enter their slots (R59, R111, R116). -/
def putDumpKeys (p : Part) (j : Jig) (secret : Key) (b : Block) : Block :=
  let b := putKey (24 + p.val) secret (childAttr b 12 (BitVec.ofNat 4 p.val) (16 + p.val) 0) b
  putKey (32 + p.val) (kdf secret (leBytes 4 j.domainId.toNat ++ leBytes 2 j.memberIndex.toNat) "SWY-DUMP-KEY") (childAttr b 11 (BitVec.ofNat 4 p.val) (24 + p.val) 0) b

/-- The anchor draws the domain partition key (R115, R149). -/
def drawDomainKey (h : Hard) (p : Part) (b : Block) : Block :=
  match takeSlot (b.draw.setWidth 256) (childAttr b 5 (BitVec.ofNat 4 p.val) (16 + p.val) 0) (drawn b) with
  | some (s, b) => becomeKeyed h p s b
  | none => b

/-- Class 3 shapers hold a full burst as the Jig loads (R204). -/
def fillShapers (p : Part) (b : Block) : Block :=
  { b with pports := Tab.mapV b.pports fun n x => if n % 8 = p.val then { x with tokens := c3Burst x } else x }

/-- A first load has passed every check (R77): the partition is loaded, its keys are derived, its grids are made, Dovetail starts. -/
def firstLoad (h : Hard) (l : JigLoad) (j : Jig) (secret : Key) (b : Block) : Block :=
  let p := l.part
  let b := modPart p (fun s => { s with jig := some j, loadTick := b.now, gridOff := false }) (setReject p { reason := 0, type := 0, off := 0 } b)
  let b := setPartState h p 2 (putDumpKeys p j secret b)
  let b := setTel (.part p) (telStart j.telemetry b.now) (fillShapers p b)
  let b := rebuildGrids h b
  let b := modAdm p (fun a => { a with anchor := j.anchors.headD 0, formStart := b.now }) b
  let b := openTable h p j b
  let b := if j.anchors.headD 0 = j.memberIndex then drawDomainKey h p (ownIndex p j.memberIndex b) else b
  push (.part p) (push (.adm p) (complete h l.ctx stOk 0 j.serial.toNat 0 (compatApply b)))

/-! ### Commands (R75 to R81) -/

/-- CMD_JIG_LOAD (R75): one load at a time, in the order they are taken; none while a lifecycle transition is open (R97, with the status of R97's `CMD_PART_CREATE`: DEDUCED, log entry 86). -/
def execCmdJigLoad (ctx : CmdCtx) (part : Part) (replace : Bool) (addr : Word) (length : BitVec 32) (s : State) : Host.Outcome State Fault Refusal :=
  actCmd ctx 0x02 0 (fun h q b =>
    if part ≠ q.part then complete h ctx stNotOwner 0 0 0 b
    else if transitionOpen h.fuse then complete h ctx stNoSlot 0 0 0 (rejectOpen part b)
    else nextLoad { b with tcQueue := b.tcQueue ++ [{ ctx := ctx, part := part, replace := replace, addr := addr, length := length, begun := 0 }] }) s

/-- Steps 1 to 8 of R76. -/
def steps1to8 (h : Hard) (b : Block) (p : Part) (replace : Bool) (img : Bytes) : Option Rej :=
  (step1 img).orElse fun _ => (steps2to5 h b img).orElse fun _ => (steps6to7 h b p replace img).orElse fun _ => step8 h.cfg replace img

/-- The checks of a staged copy (R76, R77): what they leave of the load. -/
def checkImage (h : Hard) (l : JigLoad) (img : Bytes) (b : Block) : Block :=
  let p := l.part
  let rej (r : Rej) : Block := loadFails h p l.ctx stJigRejected r.reason r b
  match steps1to8 h b p l.replace img with
  | some r => rej r
  | none =>
    let j := jigOfImage img
    match b.jigOf p with
    | some old => (match step9 b p old j img with
      | some r => rej r
      | none => modPart p (fun s => { s with pending := some { jig := j, offs := [0x10, 0x11, 0x21, 0x30, 0x40].map fun t => (t, offOf (records img) t), ctx := l.ctx, committed := false } }) b)
    | none => (match step10 h b p j b.now.toNat (offOf (records img)), dumpSecret h b img with
      | some (st, r), _ => loadFails h p l.ctx st r.reason r b
      | none, some k => firstLoad h l j k b
      | none, none => b)

/-- A staged load ends or goes on: an open lifecycle transition (R97) and a state that does not fit it first, then the copy, then the image. -/
def stagedCheck (h : Hard) (l : JigLoad) (image : Option Bytes) (b : Block) : Block :=
  let loaded := (b.jigOf l.part).isSome
  if transitionOpen h.fuse then complete h l.ctx stNoSlot 0 0 0 (rejectOpen l.part b)
  else if loaded ∧ l.replace = false then loadFails h l.part l.ctx stJigRejected 0x30 { reason := 0x30, type := 0, off := 0 } b
  else if !loaded ∧ l.replace = true then loadFails h l.part l.ctx stJigRejected 0x31 { reason := 0x31, type := 0, off := 0 } b
  else match image with
    | none => loadFails h l.part l.ctx stAborted 0x0104 { reason := 0x06, type := 0, off := 0 } b
    | some img =>
      if 16777216 < l.length.toNat then loadFails h l.part l.ctx stJigRejected 0x05 { reason := 0x05, type := 0, off := 0 } b
      else checkImage h l ((padTo l.length.toNat img).take l.length.toNat) b

/-- The load's command still waits for its record. -/
def loadLives (b : Block) (l : JigLoad) : Bool := match b.queue l.ctx.queue with | some q => q.flight.any fun f => decide (f.ctx = l.ctx) | none => false

/-- JIG_STAGED_CHECK (R75, R76): of the load TC serves; it waits while random values are withheld (R185). -/
def execJigStagedCheck (image : Option Bytes) (s : State) : Host.Outcome State Fault Refusal :=
  act (fun h b => match b.tcLoad with
    | none => b
    | some l =>
      let next (b : Block) : Block := dropLoads (fun x => decide (x = l)) b
      if loadLives b l = false then next (rejectOpen l.part b)
      else if b.noRandom then
        if b.ent.waiting.any fun w => decide (w.1 = l.ctx) then b else { b with ent := { b.ent with waiting := b.ent.waiting ++ [(l.ctx, l.part, b.now)] } }
      else next (stagedCheck h l image (entropyServed l.ctx b))) s

/-! ### Replacement (R79, R80) -/

/-- Something in use would change or go (R80). -/
def inUse (b : Block) (p : Part) (old new : Jig) : Bool :=
  let rs := b.regions.filter fun e => decide (e.2.part = p)
  (old.windows.any fun w => (rs.any fun e => decide (e.2.window = some (Fin.ofNat 16 w.window))) && decide ((new.windows.find? fun x => decide (x.window = w.window)) ≠ some w))
    || (old.regions.any fun r => (rs.any fun e => decide (e.2.regionId = r.regionId)) && decide ((new.regions.find? fun x => decide (x.regionId = r.regionId)) ≠ some r))
    || (old.groups.any fun g =>
      (b.vgroups.any fun v => decide (v.part = p ∧ v.groupId = g.groupId ∧ v.steps ≠ []))
        && (decide ((new.groups.find? fun x => decide (x.groupId = g.groupId)) ≠ some g)
          || decide ((new.scales.find? fun x => decide (x.groupId = g.groupId)) ≠ old.scales.find? fun x => decide (x.groupId = g.groupId))
          || decide ((new.trees.find? fun x => decide (x.groupId = g.groupId)) ≠ old.trees.find? fun x => decide (x.groupId = g.groupId))))

/-- The commit point of a pending replacement (R80): step 10, the in-use checks, then the new grids. DESIGN CHOICE (log entry 86): a rejection with 0x0036, whose object may stand in the loaded image alone, names no record: `RECORD_TYPE` and `OFFSET` are 0. -/
def commitPoint (h : Hard) (p : Part) (x : PendingJig) (old : Jig) (b : Block) : Block :=
  let drop (b : Block) : Block := modPart p (fun s => { s with pending := none }) b
  match step10 h b p x.jig x.jig.activateTick.toNat (Tab.getD x.offs · 0) with
  | some (st, r) => loadFails h p x.ctx st r.reason r (drop b)
  | none =>
    if inUse b p old x.jig then loadFails h p x.ctx stJigRejected 0x36 { reason := 0x36, type := 0, off := 0 } (drop b)
    else
      rebuildGrids h (modPart p (fun s => { s with pending := some { x with committed := true } }) b)

/-- JIG_COMMIT_POINT: 100,000 ticks before `ACTIVATE_TICK`. -/
def execJigCommitPoint (part : Part) (s : State) : Host.Outcome State Fault Refusal :=
  act (fun h b => match (b.part part).pending, b.jigOf part with
    | some x, some old => if x.committed = false ∧ x.jig.activateTick.toNat ≤ b.now.toNat + 100000 then commitPoint h part x old b else b
    | _, _ => b) s

/-- The peers whose measurements the new allow list does not hold (R80, R146). -/
def peersDropped (b : Block) (p : Part) (new : Jig) : List MemberRef :=
  ((b.adm' p).peers.filter fun e => e.2.inSession && staleMeas new (BitVec.ofNat 32 e.1) e.2).map fun e => BitVec.ofNat 32 e.1

/-- The anchor family of an image takes office (R154, R155): an anchor it still names stays, else its first; a former anchor hands the roster to the members of the new family it has sessions with. -/
def newFamily (h : Hard) (p : Part) (new : Jig) (b : Block) : Block :=
  let old := (b.adm' p).anchor
  if new.anchors.contains old then b
  else
    let b := modAdm p (fun a => { a with anchor := new.anchors.headD 0, noAnchor := false }) b
    let b := if new.anchors.headD 0 = new.memberIndex then ownIndex p new.memberIndex b else b
    if old ≠ new.memberIndex then b else ((new.anchors.map accel).filter fun m => (b.peer p m).inSession).foldl (fun b m => sendRoster h p m b) b

/-- The new image governs (R80). -/
def activate (h : Hard) (p : Part) (x : PendingJig) (old : Jig) (b : Block) : Block :=
  let new := x.jig
  let b := modPart p (fun s => { s with jig := some new, pending := none }) (setReject p { reason := 0, type := 0, off := 0 } b)
  let b := setTel (.part p) (telChange new.telemetry new.activateTick (b.telOf (.part p))) b
  let b := newFamily h p new b
  let b := (peersDropped b p new).foldl (fun b m => dropPeer h p m b) b
  let b := veneerChanged h p old new b
  let b := if (b.adm' p).keyed then
      let b := openReserves h p b
      ((((b.entries p).filter fun e => e.egress).map fun e => e.port).dedup).foldl (fun b k => keyPort h p (Fin.ofNat 64 k) b) b
    else b
  push (.part p) (push (.adm p) (complete h x.ctx stOk 0 new.serial.toNat 0 (newChange p { XChange.blank 5 none with window := 0 } (compatApply b))))

/-- JIG_ACTIVATE (R80): at `ACTIVATE_TICK`. -/
def execJigActivate (part : Part) (s : State) : Host.Outcome State Fault Refusal :=
  act (fun h b => match (b.part part).pending, b.jigOf part with
    | some x, some old => if x.committed = true ∧ x.jig.activateTick.toNat ≤ b.now.toNat then activate h part x old b else b
    | _, _ => b) s

/-! ### The mailbox (R83, R84) -/

/-- 64-bit words of a byte string. -/
def wordsOf (bs : Bytes) : List Word := (List.range (bs.length / 8)).map fun i => BitVec.ofNat 64 (fieldAt bs (8 * i) 8)

/-- Ends the operation that `GO` started, with its words or an error. -/
def mboxEnd (p : Part) (r : Option (List Word)) (b : Block) : Block :=
  modPart p (fun s => { s with mbox := { s.mbox with go := false, done := true, error := r.isNone, words := (r.getD []).take 256 } }) b

/-- The mailbox operation `op`: the one `GO` started, or one started here; while another runs it is an overrun (R83). -/
def mboxRun (op : Byte) (arg : BitVec 32) (p : Part) (k : Jig → Option (List Word)) (b : Block) : Block :=
  let m := (b.part p).mbox
  if b.partExists p = false then b
  else if m.go = true ∧ (m.op ≠ op ∨ m.arg ≠ arg) then modPart p (fun s => { s with mbox := { s.mbox with overrun := true } }) b
  else mboxEnd p ((b.jigOf p).bind k) (modPart p (fun s => { s with mbox := { s.mbox with op := op, arg := arg } }) b)

/-- The image digest, the common digest, the serial, the pending tick. -/
def digestWords (s : PartSt) (j : Jig) : List Word :=
  wordsOf (leBytes 48 j.imageDigest.toNat ++ leBytes 48 j.commonDigest.toNat) ++ [j.serial, match s.pending with | some x => x.jig.activateTick | none => 0]

/-- Cores on which a partition holds a cell, as a mask. -/
def coresInUse (c : Cfg) (b : Block) (p : Part) (i : Island) : Nat :=
  let g := (b.island i).grid.cells
  let w := columnsOf c i
  ((List.range (coresOf c i)).map fun k => if (List.range w).any fun col => decide (cellOwner g w k col = p.val) then 2 ^ k else 0).sum

/-- Word n of the decisions: cores in use and share of an island. -/
def islandDecision (c : Cfg) (b : Block) (p : Part) (j : Jig) (n : Nat) : Word :=
  let i := shareIsland n
  BitVec.ofNat 64 (if islandPresent c i then coresInUse c b p i + 2 ^ 24 * j.share i else 0)

/-- The two words of an open region. -/
def regionWords (r : Region) : List Word :=
  let win : Nat := match r.window with | some w => w.val | none => 0
  [wordOf [(0, 32, r.regionId.toNat), (32, 16, r.token.keeper.toNat), (48, 16, r.token.mirror.toNat)], wordOf [(0, 4, win), (16, 16, r.node.toNat)]]

/-- What the block decided (R84). DESIGN CHOICE (log entry 86): page 0 exists with no region open, any other page beyond the list is a bad `ARG`, and the two other operations take any `ARG`. -/
def decisionWords (c : Cfg) (b : Block) (p : Part) (j : Jig) (arg : Nat) : Option (List Word) :=
  if arg = 0 then some ((List.range 25).map (islandDecision c b p j))
  else
    let rs := b.regions.filter fun e => decide (e.2.part = p) && decide ((b.ptuPart p).table ≠ some e.1)
    let page := (rs.drop (64 * (arg - 1))).take 64
    if rs.length ≤ 64 * (arg - 1) ∧ 1 < arg then none else some (page.flatMap fun e => regionWords e.2)

/-- MBOX_READ_DIGESTS. -/
def execMboxReadDigests (part : Part) (s : State) : Host.Outcome State Fault Refusal :=
  act (fun _ b => mboxRun 1 (b.part part).mbox.arg part (fun j => some (digestWords (b.part part) j)) b) s

/-- MBOX_READ_DECISIONS. -/
def execMboxReadDecisions (part : Part) (arg : BitVec 32) (s : State) : Host.Outcome State Fault Refusal :=
  act (fun h b => mboxRun 2 arg part (fun j => decisionWords h.cfg b part j arg.toNat) b) s

/-- MBOX_READ_HEADER. -/
def execMboxReadHeader (part : Part) (s : State) : Host.Outcome State Fault Refusal := act (fun _ b => mboxRun 3 (b.part part).mbox.arg part (fun j => some (wordsOf j.header)) b) s

end Sys2Proof.Machine
end

