-- ==== Sys2Proof/Machine/Resets.lean ====
section
/-! DEFINITION. The reset ladder (R378 to R382), the sealed sample (R376, R377) and the receipt of a clamp notice (R373). -/

namespace Sys2Proof.Machine

/-! ### Escalation (R381) -/

/-- The highest level a partition's own failures may reach (R73). -/
def escalateMax (b : Block) (p : Part) : Nat := match b.jigOf p with | some j => j.policy.escalateMax | none => 3

/-- A reset is no longer running. -/
def dropRun (sc : ResetScope) (b : Block) : Block := modRst (fun r => { r with running := r.running.filter fun x => decide (x.scope ≠ sc) }) b

def Block.run? (b : Block) (sc : ResetScope) : Option Running := b.rst.running.find? fun r => decide (r.scope = sc)

/-- The partition is held: level `level` would pass its `ESCALATE_MAX`. -/
def holdPart (h : Hard) (p : Part) (level : Nat) (b : Block) : Block :=
  logEv h 0x0908 27 (some p) 0 3 [aByte level] (modPart p (fun s => { s with held := true }) b)

/-- The next level is the chip (R381): capped when the escalation began with a partition's own failure. -/
def escalateChip (h : Hard) (origin : Option Part) (low rule : Nat) (b : Block) : Block :=
  let go (b : Block) : Block := takeChip h chipByEscalation 0xFF origin (noteEscalate h origin low 3 rule b)
  match origin with
  | some p => if escalateMax b p < 3 then holdPart h p 3 b else go b
  | none => go b

/-- A reset of `p`'s own page counts. -/
def countReset (p : Part) (level : Nat) (b : Block) : Block :=
  modRstPart p (fun r => { r with resets := r.resets + 1, lastLevel := BitVec.ofNat 4 level }) b

/-! ### What a reset takes from the islands (R378) -/

/-- A frame lost in an island's queue or crossing counts as sent and lost (R29): what it carries is sent again (R288). -/
def frameLost (b : Block) (q : QFrame) : Block := match q.tag with | some t => stampTag q.part t b | none => b

/-- Empties the queues of port `k`, and their crossings, of the frames `sel` names. -/
def loseFrames (k : Port) (sel : QFrame → Bool) (b : Block) : Block :=
  let left (qs : List QFrame) : List QFrame := qs.filter fun q => !sel q
  let b := (portQueues b k).foldl (fun b q => if sel q then frameLost b q else b) b
  let b := modPort k (fun x => { x with queue0 := left x.queue0, wait0 := left x.wait0 }) b
  allParts.foldl (fun b p => if (b.portPart k p).queue3 = [] ∧ (b.portPart k p).wait3 = [] then b else modPortPart k p (fun x => { x with queue3 := left x.queue3, wait3 := left x.wait3 }) b) b

/-- Takes the pinned outputs `sel` names out of the Shim; their uses of translations end. -/
def loseOutputs (sel : Lane × Pinned → Bool) (b : Block) : Block :=
  let xs := b.shim.filter sel
  xs.foldl (fun b x => endUse x.2.part x.2.use b) { b with shim := b.shim.filter fun x => !sel x }

/-- A bundle's end reaches nobody any more. -/
def quieten (sel : Bundle → Bool) (b : Block) : Block := { b with bundles := b.bundles.map fun y => if sel y then { y with what := .quiet } else y }

/-- Whether a lane is one of LE `n`'s. -/
def laneOf (n : Fin 16) : Lane → Bool
  | .egress k => decide (portLe k = n)
  | .ingress k => decide (portLe k = n)
  | .read _ => false

/-- An LE's queues, input buffers, counters, records and windows go; the Veneer groups with a lane on it halt (R192, R199, R237). -/
def clearLe (h : Hard) (n : Fin 16) (b : Block) : Block :=
  let ks : List Port := (allPorts.filter fun k => decide (portLe k = n))
  let b := veneerLeReset h n b
  let b := ks.foldl (fun b k => loseFrames k (fun _ => true) b) b
  let b := loseOutputs (fun x => laneOf n x.1) b
  { b with pports := Tab.mapV b.pports fun i x => if (i / 8) / 4 = n.val then { x with seqs := [] } else x,
           lparts := Tab.mapV b.lparts fun i x => if i / 8 = n.val then { x with records := [], contexts := [], inbuf := [] } else x }

/-- The re-encryption slots that can be written back are (R273). -/
def sealReady (h : Hard) (n : Fin 8) (p : Part) (b : Block) : Block :=
  (b.mePart n p).slots.foldl (fun b e => match b.region e.2.region with
    | some r => if e.2.await = [] then sealSlot h e.2.region r e.1 e.2 b else b
    | none => b) b

/-- Entries an ME reset leaves: those of pool regions, which only a publication writes (R262), and dirty ones whose parent must be fetched before they are written back (R255, R273). -/
def keepsEntry (b : Block) (e : TreeEnt) : Bool :=
  match b.region e.region with
  | some r => e.dirty || (decide (r.kind = 2) && e.pubd.isSome)
  | none => false

/-- A pool region's entry or fetch, which an ME reset leaves. -/
def poolKept (b : Block) (rid : Nat) : Bool := match b.region rid with | some r => decide (r.kind = 2) | none => false

/-- An ME: slots and dirty entries written back, then staging and cache go; engines' requests there end, the block's own begin again (R273). What a write-back still lacks is fetched. -/
def clearMe (h : Hard) (n : Fin 8) (b : Block) : Block :=
  let here (m : MemReq) : Bool := match b.region m.region with | some r => decide (r.me = n) | none => false
  let rids := (b.regions.filter fun e => decide (e.2.me = n)).map fun e => e.1
  let b := allParts.foldl (fun b p => if Tab.has b.meparts (8 * n.val + p.val) then flushCache n p (sealReady h n p b) else b) b
  let b := allParts.foldl (fun b p => if Tab.has b.meparts (8 * n.val + p.val) then
      modMePart n p (fun m => { m with staging := [], cache := m.cache.filter (keepsEntry b), fills := m.fills.filter fun e => poolKept b e.region }) b else b) b
  let ms := b.memReqs.filter fun m => here m && m.isDom && m.by'.use.isSome
  let b := ms.foldl (fun b m => if m.isWrite && m.begun then releaseWrite m.part m b else finish h m stAborted 0 b) b
  let again : List MemReq := b.memReqs.map fun m => if here m && !poolKept b m.region then { m with wants := [], fetched := none } else m
  let b := { b with fetches := b.fetches.filter fun f => !rids.contains f.1 || poolKept b f.1, memReqs := again }
  allParts.foldl (fun b p => if Tab.has b.meparts (8 * n.val + p.val) then (cleanOut n p b).2 else b) b

/-- The HBE: every open bounce window fails with cause 5, its queued records are discarded (R352). -/
def clearHbe (h : Hard) (b : Block) : Block :=
  let b := quieten (fun y => match y.what with | .bounce .. => true | _ => false) b
  let b := (b.host.bounces.filter fun e => decide (e.2.state = 1)).foldl (fun b e => bounceFail h (BitVec.ofNat 6 e.1) e.2 5 e.2.seqIn b) b
  let b := { b with host := { b.host with bounces := Tab.mapV b.host.bounces fun _ x => { x with outq := [] } } }
  (b.host.bounces.map fun e => BitVec.ofNat 6 e.1).foldl (fun b w => bounceSettle h w b) b

/-- The PTU: its cache and its stall tables, with `ST_ABORTED` (R378). -/
def clearPtu (b : Block) : Block :=
  let b := quieten (fun y => match y.what with | .table _ => true | _ => false) b
  allParts.foldl (fun b p => if Tab.has b.ptu p.val then endStalls p (fun _ => true) (modPtu p (fun x => { x with cache := [], reading := [] }) b) else b) b

/-- A request is an atomic that holds no line yet (R291). -/
def atomicWaits (m : MemReq) : Bool := !m.begun && (match m.op with | .atomic .. => true | _ => false)

/-- The AHU (R291): a die's atomic without its lock ends, a pair's is dropped unanswered for its retransmission. -/
def clearAhu (h : Hard) (b : Block) : Block :=
  let ms := b.memReqs.filter fun m => atomicWaits m
  let b := (ms.filter fun m => m.by'.use.isSome).foldl (fun b m => finish h m stAborted 0 b) b
  (ms.filter fun m => m.by'.use.isNone).foldl (fun b m => match m.by'.src with
    | .bundle id _ => (match b.bundle id with
      | some y => (match y.what with
        | .pair peer _ _ => modKeep y.part peer (fun k => { k with busy := false }) (dropBundle id { b with memReqs := b.memReqs.filter fun x => decide (x.id ≠ m.id) })
        | _ => b)
      | none => b)
    | .port _ => b) b

/-- The interrupt stub is cleared: what it carries is sampled again when the reset ends (R367). -/
def clearStub (h : Hard) (i : Island) (b : Block) : Block :=
  let xs := (List.range 72).map fun n => 344 + n
  let b := modIsland i (fun s => { s with stubLatch := [], stubLevel := [] }) b
  xs.foldl (fun b x => if srcStub x = some i ∧ (srcFixedOwner h.cfg x).isSome then setSrc x { b.src h.cfg x with cond := false } b else b) b

/-- Everything an engine reset clears on its island (R378). -/
def clearIsland (h : Hard) (i : Island) (b : Block) : Block :=
  let b := match i with
    | .le n => clearLe h n b
    | .me n => clearMe h n b
    | .hbe => clearHbe h b
    | .ptu => clearPtu b
    | .ahu => clearAhu h b
    | _ => b
  let b := clearStub h i (cacheZero i (lostCounts i b))
  let idle (g : GridSt) : GridSt := { g with foreign := [], issued := [], waiting := [], moved := [] }
  modIsland i (fun s => { s with inReset := true, asleep := false, reqs := [], groups := [], kdrIn := [], latched := [], held := [], grid := idle s.grid }) b

/-- The levels of an island's stub as they stand (R367). -/
def sampleStub (h : Hard) (i : Island) (b : Block) : Block :=
  match i with
  | .le n => (allPorts.filter fun k => decide (portLe k = n) && portPresent h.cfg k).foldl (fun b k => setPortLevel h k b) b
  | .me n => meLevel h n b
  | _ => b

/-- The island takes work again (R35, R131, R192, R199, R367). -/
def islandBack (h : Hard) (i : Island) (b : Block) : Block :=
  let b := modIsland i (fun s => { s with inReset := false, suspended := b.clk.lost, copy := b.now, latched := [], work := b.now }) b
  let b := cacheRefill i (sampleStub h i b)
  let b := match i with
    | .le n => allParts.foldl (fun b p => if b.keyed p then syncScheduled h p [n.val] b else b) (refillGroups i b)
    | .hbe => drainRings h b
    | _ => b
  pushAll b

/-! ### The partition level -/

/-- A replacement that has not reached its tick ends with the partition's commands (R78); the grids it was to bring are withdrawn. -/
def dropPending (h : Hard) (p : Part) (b : Block) : Block :=
  match (b.part p).pending with
  | none => b
  | some x =>
    let b := complete h x.ctx stAborted 0 0 0 (rejectOpen p (modPart p (fun s => { s with pending := none }) b))
    if x.committed then rebuildGrids h b else b

/-- A PTU page after a reset of its partition (R324): the translation epoch starts again once nothing uses an older one. -/
def PtuPart.cleared (x : PtuPart) : PtuPart :=
  let idle := x.uses.all fun u => decide (u.2 = 0)
  { x with base := 0, en := false, wr := 0, rd := 0, overflow := false, dmaErr := false, faults := [], hits := 0, misses := 0, selKind := 0, selDest := 0, pins := [],
           epoch := if idle then 0 else x.epoch, uses := if idle then [(0, 0)] else x.uses }

/-- What a partition reset clears (R378): commands, transactions, stalls, fences, the fault ring's indices, Veneer arms, its part of every island, its sources. -/
def clearPartition (h : Hard) (p : Part) (b : Block) : Block :=
  let b := ((b.host.queues.filter fun e => decide (e.2.part = p)).map fun e => e.1).foldl (fun b n => cancelAll h n (fun _ => true) b) b
  let b := dropPending h p b
  let b := veneerReset h (fun g => decide (g.part = p)) b
  let b := (abortAskers h p (fun _ => true) (endStalls p (fun _ => true) b)).2
  let fs := (b.ahuPart p).fences
  let b := fs.foldl (fun b f => fenceEnd h p f stAborted b) (modAhu p (fun a => { a with fences := [] }) b)
  let b := allPorts.foldl (fun b k => loseFrames k (fun q => decide (q.part = p)) b) b
  let b := loseOutputs (fun x => decide (x.2.part = p)) b
  let b := { b with lparts := Tab.mapV b.lparts fun i x => if i % 8 = p.val then { x with inbuf := [] } else x,
                    meparts := Tab.mapV b.meparts fun i x => if i % 8 = p.val then { x with staging := [] } else x }
  let b := (cipherIslands h.cfg).foldl (fun b i => modIsland i (fun s =>
    let other (g : Group) : Bool := decide (g.part ≠ some p)
    { s with reqs := s.reqs.filter fun q => decide (q.req.part ≠ p), held := s.held.filter fun q => decide (q.part ≠ p), groups := s.groups.filter other,
             grid := { s.grid with waiting := s.grid.waiting.filter other, moved := s.grid.moved.filter other } }) b) b
  let b := ringLevel h p (modPtu p PtuPart.cleared b)
  let b := (b.ic.srcs.filter fun e => decide (e.2.owner = some (.part p))).foldl (fun b e => idleSrc h e.1 b) b
  push (.part p) b

/-- A partition reset is taken (R378, R380, R381): the sample first, then the clearing; the third in 60 s is a chip reset. -/
def takePartition (h : Hard) (p : Part) (requester : Byte) (origin : Option Part) (b : Block) : Block :=
  let st := b.part p
  if b.rst.halted || !(decide (st.state = 1 ∨ st.state = 2)) || st.held || b.runs (.partition p) then b
  else if 2 ≤ b.taken (.partition p) (60 * second) then escalateChip h origin 2 2 b
  else
    let b := logEv h 0x0905 27 (some p) 2 3 [aByte requester.toNat] (pushRunning (.partition p) requester origin b)
    let b := startSample 2 0 p (countReset p 2 b)
    if (b.rstPart p).sampling.isSome then b else clearPartition h p b

/-! ### The engine level -/

/-- The partitions an island serves: a share on an LE, ME or the HBE; every loaded one on the PTU and the AHU. -/
def partsOn (b : Block) (i : Island) : List Part :=
  (b.jigs.filter fun j => match i with | .ptu => true | .ahu => true | _ => decide (j.2.share i ≠ 0)).map fun j => Fin.ofNat 8 j.1

/-- The requester a partition is shown (R397): another partition reads as the block. -/
def requesterFor (requester : Byte) (origin : Option Part) (p : Part) : Nat :=
  match origin with
  | some o => if o = p then p.val else 0xFF
  | none => requester.toNat

/-- The islands an engine reset can name (R378). -/
def resettable (h : Hard) (i : Island) : Bool := islandPresent h.cfg i && decide (islandCode i ≤ 26)

/-- What follows an engine reset that does not do (R381): the partition whose context it came from, else the chip. -/
def escalateEngine (h : Hard) (origin : Option Part) (rule : Nat) (b : Block) : Block :=
  match origin with
  | some p => if escalateMax b p < 2 then holdPart h p 2 b else takePartition h p 0xFF (some p) (noteEscalate h origin 1 2 rule b)
  | none => escalateChip h none 1 rule b

/-- An engine reset is taken (R378, R380, R381): recorded for each partition on the island; the third in 10 s is the next level. -/
def takeEngine (h : Hard) (i : Island) (requester : Byte) (origin : Option Part) (b : Block) : Block :=
  if b.rst.halted || !resettable h i || b.runs (.engine i) then b
  else if 2 ≤ b.taken (.engine i) (10 * second) then escalateEngine h origin 2 b
  else
    let b := pushRunning (.engine i) requester origin b
    let b := (partsOn b i).foldl (fun b p => logEv h 0x0904 (islandCode i) (some p) 2 3 [aByte (requesterFor requester origin p)] (countReset p 1 b)) b
    clearIsland h i b

/-! ### The context level -/

/-- The islands that still hold work of a context (R381): stalls in the PTU, transactions in the AHU, line requests in an ME. -/
def holders (b : Block) (p : Part) (engine : BitVec 16) : List Island :=
  let stalled := (b.ptuPart p).stalls.any fun q => decide (q.engine = engine)
  let asked := (b.ahuPart p).tags.any fun e => e.2.isAsk && !e.2.silent && e.2.by'.use.isSome && decide (e.2.by'.engine = engine)
  let mes := ((b.memReqs.filter fun m => decide (m.part = p) && m.isDom && m.by'.use.isSome && decide (m.by'.engine = engine)).filterMap fun m =>
    (b.region m.region).map fun r => r.me).dedup
  (if stalled then [.ptu] else []) ++ (if asked then [.ahu] else []) ++ mes.map fun n => .me n

/-- A context's reset becomes an engine reset of every island that holds its work. -/
def escalateContext (h : Hard) (p : Part) (is : List Island) (rule : Nat) (b : Block) : Block :=
  if escalateMax b p < 1 then holdPart h p 1 b
  else is.foldl (fun b i => takeEngine h i 0xFF (some p) b) (noteEscalate h (some p) 0 1 rule b)

/-- The stalls of a context end with its reset; its faults stay, those not yet in the ring and without a stall do not (R316). -/
def clearContext (h : Hard) (p : Part) (engine : BitVec 16) (b : Block) : Block :=
  let b := endStalls p (fun q => decide (q.engine = engine)) b
  let b := modPtu p (fun x => { x with faults := x.faults.filter fun f => f.written || x.stalls.any fun q => decide (q.fault = some f.id) }) b
  (abortAskers h p (fun a => decide (a.engine = engine)) b).2

/-- A context reset is taken (R378, R380, R381); the third in 1 s is the next level where its work still stands. -/
def takeContext (h : Hard) (p : Part) (engine : BitVec 16) (requester : Byte) (b : Block) : Block :=
  let sc := ResetScope.context p engine
  if b.rst.halted || !b.partExists p || (b.part p).held || b.runs sc then b
  else if 2 ≤ b.taken sc second ∧ holders b p engine ≠ [] then escalateContext h p (holders b p engine) 2 b
  else
    let b := logEv h 0x0903 27 (some p) 0 2 [aHalf engine.toNat, aByte requester.toNat] (pushRunning sc requester (some p) b)
    clearContext h p engine (countReset p 0 b)

/-! ### Requests (R380, R389) -/

/-- A write of `SWY_RST_REQ_n` with `GO`: levels 0 and 2 act, a request under way is not taken again; a halted block takes the write and resets nothing (R371). -/
def resetAsked (h : Hard) (p : Part) (level : Nat) (engine : BitVec 16) (b : Block) : Block :=
  if (b.rstPart p).go || (level ≠ 0 && level ≠ 2) then b
  else
    let b := modRstPart p (fun r => { r with go := true, level := BitVec.ofNat 2 level, engine := engine }) b
    let b := if level = 0 then takeContext h p engine (BitVec.ofNat 8 p.val) b else takePartition h p (BitVec.ofNat 8 p.val) (some p) b
    if b.runs (.context p engine) || b.runs (.partition p) then b else modRstPart p (fun r => { r with go := false }) b

/-- The pages of `SWY_RST` take a write though the block is halted (R371); the request then has no effect. -/
def opAct (f : Hard → Block → Block) (s : State) : Host.Outcome State Fault Refusal :=
  onB (fun h => whenPages fun b => settle h (f h b)) s

/-- RST_REQ_CONTEXT. -/
def execRstReqContext (part : Part) (engine : BitVec 16) (s : State) : Host.Outcome State Fault Refusal :=
  opAct (partReg part fun h b => resetAsked h part 0 engine b) s

/-- RST_REQ_PARTITION. -/
def execRstReqPartition (part : Part) (s : State) : Host.Outcome State Fault Refusal :=
  opAct (partReg part fun h b => resetAsked h part 2 (b.rstPart part).engine b) s

/-- A write of `SWY_RST_OP` with `GO`; a halted block ends in its own reset (R370). -/
def operatorAsks (h : Hard) (level : Nat) (code : Byte) (b : Block) : Block :=
  let b := modRst (fun r => { r with opLevel := BitVec.ofNat 4 level, opIsland := code }) b
  if b.rst.halted then b
  else match level with
    | 1 => (match islandOfCode code.toNat with | some i => takeEngine h i 0xFE none b | none => b)
    | 3 => takeChip h chipByOperator 0xFE none b
    | 4 => takePowerCycle h 0xFE b
    | _ => b

/-- RST_OP_ENGINE. -/
def execRstOpEngine (code : Byte) (s : State) : Host.Outcome State Fault Refusal := opAct (fun h b => operatorAsks h 1 code b) s

/-- RST_OP_CHIP. -/
def execRstOpChip (s : State) : Host.Outcome State Fault Refusal := opAct (fun h b => operatorAsks h 3 b.rst.opIsland b) s

/-- RST_OP_POWER_CYCLE. -/
def execRstOpPowerCycle (s : State) : Host.Outcome State Fault Refusal := opAct (fun h b => operatorAsks h 4 b.rst.opIsland b) s

/-- STALL_ESCALATE (R316): a request has stalled for 2 s. -/
def execStallEscalate (part : Part) (engine : BitVec 16) (s : State) : Host.Outcome State Fault Refusal :=
  act (fun h b =>
    match (b.ptuPart part).stalls.find? fun q => decide (q.engine = engine) && decide (2 * second ≤ since b q.since) with
    | none => b
    | some q =>
      let id := match q.fault with | some f => f.toNat | none => 0
      takeContext h part engine 0xFF (xlatNote h 0x0702 part [aHalf id, aHalf engine.toNat] b)) s

/-! ### The end of a reset (R378) -/

/-- The chip's members hold their sessions with the anchor and both standbys (R378). -/
def readmitted (b : Block) : Bool :=
  b.jigs.all fun j =>
    let p : Part := Fin.ofNat 8 j.1
    let a := b.adm' p
    (a.anchor :: standbys j.2 a).all fun i => decide (i = j.2.memberIndex) || (b.peer p (accel i)).inSession

/-- `GO` of a partition's page reads 0 once none of its resets runs. -/
def reqEnds (p : Part) (b : Block) : Block :=
  let on := b.rst.running.any fun r => match r.scope with | .context q _ => decide (q = p) | .partition q => decide (q = p) | _ => false
  if on then b else modRstPart p (fun r => { r with go := false }) b

/-- A scope takes work again. -/
def resetDone (h : Hard) (sc : ResetScope) (b : Block) : Block :=
  match sc with
  | .context p engine =>
    if b.runs sc = false ∨ holders b p engine ≠ [] then b else reqEnds p (dropRun sc b)
  | .engine i => if (b.island i).inReset then islandBack h i (dropRun sc b) else b
  | .partition p =>
    if b.runs sc = false ∨ (b.rstPart p).sampling.isSome = true then b
    else push (.part p) (fire h (272 + p.val) (reqEnds p (dropRun sc b)))
  | .chip => if b.runs .chip && !b.chipPending && decide (b.jigs ≠ []) && readmitted b then dropRun .chip b else b
  | .powerCycle => b

/-- RESET_COMPLETE (R378). -/
def execResetComplete (scope : ResetScope) (s : State) : Host.Outcome State Fault Refusal := act (fun h b => resetDone h scope b) s

/-- The bound of a level (R378). -/
def resetBound : ResetScope → Nat
  | .context .. => 2000000
  | .engine _ => 50000000
  | .partition _ => 400000000
  | .chip => 6 * second
  | .powerCycle => 45 * second

/-- A reset has passed its bound (R381): the next level takes over. -/
def boundPassed (h : Hard) (r : Running) (b : Block) : Block :=
  match r.scope with
  | .context p engine =>
    let is := holders b p engine
    reqEnds p (escalateContext h p (if is = [] then [.ptu] else is) 1 (dropRun r.scope b))
  | .engine _ => escalateEngine h r.origin 1 (dropRun r.scope b)
  | .partition p => escalateChip h r.origin 2 1 (reqEnds p (dropRun r.scope b))
  | .chip => if b.rst.compat.oos then noteEscalate h none 3 4 1 b else takePowerCycle h 0xFF (noteEscalate h none 3 4 1 (dropRun r.scope b))
  | .powerCycle => b

/-- RESET_BOUND_EXPIRE (R381). -/
def execResetBoundExpire (scope : ResetScope) (s : State) : Host.Outcome State Fault Refusal :=
  onB (fun h => whenUp fun b => match b.run? scope with
    | some r => if !b.rst.halted && decide (resetBound scope ≤ since b r.taken) then settle h (boundPassed h r b) else b
    | none => b) s

/-- COMPAT_OOS_CLEAR (R382): the out-of-service state, the count and the latch end; what the loaded Jigs ask for stays. -/
def oosCleared (b : Block) : Block :=
  let b := compatApply (modRst (fun r => { r with compat := { r.compat with oos := false, resets := [] } }) b)
  if b.i3c.request = 3 then setRequest (restingRequest b) b else b

def execCompatOosClear (s : State) : Host.Outcome State Fault Refusal := opAct (fun _ b => oosCleared b) s

/-! ### The sample (R376, R377) -/

/-- The bytes of stacked SRAM a sample takes at the most: the ranges' sum cut at 64 MiB, or 64 MiB with no range. -/
def sampleLimit (r : RstPart) : Nat :=
  let n := (r.ranges.map fun w => wbits w 56 8).sum
  1048576 * if n = 0 then 64 else min 64 n

/-- The header (R377), without the zeros that fill it to 4,096 B. -/
def sampleHead (j : Jig) (r : RstPart) (level cause : Byte) (tick nonce : Word) (chunks' entries : Nat) : Bytes :=
  leBytes 4 0x31504D44 ++ leBytes 2 1 ++ leBytes 2 chunks' ++ leBytes 4 j.domainId.toNat ++ leBytes 2 j.memberIndex.toNat ++ leBytes 1 level.toNat ++ leBytes 1 cause.toNat
    ++ leBytes 8 tick.toNat ++ leBytes 8 nonce.toNat ++ leBytes 2 entries ++ leBytes 6 0 ++ r.ranges.flatMap fun w => leBytes 8 w.toNat

/-- One sealed chunk: ciphertext and tag. -/
def sampleChunk (key : Key) (nonce : Word) (i : Nat) (aad pt : Bytes) : Bytes :=
  let c := gcmSeal key (leBytes 8 nonce.toNat ++ leBytes 4 i) aad pt
  c.1 ++ tagBytes c.2

/-- What a sample leaves in its registers. -/
def sampleEnds (h : Hard) (p : Part) (result bytes : Nat) (b : Block) : Block :=
  let b := modRstPart p (fun r => { r with sampling := none, dumpResult := BitVec.ofNat 4 result, dumpBytes := BitVec.ofNat 32 bytes,
                                           dumpCount := if result = 1 then r.dumpCount + 1 else r.dumpCount, sealedAt := if result = 1 then some b.now else r.sealedAt }) b
  logEv h 0x0909 24 (some p) 0 1 [aByte result, aW6 bytes] b

/-- Writes a sample: the chunks, the log chunk, the header last. -/
def sampleOut (p : Part) (j : Jig) (r : RstPart) (level cause : Byte) (tick : Word) (content : Bytes) (b : Block) : Nat × Block :=
  let key := b.keyVal (BitVec.ofNat 12 (32 + p.val))
  let nonce : Word := b.draw.setWidth 64
  let pts := chunks 65536 1024 (content.take (sampleLimit r))
  let log := b.ring p.val
  let head := sampleHead j r level cause tick nonce pts.length log.length
  let base : Word := (r.dumpBase.setWidth 64) <<< 12
  let cs := (pts.zipIdx.map fun x => sampleChunk key nonce x.2 head (padTo 65536 x.1)) ++ [sampleChunk key nonce 0xFFFFFFFF head (log.flatMap entryBytes)]
  let ws := cs.zipIdx.map fun x => Out.dmaWrite (base + BitVec.ofNat 64 (4096 + 65552 * x.2)) x.1
  (4096 + (cs.map fun c => c.length).sum, emits (ws ++ [.dmaWrite base (padTo 4096 head)]) (drawn b))

/-- A due sample is sealed, or its DMA fails (R376); a partition's reset then clears it, a chip reset or power cycle goes on. -/
def sampleSealed (h : Hard) (p : Part) (dmaOk : Bool) (content : Bytes) (b : Block) : Block :=
  let r := b.rstPart p
  match r.sampling, b.jigOf p with
  | some (level, cause, tick), some j =>
    if b.noRandom then b
    else
      let o := sampleOut p j r level cause tick content b
      let b := if dmaOk then sampleEnds h p 1 o.1 o.2 else sampleEnds h p 3 (b.openVal.extractLsb' 0 32).toNat (opened b)
      let b := if b.runs (.partition p) && !b.rst.halted then clearPartition h p b else b
      afterSamples h b
  | _, _ => b

/-- SAMPLE_SEALED (R376, R377). -/
def execSampleSealed (part : Part) (dmaOk : Bool) (content : Bytes) (s : State) : Host.Outcome State Fault Refusal :=
  onB (fun h => whenUp fun b => settle h (sampleSealed h part dmaOk content b)) s

/-! ### A clamp notice (R267, R373) -/

/-- The notice is accepted: its MAC, its domain, its tick, and no earlier one of the same member and tick. -/
def noticeOk (b : Block) (p : Part) (j : Jig) (n : ClampNotice) : Bool :=
  decide (kmac128 (b.keyVal (b.adm' p).domainSlot) (noticeHead n.tick n.domainId n.clamping n.cause.toNat n.suspects) "SWY-CLAMP" = n.mac)
    && decide (n.domainId = j.domainId) && within n.tick b.now second && !(b.adm' p).notices.contains (n.clamping, n.tick)

/-- A region is suspended from states 2 to 4 (R267, R268): what its keeper refused meanwhile ends (R290). -/
def suspendRegion (h : Hard) (rid : Nat) (r : Region) (n : ClampNotice) (page : Word) (b : Block) : Block :=
  if r.state = 2 ∨ r.state = 3 ∨ r.state = 4 then
    endRefused r.part r.regionId (memNote h 0x050C r [aW4 n.clamping.toNat, (5, page.toNat)] (setRegion rid { r with state := 5 } b))
  else b

/-- What the keeper of a named region does: the notice goes on unchanged to mirror and readers, then the page is audited once no publication runs. -/
def keeperNoticed (h : Hard) (p : Part) (rid : Nat) (r : Region) (n : ClampNotice) (page : Word) (b : Block) : Block :=
  let body := noticeHead n.tick n.domainId n.clamping n.cause.toNat n.suspects ++ leBytes 16 n.mac.toNat
  let dests := ((if r.token.noMirror then [] else [r.token.mirror]) ++ r.readers).dedup.filter fun m => b.session p m
  let b := dests.foldl (fun b m => sendTo h p (accel m) 0x11 body b) b
  let b := suspendRegion h rid r n page b
  match b.region rid with
  | some r => if r.pub.isSome then setRegion rid { r with audit := some page.toNat } b else startAudit rid r page.toNat b
  | none => b

/-- One suspect of a notice. -/
def suspectNoticed (h : Hard) (p : Part) (n : ClampNotice) (b : Block) (x : BitVec 32 × Word) : Block :=
  match b.regionById p x.1 with
  | none => b
  | some (rid, r) =>
    if r.role = 0 then (if n.clamping = b.selfRef p then b else keeperNoticed h p rid r n x.2 b) else suspendRegion h rid r n x.2 b

/-- CLAMP_NOTICE (R153, R373). -/
def execClampNotice (sec : Sec) (n : ClampNotice) (s : State) : Host.Outcome State Fault Refusal :=
  actSec sec (fun h b => match b.jigOf sec.part with
    | none => b
    | some j =>
      if noticeOk b sec.part j n = false then b
      else
        let p := sec.part
        let b := modAdm p (fun a => { a with notices := (n.clamping, n.tick) :: a.notices }) b
        let b := seeDeparture h p n.clamping 5 b
        let b := n.suspects.foldl (suspectNoticed h p n) b
        let i := memberIndex n.clamping
        if isAccel n.clamping then memberLost h p i (readersLose h p i (keeperLost h p i b)) else b) s

end Sys2Proof.Machine
end

