-- ==== Sys2Proof/Machine/Timebase.lean ====
section
/-! DEFINITION. Clocks and the timebase (R31 to R36), the tick itself, the Shim's releases (R37 to R40) and the sleep of an island (R44). -/

namespace Sys2Proof.Machine

/-! ### The tick (R8, R33) -/

/-- One edge of `TB_CLK`: the counter and the islands' copies advance, the shapers fill. Nothing moves before the counter is loaded or once the timebase is lost. -/
def clockTick (b : Block) : Block :=
  if b.up && b.clk.loaded && !b.clk.lost then
    refillAll { b with clk := { b.clk with tick := b.clk.tick + 1 }, islands := Tab.mapV b.islands fun _ i => { i with copy := i.copy + 1 } }
  else b

/-- The least count a start accepts (R33, R34). -/
def leastCount (h : Hard) : Nat := h.bat.tickFloor.toNat + 2 ^ 20

/-- Ignores a frame of `TB_LOAD` with its event (R33, R391). -/
def loadMismatch (h : Hard) (count : Word) (against : Nat) (b : Block) : Block := logEv h 0x090C 27 none 1 2 [aW8 count.toNat, aW8 against] b

/-- The counter is loaded: the islands' copies with it, and the operator's readings begin (R33, R35, R394). -/
def loadTicks (h : Hard) (count : Word) (b : Block) : Block :=
  let b := { b with clk := { b.clk with loaded := true, tick := count, loadTick := count } }
  let b := (allIslands h.cfg).foldl (fun b i => modIsland i (fun s => { s with copy := count, work := count }) b) b
  fetchBundle (setTel .operator (telStart TelemetryRec.finest count) b)

/-- A loaded counter lets TC record a zeroisation from before (R91). -/
def reportUnpowered (h : Hard) (b : Block) : Hard × Block :=
  if h.bat.unreported && b.clk.loaded then (let h := { h with bat := { h.bat with unreported := false } }; (h, tamperEvents h b)) else (h, b)

/-- TB_LOAD_FRAME (R33): the first good frame loads the counter; later frames are compared with it. -/
def execTbLoadFrame (count : Word) (crcOk : Bool) (s : State) : Host.Outcome State Fault Refusal :=
  onHB (fun h b =>
    if !b.up then (h, b)
    else if b.clk.loaded then (h, if crcOk && within count b.now 2 then b else loadMismatch h count b.now.toNat b)
    else if !crcOk then (h, b)
    else if count.toNat < leastCount h then (h, loadMismatch h count (leastCount h) b)
    else reportUnpowered h (loadTicks h count b)) s

/-- TICK_FLOOR_WRITE (R34): the count has passed a multiple of 2^20. -/
def execTickFloorWrite (s : State) : Host.Outcome State Fault Refusal :=
  onHB (fun h b =>
    if b.up && b.clk.loaded && !b.clk.lost && decide (h.bat.tickFloor.toNat / 2 ^ 20 < b.now.toNat / 2 ^ 20) then ({ h with bat := { h.bat with tickFloor := b.now } }, b)
    else (h, b)) s

/-- TB_SYNC (R35): at a multiple of 1,024 every island latches its copy, and TC sends the count after the strobe. -/
def execTbSync (s : State) : Host.Outcome State Fault Refusal :=
  onB (fun h => whenUp fun b =>
    if !b.clk.loaded || b.clk.lost || decide (b.now.toNat % 1024 ≠ 0) || decide (b.clk.strobes.head? = some b.now) then b
    else
      let b := { b with clk := { b.clk with strobes := (b.now :: b.clk.strobes).take 4 } }
      let b := (allIslands h.cfg).foldl (fun b i => modIsland i (fun s => { s with latched := ((b.now, s.copy) :: s.latched).take 4 }) b) b
      emits [.tbSync b.now, .kdrTick b.now] b) s

/-- The copy an island holds against the count `c`: that of the strobe of `c`, else the newest (R35). -/
def latchedCopy (st : IslandSt) (c : Word) : Option Word :=
  ((st.latched.find? fun x => decide (x.1 = c)).orElse fun _ => st.latched.head?).map fun x => x.2

/-- TICK_SYNC (R35, R129): a copy that differs suspends the island's pinned outputs and asks for its engine reset. -/
def execTickSync (isl : Island) (c : Word) (crcOk : Bool) (s : State) : Host.Outcome State Fault Refusal :=
  act (fun h b =>
    if !resettable h isl || (b.island isl).inReset then b
    else if !crcOk then clamp h 4 28 none [] b
    else match latchedCopy (b.island isl) c with
      | none => b
      | some v =>
        if v = c then b
        else
          let b := logEv h 0x090D (islandCode isl) none 1 3 [aW8 v.toNat, aW8 c.toNat] (modIsland isl (fun s => { s with suspended := true }) b)
          takeEngine h isl 0xFF none b) s

/-- The code of a loss (R391). -/
def lossKind : TbLoss → Nat | .noEdge => 1 | .rate => 2

/-- TIMEBASE_LOST (R36): every pinned output is held, egress but class 0 stops, and TC asks for a chip reset; a halted block ends in its own (R375). -/
def execTimebaseLost (kind : TbLoss) (s : State) : Host.Outcome State Fault Refusal :=
  onB (fun h => whenUp fun b =>
    if b.clk.lost then b
    else
      let b := logEv h 0x090E 27 none 3 3 [aByte (lossKind kind)] { b with clk := { b.clk with lost := true } }
      if b.rst.halted then b else settle h (takeChip h chipByTimebase 0xFF none b)) s

/-! ### The Shim (R37 to R40) -/

/-- The ME a staged read left. -/
def pinnedMe (b : Block) (x : Pinned) : Option Region := x.region.bind b.region

/-- The island holds the output back (R35, R36). -/
def heldBack (b : Block) (lane : Lane) (x : Pinned) : Bool :=
  b.clk.lost || (match lane with
    | .egress k => (b.island (portIsland k)).suspended
    | .ingress k => (b.island (portIsland k)).suspended
    | .read _ => (match pinnedMe b x with | some r => (b.island (.me r.me)).suspended | none => false))

/-- A slip: not ready at its pin, or a staging miss (R39, R256). -/
def Pinned.late (x : Pinned) : Bool := x.slipped || decide (x.pin.toNat < x.readyAt.toNat)

/-- The tick at which a ready output leaves (R38, R39): its pin; after a slip the first slot boundary of its partition's schedule at which it is ready. -/
def leaveAt (b : Block) (x : Pinned) : Nat :=
  let t := max x.readyAt.toNat x.pin.toNat
  if x.late = false then x.pin.toNat else match b.schedule x.part with | some sc => slotBoundary sc t | none => t

/-- The slip event, in the class of the island that owns the output (R39): pin and release tick. -/
def slipNote (h : Hard) (lane : Lane) (x : Pinned) (t : Word) (b : Block) : Block :=
  match lane with
  | .read _ => (match pinnedMe b x with | some r => memNote h 0x0505 r [aTick x.pin, aTick t] b | none => b)
  | .egress k => linkNote h 0x0404 x.part k (fun n => [aByte x.stream.toNat, aTick x.pin, aTick t, aCount n]) b
  | .ingress k => linkNote h 0x0404 x.part k (fun n => [aByte x.stream.toNat, aTick x.pin, aTick t, aCount n]) b

/-- An output leaves the Shim at tick `t`. -/
def releaseOne (h : Hard) (lane : Lane) (x : Pinned) (t : Nat) (b : Block) : Block :=
  let b := emits x.outs (endUse x.part x.use b)
  let b := if x.late then slipNote h lane x (BitVec.ofNat 64 t) b else b
  let b := match lane, x.veneer with
    | .ingress _, some r => veneerDelivered h x.part r b
    | _, _ => b
  push (.part x.part) b

/-- An output's pin has passed without it. -/
def slips (lane : Lane) (x : Pinned) (b : Block) : Block := { b with shim := b.shim.map fun y => if y = (lane, x) then (lane, { x with slipped := true }) else y }

/-- It would leave too late for its epoch (R193). -/
def tooLate (b : Block) (lane : Lane) (x : Pinned) (t : Nat) : Option Port :=
  match lane with
  | .egress k => if staleAt b x t then some k else none
  | _ => none

/-- One output of the lane whose pin has come: it leaves at its tick, it is late for its epoch, or it has slipped. -/
def releaseDue (h : Hard) (lane : Lane) (b : Block) (x : Pinned) : Block :=
  let t := if x.ready then leaveAt b x else b.now.toNat
  match tooLate b lane x t with
  | some k => dropStale h k x b
  | none => if x.ready ∧ t ≤ b.now.toNat then releaseOne h lane x t { b with shim := b.shim.erase (lane, x) } else slips lane x b

/-- The order in which outputs of one tick leave: partition, class, sequence number (R40). -/
def releaseKey (x : Pinned) : Nat := (x.part.val * 4 + x.cls.toNat) * 2 ^ 64 + x.seq

/-- SHIM_RELEASE (R38, R39, R40): what a lane holds past its pin; frames that waited for their key are sealed first, once it has come (R130). -/
def execShimRelease (lane : Lane) (s : State) : Host.Outcome State Fault Refusal :=
  act (fun h b =>
    let b := sealWaiting (fun l => decide (l = lane)) b
    let due := (b.shim.filter fun y => decide (y.1 = lane) && decide (y.2.pin.toNat ≤ b.now.toNat) && !heldBack b lane y.2).map fun y => y.2
    (sortBy releaseKey due).foldl (releaseDue h lane) b) s

/-! ### Sleep (R44) -/

/-- A scheduled slot of an entry begins within the next 10 µs. -/
def slotDue (sc : Schedule) (e : SchedEntry) (now : Nat) : Bool :=
  let cycle := sc.cycleSlots * sc.slotTicks
  decide (cycle = 0) || decide ((sc.cycleZero + e.slot * sc.slotTicks + cycle * (now / cycle + 1) - now) % cycle ≤ 10000)

/-- An output of the island is due within 10 µs: pinned, or of a slot about to begin. -/
def outputDue (b : Block) (i : Island) : Bool :=
  (b.shim.any fun x => decide (x.2.pin.toNat ≤ b.now.toNat + 10000) && (match x.1, i with
    | .egress k, .le n => decide (portLe k = n)
    | .ingress k, .le n => decide (portLe k = n)
    | .read _, .me n => (match pinnedMe b x.2 with | some r => decide (r.me = n) | none => false)
    | _, _ => false))
    || (match i with
      | .le n => allParts.any fun p => (match b.schedule p with | some sc => (b.entries p).any fun e => decide (e.port / 4 = n.val) && slotDue sc e b.now.toNat | none => false)
      | .me n => b.meparts.any fun e => decide (e.1 / 8 = n.val) && e.2.staging.any fun s => decide (s.dataTick.toNat ≤ b.now.toNat + 10000)
      | _ => false)

/-- A region stands on an ME. -/
def regionMe (b : Block) (rid : Nat) (n : Fin 8) : Bool := match b.region rid with | some r => decide (r.me = n) | none => false

/-- Work queued on the island or in its crossings. -/
def islandBusy (b : Block) (i : Island) : Bool :=
  let st := b.island i
  decide (st.reqs ≠ []) || decide (st.held ≠ []) || decide (st.groups ≠ []) || decide (st.grid.waiting ≠ []) || decide (st.grid.moved ≠ []) || decide (st.kdrIn ≠ []) || (match i with
    | .le n => (allPorts.any fun k => decide (portLe k = n) && decide (portQueues b k ≠ [])) || (b.lparts.any fun e => decide (e.1 / 8 = n.val) && decide (e.2.inbuf ≠ []))
    | .me n => (b.memReqs.any fun m => regionMe b m.region n) || (b.fetches.any fun f => regionMe b f.1 n) || (b.meparts.any fun e => decide (e.1 / 8 = n.val) && decide (e.2.fills ≠ [])) || (b.meparts.any fun e => decide (e.1 / 8 = n.val) && decide (e.2.slots ≠ []))
    | .hbe => (b.host.bounces.any fun e => decide (e.2.outq ≠ []) || decide (e.2.state = 1 ∧ e.2.h2dHead ≠ e.2.h2dTail)) || b.samplingAny
    | _ => false)

/-- An island may sleep: an LE, ME or the HBE, kept awake by no Jig, idle, with nothing due. -/
def maySleep (h : Hard) (b : Block) (i : Island) : Bool :=
  let st := b.island i
  (cipherIslands h.cfg).contains i && !st.asleep && !st.inReset && !(b.jigs.any fun j => j.2.keepAwake.getLsbD (shareIndex i)) && !islandBusy b i && !outputDue b i

/-- An ME writes its dirty entries back before it sleeps; those whose parents must be fetched first keep it awake (R255). Whether none is left. -/
def meWritten (n : Fin 8) (b : Block) : Bool × Block :=
  allParts.foldl (fun x p =>
    if Tab.has x.2.meparts (8 * n.val + p.val) then (let y := cleanOut n p (flushCache n p x.2); (x.1 && y.1, y.2)) else x) (true, b)

/-- An ME's staging and clean entries go with its supply. -/
def meEmptied (n : Fin 8) (b : Block) : Block :=
  allParts.foldl (fun b p => if Tab.has b.meparts (8 * n.val + p.val) then modMePart n p (fun m => { m with staging := [], cache := m.cache.filter (keepsEntry b) }) b else b) b

/-- What an island does before it sleeps, and whether it can. -/
def readyToSleep (i : Island) (b : Block) : Bool × Block :=
  match i with
  | .me n => let x := meWritten n b; if x.1 then (true, meEmptied n x.2) else x
  | _ => (true, b)

/-- ISLAND_SLEEP (R44, R366): the key cache is zeroed, the stub's state moves to retention registers; an ME writes its dirty entries back first. -/
def execIslandSleep (isl : Island) (s : State) : Host.Outcome State Fault Refusal :=
  act (fun h b =>
    if !maySleep h b isl then b
    else
      let x := readyToSleep isl b
      if x.1 then modIsland isl (fun s => { s with asleep := true, retained := true }) (cacheZero isl x.2) else x.2) s

/-- ISLAND_WAKE (R44, R366). -/
def execIslandWake (isl : Island) (s : State) : Host.Outcome State Fault Refusal :=
  act (fun h b => wakeIsland h isl b) s

end Sys2Proof.Machine
end

