-- ==== Sys2Proof/Machine/Flags.lean ====
section
/-! DEFINITION. The states and busy flags that registers compute from the rest of the state (R83, R118, R243, R389). -/

namespace Sys2Proof.Machine

/-- `SWY_TCM_JIG_STATE_n.STATE` (R83). -/
def jigStateCode (s : PartSt) : Nat :=
  if s.state = 0 then 0
  else match s.jig with
    | none => if s.verifying then 2 else 1
    | some _ => match s.pending with | some x => if x.committed then 5 else 4 | none => 3

/-- The zeroing engine has a slot to work on (R118): orphaned, its kills acknowledged. -/
def zeroBusy (b : Block) : Bool := b.ks.slots.any fun e => decide (e.2.attr.st = 3) && !(b.ks.invals.any fun v => v.waits.any fun w => decide (w.2.toNat = e.1))

/-- `SWY_RST_STAT_n.STATE` (R389). -/
def rstStateCode (b : Block) (p : Part) : Nat :=
  if b.rst.halted then 5
  else if (b.part p).held then 4
  else if b.runs (.partition p) then 3
  else if b.rst.running.any fun r => match r.scope with | .engine i => (partsOn b i).contains p | _ => false then 2
  else if b.rst.running.any fun r => match r.scope with | .context q _ => decide (q = p) | _ => false then 1 else 0

/-- `SWY_LE_VN_STAT_n_p.OPEN` (R243): blocks sent whose results are not yet delivered. -/
def openBlocks (g : VGroup) : Nat := (g.steps.map fun s => (s.sent.filter fun k => !s.delivered.contains k).length).sum

end Sys2Proof.Machine
end

