-- ==== Sys2Proof/Machine/HostRegs.lean ====
section
/-! DEFINITION. The block window (R403 to R410): which register an offset names, what a read of it returns, what a write does (R6, R7), and when the pages answer (R371, R404, R407). -/

namespace Sys2Proof.Machine

/-! ### Layout (R403, R409) -/

/-- The registers, with their indices in the order of their names (R408). -/
inductive Reg where
  | glbId | glbConfig
  | lcState | lcTamper | lcReq | lcAddr | lcStat | lcBoot
  | jigState (n : Part) | jigReject (n : Part) | mboxCmd (n : Part) | mboxStat (n : Part) | mboxData (n : Part) (k : Nat)
  | ksPstat (n : Part) | ksSel (n : Part) | ksAttr (n : Part) | ksUse (n : Part) | ksGlobal
  | icPctl (o : Owner) | icPstat (o : Owner) | icDone (o : Owner) | icSel (o : Owner) | icSrc (o : Owner) | icSetpend (o : Owner) | icStray
  | logPtr (o : Owner) | logData (o : Owner) (k : Nat) | logStat (o : Owner)
  | telEnv (o : Owner) | telTick (o : Owner) | telCfg (o : Owner)
  | rstReq (n : Part) | rstStat (n : Part) | rstDump (n : Part) | rstRange (n : Part) (k : Nat) | rstDumpStat (n : Part)
  | rstOp | rstChip | rstCompat | rstSupply
  | portCtl (k : Port) | portStat (k : Port) | patCtl (k : Port) | patStat (k : Port) | patCount (k : Port)
  | leShape (k : Port) (p : Part) | lePstat (k : Port) (p : Part) | lePcnt (k : Port) (p : Part)
  | qsel (n : Fin 16) (p : Part) | qsamp (n : Fin 16) (p : Part) | qmax (n : Fin 16) (p : Part) | leEpoch (n : Fin 16) (p : Part)
  | vnSel (n : Fin 16) (p : Part) | vnStat (n : Fin 16) (p : Part) | vnCnt (n : Fin 16) (p : Part)
  | schedStat (i : Island) | mismatchCnt (i : Island) | gridSel (i : Island) | gridOwner (i : Island)
  | meStat (n : Fin 8) | mePlane (n : Fin 8) (p : Part) | mePcnt (n : Fin 8) (p : Part) | meCache (n : Fin 8) (p : Part) | meScrub (n : Fin 8) (p : Part)
  | hbeStat | hbeSlice (k : Fin 64) | hbeQuota (k : Fin 64)
  | bwH2dTail (w : BitVec 6) | bwD2hHead (w : BitVec 6) | bwPtr (w : BitVec 6) | bwState (w : BitVec 6)
  | fringBase (p : Part) | fringPtr (p : Part) | fdone (p : Part) | fstat (p : Part) | ptuEpoch (p : Part) | ptuCache (p : Part) | pinSel (p : Part) | pinReg (p : Part) | ptuStat
  | xctl (p : Part) | ahuTags (p : Part) | ahuRetx (p : Part) | ahuAtom (p : Part) | ahuFence (p : Part) | ahuKeeper (p : Part) | ahuStat
  | partStat (n : Part) | partQnew (n : Part) | partQsqb (n : Part) | partQcqb (n : Part) | partQres (n : Part) | relayDb (n : Part)
  | qSqTail (q : BitVec 8) | qCqHead (q : BitVec 8) | qPtr (q : BitVec 8) | qState (q : BitVec 8)
  deriving DecidableEq, Repr

/-- The LC page. -/
def lcReg : Nat → Option Reg
  | 0x00 => some .lcState | 0x08 => some .lcTamper | 0x10 => some .lcReq | 0x18 => some .lcAddr | 0x20 => some .lcStat | 0x28 => some .lcBoot
  | _ => none

/-- Page n of the TCM. -/
def tcmReg (n : Part) (a : Nat) : Option Reg :=
  if 0x800 ≤ a ∧ a < 0x1000 then some (.mboxData n ((a - 0x800) / 8))
  else match a with
    | 0x00 => some (.jigState n) | 0x08 => some (.jigReject n) | 0x10 => some (.mboxCmd n) | 0x18 => some (.mboxStat n) | _ => none

/-- Page n of the key store. -/
def ksReg (n : Part) : Nat → Option Reg
  | 0x00 => some (.ksPstat n) | 0x08 => some (.ksSel n) | 0x10 => some (.ksAttr n) | 0x18 => some (.ksUse n) | _ => none

/-- A page of the interrupt controller. -/
def icReg (o : Owner) : Nat → Option Reg
  | 0x00 => some (.icPctl o) | 0x08 => some (.icPstat o) | 0x10 => some (.icDone o) | 0x18 => some (.icSel o) | 0x20 => some (.icSrc o) | 0x28 => some (.icSetpend o)
  | 0x30 => if o = .operator then some .icStray else none
  | _ => none

/-- A page of the trouble log. -/
def logReg (o : Owner) : Nat → Option Reg
  | 0x00 => some (.logPtr o) | 0x08 => some (.logData o 0) | 0x10 => some (.logData o 1) | 0x18 => some (.logData o 2) | 0x20 => some (.logData o 3) | 0x28 => some (.logStat o)
  | _ => none

/-- A page of telemetry. -/
def telReg (o : Owner) : Nat → Option Reg
  | 0x00 => some (.telEnv o) | 0x08 => some (.telTick o) | 0x10 => some (.telCfg o) | _ => none

/-- Page n of the resets. -/
def rstReg (n : Part) : Nat → Option Reg
  | 0x00 => some (.rstReq n) | 0x08 => some (.rstStat n) | 0x10 => some (.rstDump n) | 0x18 => some (.rstRange n 0) | 0x20 => some (.rstRange n 1) | 0x28 => some (.rstRange n 2)
  | 0x30 => some (.rstRange n 3) | 0x38 => some (.rstDumpStat n) | _ => none

/-- The operator page of the resets. -/
def rstOpReg : Nat → Option Reg
  | 0x00 => some .rstOp | 0x08 => some .rstChip | 0x10 => some .rstCompat | 0x18 => some .rstSupply | _ => none

/-- A scheduler page. -/
def schedReg (i : Island) : Nat → Option Reg
  | 0x00 => some (.schedStat i) | 0x08 => some (.mismatchCnt i) | 0x10 => some (.gridSel i) | 0x18 => some (.gridOwner i) | _ => none

/-- The port page of LE n. -/
def lePortReg (n : Fin 16) (a : Nat) : Option Reg :=
  if 0x100 ≤ a then none
  else
    let k : Port := Fin.ofNat 64 (4 * n.val + a / 0x40)
    match a % 0x40 with
    | 0x00 => some (.portCtl k) | 0x08 => some (.portStat k) | 0x10 => some (.patCtl k) | 0x18 => some (.patStat k) | 0x20 => some (.patCount k) | _ => none

/-- Page p of LE n. -/
def lePartReg (n : Fin 16) (p : Part) (a : Nat) : Option Reg :=
  if a < 0x100 then
    let k : Port := Fin.ofNat 64 (4 * n.val + a / 0x40)
    match a % 0x40 with
    | 0x00 => some (.leShape k p) | 0x08 => some (.lePstat k p) | 0x10 => some (.lePcnt k p) | _ => none
  else match a with
    | 0x800 => some (.qsel n p) | 0x808 => some (.qsamp n p) | 0x810 => some (.qmax n p) | 0x818 => some (.leEpoch n p)
    | 0xC00 => some (.vnSel n p) | 0xC08 => some (.vnStat n p) | 0xC10 => some (.vnCnt n p) | _ => none

/-- The window of LE n, by page. -/
def leReg (n : Fin 16) (page a : Nat) : Option Reg :=
  if page = 0 then lePortReg n a else if page ≤ 8 then lePartReg n (Fin.ofNat 8 (page - 1)) a else if page = 15 then schedReg (.le n) a else none

/-- The window of ME n, by page. -/
def meReg (n : Fin 8) (page a : Nat) : Option Reg :=
  if page = 0 then (if a = 0 then some (.meStat n) else none)
  else if page ≤ 8 then
    let p : Part := Fin.ofNat 8 (page - 1)
    match a with
    | 0x00 => some (.mePlane n p) | 0x08 => some (.mePcnt n p) | 0x10 => some (.meCache n p) | 0x18 => some (.meScrub n p) | _ => none
  else if page = 15 then schedReg (.me n) a else none

/-- The HBE window, by page. -/
def hbeReg (page a : Nat) : Option Reg :=
  if page = 0 then
    if a = 0 then some .hbeStat
    else if a < 0x800 ∨ 0xC00 ≤ a then none
    else
      let k : Fin 64 := Fin.ofNat 64 ((a - 0x800) / 0x10)
      if a % 0x10 = 0 then some (.hbeSlice k) else some (.hbeQuota k)
  else if page = 15 then schedReg .hbe a
  else if 16 ≤ page ∧ page < 80 then
    let w : BitVec 6 := BitVec.ofNat 6 (page - 16)
    match a with
    | 0x00 => some (.bwH2dTail w) | 0x08 => some (.bwD2hHead w) | 0x10 => some (.bwPtr w) | 0x18 => some (.bwState w) | _ => none
  else none

/-- Page p of the PTU, and of the AHU. -/
def ptuReg (p : Part) : Nat → Option Reg
  | 0x00 => some (.fringBase p) | 0x08 => some (.fringPtr p) | 0x10 => some (.fdone p) | 0x18 => some (.fstat p) | 0x20 => some (.ptuEpoch p) | 0x28 => some (.ptuCache p)
  | 0x30 => some (.pinSel p) | 0x38 => some (.pinReg p) | _ => none
def ahuReg (p : Part) : Nat → Option Reg
  | 0x00 => some (.xctl p) | 0x08 => some (.ahuTags p) | 0x10 => some (.ahuRetx p) | 0x18 => some (.ahuAtom p) | 0x20 => some (.ahuFence p) | 0x28 => some (.ahuKeeper p) | _ => none

/-- Page n of the partitions. -/
def partReg' (n : Part) : Nat → Option Reg
  | 0x00 => some (.partStat n) | 0x08 => some (.partQnew n) | 0x10 => some (.partQsqb n) | 0x18 => some (.partQcqb n) | 0x20 => some (.partQres n) | 0x28 => some (.relayDb n) | _ => none

/-- Doorbell page q. -/
def qReg (q : BitVec 8) : Nat → Option Reg
  | 0x00 => some (.qSqTail q) | 0x08 => some (.qCqHead q) | 0x10 => some (.qPtr q) | 0x18 => some (.qState q) | _ => none

/-- A group of eight partition pages and an operator page. -/
def ninePages (page : Nat) (f : Part → Option Reg) (g : Option Reg) : Option Reg := if page < 8 then f (Fin.ofNat 8 page) else if page = 8 then g else none
def ninePagesOf (page : Nat) (f : Owner → Option Reg) : Option Reg := ninePages page (fun p => f (.part p)) (f .operator)

/-- The register at a block offset that is a multiple of 8: none where R404 applies. -/
def regAt (off : Nat) : Option Reg :=
  let page := off / 0x1000
  let a := off % 0x1000
  if page = 0 then (match a with | 0x00 => some .glbId | 0x08 => some .glbConfig | _ => none)
  else if page = 1 then lcReg a
  else if page < 10 then tcmReg (Fin.ofNat 8 (page - 2)) a
  else if page < 0x10 then none
  else if page < 0x20 then ninePages (page - 0x10) (fun p => ksReg p a) (if a = 0 then some .ksGlobal else none)
  else if page < 0x30 then ninePagesOf (page - 0x20) (fun o => icReg o a)
  else if page < 0x50 then ninePagesOf (page - 0x30) (fun o => logReg o a)
  else if page < 0x60 then ninePagesOf (page - 0x50) (fun o => telReg o a)
  else if page < 0x100 then ninePages (page - 0x60) (fun p => rstReg p a) (rstOpReg a)
  else if page < 0x200 then leReg (Fin.ofNat 16 ((page - 0x100) / 16)) (page % 16) a
  else if page < 0x280 then meReg (Fin.ofNat 8 ((page - 0x200) / 16)) (page % 16) a
  else if page < 0x300 then hbeReg (page - 0x280) a
  else if page < 0x380 then ninePages (page - 0x300) (fun p => ptuReg p a) (if a = 0 then some .ptuStat else none)
  else if page < 0x400 then ninePages (page - 0x380) (fun p => ahuReg p a) (if a = 0 then some .ahuStat else none)
  else if page < 0x600 then (if page % 64 = 0 then partReg' (Fin.ofNat 8 ((page - 0x400) / 64)) a else none)
  else if 0x800 ≤ page ∧ page < 0x900 then qReg (BitVec.ofNat 8 (page - 0x800)) a
  else none

/-! ### When a register answers (R3, R106, R371, R407) -/

/-- The island whose page holds the register. -/
def regIsland : Reg → Option Island
  | .portCtl k | .portStat k | .patCtl k | .patStat k | .patCount k | .leShape k _ | .lePstat k _ | .lePcnt k _ => some (portIsland k)
  | .qsel n _ | .qsamp n _ | .qmax n _ | .leEpoch n _ | .vnSel n _ | .vnStat n _ | .vnCnt n _ => some (.le n)
  | .schedStat i | .mismatchCnt i | .gridSel i | .gridOwner i => some i
  | .meStat n | .mePlane n _ | .mePcnt n _ | .meCache n _ | .meScrub n _ => some (.me n)
  | .hbeStat | .hbeSlice _ | .hbeQuota _ | .bwH2dTail _ | .bwD2hHead _ | .bwPtr _ | .bwState _ => some .hbe
  | .fringBase _ | .fringPtr _ | .fdone _ | .fstat _ | .ptuEpoch _ | .ptuCache _ | .pinSel _ | .pinReg _ | .ptuStat => some .ptu
  | .xctl _ | .ahuTags _ | .ahuRetx _ | .ahuAtom _ | .ahuFence _ | .ahuKeeper _ | .ahuStat => some .ahu
  | _ => none

/-- The port whose absence takes the register away (R3, R211). -/
def regPort : Reg → Option Port
  | .portCtl k | .portStat k | .patCtl k | .patStat k | .patCount k | .leShape k _ | .lePstat k _ | .lePcnt k _ => some k
  | _ => none

/-- The registers that answer before a patch runs (R106): none but the LC page and the configuration. -/
def romReg : Reg → Bool
  | .lcState | .lcTamper | .lcReq | .lcAddr | .lcStat | .lcBoot | .glbConfig => true
  | _ => false

/-- The registers that answer while the block is halted (R371). -/
def haltedReg : Reg → Bool
  | .glbId | .glbConfig | .lcState | .lcTamper | .lcReq | .lcAddr | .lcStat | .lcBoot => true
  | .icPctl _ | .icPstat _ | .icDone _ | .icSel _ | .icSrc _ | .icSetpend _ | .icStray | .logPtr _ | .logData .. | .logStat _ => true
  | .rstReq _ | .rstStat _ | .rstDump _ | .rstRange .. | .rstDumpStat _ | .rstOp | .rstChip | .rstCompat | .rstSupply => true
  | _ => false

/-- The register answers. -/
def answers (h : Hard) (b : Block) (r : Reg) : Bool :=
  b.up && (romReg r || decide (b.lc.bootState = 2)) && (haltedReg r || !b.rst.halted)
    && (match regPort r with | some k => portPresent h.cfg k | none => true)
    && (match regIsland r with | some i => islandPresent h.cfg i && !(b.island i).inReset | none => true)

/-- The access wakes the register's island (R407). -/
def wakeFor (h : Hard) (r : Reg) (b : Block) : Block := match regIsland r with | some i => wakeIsland h i b | none => b

/-! ### Reads -/

/-- `SWY_GLB_CONFIG` (R2). -/
def configWord (c : Cfg) : Word :=
  wordOf [(48, 8, islClk c), (44, 1, bit (icPap c)), (32, 12, coreCount c), (24, 7, portCount c), (20, 2, 1), (16, 4, meCount c), (8, 5, leCount c), (0, 4, cfgCode c)]

/-- `SWY_GLB_ID` (R405). -/
def idWord : Word := wordOf [(32, 32, 0x57595753), (28, 4, Config.siliconRev.toNat), (12, 16, 0x5A17), (8, 4, 1)]

/-- The LC page but for its state (R108). -/
def lcTamperWord (h : Hard) : Word := wordOf [(40, 8, h.bat.latch.toNat), (32, 8, if h.bat.latch = 0 then 0xFF else h.bat.first.toNat), (8, 24, h.bat.zeroCount.toNat)]
def lcReqWord (l : Lc) : Word := wordOf [(63, 1, bit l.go), (16, 24, l.len.toNat), (8, 8, l.arg.toNat), (0, 8, l.op.toNat)]
def lcStatWord (l : Lc) : Word := wordOf [(24, 24, l.size.toNat), (8, 8, l.err.toNat), (2, 1, bit l.overrun), (1, 1, bit l.error), (0, 1, bit l.done)]
def lcBootWord (l : Lc) : Word := wordOf [(12, 52, l.bundle.toNat), (8, 4, l.bootState.toNat), (0, 8, l.bootErr.toNat)]

/-- The TCM's page n (R83). -/
def jigStateWord (s : PartSt) : Word :=
  match s.jig with
  | none => wordOf [(0, 4, jigStateCode s)]
  | some j => wordOf [(32, 32, j.serial.toNat), (16, 16, j.memberIndex.toNat), (0, 4, jigStateCode s)]
def jigRejectWord (s : PartSt) : Word := wordOf [(48, 16, s.rejType.toNat), (24, 24, s.rejOffset.toNat), (0, 16, s.rejReason.toNat)]
def mboxCmdWord (m : Mbox) : Word := wordOf [(63, 1, bit m.go), (16, 32, m.arg.toNat), (0, 8, m.op.toNat)]
def mboxStatWord (m : Mbox) : Word := wordOf [(16, 16, m.words.length), (2, 1, bit m.overrun), (1, 1, bit m.error), (0, 1, bit m.done)]

/-- The key store's page n (R133). -/
def slotsOwned (b : Block) (p : Part) (f : BitVec 2 → Bool) : Nat := Tab.count b.ks.slots fun _ k => decide (k.attr.owner.toNat = p.val) && f k.attr.st
def ksPstatWord (b : Block) (p : Part) : Word :=
  wordOf [(36, 12, slotsOwned b p fun s => decide (s = 1 ∨ s = 2)), (24, 12, slotsOwned b p fun s => decide (s = 3)),
    (16, 8, Tab.count b.ks.repls fun n _ => decide ((b.slot n).attr.owner.toNat = p.val))]
def selSlot (b : Block) (p : Part) : Nat := (Tab.getD b.ks.sel p.val 0).toNat
def ownSel (b : Block) (p : Part) : Bool := Tab.has b.ks.slots (selSlot b p) && decide ((b.slot (selSlot b p)).attr.owner.toNat = p.val)
/-- `SWY_KS_GLOBAL` (R133). -/
def ksGlobalWord (b : Block) : Word :=
  wordOf [(32, 12, 4032 - Tab.count b.ks.slots fun n k => decide (64 ≤ n ∧ k.attr.st ≠ 0)), (16, 12, b.orphans), (0, 1, bit (zeroBusy b))]

/-- The interrupt controller's pages (R368). -/
def ownedSrcs (h : Hard) (b : Block) (o : Owner) (f : Src → Bool) : Nat := ((List.range 421).filter fun x => let s := b.src h.cfg x; decide (s.owner = some o) && f s).length
def icPstatWord (h : Hard) (b : Block) (o : Owner) : Word :=
  wordOf [(32, 32, (b.icPage (ownerKey o)).stray.toNat), (21, 11, ownedSrcs h b o fun s => decide (s.state = 1 ∨ s.state = 3)), (10, 11, ownedSrcs h b o fun s => decide (s.state = 2 ∨ s.state = 3))]
def icSrcWord (h : Hard) (b : Block) (o : Owner) : Word :=
  let x := (b.icPage (ownerKey o)).sel.toNat
  let s := b.src h.cfg x
  if s.owner ≠ some o then 0
  else wordOf [(63, 1, 1), (44, 11, s.vector.toNat), (8, 2, s.prio.toNat), (6, 1, bit s.mask), (5, 1, bit s.cond), (4, 1, bit (srcIsLevel x)), (0, 2, s.state.toNat)]

/-- Telemetry (R395). -/
def telEnvWord (t : TelOwner) : Word := wordOf [(48, 16, t.power.toNat), (32, 16, t.temp.toNat), (30, 2, t.throttle.toNat), (0, 16, t.seq.toNat)]
def telCfgWord (t : TelOwner) : Word := wordOf [(24, 8, t.cfg.throttlePeriod), (16, 8, t.cfg.tempStep), (8, 8, t.cfg.powerAvg), (0, 8, t.cfg.powerStep)]

/-- The pages of the resets (R389). -/
def rstReqWord (r : RstPart) : Word := wordOf [(63, 1, bit r.go), (16, 16, r.engine.toNat), (0, 2, r.level.toNat)]
def rstStatWord (b : Block) (p : Part) : Word := wordOf [(32, 32, (b.rstPart p).resets.toNat), (4, 4, (b.rstPart p).lastLevel.toNat), (0, 4, rstStateCode b p)]
def rstDumpStatWord (r : RstPart) : Word := wordOf [(48, 4, r.dumpResult.toNat), (32, 16, r.dumpCount.toNat), (0, 32, r.dumpBytes.toNat)]
def rstCompatWord (b : Block) : Word :=
  wordOf [(63, 1, bit b.rst.compat.oos), (62, 1, bit b.rst.compat.active), (40, 8, b.rst.compat.count.toNat), (24, 16, b.rst.compat.window.toNat), (8, 8, satNat 8 b.inWindow)]

/-- A port's page (R211). -/
def portCtlWord (x : PortSt) : Word := wordOf [(32, 8, x.c0Burst.toNat), (24, 8, x.c0Rate.toNat), (16, 8, x.overhead.toNat), (8, 1, bit x.lenMode), (0, 2, x.modeReg.toNat)]
def portStatWord (x : PortSt) : Word :=
  wordOf [(32, 32, x.malformed.toNat), (8, 24, x.noPart.toNat), (2, 1, bit x.drain.isSome), (1, 1, bit (decide (2 ≤ x.mode.toNat))), (0, 1, bit x.linkUp)]
def patCtlWord (x : PortSt) : Word :=
  wordOf [(32, 16, x.bgRate.toNat), (24, 4, x.keySlot.toNat), (16, 1, bit x.inject), (8, 2, x.pattern.toNat), (1, 1, bit x.chkEn), (0, 1, bit x.genEn)]
def patStatWord (x : PortSt) : Word := wordOf [(32, 32, x.bitErr.toNat), (16, 16, x.tagFail.toNat), (4, 12, x.missing.toNat), (1, 1, bit x.refused), (0, 1, bit x.lock)]

/-- A partition's page on an LE (R212). -/
def lePstatWord (x : PortPart) : Word := wordOf [(48, 16, x.tagFail.toNat), (32, 16, x.replay.toNat), (16, 16, x.epochRej.toNat), (0, 16, x.other.toNat)]
def sampleWord (x : QSample) : Word := wordOf [(40, 24, x.depth.toNat), (16, 24, x.delay.toNat), (0, 16, x.seq.toNat)]
def leEpochWord (h : Hard) (b : Block) (n : Fin 16) (p : Part) : Word :=
  let l := b.lePart n p
  let e := b.epochSt p
  let hold := allPorts.any fun k => decide (portLe k = n) && portPresent h.cfg k && b.held p k
  wordOf [(40, 24, e.epoch.toNat), (33, 1, bit e.kerf), (32, 1, bit hold), (16, 16, (l.records.filter fun r => decide (r.st = 0)).length), (0, 16, (l.records.filter fun r => decide (r.st = 2)).length)]

/-- Veneer's registers (R243). -/
def vnStatWord (b : Block) (n : Fin 16) (p : Part) : Word :=
  let id := (b.lePart n p).vnSel
  match b.vgeo p id with
  | none => 0
  | some v =>
    if v.home ≠ n.val then 0
    else match b.vgroup p id with
      | none => wordOf [(24, 4, 1)]
      | some g => wordOf [(32, 32, (g.newest.getD 0) % 2 ^ 32), (24, 4, g.state.toNat), (20, 4, g.cause.toNat), (0, 16, satNat 16 (openBlocks g))]
def vnCntWord (b : Block) (n : Fin 16) (p : Part) : Word :=
  let id := (b.lePart n p).vnSel
  match b.vgeo p id, b.vgroup p id with
  | some v, some g => if v.home ≠ n.val then 0 else wordOf [(40, 24, g.sat.toNat), (24, 16, g.tagFail.toNat), (8, 16, g.discard.toNat), (0, 8, g.late.toNat)]
  | _, _ => 0

/-- A scheduler page (R186). -/
def schedStatWord (h : Hard) (b : Block) (i : Island) : Word :=
  wordOf [(40, 8, shareSum b i), (32, 6, coresOf h.cfg i), (24, 8, columnsOf h.cfg i), (16, 1, bit (b.inWarning i)), (0, 16, (b.island i).grid.gen.toNat)]
def mismatchWord (s : IslandSt) : Word := wordOf [(40, 24, s.mmFirst.toNat), (24, 16, s.mmRecomp.toNat), (8, 16, s.mmDisp.toNat), (0, 8, s.mmForced.toNat)]
def gridWord (c : Cfg) (i : Island) (s : IslandSt) : Word :=
  let w := columnsOf c i
  BitVec.ofNat 64 (if s.selCore.toNat < coresOf c i ∧ s.selColumn.toNat < w then cellOwner s.grid.cells w s.selCore.toNat s.selColumn.toNat else noOwner)

/-- The largest k in [lo, hi) whose region of k × 2 MiB fits in `gap` bytes. -/
def fitSearch (gap : Nat) : Nat → Nat → Nat → Nat
  | 0, lo, _ => lo
  | fuel + 1, lo, hi =>
    if hi ≤ lo + 1 then lo
    else
      let mid := (lo + hi) / 2
      if alignTo (footprintOf (512 * mid)) twoMiB ≤ gap then fitSearch gap fuel mid hi else fitSearch gap fuel lo mid
/-- `SWY_ME_STAT_n` (R274): nothing fits on a stack that is not trained. -/
def meStatWord (s : MeSt) : Word :=
  let gap := largestGap (s.placed.filter fun f => !f.pool) 0
  let raw := ((s.placed.filter fun f => f.clearing && !f.pool).map fun f => f.size).sum
  wordOf [(40, 24, if s.ready then 2 * fitSearch gap 17 0 65536 else 0), (16, 24, (raw + 1048575) / 1048576), (1, 1, bit (s.placed.any fun f => f.clearing)), (0, 1, bit s.ready)]
def mePcntWord (m : MePart) : Word := wordOf [(48, 16, m.corrected.toNat), (32, 16, m.uncorr.toNat), (16, 16, m.slips.toNat), (0, 16, m.reenc.toNat)]

/-- The HBE's pages (R354). -/
def hbeStatWord (b : Block) : Word :=
  wordOf [(32, 7, (b.host.bounces.filter fun e => decide (e.2.state = 1)).length), (16, 9, (b.host.queues.filter fun e => decide (e.2.state = 1)).length), (0, 7, (b.host.slices.filter fun e => e.2.valid).length)]
def sliceWord (s : Slice) : Word := wordOf [(63, 1, bit s.valid), (24, 3, s.part.toNat), (0, 20, s.pasid.toNat)]
def quotaWord (s : Slice) : Word := wordOf [(54, 7, s.bw.toNat), (39, 15, s.fence.toNat), (28, 11, s.rgn.toNat), (19, 9, s.q.toNat)]
def bwPtrWord (x : Option Bounce) : Word := match x with | some x => wordOf [(32, 32, x.h2dHead.toNat), (0, 32, x.d2hTail.toNat)] | none => 0
def bwStateWord (b : Block) (w : BitVec 6) : Word :=
  let gen := (Tab.getD b.host.bwGen w.toNat 0).toNat
  match b.bounce w with
  | some x => wordOf [(40, 3, x.part.val), (24, 16, x.host.toNat), (20, 4, x.cause.toNat), (16, 4, x.state.toNat), (0, 16, gen)]
  | none => wordOf [(0, 16, gen)]

/-- A partition's page of the PTU (R324). -/
def fstatWord (b : Block) (x : PtuPart) : Word :=
  wordOf [(63, 1, bit x.overflow), (62, 1, bit x.dmaErr), (32, 11, (x.stalls.take stallCap).length), (0, 32, satNat 32 (((x.stalls.take stallCap).map fun q => since b q.since / 1000).foldl max 0))]
def ptuEpochWord (x : PtuPart) : Word :=
  wordOf [(48, 16, x.epoch.toNat), (45, 3, (x.uses.filter fun u => decide (u.1 = x.epoch) || decide (0 < u.2)).length), (0, 32, satNat 32 ((x.uses.filter fun u => decide (u.1 ≠ x.epoch)).map fun u => u.2).sum)]
def pinWord (x : PtuPart) : Word :=
  let pin := x.pins.find? fun e => e.names x.selKind x.selDest
  let cur := (x.chosen.find? fun e => e.names x.selKind x.selDest).orElse fun _ => pin
  wordOf [(63, 1, bit pin.isSome), (8, 6, match pin with | some e => e.port.val | none => 0), (0, 8, match cur with | some e => satNat 8 (destsOn x e.port) | none => 0)]
def ptuStatWord (b : Block) : Word := wordOf [(32, 15, (b.ptu.map fun e => e.2.cache.length).sum), (0, 14, (b.ptu.map fun e => (e.2.stalls.take stallCap).length).sum)]

/-- A partition's page of the AHU (R304). -/
def xctlWord (a : AhuPart) : Word := wordOf [(32, 16, a.trayNode.toNat), (16, 1, bit a.trayValid), (8, 8, a.atomLimit.toNat), (0, 8, a.rto.toNat)]
def quarTags (a : AhuPart) : Nat := Tab.count a.tags fun _ t => decide (t.kind = 2)
def tagsWord (a : AhuPart) : Word := wordOf [(40, 12, a.tags.length), (28, 12, quarTags a), (16, 12, a.peak)]
def ahuStatWord (b : Block) : Word := wordOf [(32, 15, (b.ahu.map fun e => e.2.tags.length).sum), (0, 15, (b.ahu.map fun e => quarTags e.2).sum)]

/-- A partition's page (R355): its region objects, the table region among them (R309). -/
def partStatWord (b : Block) (p : Part) : Word :=
  wordOf [(51, 9, Tab.count b.host.queues fun _ q => decide (q.part = p)), (40, 11, Tab.count b.regions fun _ r => decide (r.part = p)),
    (25, 15, Tab.count b.host.fences fun _ f => decide (f.part = p)), (18, 7, Tab.count b.host.bounces fun _ x => decide (x.part = p)), (0, 2, (b.part p).state.toNat)]
def qnewWord (s : PartSt) : Word := wordOf [(44, 11, s.qVector.toNat), (40, 4, s.qCqLog.toNat), (36, 4, s.qSqLog.toNat), (12, 20, s.qPasid.toNat)]
def baseWord (v : BitVec 52) : Word := wordOf [(12, 52, v.toNat)]
def qStateWord (q : Option Queue) : Word :=
  match q with
  | some q => wordOf [(16, 16, q.flight.length), (9, 1, bit (decide (q.held ≠ []))), (8, 1, bit q.tailErr), (0, 2, q.state.toNat)]
  | none => 0

/-- What a read of a register returns, its side effect aside. -/
def regValue (h : Hard) (b : Block) : Reg → Word
  | .glbId => idWord
  | .glbConfig => configWord h.cfg
  | .lcState => lcStateWord h b
  | .lcTamper => lcTamperWord h
  | .lcReq => lcReqWord b.lc
  | .lcAddr => b.lc.addr
  | .lcStat => lcStatWord b.lc
  | .lcBoot => lcBootWord b.lc
  | .jigState n => jigStateWord (b.part n)
  | .jigReject n => jigRejectWord (b.part n)
  | .mboxCmd n => mboxCmdWord (b.part n).mbox
  | .mboxStat n => mboxStatWord (b.part n).mbox
  | .mboxData n k => (b.part n).mbox.words.getD k 0
  | .ksPstat n => ksPstatWord b n
  | .ksSel n => (Tab.getD b.ks.sel n.val 0).setWidth 64
  | .ksAttr n => if ownSel b n then attrWord (b.slot (selSlot b n)).attr else 0
  | .ksUse n => if ownSel b n then BitVec.ofNat 64 (b.slot (selSlot b n)).count else 0
  | .ksGlobal => ksGlobalWord b
  | .icPctl o => wordOf [(63, 1, bit (b.icPage (ownerKey o)).pmask), (0, 2, (b.icPage (ownerKey o)).thresh.toNat)]
  | .icPstat o => icPstatWord h b o
  | .icSel o => (b.icPage (ownerKey o)).sel.setWidth 64
  | .icSrc o => icSrcWord h b o
  | .icStray => b.ic.strayTotal.setWidth 64
  | .logPtr o => wordOf [(32, 32, (b.logPage (ownerKey o)).wr.toNat), (0, 32, (b.logPage (ownerKey o)).rd.toNat)]
  | .logData o k => b.logWord (ownerKey o) k
  | .logStat o => wordOf [(32, 32, (b.logPage (ownerKey o)).lost.toNat), (0, 1, bit (b.logPage (ownerKey o)).gone)]
  | .telEnv o => telEnvWord (b.telOf o)
  | .telTick o => (b.telOf o).tick
  | .telCfg o => telCfgWord (b.telOf o)
  | .rstReq n => rstReqWord (b.rstPart n)
  | .rstStat n => rstStatWord b n
  | .rstDump n => wordOf [(12, 52, (b.rstPart n).dumpBase.toNat), (0, 1, bit (b.rstPart n).dumpEn)]
  | .rstRange n k => (b.rstPart n).ranges.getD k 0
  | .rstDumpStat n => rstDumpStatWord (b.rstPart n)
  | .rstOp => wordOf [(8, 4, b.rst.opLevel.toNat), (0, 8, b.rst.opIsland.toNat)]
  | .rstChip => wordOf [(56, 8, b.rst.chipCause.toNat), (48, 8, b.rst.chipClamp.toNat), (0, 48, b.rst.chipTick.toNat)]
  | .rstCompat => rstCompatWord b
  | .rstSupply => wordOf [(32, 32, b.sup.warnCount.toNat), (8, 5, b.sup.tripLast.toNat), (0, 5, b.sup.warn.toNat)]
  | .portCtl k => portCtlWord (b.port k)
  | .portStat k => portStatWord (b.port k)
  | .patCtl k => patCtlWord (b.port k)
  | .patStat k => patStatWord (b.port k)
  | .patCount k => (b.port k).frames
  | .leShape k p => wordOf [(32, 8, (b.portPart k p).c3Burst.toNat), (16, 16, (b.portPart k p).c3Rate.toNat)]
  | .lePstat k p => lePstatWord (b.portPart k p)
  | .lePcnt k p => wordOf [(40, 24, (b.portPart k p).cmark.toNat), (0, 40, (b.portPart k p).accepted.toNat)]
  | .qsel n p => (b.lePart n p).qsel.setWidth 64
  | .qsamp n p => sampleWord { Tab.getD (b.lePart n p).samples (b.lePart n p).qsel.toNat QSample.zero with seq := (b.lePart n p).sampSeq }
  | .qmax n p => sampleWord (Tab.getD (b.lePart n p).maxima (b.lePart n p).qsel.toNat QSample.zero)
  | .leEpoch n p => leEpochWord h b n p
  | .vnSel n p => (b.lePart n p).vnSel.setWidth 64
  | .vnStat n p => vnStatWord b n p
  | .vnCnt n p => vnCntWord b n p
  | .schedStat i => schedStatWord h b i
  | .mismatchCnt i => mismatchWord (b.island i)
  | .gridSel i => wordOf [(8, 5, (b.island i).selCore.toNat), (0, 5, (b.island i).selColumn.toNat)]
  | .gridOwner i => gridWord h.cfg i (b.island i)
  | .meStat n => meStatWord (b.me n)
  | .mePlane n p => wordOf [(16, 32, (b.mePart n p).scrubPeriod.toNat), (0, 7, (b.mePart n p).planeShare.toNat)]
  | .mePcnt n p => mePcntWord (b.mePart n p)
  | .meCache n p => wordOf [(32, 32, (b.mePart n p).hits.toNat), (0, 32, (b.mePart n p).misses.toNat)]
  | .meScrub n p => wordOf [(48, 16, (b.mePart n p).passes.toNat), (0, 36, (b.mePart n p).page.toNat)]
  | .hbeStat => hbeStatWord b
  | .hbeSlice k => sliceWord (b.slice k.val)
  | .hbeQuota k => quotaWord (b.slice k.val)
  | .bwH2dTail w => match b.bounce w with | some x => x.h2dTail.setWidth 64 | none => 0
  | .bwD2hHead w => match b.bounce w with | some x => x.d2hHead.setWidth 64 | none => 0
  | .bwPtr w => bwPtrWord (b.bounce w)
  | .bwState w => bwStateWord b w
  | .fringBase p => wordOf [(12, 52, (b.ptuPart p).base.toNat), (0, 1, bit (b.ptuPart p).en)]
  | .fringPtr p => wordOf [(32, 10, (b.ptuPart p).wr.toNat), (0, 10, (b.ptuPart p).rd.toNat)]
  | .fstat p => fstatWord b (b.ptuPart p)
  | .ptuEpoch p => ptuEpochWord (b.ptuPart p)
  | .ptuCache p => wordOf [(32, 32, (b.ptuPart p).hits.toNat), (0, 32, (b.ptuPart p).misses.toNat)]
  | .pinSel p => wordOf [(32, 2, (b.ptuPart p).selKind.toNat), (0, 16, (b.ptuPart p).selDest.toNat)]
  | .pinReg p => pinWord (b.ptuPart p)
  | .ptuStat => ptuStatWord b
  | .xctl p => xctlWord (b.ahuPart p)
  | .ahuTags p => tagsWord (b.ahuPart p)
  | .ahuRetx p => wordOf [(32, 32, (b.ahuPart p).retransmit.toNat), (16, 16, (b.ahuPart p).staleRsp.toNat), (0, 16, (b.ahuPart p).abandoned.toNat)]
  | .ahuAtom p => wordOf [(32, 32, (b.ahuPart p).applied.toNat), (16, 16, (b.ahuPart p).cached.toNat), (0, 16, (b.ahuPart p).unknown.toNat)]
  | .ahuFence p => wordOf [(32, 13, b.destsUsed p), (0, 15, (b.ahuPart p).fences.length)]
  | .ahuKeeper p => wordOf [(32, 32, (b.ahuPart p).duplicate.toNat), (16, 16, (b.ahuPart p).reorderDrop.toNat), (0, 16, (b.ahuPart p).refused.toNat)]
  | .ahuStat => ahuStatWord b
  | .partStat n => partStatWord b n
  | .partQnew n => qnewWord (b.part n)
  | .partQsqb n => baseWord (b.part n).qSqBase
  | .partQcqb n => baseWord (b.part n).qCqBase
  | .partQres n => wordOf [(63, 1, bit (b.part n).qDone), (8, 8, (b.part n).qStatus.toNat), (0, 8, (b.part n).qQueue.toNat)]
  | .qSqTail q => match b.queue q with | some x => x.sqTail.setWidth 64 | none => 0
  | .qCqHead q => match b.queue q with | some x => x.cqHead.setWidth 64 | none => 0
  | .qPtr q => match b.queue q with | some x => wordOf [(32, 32, x.cqTail.toNat), (0, 32, x.sqHead.toNat)] | none => 0
  | .qState q => qStateWord (b.queue q)
  | .icDone _ | .icSetpend _ | .fdone _ | .relayDb _ => 0

/-- What a read changes first: a telemetry window that has ended becomes readable (R394). -/
def readBefore (r : Reg) (b : Block) : Block :=
  match r with
  | .telEnv o | .telTick o | .telCfg o => if b.clk.loaded then rollThrottle o (rollPower o b) else b
  | _ => b

/-- What a read changes afterwards: the log's entry is consumed (R388), the peak of the tags starts again (R304). -/
def readAfter (r : Reg) (b : Block) : Block :=
  match r with
  | .logData o 3 => logAdvance (ownerKey o) b
  | .ahuTags p => if Tab.has b.ahu p.val then modAhu p (fun a => { a with peak := a.tags.length }) b else b
  | _ => b

/-- A read of one aligned word. -/
def readOff (h : Hard) (off : Nat) (b : Block) : Block :=
  match regAt off with
  | none => emit (.regRead 0) b
  | some r =>
    if answers h b r = false then emit (.regRead 0) b
    else
      let b := readBefore r (wakeFor h r b)
      emit (.regRead (regValue h b r)) (readAfter r b)

/-! ### Writes (R7) -/

/-- The PASID the DMA of a partition's samples runs under: that of its lowest valid slice entry. -/
def dumpPasidOf (b : Block) (p : Part) : BitVec 20 :=
  match b.host.slices.find? fun e => e.2.valid && decide (e.2.part.toNat = p.val) with | some e => e.2.pasid | none => 0

/-- A write of `SWY_TCM_MBOX_CMD_n` (R83): `GO` while an operation runs is ignored and noted; an unknown `OP` ends at once. -/
def mboxCmdWritten (p : Part) (val : Word) (b : Block) : Block :=
  let m := (b.part p).mbox
  let op : Byte := BitVec.ofNat 8 (wbits val 0 8)
  if wbit val 63 && m.go then modPart p (fun s => { s with mbox := { s.mbox with overrun := true } }) b
  else
    let b := modPart p (fun s => { s with mbox := { s.mbox with op := op, arg := BitVec.ofNat 32 (wbits val 16 32) } }) b
    if wbit val 63 = false then b
    else
      let b := modPart p (fun s => { s with mbox := { s.mbox with go := true, done := false, error := false, words := [] } }) b
      if op = 1 ∨ op = 2 ∨ op = 3 then b else mboxEnd p none b

/-- A write of `SWY_IC_SRC`: the selected source's routing, when the page's owner owns it (R360, R368). -/
def icSrcWritten (h : Hard) (o : Owner) (val : Word) (b : Block) : Block :=
  let x := (b.icPage (ownerKey o)).sel.toNat
  let s := b.src h.cfg x
  if s.owner ≠ some o then b
  else setSrc x { s with vector := foldVector o (wbits val 44 11), prio := BitVec.ofNat 2 (wbits val 8 2), mask := wbit val 6 } b

/-- A write of `SWY_RST_REQ_n` (R389). -/
def rstReqWritten (h : Hard) (p : Part) (val : Word) (b : Block) : Block :=
  let engine : BitVec 16 := BitVec.ofNat 16 (wbits val 16 16)
  let level := wbits val 0 2
  let b := modRstPart p (fun r => { r with engine := engine, level := BitVec.ofNat 2 level }) b
  if wbit val 63 then resetAsked h p level engine b else b

/-- A write of `SWY_RST_DUMP_n` (R376, R389; log entry 33). -/
def rstDumpWritten (p : Part) (val : Word) (b : Block) : Block :=
  let pasid := dumpPasidOf b p
  modRstPart p (fun r => { r with dumpBase := BitVec.ofNat 52 (wbits val 12 52), dumpEn := wbit val 0, dumpPasid := pasid }) b

/-- A write of `SWY_RST_OP` (R389). -/
def rstOpWritten (h : Hard) (val : Word) (b : Block) : Block :=
  let level := wbits val 8 4
  let code : Byte := BitVec.ofNat 8 (wbits val 0 8)
  if wbit val 63 then operatorAsks h level code b else modRst (fun r => { r with opLevel := BitVec.ofNat 4 level, opIsland := code }) b

/-- The shaper fields of `SWY_LE_PORT_CTL_n_k`; a lower burst cuts the tokens held (R204). -/
def shapedPort (val : Word) (x : PortSt) : PortSt :=
  let y : PortSt := { x with c0Burst := BitVec.ofNat 8 (wbits val 32 8), c0Rate := BitVec.ofNat 8 (wbits val 24 8), overhead := BitVec.ofNat 8 (wbits val 16 8), lenMode := wbit val 8 }
  { y with tokens := min y.tokens (c0Burst y : Nat) }

/-- A write of `SWY_LE_PORT_CTL_n_k` (R208, R211): refused for its mode, it has no effect. -/
def portCtlWritten (h : Hard) (k : Port) (val : Word) (b : Block) : Block :=
  let mode : BitVec 2 := BitVec.ofNat 2 (wbits val 0 2)
  if modeRefused b k mode then patternNote h k 1 b else modPort k (fun x => PortSt.takeMode mode b.now (shapedPort val x)) b

/-- A write of `SWY_LE_SHAPE_n_p_k` (R204, R212): a lower burst cuts the tokens held. -/
def shapedPart (val : Word) (x : PortPart) : PortPart :=
  let y : PortPart := { x with c3Burst := BitVec.ofNat 8 (wbits val 32 8), c3Rate := BitVec.ofNat 16 (wbits val 16 16) }
  { y with tokens := min y.tokens (c3Burst y : Nat) }

/-- A write of `SWY_PTU_FDONE_p` (R314, R324). -/
def fdoneWritten (h : Hard) (p : Part) (val : Word) (b : Block) : Block :=
  match wbits val 16 2 with
  | 1 => faultDone h p (BitVec.ofNat 16 (wbits val 0 16)) true b
  | 2 => faultDone h p (BitVec.ofNat 16 (wbits val 0 16)) false b
  | _ => b

/-- A write of `SWY_PTU_FSTAT_p`: each 1 clears its bit (R324). -/
def fstatWritten (h : Hard) (p : Part) (val : Word) (b : Block) : Block :=
  ringLevel h p (modPtu p (fun x => { x with overflow := x.overflow && !wbit val 63, dmaErr := x.dmaErr && !wbit val 62 }) b)

/-- A write of `SWY_AHU_XCTL_p`: what waits for the tray's node goes on (R304). -/
def xctlWritten (p : Part) (val : Word) (b : Block) : Block :=
  push (.part p) (modAhu p (fun a => { a with trayNode := BitVec.ofNat 16 (wbits val 32 16), trayValid := wbit val 16, atomLimit := BitVec.ofNat 8 (wbits val 8 8), rto := BitVec.ofNat 8 (wbits val 0 8) }) b)

/-- A write to a partition's page (R407). -/
def regPartition : Reg → Option Part
  | .mboxCmd n | .mboxStat n | .ksSel n | .rstReq n | .rstDump n | .rstRange n _ | .leShape _ n | .qsel _ n | .vnSel _ n | .mePlane _ n => some n
  | .fringBase n | .fringPtr n | .fdone n | .fstat n | .pinSel n | .pinReg n | .xctl n => some n
  | _ => none

/-- The bits of `SWY_RST_RANGE_n_k` that hold a value (R389). -/
def rangeMask : Word := 0xFF003FFFFFF00000

/-- What a write of a register stores, sets, clears or starts, the LC page aside. -/
def regWritten (h : Hard) (r : Reg) (val : Word) (b : Block) : Block :=
  match r with
  | .mboxCmd n => mboxCmdWritten n val b
  | .mboxStat n => if wbit val 2 then modPart n (fun s => { s with mbox := { s.mbox with overrun := false } }) b else b
  | .ksSel n => { b with ks := { b.ks with sel := Tab.set b.ks.sel n.val (BitVec.ofNat 12 (wbits val 0 12)) } }
  | .icPctl o => modIcPage (ownerKey o) (fun p => { p with pmask := wbit val 63, thresh := BitVec.ofNat 2 (wbits val 0 2) }) b
  | .icDone o => icDone h o (wbits val 0 10) b
  | .icSel o => modIcPage (ownerKey o) (fun p => { p with sel := BitVec.ofNat 10 (wbits val 0 10) }) b
  | .icSrc o => icSrcWritten h o val b
  | .icSetpend o => icSetpend h o (wbits val 0 10) b
  | .logPtr o => modLogPage (ownerKey o) (fun p => { p with rd := BitVec.ofNat 32 (wbits val 0 32) }) b
  | .logStat o => if wbit val 0 then modLogPage (ownerKey o) (fun p => { p with gone := false }) b else b
  | .rstReq n => rstReqWritten h n val b
  | .rstDump n => rstDumpWritten n val b
  | .rstRange n k => modRstPart n (fun x => { x with ranges := x.ranges.set k (val &&& rangeMask) }) b
  | .rstOp => rstOpWritten h val b
  | .rstCompat => if wbit val 63 then oosCleared b else b
  | .portCtl k => portCtlWritten h k val b
  | .patCtl k => patternCtlWritten h k val b
  | .leShape k p => modPortPart k p (shapedPart val) b
  | .qsel n p => qselWritten n p val b
  | .vnSel n p => modLePart n p (fun l => { l with vnSel := BitVec.ofNat 32 (wbits val 0 32) }) b
  | .gridSel i => modIsland i (fun s => { s with selCore := BitVec.ofNat 5 (wbits val 8 5), selColumn := BitVec.ofNat 5 (wbits val 0 5) }) b
  | .mePlane n p => modMePart n p (fun m => { m with scrubPeriod := BitVec.ofNat 32 (wbits val 16 32), planeShare := BitVec.ofNat 7 (wbits val 0 7) }) b
  | .hbeSlice k => sliceWritten h k.val false val b
  | .hbeQuota k => sliceWritten h k.val true val b
  | .bwH2dTail w => h2dTailWritten w (BitVec.ofNat 32 (wbits val 0 32)) b
  | .bwD2hHead w => d2hHeadWritten h w (BitVec.ofNat 32 (wbits val 0 32)) b
  | .fringBase p => ringBased h p val true b
  | .fringPtr p => ringConsumed h p (BitVec.ofNat 10 (wbits val 0 10)) true b
  | .fdone p => fdoneWritten h p val b
  | .fstat p => fstatWritten h p val b
  | .pinSel p => modPtu p (fun x => { x with selKind := BitVec.ofNat 2 (wbits val 32 2), selDest := BitVec.ofNat 16 (wbits val 0 16) }) b
  | .pinReg p => pinWritten h p val b
  | .xctl p => xctlWritten p val b
  | .partQnew n => queueCreated h n val b
  | .partQsqb n => modPart n (fun s => { s with qSqBase := BitVec.ofNat 52 (wbits val 12 52) }) b
  | .partQcqb n => modPart n (fun s => { s with qCqBase := BitVec.ofNat 52 (wbits val 12 52) }) b
  | .qSqTail q => sqTailWritten q (BitVec.ofNat 32 (wbits val 0 32)) b
  | .qCqHead q => cqHeadWritten h q (BitVec.ofNat 32 (wbits val 0 32)) b
  | .qState q => (match b.queue q with | some x => if wbit val 8 then setQueue q.toNat { x with tailErr := false } b else b | none => b)
  | _ => b

/-- A write of `SWY_LC_REQ` (R108): `GO` while an operation runs is ignored and noted; with `GO` the operation starts. -/
def lcReqWritten (val : Word) (s : State) : Host.Outcome State Fault Refusal :=
  let l := s.b.lc
  let op := wbits val 0 8
  let arg : Byte := BitVec.ofNat 8 (wbits val 8 8)
  if wbit val 63 && l.go then .next { s with b := setLc (fun l => { l with overrun := true }) s.b }
  else
    let b := setLc (fun l => { l with op := BitVec.ofNat 8 op, arg := arg, len := BitVec.ofNat 24 (wbits val 16 24) }) s.b
    let started : State := { s with b := setLc (fun l => { l with go := true, done := false, error := false }) b }
    if !wbit val 63 then .next { s with b := b } else if lcReady s.b then lcGo op arg started else .next started

/-- REGISTER_WRITE (R7, R404, R407): one aligned word at a block offset. -/
def execRegisterWrite (off : BitVec 24) (val : Word) (s : State) : Host.Outcome State Fault Refusal :=
  match (if off.toNat % 8 = 0 then regAt off.toNat else none) with
  | none => .next s
  | some r =>
    if answers s.hard s.b r = false then .next s
    else match r with
      | .lcTamper => execTamperLatchClear (BitVec.ofNat 8 (wbits val 40 8)) s
      | .lcReq => lcReqWritten val s
      | .lcAddr => .next { s with b := setLc (fun l => { l with addr := val }) s.b }
      | .lcStat => .next { s with b := if wbit val 2 then setLc (fun l => { l with overrun := false }) s.b else s.b }
      | .lcBoot => execLcBootWrite val s
      | r => onB (fun h b =>
          let b := wakeFor h r b
          match regPartition r with
          | some p => if b.partExists p then settle h (regWritten h r val b) else b
          | none => settle h (regWritten h r val b)) s

/-- HOST_ACCESS_SIZE (R6): an access that is not one aligned 64-bit word is completed and not performed; an aligned read of one word is the read itself. -/
def execHostAccessSize (off : BitVec 24) (size : Byte) (isWrite : Bool) (s : State) : Host.Outcome State Fault Refusal :=
  onB (fun h => whenUp fun b =>
    if size = 8 ∧ off.toNat % 8 = 0 then (if isWrite then b else settle h (readOff h off.toNat b))
    else
      let b := note h 0x0801 27 none [aW3 off.toNat] b
      if isWrite then b else emit (.regRead 0) b) s

/-! ### Writes with rows of their own -/

/-- PORT_MODE_WRITE (R208). -/
def execPortModeWrite (port : Port) (mode : BitVec 2) (s : State) : Host.Outcome State Fault Refusal :=
  regAct (islandReg (portIsland port) fun h b => if portPresent h.cfg port then portModeWritten h port mode b else b) s

/-- PATTERN_CTL_WRITE (R210, R211). -/
def execPatternCtlWrite (port : Port) (val : Word) (s : State) : Host.Outcome State Fault Refusal :=
  regAct (islandReg (portIsland port) fun h b => if portPresent h.cfg port then patternCtlWritten h port val b else b) s

/-- QSEL_WRITE (R212). -/
def execQselWrite (le : Fin 16) (part : Part) (val : Word) (s : State) : Host.Outcome State Fault Refusal :=
  regAct (islandReg (.le le) (partReg part fun _ b => qselWritten le part val b)) s

end Sys2Proof.Machine
end

