-- ==== Sys2Proof/Machine/Keys.lean ====
section
/-! DEFINITION. The key commands (R127, R128, R132), replacements (R120 to R124), usage limits (R125, R126) and the KDR (R117, R118, R129 to R131). -/

namespace Sys2Proof.Machine

/-! ### Commands (R132) -/

/-- A key command: it waits while key commands pause (R169, R384). -/
def keyCmd (ctx : CmdCtx) (opcode : Nat) (f : Hard → Queue → Block → Block) (s : State) : Host.Outcome State Fault Refusal :=
  onB (fun h b => if b.keysPaused then b else settle h (runCmd h ctx opcode 0 (f h) b)) s

/-- Why a command may not name a slot: free or orphaned, of another owner or PASID, or a shadow (R114, R117, R119, R120, R132). -/
def keyRefusal (b : Block) (q : Queue) (s : Slot) : Option Byte :=
  let k := b.slot s.toNat
  if k.attr.st = 0 then some stKeyOrphaned
  else if k.attr.owner ≠ BitVec.ofNat 4 q.part.val ∨ (k.attr.type = 13 ∧ k.pasid ≠ q.pasid) ∨ k.attr.st = 2 then some stNotOwner
  else if b.slotLive s.toNat = false then some stKeyOrphaned else none

/-- The uses named at a derivation (R114): encrypt, decrypt, MAC. -/
def userUses (u : BitVec 3) : BitVec 6 := BitVec.ofNat 6 (bit (u.getLsbD 0) + 2 * bit (u.getLsbD 1) + 16 * bit (u.getLsbD 2))

/-- The value of a user key (R116). -/
def userKeyVal (parent : Key) (label : BitVec 256) (gen : BitVec 16) : Key := kdf parent (leBytes 32 label.toNat ++ leBytes 2 gen.toNat) "SWY-USER"

/-- The general slot a derivation takes: the pinned one, or the lowest free (R112, R132). -/
def targetSlot (b : Block) (target : Slot) : Option Nat :=
  if target = 0 then b.lowestFreeSlot else if target.toNat < 64 ∨ Tab.has b.ks.slots target.toNat = true then none else some target.toNat

/-- CMD_KEY_DERIVE (R114 to R116, R132). -/
def execCmdKeyDerive (ctx : CmdCtx) (parent : Slot) (uses : BitVec 3) (exportable : Bool) (limitExp : BitVec 6) (target : Slot) (label : BitVec 256) (s : State) : Host.Outcome State Fault Refusal :=
  keyCmd ctx 0x08 (fun h q b =>
    let k := b.slot parent.toNat
    match keyRefusal b q parent with
    | some st => complete h ctx st 0 0 0 b
    | none =>
      if k.attr.uses.getLsbD useDerive = false then complete h ctx stNotOwner 0 0 0 (keyNote h 0x0202 27 parent.toNat [aByte (2 ^ useDerive)] b)
      else if 7 ≤ depthOf b 8 parent.toNat then complete h ctx stNoSlot 0 0 0 b
      else match targetSlot b target with
        | none => complete h ctx stNoSlot 0 0 0 b
        | some n =>
          let a : Attr := { childAttr b 13 k.attr.owner parent.toNat 0 with uses := userUses uses, exportable := exportable, limitExp := limitExp }
          let sl : KeySlot := { KeySlot.free with value := userKeyVal k.value label 0, attr := a, pasid := q.pasid, label := label }
          complete h ctx stOk 0 n 0 (setSlot n sl b)) s

/-- The next value of a region's key (R116). -/
def regionKeyVal (b : Block) (r : Region) (gen : BitVec 16) : Key :=
  if r.kind = 0 then
    let w : Nat := match r.window with | some w => w.val | none => 0x10
    kdf (b.slot (16 + r.part.val)).value (leBytes 1 w ++ leBytes 2 gen.toNat) "SWY-REGION-LOCAL"
  else sharedKey b r.part r.regionId gen

/-- The members that confirm a shared region key to its keeper: the mirror and every reader (R122). -/
def regionConfirmers (r : Region) : List MemberRef :=
  if r.kind = 0 ∨ r.role ≠ 0 then []
  else (((if r.token.noMirror then [] else [r.token.mirror]) ++ r.readers.filter fun x => decide (r.token.noMirror = true ∨ x ≠ r.token.mirror)).map accel)

/-- Starts the replacement of a region's key at this member (R120, R259). -/
def rekeyRegion (b : Block) (r : Region) (ctx : Option CmdCtx) (commit : Word) : (Byte × Nat) ⊕ Block :=
  startRepl r.keySlot (regionKeyVal b r ((b.slot r.keySlot.toNat).attr.generation + 1)) { Repl.plain ctx commit with await := regionConfirmers r } b

/-- CMD_KEY_REPLACE (R120, R132): user keys, and region keys at their keeper. -/
def execCmdKeyReplace (ctx : CmdCtx) (slot : Slot) (commitTick : Word) (s : State) : Host.Outcome State Fault Refusal :=
  keyCmd ctx 0x09 (fun h q b =>
    let k := b.slot slot.toNat
    let start (r : (Byte × Nat) ⊕ Block) (b : Block) : Block := match r with
      | .inl e => complete h ctx e.1 0 0 0 b
      | .inr b => b
    match keyRefusal b q slot with
    | some st => complete h ctx st 0 0 0 b
    | none =>
      match k.attr.type.toNat with
      | 13 => start (startRepl slot (userKeyVal (b.keyVal k.attr.parent) k.label (k.attr.generation + 1)) (Repl.plain (some ctx) commitTick) b) b
      | 8 | 9 => (match b.regionOfKey slot with
        | some (_, r) => if r.role ≠ 0 then complete h ctx stNotOwner 0 0 0 b else start (rekeyRegion b r (some ctx) commitTick) b
        | none => complete h ctx stNotOwner 0 0 0 b)
      | _ => complete h ctx stNotOwner 0 0 0 b) s

/-- CMD_KEY_INVALIDATE (R117, R119, R132): user keys alone. -/
def execCmdKeyInvalidate (ctx : CmdCtx) (slot : Slot) (s : State) : Host.Outcome State Fault Refusal :=
  keyCmd ctx 0x0A (fun h q b => match keyRefusal b q slot with
    | some st => complete h ctx st 0 0 0 b
    | none => if (b.slot slot.toNat).attr.type ≠ 13 then complete h ctx stNotOwner 0 0 0 b else invalidate h slot.toNat (some ctx) b) s

/-- A key wrapped under the owner wrap key (R128): a fresh encapsulation. -/
def wrapForOwner (j : Jig) (k : KeySlot) (b : Block) : Bytes × Block :=
  let e := Config.mlkemEncap (bytesAt j.ownerKeys 2688 1568) (b.draw.setWidth 256)
  let hd := blobHead 2 j.domainId (blobAttr k.attr) (accel j.memberIndex) 0 0
  let g := gcmSeal (kdf e.2 [] "SWY-OWNER-WRAP") (leBytes 12 0) hd (keyBytes k.value)
  (hd ++ padTo 1568 (e.1.take 1568) ++ g.1 ++ tagBytes g.2, drawn b)

/-- Writes a blob and completes its command. -/
def wrapOutTo (h : Hard) (ctx : CmdCtx) (addr : Word) (dmaOk : Bool) (r : Bytes × Block) : Block :=
  if dmaOk then complete h ctx stOk 0 r.1.length 0 (emit (.dmaWrite addr r.1) r.2) else complete h ctx stAborted 0x0104 0 0 r.2

/-- CMD_KEY_WRAP (R127, R128). -/
def execCmdKeyWrap (ctx : CmdCtx) (slot : Slot) (dest : MemberRef) (addr : Word) (dmaOk : Bool) (s : State) : Host.Outcome State Fault Refusal :=
  keyCmd ctx 0x0B (fun h q b =>
    let k := b.slot slot.toNat
    match keyRefusal b q slot, b.jigOf q.part with
    | some st, _ => complete h ctx st 0 0 0 b
    | none, none => complete h ctx stPeerDeparted 0 0 0 b
    | none, some j =>
      if addr.toNat % 8 ≠ 0 then complete h ctx stAborted 0x0102 0 0 b
      else if k.attr.exportable = false then complete h ctx stNotOwner 0 0 0 b
      else if dest = 0xFFFFFFFF then
        if b.noRandom then awaitEntropy ctx q.part b else wrapOutTo h ctx addr dmaOk (wrapForOwner j k (entropyServed ctx b))
      else if (b.peer q.part dest).inSession = false then complete h ctx stPeerDeparted 0 0 0 b
      else wrapOutTo h ctx addr dmaOk (wrapFor q.part dest slot b)) s

/-! ### The KDR (R117, R118, R129, R130) -/

/-- A kill of the slot is the next message to the island: what follows it (R29, R129). -/
def takeKill (s : Slot) : List KdrMsg → Option (List KdrMsg)
  | .kill x :: t => if x = s then some t else none
  | _ => none

/-- A message that names a value of the slot, or its kill. -/
def KdrMsg.concerns (s : Slot) : KdrMsg → Bool
  | .load _ home _ _ _ _ _ _ _ _ => decide (home = s)
  | .kill x => decide (x = s)

/-- A message of the KDR takes its effect, or fails its CRC-32, which is a Clamp (R129). -/
def kdrTakes (h : Hard) (crcOk : Bool) (f : Block → Block) (b : Block) : Block := if crcOk then f b else clamp h 4 28 none [] b

/-- KDR_KILL (R117, R29): the island forgets the value. -/
def execKdrKill (isl : Island) (slot : Slot) (crcOk : Bool) (s : State) : Host.Outcome State Fault Refusal :=
  act (fun h b => match takeKill slot (b.island isl).kdrIn with
    | none => b
    | some rest => kdrTakes h crcOk (modIsland isl fun st => { st with kdrIn := rest, cache := st.cache.filter fun e => decide (e.home ≠ slot) }) b) s

/-- The island has done what a kill asks. -/
def killDone (st : IslandSt) (s : Slot) : Bool := !(st.kdrIn.any fun m => m.concerns s) && !(st.cache.any fun e => decide (e.home = s))

/-- KDR_ACKNOWLEDGE (R117, R129): with the last acknowledgement an invalidation completes. -/
def execKdrAcknowledge (isl : Island) (slot : Slot) (crcOk : Bool) (s : State) : Host.Outcome State Fault Refusal :=
  act (fun h b =>
    if (b.ks.invals.any fun v => v.waits.contains (isl, slot)) && killDone (b.island isl) slot then kdrTakes h crcOk (fun b => pushAll (ackKill h isl slot b)) b else b) s

/-- ORPHAN_ZEROED (R118): the slot is free again. -/
def execOrphanZeroed (slot : Slot) (s : State) : Host.Outcome State Fault Refusal :=
  act (fun _ b => if (b.slot slot.toNat).attr.st = 3 ∧ (b.ks.invals.any fun v => v.waits.any fun w => decide (w.2 = slot)) = false then freeSlot slot.toNat b else b) s

/-- KDR_KEY_LOAD (R129, R130): what waited for the key goes on. -/
def execKdrKeyLoad (isl : Island) (slot : Slot) (crcOk : Bool) (s : State) : Host.Outcome State Fault Refusal :=
  act (fun h b =>
    if (b.island isl).asleep || (b.island isl).inReset then b
    else
      let b := kdrLoaded h isl slot crcOk b
      pushAll (if isl = .hbe then drainRings h b else b)) s

/-- KEY_CACHE_MISS (R130): TC sends the key an island asks for; of a Veneer group key, what is derived from it (R222). -/
def execKeyCacheMiss (isl : Island) (part : Part) (slot : Slot) (crcOk : Bool) (s : State) : Host.Outcome State Fault Refusal :=
  act (fun h b =>
    let k := b.slot slot.toNat
    if (cipherIslands h.cfg).contains isl && !(b.island isl).asleep && !(b.island isl).inReset && decide (k.attr.owner = BitVec.ofNat 4 part.val ∨ k.attr.owner = 0xF) then
      kdrTakes h crcOk (fun b => match b.groupOfSlot part slot with | some g => wantGroup isl part g b | none => wantKey isl slot b) b
    else b) s

/-! ### Usage limits (R126, R131) -/

/-- The count at which a limit is near (R126). -/
def nearPoint (e : Nat) : Nat := 2 ^ e - if e < 8 then 0 else 2 ^ (e - 8)

/-- TC takes the count an island holds. -/
def reportCount (i : Island) (s : Slot) (e : CacheEnt) (b : Block) : Block :=
  modSlot s.toNat (fun k => { k with count := max k.count e.count }) (modIsland i (fun st => { st with cache := st.cache.map (bumped e e.count true) }) b)

/-- TC starts the replacement of a key near its limit: a region's at its keeper, a link key's to the next epoch (R126, R200, R259). -/
def limitReplace (s : Slot) (b : Block) : Block :=
  let k := b.slot s.toNat
  if (b.repl s.toNat).isSome then b
  else match k.attr.type.toNat, ownerPart k.attr.owner with
    | 6, some p => (match b.jigOf p, (b.epochSt p).keys.find? fun x => x.ref.egress && decide (x.slot = s) with
      | some j, some x =>
        let e := (b.epochSt p).epoch + 1
        changeEgress p (Fin.ofNat 64 x.ref.port.toNat) e (BitVec.ofNat 64 (epochStart j e)) 0 b
      | _, _ => b)
    | 8, _ | 9, _ => (match b.regionOfKey s with
      | some (_, r) => if r.role ≠ 0 then b else (match rekeyRegion b r none 0 with | .inr b => b | .inl _ => b)
      | none => b)
    | _, _ => b

/-- A key's count has come to a point of R126, not yet told for this value. -/
def limitDue (b : Block) (isl : Island) (s : Slot) (n which : Nat) : Bool :=
  let k := b.slot s.toNat
  (b.cached isl s).isSome && decide (k.attr.limitExp ≠ 0) && decide (n ≤ b.useCount isl s) && !k.told.getLsbD which && decide (k.attr.st = 1)

/-- The island tells TC of a point of R126. -/
def limitPoint (h : Hard) (isl : Island) (s : Slot) (code which : Nat) (b : Block) : Block :=
  match b.cached isl s with
  | none => b
  | some e =>
    let b := keyNote h code (islandCode isl) s.toNat [aW8 (b.useCount isl s)] (reportCount isl s e b)
    limitReplace s (modSlot s.toNat (fun k => { k with told := k.told ||| (1#2 <<< which) }) b)

/-- The groups whose admitted-mode key has come to `n` frames on an LE of their lanes, and not been reported (R239). -/
def admDue (b : Block) (isl : Island) (s : Slot) (n which : Nat) : List VGroup :=
  match isl, ownerPart (b.slot s.toNat).attr.owner with
  | .le le, some p =>
    b.vgroups.filter fun g => decide (g.part = p) && decide (b.groupKey p g.groupId = some s) && decide (n ≤ g.admCount) && !g.admTold.getLsbD which
        && (match b.vgeo p g.groupId with | some v => v.hasLe le.val | none => false)
  | _, _ => []

/-- A point of R126 at an island, of a slot's own key or of the admitted-mode keys derived from it, 2^31 frames each (R239). -/
def limitEvent (h : Hard) (isl : Island) (s : Slot) (code : Nat) (point : Nat → Nat) (which : Nat) (crcOk : Bool) (b : Block) : Block :=
  let a := (b.slot s.toNat).attr
  if a.type = 7 then
    let gs := admDue b isl s (point 31) which
    if gs = [] then b
    else kdrTakes h crcOk (fun b => gs.foldl (fun b g =>
      putGroup { g with admTold := g.admTold ||| (1#2 <<< which) } (keyNote h code (islandCode isl) s.toNat [aW8 g.admCount] b)) b) b
  else if limitDue b isl s (point a.limitExp.toNat) which then kdrTakes h crcOk (limitPoint h isl s code which) b
  else b

/-- KEY_LIMIT_NEAR (R126). -/
def execKeyLimitNear (isl : Island) (slot : Slot) (crcOk : Bool) (s : State) : Host.Outcome State Fault Refusal :=
  act (fun h => limitEvent h isl slot 0x0203 nearPoint 0 crcOk) s

/-- KEY_LIMIT_REACHED (R126). -/
def execKeyLimitReached (isl : Island) (slot : Slot) (crcOk : Bool) (s : State) : Host.Outcome State Fault Refusal :=
  act (fun h => limitEvent h isl slot 0x0204 (fun e => 2 ^ e) 1 crcOk) s

/-- KEY_COUNT_REPORT (R131): TC takes the uses counted since the last report. -/
def execKeyCountReport (isl : Island) (slot : Slot) (crcOk : Bool) (s : State) : Host.Outcome State Fault Refusal :=
  act (fun h b => match b.cached isl slot with
    | some e => if (b.slot slot.toNat).attr.limitExp = 0 then b else kdrTakes h crcOk (reportCount isl slot e) b
    | none => b) s

/-! ### Replacements (R121 to R124) -/

/-- A `KEY_CONFIRM` (R122). -/
def confirmBody (kind : Nat) (gen : BitVec 16) (context : Nat) (kcv : Word) : Bytes :=
  leBytes 1 kind ++ leBytes 1 0 ++ leBytes 2 gen.toNat ++ leBytes 4 0 ++ leBytes 8 context ++ leBytes 8 kcv.toNat ++ leBytes 8 0

/-- The context of a link key's confirmation (R122). -/
def linkContext (l : LinkRef) : Nat := l.sender.toNat + 2 ^ 16 * l.port.toNat + 2 ^ 24 * l.epoch.toNat

/-- Whom a member tells once its own check has passed: the sender of a link key, the keeper of a shared region; a keeper its mirror and readers, which start theirs on it (R122; the last is DESIGN CHOICE, log entry 32). -/
def tellConfirm (h : Hard) (s : Slot) (r : Repl) (b : Block) : Block :=
  let k := b.slot s.toNat
  let sh := b.slot r.shadow.toNat
  match ownerPart k.attr.owner with
  | none => b
  | some p =>
    let send (m : MemberRef) (body : Bytes) (b : Block) : Block := if (b.peer p m).inSession then sendTo h p m 0x10 body b else b
    match r.link with
    | some l => if l.egress then b else send (accel l.sender) (confirmBody 6 0 (linkContext l) (kcvOf sh.value)) b
    | none =>
      if k.attr.type ≠ 8 then b
      else match b.regionOfKey s with
        | none => b
        | some (_, g) =>
          let body := confirmBody 8 sh.attr.generation g.regionId.toNat (kcvOf sh.value)
          if g.role = 0 then r.await.foldl (fun b m => send m body b) b else send (accel g.token.keeper) body b

/-- The known-answer check has passed, in time for a commit tick (R124): the replacement is checked, its peers are told, and it goes on if nobody is left to confirm. -/
def checkPassed (h : Hard) (s : Slot) (r : Repl) (b : Block) : Block :=
  if r.commitTick ≠ 0 ∧ r.commitTick.toNat < b.now.toNat then failRepl h s.toNat 1 stAborted b
  else advanceRepl h s (tellConfirm h s r (setRepl s.toNat { r with stage := .checked } b))

/-- KNOWN_ANSWER_CHECK (R121): it waits out a supply-warning period. -/
def execKnownAnswerCheck (slot : Slot) (agree : Bool) (isl : Island) (s : State) : Host.Outcome State Fault Refusal :=
  act (fun h b => match b.repl slot.toNat with
    | none => b
    | some r =>
      if r.stage ≠ .staged ∨ b.keysPaused = true then b
      else if agree then checkPassed h slot r b
      else if r.failedKat then clamp h 3 27 none [] b
      else
        let by' := if (replIslands b slot).contains isl then islandCode isl else 27
        keyNote h 0x0207 27 slot.toNat [aByte by'] (setRepl slot.toNat { r with failedKat := true } b)) s

/-- A confirmation arrives for a replacement of this member: late or with another `KCV` it fails it, else it is one fewer to wait for (R123). -/
def confirmed (h : Hard) (s : Slot) (r : Repl) (from' : MemberRef) (kcv : Word) (b : Block) : Block :=
  if r.await.contains from' = false then b
  else if kcv ≠ kcvOf (b.slot r.shadow.toNat).value then failRepl h s.toNat 3 stAborted b
  else if r.commitTick ≠ 0 ∧ r.commitTick.toNat < b.now.toNat + 10000 then failRepl h s.toNat 2 stAborted b
  else advanceRepl h s (setRepl s.toNat { r with await := r.await.filter fun m => decide (m ≠ from') } b)

/-- The keeper has told of a new generation: a member with the region open starts its own replacement, a mirror without it confirms at once (log entry 32). -/
def confirmAsked (h : Hard) (p : Part) (keeper : MemberRef) (id : BitVec 32) (gen : BitVec 16) (b : Block) : Block :=
  match b.regionById p id with
  | some (_, g) =>
    let have' := (b.slot g.keySlot.toNat).attr.generation
    if g.role = 0 ∨ accel g.token.keeper ≠ keeper then b
    else if gen = have' then sendTo h p keeper 0x10 (confirmBody 8 gen id.toNat (kcvOf (b.keyVal g.keySlot))) b
    else if gen ≠ have' + 1 then b
    else (match rekeyRegion b g none 0 with | .inr b => b | .inl _ => b)
  | none =>
    if b.mirrors.any fun m => decide (m.part = p ∧ m.regionId = id) && (match m.token with | some t => decide (accel t.keeper = keeper ∧ gen = t.generation + 1) | none => false)
    then sendTo h p keeper 0x10 (confirmBody 8 gen id.toNat (kcvOf (sharedKey b p id gen))) b else b

/-- KEY_CONFIRM (R122, R123). -/
def execKeyConfirm (sec : Sec) (kind : Byte) (generation : BitVec 16) (context kcv : Word) (s : State) : Host.Outcome State Fault Refusal :=
  actSec sec (fun h b =>
    let mine (s : Nat) : Bool := decide ((b.slot s).attr.owner = BitVec.ofNat 4 sec.part.val)
    if kind = 6 then
      match b.ks.repls.find? fun e => mine e.1 && (match e.2.link with | some l => l.egress && decide (linkContext l = context.toNat) | none => false) with
      | some (s, r) => if generation = 0 then confirmed h (BitVec.ofNat 12 s) r sec.peer kcv b else b
      | none => b
    else if kind = 8 then
      match b.regionById sec.part (context.setWidth 32) with
      | some (_, g) =>
        (match (if g.role = 0 then b.repl g.keySlot.toNat else none) with
        | some r => if (b.slot r.shadow.toNat).attr.generation = generation then confirmed h g.keySlot r sec.peer kcv b else b
        | none => confirmAsked h sec.part sec.peer g.regionId generation b)
      | none => confirmAsked h sec.part sec.peer (context.setWidth 32) generation b
    else b) s

/-- KEY_CONFIRM_DEADLINE (R123): 10 µs before the commit tick; a member whose session has closed can confirm no more. -/
def execKeyConfirmDeadline (slot : Slot) (s : State) : Host.Outcome State Fault Refusal :=
  act (fun h b => match b.repl slot.toNat, ownerPart (b.slot slot.toNat).attr.owner with
    | some r, some p =>
      if r.await = [] ∨ r.stage = .committed then b
      else if r.await.any fun m => !(b.peer p m).inSession then failRepl h slot.toNat 4 stPeerDeparted b
      else if r.commitTick ≠ 0 ∧ r.commitTick.toNat < b.now.toNat + 10000 then failRepl h slot.toNat 2 stAborted b else b
    | _, _ => b) s

/-- KEY_REPLACE_COMMIT (R124). -/
def execKeyReplaceCommit (slot : Slot) (s : State) : Host.Outcome State Fault Refusal := act (fun h b => pushAll (dueRepl h slot b)) s

/-- KEY_RETIRE (R120). -/
def execKeyRetire (slot : Slot) (s : State) : Host.Outcome State Fault Refusal :=
  act (fun h b => match (b.repl slot.toNat).bind fun r => r.retireTick with
    | some t => if t.toNat ≤ b.now.toNat then retireRepl h slot b else b
    | none => b) s

end Sys2Proof.Machine
end

