-- ==== Sys2Proof/Machine/Dispatch.lean ====
section
/-! DEFINITION. The dispatch: one arm per command, each one direct call of its meaning. -/

namespace Sys2Proof.Machine

def exec (i : Instr) (s : State) : Host.Outcome State Fault Refusal :=
  match i with
  | .registerWrite off val => Sys2Proof.Machine.execRegisterWrite off val s
  | .hostAccessSize off size isWrite => Sys2Proof.Machine.execHostAccessSize off size isWrite s
  | .clockLock => Sys2Proof.Machine.execClockLock s
  | .tbLoadFrame count crcOk => Sys2Proof.Machine.execTbLoadFrame count crcOk s
  | .tickFloorWrite => Sys2Proof.Machine.execTickFloorWrite s
  | .tbSync => Sys2Proof.Machine.execTbSync s
  | .tickSync isl c crcOk => Sys2Proof.Machine.execTickSync isl c crcOk s
  | .timebaseLost kind => Sys2Proof.Machine.execTimebaseLost kind s
  | .shimRelease lane => Sys2Proof.Machine.execShimRelease lane s
  | .islandSleep isl => Sys2Proof.Machine.execIslandSleep isl s
  | .islandWake isl => Sys2Proof.Machine.execIslandWake isl s
  | .batterySupplySwitch toVbat => Sys2Proof.Machine.execBatterySupplySwitch toVbat s
  | .chipRstRelease kind testsOk logOk => Sys2Proof.Machine.execChipRstRelease kind testsOk logOk s
  | .haltAck => Sys2Proof.Machine.execHaltAck s
  | .supplyWarn bits => Sys2Proof.Machine.execSupplyWarn bits s
  | .supplyWarnEnd supply => Sys2Proof.Machine.execSupplyWarnEnd supply s
  | .supplyRecover pass => Sys2Proof.Machine.execSupplyRecover pass s
  | .supplyTrip bits => Sys2Proof.Machine.execSupplyTrip bits s
  | .i3cEntdaa addr => Sys2Proof.Machine.execI3cEntdaa addr s
  | .i3cRstdaa => Sys2Proof.Machine.execI3cRstdaa s
  | .i3cEnec => Sys2Proof.Machine.execI3cEnec s
  | .i3cDisec => Sys2Proof.Machine.execI3cDisec s
  | .i3cGetpid => Sys2Proof.Machine.execI3cGetpid s
  | .i3cGetbcr => Sys2Proof.Machine.execI3cGetbcr s
  | .i3cGetdcr => Sys2Proof.Machine.execI3cGetdcr s
  | .i3cGetstatus => Sys2Proof.Machine.execI3cGetstatus s
  | .i3cRstact action => Sys2Proof.Machine.execI3cRstact action s
  | .i3cPrivateRead => Sys2Proof.Machine.execI3cPrivateRead s
  | .i3cPowerCycleAck => Sys2Proof.Machine.execI3cPowerCycleAck s
  | .i3cChipResetRequest => Sys2Proof.Machine.execI3cChipResetRequest s
  | .powerCycleIbiRepeat => Sys2Proof.Machine.execPowerCycleIbiRepeat s
  | .jtagExtest => Sys2Proof.Machine.execJtagExtest s
  | .jtagIdcode => Sys2Proof.Machine.execJtagIdcode s
  | .jtagSamplePreload => Sys2Proof.Machine.execJtagSamplePreload s
  | .jtagBypass code => Sys2Proof.Machine.execJtagBypass code s
  | .jtagIntScan => Sys2Proof.Machine.execJtagIntScan s
  | .jtagTcDbg op => Sys2Proof.Machine.execJtagTcDbg op s
  | .jtagClkCtl spreadOff => Sys2Proof.Machine.execJtagClkCtl spreadOff s
  | .jtagFuseRead => Sys2Proof.Machine.execJtagFuseRead s
  | .telemetryPosting powerMw throttle seq tempFab tempCmp => Sys2Proof.Machine.execTelemetryPosting powerMw throttle seq tempFab tempCmp s
  | .telemetryWindowEnd owner => Sys2Proof.Machine.execTelemetryWindowEnd owner s
  | .throttlePeriodEnd owner => Sys2Proof.Machine.execThrottlePeriodEnd owner s
  | .cmdJigLoad ctx part replace addr length => Sys2Proof.Machine.execCmdJigLoad ctx part replace addr length s
  | .jigStagedCheck image => Sys2Proof.Machine.execJigStagedCheck image s
  | .jigCommitPoint part => Sys2Proof.Machine.execJigCommitPoint part s
  | .jigActivate part => Sys2Proof.Machine.execJigActivate part s
  | .mboxReadDigests part => Sys2Proof.Machine.execMboxReadDigests part s
  | .mboxReadDecisions part arg => Sys2Proof.Machine.execMboxReadDecisions part arg s
  | .mboxReadHeader part => Sys2Proof.Machine.execMboxReadHeader part s
  | .tamperTrip sensor overwriting => Sys2Proof.Machine.execTamperTrip sensor overwriting s
  | .tamperZeroised => Sys2Proof.Machine.execTamperZeroised s
  | .rootFlip => Sys2Proof.Machine.execRootFlip s
  | .genRoot vbatOk => Sys2Proof.Machine.execGenRoot vbatOk s
  | .arm mask => Sys2Proof.Machine.execArm mask s
  | .close => Sys2Proof.Machine.execClose s
  | .reopen token => Sys2Proof.Machine.execReopen token s
  | .readId dmaOk => Sys2Proof.Machine.execReadId dmaOk s
  | .burnCert cert => Sys2Proof.Machine.execBurnCert cert s
  | .readCert dmaOk => Sys2Proof.Machine.execReadCert dmaOk s
  | .lcBootWrite val => Sys2Proof.Machine.execLcBootWrite val s
  | .bootBundleFetched bundle => Sys2Proof.Machine.execBootBundleFetched bundle s
  | .tamperLatchClear mask => Sys2Proof.Machine.execTamperLatchClear mask s
  | .cmdKeyDerive ctx parent uses exportable limitExp target label => Sys2Proof.Machine.execCmdKeyDerive ctx parent uses exportable limitExp target label s
  | .cmdKeyReplace ctx slot commitTick => Sys2Proof.Machine.execCmdKeyReplace ctx slot commitTick s
  | .cmdKeyInvalidate ctx slot => Sys2Proof.Machine.execCmdKeyInvalidate ctx slot s
  | .cmdKeyWrap ctx slot dest addr dmaOk => Sys2Proof.Machine.execCmdKeyWrap ctx slot dest addr dmaOk s
  | .kdrKill isl slot crcOk => Sys2Proof.Machine.execKdrKill isl slot crcOk s
  | .kdrAcknowledge isl slot crcOk => Sys2Proof.Machine.execKdrAcknowledge isl slot crcOk s
  | .orphanZeroed slot => Sys2Proof.Machine.execOrphanZeroed slot s
  | .knownAnswerCheck slot agree isl => Sys2Proof.Machine.execKnownAnswerCheck slot agree isl s
  | .keyConfirm sec kind generation context kcv => Sys2Proof.Machine.execKeyConfirm sec kind generation context kcv s
  | .keyConfirmDeadline slot => Sys2Proof.Machine.execKeyConfirmDeadline slot s
  | .keyReplaceCommit slot => Sys2Proof.Machine.execKeyReplaceCommit slot s
  | .keyRetire slot => Sys2Proof.Machine.execKeyRetire slot s
  | .keyLimitNear isl slot crcOk => Sys2Proof.Machine.execKeyLimitNear isl slot crcOk s
  | .keyLimitReached isl slot crcOk => Sys2Proof.Machine.execKeyLimitReached isl slot crcOk s
  | .keyCountReport isl slot crcOk => Sys2Proof.Machine.execKeyCountReport isl slot crcOk s
  | .kdrKeyLoad isl slot crcOk => Sys2Proof.Machine.execKdrKeyLoad isl slot crcOk s
  | .keyCacheMiss isl part slot crcOk => Sys2Proof.Machine.execKeyCacheMiss isl part slot crcOk s
  | .keyEpochPreload part => Sys2Proof.Machine.execKeyEpochPreload part s
  | .keyDeliver sec term entries => Sys2Proof.Machine.execKeyDeliver sec term entries s
  | .envelopeFragment part hd data => Sys2Proof.Machine.execEnvelopeFragment part hd data s
  | .envelopeReassemblyTimeout part src msgId => Sys2Proof.Machine.execEnvelopeReassemblyTimeout part src msgId s
  | .announcementSend part => Sys2Proof.Machine.execAnnouncementSend part s
  | .announcement part a => Sys2Proof.Machine.execAnnouncement part a s
  | .getVersion part peer msg => Sys2Proof.Machine.execGetVersion part peer msg s
  | .getCapabilities part peer msg => Sys2Proof.Machine.execGetCapabilities part peer msg s
  | .negotiateAlgorithms part peer offerOk msg => Sys2Proof.Machine.execNegotiateAlgorithms part peer offerOk msg s
  | .getDigests part peer msg => Sys2Proof.Machine.execGetDigests part peer msg s
  | .getCertificate part peer msg => Sys2Proof.Machine.execGetCertificate part peer msg s
  | .challenge part peer msg test => Sys2Proof.Machine.execChallenge part peer msg test s
  | .getMeasurements part peer msg test => Sys2Proof.Machine.execGetMeasurements part peer msg test s
  | .keyExchange part peer ek share msg test => Sys2Proof.Machine.execKeyExchange part peer ek share msg test s
  | .finish part peer ecdsaOk mldsaOk msg => Sys2Proof.Machine.execFinish part peer ecdsaOk mldsaOk msg s
  | .keyUpdate sec => Sys2Proof.Machine.execKeyUpdate sec s
  | .endSession sec => Sys2Proof.Machine.execEndSession sec s
  | .spdmResponse part peer rsp msg test => Sys2Proof.Machine.execSpdmResponse part peer rsp msg test s
  | .spdmRequestTimeout part peer => Sys2Proof.Machine.execSpdmRequestTimeout part peer s
  | .busyRetry part peer => Sys2Proof.Machine.execBusyRetry part peer s
  | .admissionRetry part peer => Sys2Proof.Machine.execAdmissionRetry part peer s
  | .join sec body => Sys2Proof.Machine.execJoin sec body s
  | .joinAck sec reason => Sys2Proof.Machine.execJoinAck sec reason s
  | .keyFetch sec groups => Sys2Proof.Machine.execKeyFetch sec groups s
  | .rosterClaim sec index tag => Sys2Proof.Machine.execRosterClaim sec index tag s
  | .rosterGrant sec index reason term => Sys2Proof.Machine.execRosterGrant sec index reason term s
  | .rosterSync sec entry => Sys2Proof.Machine.execRosterSync sec entry s
  | .rosterSyncAck sec index => Sys2Proof.Machine.execRosterSyncAck sec index s
  | .heartbeatSend part => Sys2Proof.Machine.execHeartbeatSend part s
  | .heartbeat sec term rosterSeq => Sys2Proof.Machine.execHeartbeat sec term rosterSeq s
  | .heartbeatLost part => Sys2Proof.Machine.execHeartbeatLost part s
  | .takeover sec term newAnchor => Sys2Proof.Machine.execTakeover sec term newAnchor s
  | .depart sec member cause epoch => Sys2Proof.Machine.execDepart sec member cause epoch s
  | .probe sec => Sys2Proof.Machine.execProbe sec s
  | .probeAck sec => Sys2Proof.Machine.execProbeAck sec s
  | .probeTimeout part peer => Sys2Proof.Machine.execProbeTimeout part peer s
  | .keyUpdateTrigger part peer => Sys2Proof.Machine.execKeyUpdateTrigger part peer s
  | .departureEffective part member => Sys2Proof.Machine.execDepartureEffective part member s
  | .formationLate part => Sys2Proof.Machine.execFormationLate part s
  | .delegateAbsent part => Sys2Proof.Machine.execDelegateAbsent part s
  | .envelopePortFailover part member => Sys2Proof.Machine.execEnvelopePortFailover part member s
  | .cmdPeerAdmit ctx peer manual deleg relay => Sys2Proof.Machine.execCmdPeerAdmit ctx peer manual deleg relay s
  | .cmdPeerRelease ctx peer => Sys2Proof.Machine.execCmdPeerRelease ctx peer s
  | .cipherRequest isl req => Sys2Proof.Machine.execCipherRequest isl req s
  | .coreWindowStart isl => Sys2Proof.Machine.execCoreWindowStart isl s
  | .cipherGroupCompare isl core agree => Sys2Proof.Machine.execCipherGroupCompare isl core agree s
  | .gridSwitch isl => Sys2Proof.Machine.execGridSwitch isl s
  | .periodicCoreTest isl core found forced => Sys2Proof.Machine.execPeriodicCoreTest isl core found forced s
  | .drbgReseed => Sys2Proof.Machine.execDrbgReseed s
  | .entropyWaitTimeout part => Sys2Proof.Machine.execEntropyWaitTimeout part s
  | .streamSlotData part port slotTick data => Sys2Proof.Machine.execStreamSlotData part port slotTick data s
  | .egressFrameStart port => Sys2Proof.Machine.execEgressFrameStart port s
  | .frameReceived port sideNode sidePart frame => Sys2Proof.Machine.execFrameReceived port sideNode sidePart frame s
  | .syncReq part port sender target stream challenge epoch => Sys2Proof.Machine.execSyncReq part port sender target stream challenge epoch s
  | .syncAck part port sender sport stream challenge floor => Sys2Proof.Machine.execSyncAck part port sender sport stream challenge floor s
  | .syncReqRetry part port sender stream => Sys2Proof.Machine.execSyncReqRetry part port sender stream s
  | .rekeyStart part => Sys2Proof.Machine.execRekeyStart part s
  | .epochBoundary part => Sys2Proof.Machine.execEpochBoundary part s
  | .staleDrop part => Sys2Proof.Machine.execStaleDrop part s
  | .kerfEnd part => Sys2Proof.Machine.execKerfEnd part s
  | .rekeyRetry part port => Sys2Proof.Machine.execRekeyRetry part port s
  | .portModeWrite port mode => Sys2Proof.Machine.execPortModeWrite port mode s
  | .portModeDrained port => Sys2Proof.Machine.execPortModeDrained port s
  | .patternCtlWrite port val => Sys2Proof.Machine.execPatternCtlWrite port val s
  | .patternInject port => Sys2Proof.Machine.execPatternInject port s
  | .queueSample => Sys2Proof.Machine.execQueueSample s
  | .qselWrite le part val => Sys2Proof.Machine.execQselWrite le part val s
  | .veneerStepStart part group => Sys2Proof.Machine.execVeneerStepStart part group s
  | .cmdVeneerGroup ctx group op tableSrc firstStep table => Sys2Proof.Machine.execCmdVeneerGroup ctx group op tableSrc firstStep table s
  | .domainRequest die part pasid engine op addr scheduled ringOk => Sys2Proof.Machine.execDomainRequest die part pasid engine op addr scheduled ringOk s
  | .hbmResponse me region obj status data => Sys2Proof.Machine.execHbmResponse me region obj status data s
  | .reencryptionDone me part slot => Sys2Proof.Machine.execReencryptionDone me part slot s
  | .stageRequest part region page lines dataTick => Sys2Proof.Machine.execStageRequest part region page lines dataTick s
  | .scrubStep me part => Sys2Proof.Machine.execScrubStep me part s
  | .sweepStep part region => Sys2Proof.Machine.execSweepStep part region s
  | .memClearDone me regionId => Sys2Proof.Machine.execMemClearDone me regionId s
  | .token sec tok => Sys2Proof.Machine.execToken sec tok s
  | .tokenAck sec regionId tokenSeq => Sys2Proof.Machine.execTokenAck sec regionId tokenSeq s
  | .intent sec regionId tokenSeq entries => Sys2Proof.Machine.execIntent sec regionId tokenSeq entries s
  | .intentAck sec regionId tokenSeq => Sys2Proof.Machine.execIntentAck sec regionId tokenSeq s
  | .readOpen sec regionId => Sys2Proof.Machine.execReadOpen sec regionId s
  | .readClose sec regionId => Sys2Proof.Machine.execReadClose sec regionId s
  | .reverify sec regionId page tokenSeq => Sys2Proof.Machine.execReverify sec regionId page tokenSeq s
  | .repairReq sec regionId level index => Sys2Proof.Machine.execRepairReq sec regionId level index s
  | .handoff sec tok => Sys2Proof.Machine.execHandoff sec tok s
  | .refuse sec regionId status => Sys2Proof.Machine.execRefuse sec regionId status s
  | .relay sec dests tok => Sys2Proof.Machine.execRelay sec dests tok s
  | .mirrorTakeover part regionId => Sys2Proof.Machine.execMirrorTakeover part regionId s
  | .repairDone part region level index children => Sys2Proof.Machine.execRepairDone part region level index children s
  | .regionOpenTimeout part region => Sys2Proof.Machine.execRegionOpenTimeout part region s
  | .cmdRegionOpen ctx window treeMe => Sys2Proof.Machine.execCmdRegionOpen ctx window treeMe s
  | .cmdRegionHandoff ctx region => Sys2Proof.Machine.execCmdRegionHandoff ctx region s
  | .cmdRegionClear ctx region => Sys2Proof.Machine.execCmdRegionClear ctx region s
  | .read part peer x => Sys2Proof.Machine.execRead part peer x s
  | .write part peer x lines => Sys2Proof.Machine.execWrite part peer x lines s
  | .atomic part peer x aop a b => Sys2Proof.Machine.execAtomic part peer x aop a b s
  | .fenceReq part peer x => Sys2Proof.Machine.execFenceReq part peer x s
  | .readRsp part peer x lines => Sys2Proof.Machine.execReadRsp part peer x lines s
  | .writeAck part peer x => Sys2Proof.Machine.execWriteAck part peer x s
  | .atomicRsp part peer x old => Sys2Proof.Machine.execAtomicRsp part peer x old s
  | .fenceAck part peer x tokenSeq => Sys2Proof.Machine.execFenceAck part peer x tokenSeq s
  | .computeDieFence die part => Sys2Proof.Machine.execComputeDieFence die part s
  | .trayResponse part r => Sys2Proof.Machine.execTrayResponse part r s
  | .retransmit part tag => Sys2Proof.Machine.execRetransmit part tag s
  | .abandonCopy part tag => Sys2Proof.Machine.execAbandonCopy part tag s
  | .atomicWindowExpire part peer dseq => Sys2Proof.Machine.execAtomicWindowExpire part peer dseq s
  | .fenceReqResend part peer => Sys2Proof.Machine.execFenceReqResend part peer s
  | .acquireTimeout part regionId => Sys2Proof.Machine.execAcquireTimeout part regionId s
  | .tagQuarantineEnd part tag => Sys2Proof.Machine.execTagQuarantineEnd part tag s
  | .stallEscalate part engine => Sys2Proof.Machine.execStallEscalate part engine s
  | .fdoneReplay part faultId => Sys2Proof.Machine.execFdoneReplay part faultId s
  | .fdoneFail part faultId => Sys2Proof.Machine.execFdoneFail part faultId s
  | .faultRingConsume part rd dmaOk => Sys2Proof.Machine.execFaultRingConsume part rd dmaOk s
  | .faultRingEnable part val dmaOk => Sys2Proof.Machine.execFaultRingEnable part val dmaOk s
  | .cmdPrefetch ctx addr pages psize dest bounce reserve => Sys2Proof.Machine.execCmdPrefetch ctx addr pages psize dest bounce reserve s
  | .cmdAdvise ctx addr pages psize advice => Sys2Proof.Machine.execCmdAdvise ctx addr pages psize advice s
  | .cmdInvalidateXlat ctx addr pages psize withdraw => Sys2Proof.Machine.execCmdInvalidateXlat ctx addr pages psize withdraw s
  | .epochDrainDone part => Sys2Proof.Machine.execEpochDrainDone part s
  | .pageMoveDone part => Sys2Proof.Machine.execPageMoveDone part s
  | .evictMove part => Sys2Proof.Machine.execEvictMove part s
  | .portMoved part port => Sys2Proof.Machine.execPortMoved part port s
  | .pinWrite part val => Sys2Proof.Machine.execPinWrite part val s
  | .sliceWrite entry quota val => Sys2Proof.Machine.execSliceWrite entry quota val s
  | .queueCreate part val => Sys2Proof.Machine.execQueueCreate part val s
  | .sqTailWrite queue index => Sys2Proof.Machine.execSqTailWrite queue index s
  | .cqHeadWrite queue index => Sys2Proof.Machine.execCqHeadWrite queue index s
  | .descriptorFetch queue desc cqFail => Sys2Proof.Machine.execDescriptorFetch queue desc cqFail s
  | .cmdPartCreate ctx part => Sys2Proof.Machine.execCmdPartCreate ctx part s
  | .cmdFence ctx mode shared acqCount fence acq => Sys2Proof.Machine.execCmdFence ctx mode shared acqCount fence acq s
  | .cmdAbort ctx queue target => Sys2Proof.Machine.execCmdAbort ctx queue target s
  | .cmdObjFree ctx otype abortRefs handle => Sys2Proof.Machine.execCmdObjFree ctx otype abortRefs handle s
  | .cmdQuery ctx selector arg addr len dmaOk => Sys2Proof.Machine.execCmdQuery ctx selector arg addr len dmaOk s
  | .cmdBounceOpen ctx host slotsLog h2dBase d2hBase window => Sys2Proof.Machine.execCmdBounceOpen ctx host slotsLog h2dBase d2hBase window s
  | .relayDoorbell part host inProd outCons => Sys2Proof.Machine.execRelayDoorbell part host inProd outCons s
  | .h2dTailWrite window tail => Sys2Proof.Machine.execH2dTailWrite window tail s
  | .bounceWrite window r => Sys2Proof.Machine.execBounceWrite window r s
  | .readReq window r => Sys2Proof.Machine.execReadReq window r s
  | .pageData window r => Sys2Proof.Machine.execPageData window r s
  | .flush window r => Sys2Proof.Machine.execFlush window r s
  | .d2hHeadWrite window head => Sys2Proof.Machine.execD2hHeadWrite window head s
  | .bouncePageTimeout window => Sys2Proof.Machine.execBouncePageTimeout window s
  | .interruptDelivery => Sys2Proof.Machine.execInterruptDelivery s
  | .interruptDone owner source => Sys2Proof.Machine.execInterruptDone owner source s
  | .interruptSetpend owner source => Sys2Proof.Machine.execInterruptSetpend owner source s
  | .clampEnd => Sys2Proof.Machine.execClampEnd s
  | .clampNotice sec n => Sys2Proof.Machine.execClampNotice sec n s
  | .sampleSealed part dmaOk content => Sys2Proof.Machine.execSampleSealed part dmaOk content s
  | .rstReqContext part engine => Sys2Proof.Machine.execRstReqContext part engine s
  | .rstReqPartition part => Sys2Proof.Machine.execRstReqPartition part s
  | .rstOpEngine code => Sys2Proof.Machine.execRstOpEngine code s
  | .rstOpChip => Sys2Proof.Machine.execRstOpChip s
  | .rstOpPowerCycle => Sys2Proof.Machine.execRstOpPowerCycle s
  | .resetComplete scope => Sys2Proof.Machine.execResetComplete scope s
  | .resetBoundExpire scope => Sys2Proof.Machine.execResetBoundExpire scope s
  | .compatOosClear => Sys2Proof.Machine.execCompatOosClear s
  | .logDataRead owner => Sys2Proof.Machine.execLogDataRead owner s
  | .linkUpChange port up => Sys2Proof.Machine.execLinkUpChange port up s
  | .hbmReadyChange me ready => Sys2Proof.Machine.execHbmReadyChange me ready s
  | .smWarnRelease supply => Sys2Proof.Machine.execSmWarnRelease supply s
  | .chipRstAssert => Sys2Proof.Machine.execChipRstAssert s
  | .batteryPowerLoss => Sys2Proof.Machine.execBatteryPowerLoss s
  | .entropyHealthFail => Sys2Proof.Machine.execEntropyHealthFail s
  | .entropySourceRecovered => Sys2Proof.Machine.execEntropySourceRecovered s

end Sys2Proof.Machine
end

