-- ==== Sys2Proof/Machine/Step.lean ====
section
/-! DEFINITION. One step: the command at the front of the queue; with none waiting, one edge of the tick clock (log entry 1). -/

namespace Sys2Proof.Machine

/-- The state with the rest of its queue. -/
def State.withPending (s : State) (q : List Instr) : State := { s with pending := q }

/-- What the block does while no command waits (R8, R33). -/
def idle (s : State) : State := { s with b := clockTick s.b }

/-- One step. -/
def step (s : State) : Host.Outcome State Fault Refusal :=
  match s.pending with
  | [] => .next (idle s)
  | c :: rest => exec c (s.withPending rest)

/-- The command a table word spells, put at the front of the queue. The table gives no row any bits, so no word spells one. -/
def State.withFetchWord (s : State) (nbits w : Nat) : State :=
  match Sys2Proof.decodeTableWord nbits w with
  | some c => s.withPending (c :: s.pending)
  | none => s

end Sys2Proof.Machine
end

