-- ==== Sys2Proof/Safety.lean ====
section
/-! DEFINITION. What a safe run is, in the terms claims use: no reset root or key leaves, and the lasting parts only move the way the spec lets them (R34, R89, R96, R99). -/

namespace Sys2Proof.Machine

/-- Every cell burned in `f` is burned in `g` (R96, R99). -/
def Fuses.within (f g : Fuses) : Prop :=
  (∀ k, f.record k &&& g.record k = f.record k) ∧ (∀ j, f.certSlot j &&& g.certSlot j = f.certSlot j) ∧ f.serial = g.serial ∧ f.floor &&& g.floor = f.floor

/-- One step answers a next state: the block's step neither faults nor refuses. -/
def State.advances (s : State) : Prop := ∃ t, step s = .next t

/-- `n` steps that all advance. -/
def State.runs : Nat → State → Prop
  | 0, _ => True
  | n + 1, s => ∃ t, step s = .next t ∧ t.runs n

/-- The same machine with another block: fuses, battery domain, configuration and queue stand. -/
def State.withB (s : State) (b : Block) : State := { s with b := b }

/-- The same machine with block `b`, once the work `b` holds is done. -/
def State.settled (s : State) (b : Block) : State := { s with b := settle s.hard b }

/-- Nothing waits to be looked at again. -/
def State.quiet (s : State) : Prop := s.b.work = [] ∧ anyDying s.b = false

/-- A fetched command of queue `q` starts now: the islands are at work, the queue lets it start, no partition reset holds it, and it passes the checks every command meets (R20, R333, R337, R378). -/
def State.starts (s : State) (ctx : CmdCtx) (opcode otype : Nat) (q : Queue) : Prop :=
  s.b.live = true ∧ s.b.jtag.tcHalt = false ∧ s.b.queue ctx.queue = some q ∧ q.startable ctx opcode = true ∧ (∀ r ∈ s.b.rst.running, r.scope ≠ .partition q.part) ∧
    cmdGate s.b q opcode otype = none

/-- A secured message is taken: the islands are at work, the member has a session, and the message passes its authentication (R147). -/
def State.hears (s : State) (sec : Sec) : Prop :=
  s.b.live = true ∧ (s.b.peer sec.part sec.peer).hasSession = true ∧ sec.auth = true

/-- The block with a secured message counted as received (R147). -/
def heard (sec : Sec) (b : Block) : Block := modPeer sec.part sec.peer (fun q => { q with authFails := 0, received := q.received + 1 }) b

/-- The same for the session a member joins in, in the session-table entry of that session (R147, R159). -/
def State.hearsJoin (s : State) (sec : Sec) : Prop :=
  s.b.live = true ∧ (s.b.peerAt sec.part (joinKey s.b sec.part sec.peer)).hasSession = true ∧ sec.auth = true

/-- The block with a secured message counted in the session a member joins in. -/
def heardJoin (sec : Sec) (b : Block) : Block := modPeerAt sec.part (joinKey b sec.part sec.peer) (fun q => { q with authFails := 0, received := q.received + 1 }) b

/-- A halted block (R371). -/
def State.halted (s : State) : Prop := s.b.rst.chipRstN = false ∧ s.b.rst.halted = true

end Sys2Proof.Machine
end

