-- ==== Sys2Proof/Certificates/Slice0/Obligations.lean ====
section
/-! DEFINITION. The statements of this model, from the numbered rules of the spec: what a command of each family does, what it leaves, and what every step keeps. -/

open Sys2Proof Sys2Proof.Machine

/-! ### The queue and the step -/

/-- A step takes the command at the front of the queue and is `exec` of it on the state with the rest of the queue (the model's form of a block). -/
def Obligations.StepRunsTheFrontCommand : Prop :=
  ∀ (s : State) (c : Instr) (rest : List Instr), s.pending = c :: rest → step s = exec c (s.withPending rest)

/-- R8, R33, R35, R204: a step with nothing waiting is one edge of `TB_CLK` (log entry 1): once the counter is loaded and while the timebase is not lost, the counter and every island's copy advance by one and the class 3 shapers fill; otherwise nothing moves. -/
def Obligations.IdleStepIsOneTick : Prop :=
  (∀ s : State, s.pending = [] → s.b.up = true → s.b.clk.loaded = true → s.b.clk.lost = false →
    ∃ b, step s = .next (s.withB b) ∧ b.clk = { s.b.clk with tick := s.b.clk.tick + 1 } ∧
      (∀ i : Island, Tab.get? b.islands (islandCode i) = (Tab.get? s.b.islands (islandCode i)).map fun st => { st with copy := st.copy + 1 }) ∧
      (∀ n : Nat, (Tab.get? b.pports n).map (fun x => x.tokens) = (Tab.get? s.b.pports n).map fun x =>
        refill x.tokens (c3Rate (match s.b.jigOf (Fin.ofNat 8 (n % 8)) with | some j => j.share (portIsland (Fin.ofNat 64 (n / 8))) | none => 0) x) (c3Burst x)) ∧
      b = { s.b with clk := b.clk, islands := b.islands, ports := b.ports, pports := b.pports }) ∧
  (∀ s : State, s.pending = [] → (s.b.up && s.b.clk.loaded && !s.b.clk.lost) = false → step s = .next s)

/-- Every command completes: no state and no operands fault or refuse it, and it changes neither the queue nor the configuration. -/
def Obligations.EveryCommandAnswersANextState : Prop :=
  ∀ (c : Instr) (s : State), ∃ t, exec c s = .next t ∧ t.pending = s.pending ∧ t.hard.cfg = s.hard.cfg

/-- R96, R99: no step clears a fuse cell. -/
def Obligations.FusesOnlyGainCells : Prop :=
  ∀ s t : State, step s = .next t → s.hard.fuse.within t.hard.fuse

/-- R34, R89, R90: but for the loss of battery power, no command clears an arm bit or lowers the tick floor, and the root array is only ever kept, zeroed, or written by `GEN_ROOT`. -/
def Obligations.BatteryDomainKeepsItsPromises : Prop :=
  ∀ (c : Instr) (s t : State), exec c s = .next t → c ≠ .batteryPowerLoss →
    s.hard.bat.armMask &&& t.hard.bat.armMask = s.hard.bat.armMask ∧
    s.hard.bat.tickFloor.toNat ≤ t.hard.bat.tickFloor.toNat ∧
    (t.hard.bat.entropy = s.hard.bat.entropy ∨ t.hard.bat.entropy = 0 ∨ ∃ v, c = .genRoot v)

/-! ### Clocks and the timebase -/

/-- R31, R33, R34, R35, R36, R52, R91, R129: `CLOCK_LOCK`, alone and with a release that waited for it; the loading `TB_LOAD_FRAME`, with the boot bundle's fetch and the events that waited for the counter, and a later frame against it; the floor's write and `TB_SYNC`; `TICK_SYNC` against the latched copy, and with a failed CRC; and the loss of the timebase. -/
def Obligations.TimebaseLoadsSyncsAndIsLost : Prop :=
  (∀ s : State, s.b.clk.locked = true ∨ s.b.rst.chipRstN = true ∨ s.b.clk.waits = none → exec .clockLock s = .next (s.withB { s.b with clk := { s.b.clk with locked := true } })) ∧
  (∀ (s : State) (kind tests lg : Bool) (r : Hard × Block), s.b.clk.locked = false → s.b.rst.chipRstN = false → s.b.clk.waits = some (kind, tests, lg) →
    leaveReset s.hard kind tests lg { s.b with clk := { s.b.clk with locked := true, waits := none } } = r → exec .clockLock s = .next { s with hard := r.1, b := r.2 }) ∧
  (∀ (s : State) (n : Word), s.b.up = true → s.b.clk.loaded = false → s.hard.bat.tickFloor.toNat + 2 ^ 20 ≤ n.toNat →
    (s.hard.bat.unreported = false →
      ∃ b, exec (.tbLoadFrame n true) s = .next (s.withB b) ∧ b.clk = { s.b.clk with loaded := true, tick := n, loadTick := n } ∧
        (∀ i ∈ allIslands s.hard.cfg, (b.island i).copy = n) ∧ b.out = (if s.b.lc.bootState = 1 then .dmaRead (BitVec.ofNat 64 (s.b.lc.bundle.toNat * 4096)) 4194304 :: s.b.out else s.b.out) ∧
        b = { s.b with clk := b.clk, islands := b.islands, tel := b.tel, out := b.out }) ∧
    (s.hard.bat.unreported = true →
      exec (.tbLoadFrame n true) s = .next { s with hard := { s.hard with bat := { s.hard.bat with unreported := false } },
                                                    b := tamperEvents { s.hard with bat := { s.hard.bat with unreported := false } } (loadTicks s.hard n s.b) })) ∧
  (∀ (s : State) (n : Word), s.b.up = true → s.b.clk.loaded = true →
    (within n s.b.clk.tick 2 = true → exec (.tbLoadFrame n true) s = .next s) ∧
    (within n s.b.clk.tick 2 = false → exec (.tbLoadFrame n true) s = .next (s.withB (logEv s.hard 0x090C 27 none 1 2 [aW8 n.toNat, aW8 s.b.clk.tick.toNat] s.b)))) ∧
  (∀ (s : State) (n : Word), s.b.up = true → s.b.clk.loaded = false → n.toNat < s.hard.bat.tickFloor.toNat + 2 ^ 20 →
    ∃ b, exec (.tbLoadFrame n true) s = .next (s.withB b) ∧ b.clk = s.b.clk) ∧
  (∀ s : State, s.b.up = true → s.b.clk.loaded = true → s.b.clk.lost = false → s.hard.bat.tickFloor.toNat / 2 ^ 20 < s.b.clk.tick.toNat / 2 ^ 20 →
    exec .tickFloorWrite s = .next { s with hard := { s.hard with bat := { s.hard.bat with tickFloor := s.b.clk.tick } } }) ∧
  (∀ s : State, s.b.up = true → s.b.clk.loaded = true → s.b.clk.lost = false → s.b.clk.tick.toNat % 1024 = 0 → s.b.clk.strobes.head? ≠ some s.b.clk.tick →
    ∃ b, exec .tbSync s = .next (s.withB b) ∧ b.out = .kdrTick s.b.clk.tick :: .tbSync s.b.clk.tick :: s.b.out ∧
      b.clk = { s.b.clk with strobes := (s.b.clk.tick :: s.b.clk.strobes).take 4 } ∧
      (∀ i ∈ allIslands s.hard.cfg, (b.island i).latched = ((s.b.clk.tick, (s.b.island i).copy) :: (s.b.island i).latched).take 4) ∧
      b = { s.b with clk := b.clk, islands := b.islands, out := b.out }) ∧
  (∀ (s : State) (isl : Island) (n : Word), s.b.live = true → resettable s.hard isl = true → (s.b.island isl).inReset = false →
    latchedCopy (s.b.island isl) n = some n → exec (.tickSync isl n true) s = .next (s.settled s.b)) ∧
  (∀ (s : State) (isl : Island) (n v : Word), s.b.live = true → resettable s.hard isl = true → (s.b.island isl).inReset = false →
    latchedCopy (s.b.island isl) n = some v → v ≠ n →
    exec (.tickSync isl n true) s = .next (s.settled (takeEngine s.hard isl 0xFF none
      (logEv s.hard 0x090D (islandCode isl) none 1 3 [aW8 v.toNat, aW8 n.toNat] (modIsland isl (fun st => { st with suspended := true }) s.b))))) ∧
  (∀ (s : State) (isl : Island) (n : Word), s.b.live = true → resettable s.hard isl = true → (s.b.island isl).inReset = false →
    exec (.tickSync isl n false) s = .next (s.settled (clamp s.hard 4 28 none [] s.b))) ∧
  (∀ (s : State) (k : TbLoss), s.b.up = true → s.b.clk.lost = false → s.b.rst.halted = false →
    exec (.timebaseLost k) s = .next (s.settled (takeChip s.hard 3 0xFF none
      (logEv s.hard 0x090E 27 none 3 3 [aByte (lossKind k)] { s.b with clk := { s.b.clk with lost := true } }))))

/-- R38, R39, R40, R193: an output ready by its pin leaves the Shim at its pin; one that was not leaves at the first slot boundary at which it is ready, with its event; one not ready is a slip and stays; R44, R255, R366: an island goes to sleep, a memory engine once its dirty entries are written back, and wakes. -/
def Obligations.ShimReleasesAndIslandSleep : Prop :=
  (∀ (s : State) (lane : Lane) (x : Pinned), s.b.live = true → s.b.shim = [(lane, x)] → x.pin.toNat ≤ s.b.clk.tick.toNat → heldBack s.b lane x = false →
    x.job = none → x.use = none → x.veneer = none →
    (x.ready = true → x.slipped = false → x.readyAt.toNat ≤ x.pin.toNat → tooLate s.b lane x x.pin.toNat = none →
      exec (.shimRelease lane) s = .next (s.settled (push (.part x.part) (emits x.outs { s.b with shim := [] })))) ∧
    (x.ready = true → x.slipped = true ∨ x.pin.toNat < x.readyAt.toNat → ∀ t, t = (match s.b.schedule x.part with | some sc => slotBoundary sc (max x.readyAt.toNat x.pin.toNat) | none => max x.readyAt.toNat x.pin.toNat) →
      t ≤ s.b.clk.tick.toNat → tooLate s.b lane x t = none →
      exec (.shimRelease lane) s = .next (s.settled (push (.part x.part) (slipNote s.hard lane x (BitVec.ofNat 64 t) (emits x.outs { s.b with shim := [] }))))) ∧
    (x.ready = false → tooLate s.b lane x s.b.clk.tick.toNat = none →
      exec (.shimRelease lane) s = .next (s.settled { s.b with shim := [(lane, { x with slipped := true })] }))) ∧
  (∀ (s : State) (isl : Island), s.b.live = true → maySleep s.hard s.b isl = true → (∀ n, isl ≠ .me n) →
    exec (.islandSleep isl) s = .next (s.settled (modIsland isl (fun st => { st with asleep := true, retained := true }) (cacheZero isl s.b)))) ∧
  (∀ (s : State) (n : Fin 8) (b : Block), s.b.live = true → maySleep s.hard s.b (.me n) = true →
    (readyToSleep (.me n) s.b = (true, b) → exec (.islandSleep (.me n)) s = .next (s.settled (modIsland (.me n) (fun st => { st with asleep := true, retained := true }) (cacheZero (.me n) b)))) ∧
    (readyToSleep (.me n) s.b = (false, b) → exec (.islandSleep (.me n)) s = .next (s.settled b))) ∧
  (∀ (s : State) (n : Fin 8), s.b.live = true → (s.b.island (.me n)).asleep = true → (s.b.island (.me n)).stubLatch = [] →
    exec (.islandWake (.me n)) s = .next (s.settled (pushAll (refillGroups (.me n) (cacheRefill (.me n)
      (modIsland (.me n) (fun st => { st with asleep := false, stubLatch := [], retained := false }) s.b))))))

/-! ### The sideband and the supplies -/

/-- R49, R383: the common command codes of the I3C target; the 16 B status of a private read, the acknowledgement and the repetition of the power-cycle request, and a chip reset asked for by the sideband. -/
def Obligations.SidebandCommandsAndRequests : Prop :=
  (∀ (s : State) (a : BitVec 7), s.b.up = true → s.b.i3c.addr = none → exec (.i3cEntdaa a) s = .next (s.withB { s.b with i3c := { s.b.i3c with addr := some a } })) ∧
  (∀ s : State, s.b.up = true → exec .i3cRstdaa s = .next (s.withB { s.b with i3c := { s.b.i3c with addr := none } })) ∧
  (∀ s : State, s.b.up = true → exec .i3cEnec s = .next (s.withB { s.b with i3c := { s.b.i3c with ibiEn := true } })) ∧
  (∀ s : State, s.b.up = true → exec .i3cDisec s = .next (s.withB { s.b with i3c := { s.b.i3c with ibiEn := false } })) ∧
  (∀ (s : State) (a : Byte), s.b.up = true → exec (.i3cRstact a) s = .next (s.withB { s.b with i3c := { s.b.i3c with rstAction := a } })) ∧
  (∀ (s : State) (a : BitVec 7), s.b.up = true → s.b.i3c.addr = some a →
    exec .i3cGetpid s = .next (s.withB (emit (.i3c (leBytes 6 Config.i3cPid.toNat).reverse) s.b)) ∧
    exec .i3cGetbcr s = .next (s.withB (emit (.i3c [Config.i3cBcr]) s.b)) ∧
    exec .i3cGetdcr s = .next (s.withB (emit (.i3c [Config.i3cDcr]) s.b)) ∧
    exec .i3cGetstatus s = .next (s.withB (emit (.i3c (leBytes 2 (Config.i3cStatus s.b.i3c.request).toNat).reverse) s.b))) ∧
  (∀ (s : State) (a : BitVec 7), s.b.up = true → s.b.i3c.addr = some a →
    ∃ bs, exec .i3cPrivateRead s = .next (s.withB (emit (.i3c bs) s.b)) ∧ bs.length = 16 ∧ fieldAt bs 0 1 = s.b.i3c.request.toNat ∧
      fieldAt bs 1 1 = (if s.b.rst.halted then s.b.rst.clampCause.toNat else 0) ∧ fieldAt bs 4 4 = 0 ∧ fieldAt bs 8 8 = s.b.i3c.reqTick.toNat) ∧
  (∀ (s : State) (a : BitVec 7), s.b.up = true → s.b.i3c.addr = some a → s.b.i3c.cycleWant = true → s.b.rst.halted = false → s.b.rst.compat.oos = false →
    exec .i3cPowerCycleAck s = .next (s.withB { s.b with i3c := { s.b.i3c with cycleWant := false, request := 0 } })) ∧
  (∀ s : State, s.b.up = true → s.b.i3c.cycleWant = true → s.b.i3c.lastIbi.toNat + 1000000000 ≤ s.b.clk.tick.toNat →
    exec .powerCycleIbiRepeat s = .next (s.withB (sendIbi 0x01 { s.b with i3c := { s.b.i3c with lastIbi := s.b.clk.tick } }))) ∧
  (∀ (s : State) (a : BitVec 7), s.b.up = true → s.b.i3c.addr = some a → s.b.rst.halted = false →
    exec .i3cChipResetRequest s = .next (s.withB (takeChip s.hard 6 0xFD none s.b)))

/-- R169, R384, R392, R393, R394: a warning's period, its release, its end and the check after it; a trip; a posting is held raw and gathered into the windows that run, a window's end reports the mean power and the hottest reading rounded down to the owner's steps, a period's end the deepest throttle state. -/
def Obligations.SupplyTripsAndTelemetry : Prop :=
  (∀ (s : State) (bits : BitVec 5), s.b.up = true → bits ≠ 0 → s.b.sup.period = 0 →
    ∃ b, exec (.supplyWarn bits) s = .next (s.withB b) ∧
      b.sup = { s.b.sup with warn := s.b.sup.warn ||| bits, period := bits, checking := s.b.sup.checking &&& ~~~ bits, start := startPeriods bits s.b.clk.tick s.b.sup.start, warnCount := s.b.sup.warnCount + 1 } ∧
      (b.src s.hard.cfg 416).cond = true ∧ b = { s.b with sup := b.sup, ic := b.ic, log := b.log }) ∧
  (∀ (s : State) (k : Fin 5), s.b.up = true → s.b.sup.warn.getLsbD k.val = true →
    ∃ b, exec (.smWarnRelease k) s = .next (s.withB b) ∧
      b.sup = { s.b.sup with warn := s.b.sup.warn &&& ~~~ (1#5 <<< k.val), released := Tab.set s.b.sup.released k.val s.b.clk.tick } ∧ b = { s.b with sup := b.sup, ic := b.ic }) ∧
  (∀ (s : State) (k : Fin 5) (t : Word), s.b.up = true → s.b.sup.period.getLsbD k.val = true → s.b.sup.warn.getLsbD k.val = false →
    Tab.get? s.b.sup.released k.val = some t → t.toNat + 10000 ≤ s.b.clk.tick.toNat →
    exec (.supplyWarnEnd k) s = .next (s.withB { s.b with sup := { s.b.sup with period := s.b.sup.period &&& ~~~ (1#5 <<< k.val), checking := s.b.sup.checking ||| (1#5 <<< k.val) } })) ∧
  (∀ s : State, s.b.up = true → s.b.sup.checking ≠ 0 →
    exec (.supplyRecover true) s = .next (s.withB (logEv s.hard 0x0A02 27 none 3 1 [aByte s.b.sup.checking.toNat, aW4 (periodMicros s.b.sup)] { s.b with sup := { s.b.sup with checking := 0 } })) ∧
    exec (.supplyRecover false) s = .next (s.withB (clamp s.hard 0x0A 27 none [] { s.b with sup := { s.b.sup with checking := 0 } }))) ∧
  (∀ (s : State) (bits : BitVec 5), s.b.up = true → bits ≠ 0 →
    ∃ b, exec (.supplyTrip bits) s = .next (s.withB b) ∧ b.sup = { s.b.sup with tripLast := bits } ∧ b.rst.chipRstReq = true) ∧
  (∀ (s : State) (mw : BitVec 32) (th : BitVec 2) (seq fab : BitVec 16) (cmp : List (BitVec 16)) (o : Owner),
    s.b.up = true → s.b.clk.loaded = true → s.b.telOn o = true → powerDue s.b (s.b.telOf o) = false → throttleDue s.b (s.b.telOf o) = false →
    (s.b.telOf o).winStart.toNat ≤ s.b.clk.tick.toNat → (s.b.telOf o).perStart.toNat ≤ s.b.clk.tick.toNat → cmp.length ≤ 4 →
    ∃ b, exec (.telemetryPosting mw th seq fab cmp) s = .next (s.withB b) ∧ b.tel.raw = some (mw, th, seq, fab :: cmp) ∧
      b.telOf o = { s.b.telOf o with sum := (s.b.telOf o).sum + mw.toNat, num := (s.b.telOf o).num + 1,
                                     hot := some (match (s.b.telOf o).hot with | none => hottest fab cmp | some x => max x (hottest fab cmp)),
                                     deepest := if (s.b.telOf o).deepest.toNat < th.toNat then th else (s.b.telOf o).deepest } ∧
      b = { s.b with tel := b.tel, ent := b.ent }) ∧
  (∀ (s : State) (o : Owner) (x : Int) (n : Nat), s.b.up = true → s.b.clk.loaded = true → s.b.telOn o = true →
    (s.b.telOf o).hot = some x → (s.b.telOf o).num = n + 1 →
    (s.b.telOf o).winStart.toNat + powerWindow (s.b.telOf o) ≤ s.b.clk.tick.toNat → s.b.clk.tick.toNat < (s.b.telOf o).winStart.toNat + 2 * powerWindow (s.b.telOf o) →
    exec (.telemetryWindowEnd o) s = .next (s.withB (setTel o { s.b.telOf o with
      power := BitVec.ofNat 16 ((s.b.telOf o).sum / (n + 1) / ((s.b.telOf o).cfg.powerStep * 5000) * (s.b.telOf o).cfg.powerStep),
      temp := BitVec.ofInt 16 (Int.fdiv x (16 * (s.b.telOf o).cfg.tempStep) * (s.b.telOf o).cfg.tempStep), seq := (s.b.telOf o).seq + 1,
      tick := BitVec.ofNat 64 ((s.b.telOf o).winStart.toNat + powerWindow (s.b.telOf o)), winStart := BitVec.ofNat 64 ((s.b.telOf o).winStart.toNat + powerWindow (s.b.telOf o)),
      sum := 0, num := 0, hot := none } (opened s.b)))) ∧
  (∀ (s : State) (o : Owner), s.b.up = true → s.b.clk.loaded = true → s.b.telOn o = true →
    (s.b.telOf o).perStart.toNat + throttleWindow (s.b.telOf o) ≤ s.b.clk.tick.toNat → s.b.clk.tick.toNat < (s.b.telOf o).perStart.toNat + 2 * throttleWindow (s.b.telOf o) →
    exec (.throttlePeriodEnd o) s = .next (s.withB (setTel o { s.b.telOf o with
      throttle := (s.b.telOf o).deepest, perStart := BitVec.ofNat 64 ((s.b.telOf o).perStart.toNat + throttleWindow (s.b.telOf o)), deepest := 0 } s.b)))


/-! ### Root, tamper and lifecycle -/

/-- R45, R86, R88, R89, R90, R91, R109, R375: an armed sensor zeroes the root array, latches, and ends a `GEN_ROOT` that runs; during another trip's overwrite it only latches; an unarmed one has no effect; the flip, the supply switch, the loss of battery power and the clearing of latches; a zeroisation that TC finds is a Clamp of cause 9 while a partition exists; otherwise the key store keeps only the known-answer keys, with the test root's identity where the root port carries K_test, and the events are recorded, or wait for the tick counter. -/
def Obligations.TamperBatteryAndZeroisation : Prop :=
  (∀ (s : State) (k : Fin 8), s.hard.bat.armMask.getLsbD k.val = true →
    let first := if s.hard.bat.latch = 0 then BitVec.ofNat 8 k.val else s.hard.bat.first
    let latch := s.hard.bat.latch ||| BitVec.ofNat 8 (2 ^ k.val)
    (∀ busy : Bool, busy = false ∨ s.hard.bat.zeroised = false →
      ∃ t, exec (.tamperTrip k busy) s = .next t ∧ t.hard.bat.entropy = 0 ∧ t.hard.bat.check = 0 ∧ t.hard.bat.latch = latch ∧ t.hard.bat.first = first ∧
        t.hard.bat.zeroCount = s.hard.bat.zeroCount + 1 ∧ t.hard.bat.zeroised = true ∧ t.hard.fuse = s.hard.fuse ∧ t.hard.bat.armMask = s.hard.bat.armMask ∧ t.hard.bat.tickFloor = s.hard.bat.tickFloor ∧
        t.b.lc = (if s.b.up = true ∧ s.b.lc.go = true ∧ s.b.lc.op = 0x01 then { s.b.lc with go := false, done := true, error := true, err := 0x03, size := 0 } else s.b.lc) ∧
        t = { s with hard := t.hard, b := { s.b with ic := t.b.ic, lc := t.b.lc } }) ∧
    (s.hard.bat.zeroised = true → ∃ t, exec (.tamperTrip k true) s = .next t ∧ t.hard = { s.hard with bat := { s.hard.bat with latch := latch, first := first } } ∧
      t = { s with hard := t.hard, b := { s.b with ic := t.b.ic, lc := t.b.lc } })) ∧
  (∀ (s : State) (k : Fin 8) (busy : Bool), s.hard.bat.armMask.getLsbD k.val = false → exec (.tamperTrip k busy) s = .next s) ∧
  (∀ s : State, exec .rootFlip s = .next { s with hard := { s.hard with bat := { s.hard.bat with inverted := !s.hard.bat.inverted } } }) ∧
  (∀ (s : State) (v : Bool), exec (.batterySupplySwitch v) s = .next { s with hard := { s.hard with bat := { s.hard.bat with onVbat := v } } }) ∧
  (∀ s : State, ∃ t, exec .batteryPowerLoss s = .next t ∧ t.hard.bat.entropy = 0 ∧ t.hard.bat.check = 0 ∧ t.hard.bat.armMask = 0 ∧ t.hard.bat.tickFloor = 0 ∧
      t.hard.bat.latch = 0 ∧ t.hard.bat.zeroCount = 0 ∧ t.hard.fuse = s.hard.fuse ∧ t = { s with hard := t.hard, b := { s.b with ic := t.b.ic } }) ∧
  (∀ (s : State) (m : Byte), s.b.up = true →
    ∃ t, exec (.tamperLatchClear m) s = .next t ∧ t.hard = { s.hard with bat := { s.hard.bat with latch := s.hard.bat.latch &&& ~~~ m, first := t.hard.bat.first } } ∧
      t = { s with hard := t.hard, b := { s.b with ic := t.b.ic } }) ∧
  (∀ (s : State) (p : Part), s.hard.bat.zeroised = true → s.b.up = true → s.b.partExists p = true →
    exec .tamperZeroised s = .next { s with
      hard := { s.hard with bat := { s.hard.bat with zeroised := false, unreported := false } }
      b := clamp { s.hard with bat := { s.hard.bat with zeroised := false, unreported := false } } 9 29 none [] s.b }) ∧
  (∀ s : State, s.hard.bat.zeroised = true → s.b.up = true → (∀ p : Part, s.b.partExists p = false) → s.b.ks.repls = [] → s.b.ks.invals = [] →
    ∃ t, exec .tamperZeroised s = .next t ∧ t.hard = { s.hard with bat := { s.hard.bat with zeroised := false, unreported := !s.b.clk.loaded } } ∧ t.b.rst.halted = s.b.rst.halted ∧
      (∀ n, 8 ≤ n → Tab.get? t.b.ks.slots n = none) ∧ (s.b.lc.romRun = true → ∀ n, 2 ≤ n → n ≤ 7 → (t.b.slot n).value = Config.katKey n) ∧
      (s.b.lc.rootSel = true → Tab.get? t.b.ks.slots 0 = none) ∧
      (s.b.lc.romRun = true → s.b.lc.rootSel = false → (t.b.slot 0).value = testRoot s.hard ∧ (t.b.slot 1).value = kdf (testRoot s.hard) [] "SWY-ID-BASE") ∧
      t.b = (if s.b.clk.loaded then tamperEvents t.hard (zeroKeys t.hard s.b) else zeroKeys t.hard s.b))

/-- R89, R94, R95, R97, R101, R109: `GEN_ROOT` on an Open chip, `ARM`, and `CLOSE` once its checks pass: M0 of the next even record is burned, the root port carries K_dev, and an instruction of an Open chip no longer stands selected in the test access port; `REOPEN` with a token that passes burns its nonce and M0 of the next odd record; with any other it ends with the first failed check and burns nothing. `BURN_CERT` burns the certificate's digest, M2 and M3, or nothing; the identity keys and the certificate are written to `ADDR`, and the operation ends with their length, or with 0x0A where the write fails. -/
def Obligations.RootsIdentityAndCertificate : Prop :=
  (∀ s : State, lcRuns 0x01 s.b = true → s.b.noRandom = false → s.b.lc.phase = 0 → (∀ p : Part, s.b.partExists p = false) →
    ∃ t, exec (.genRoot true) s = .next t ∧ t.hard.bat.check = rootCheck t.hard.bat.entropy ∧ t.hard.bat.inverted = false ∧ t.hard.fuse = s.hard.fuse ∧
      t.b.lc = { s.b.lc with go := false, done := true, error := false, err := 0, size := 0 } ∧ t.b = { s.b with lc := t.b.lc, ent := t.b.ent }) ∧
  (∀ (s : State) (m : Byte), lcReady s.b = true →
    exec (.arm m) s = .next { s with hard := { s.hard with bat := { s.hard.bat with armMask := s.hard.bat.armMask ||| m } },
                                     b := { s.b with lc := { s.b.lc with go := false, done := true, error := false, err := 0, size := 0 } } }) ∧
  (∀ s : State, lcReady s.b = true → closeErr s.hard s.b = 0 →
    ∃ t, exec .close s = .next t ∧ t.hard = { s.hard with fuse := s.hard.fuse.burn (nextRecord s.hard.fuse) (markCells 0) } ∧
      t.b.lc = { s.b.lc with go := false, done := true, error := false, err := 0, size := 0, phase := 1, rootSel := true } ∧
      t.b.jtag = { ir := if 0x10 ≤ s.b.jtag.ir.toNat ∧ s.b.jtag.ir.toNat ≤ 0x13 then 0xFF else s.b.jtag.ir, tcHalt := false } ∧
      t.b = { s.b with lc := t.b.lc, log := t.b.log, ic := t.b.ic, jtag := t.b.jtag }) ∧
  (∀ s : State, lcReady s.b = true → closeErr s.hard s.b ≠ 0 → exec .close s = .next (s.withB (lcEnd (closeErr s.hard s.b) 0 s.b))) ∧
  (∀ (s : State) (tok : Option Bytes), lcRuns 0x04 s.b = true →
    (reopenErr s.hard s.b tok = 0 →
      ∃ t, exec (.reopen tok) s = .next t ∧ t.b.lc.phase = 5 ∧
        t.hard = { s.hard with fuse := s.hard.fuse.burn (nextRecord s.hard.fuse) (BitVec.ofNat 64 (fieldAt (tok.getD []) 16 6 * 256) ||| markCells 0) }) ∧
    (reopenErr s.hard s.b tok ≠ 0 → exec (.reopen tok) s = .next (s.withB (lcEnd (reopenErr s.hard s.b tok) 0 s.b)))) ∧
  (∀ (s : State) (c : Option Bytes), lcRuns 0x06 s.b = true →
    (burnCertErr s.hard s.b c = 0 →
      ∃ t k, exec (.burnCert c) s = .next t ∧ t.b.lc.phase = 3 ∧ k = (s.hard.fuse.highest 16).getD 0 ∧
        t.hard = { s.hard with fuse := ((s.hard.fuse.burnSlot (k / 2) (Config.sha384 (c.getD []))).burn k (markCells 2)).burn k (markCells 3) }) ∧
    (burnCertErr s.hard s.b c ≠ 0 → exec (.burnCert c) s = .next (s.withB (lcEnd (burnCertErr s.hard s.b c) 0 s.b)))) ∧
  (∀ s : State, lcRuns 0x05 s.b = true → s.b.lc.rootSel = false ∨ rootPresent s.hard.bat = true → s.b.lc.len = 4256 → s.b.lc.addr.toNat % 8 = 0 →
    exec (.readId true) s = .next (s.withB (emit (.dmaWrite s.b.lc.addr (identityKeys (rootPort s.hard s.b.lc.rootSel)))
      { s.b with lc := { s.b.lc with go := false, done := true, error := false, err := 0, size := 4256 } })) ∧
    exec (.readId false) s = .next (s.withB (lcEnd 0x0A 0 s.b))) ∧
  (∀ s : State, lcRuns 0x07 s.b = true → s.b.lc.cert.length ≤ s.b.lc.len.toNat → s.b.lc.addr.toNat % 8 = 0 →
    exec (.readCert true) s = .next (s.withB (emit (.dmaWrite s.b.lc.addr s.b.lc.cert)
      { s.b with lc := { s.b.lc with go := false, done := true, error := false, err := 0, size := BitVec.ofNat 24 s.b.lc.cert.length } })) ∧
    exec (.readCert false) s = .next (s.withB (lcEnd 0x0A 0 s.b)))

/-- R51, R52, R98, R99, R106, R107, R184, R371, R382, R31: a write of `SWY_LC_BOOT` starts the fetch, once the tick counter is loaded; a fetched bundle that passes starts the patch, any other stops the start in `BOOT_STATE` 3; the asserted chip reset holds the block in reset with its log; a release whose tests pass runs mask ROM, one whose tests fail stops, and one before the clocks lock waits; `HALT_ACK` is recorded, and a Clamp ends in a chip reset with only slots 0 to 15 left. -/
def Obligations.StartsResetsAndTheClampEnd : Prop :=
  (∀ (s : State) (v : Word), s.b.up = true → s.b.lc.romRun = true → (s.b.lc.bootState = 0 ∨ s.b.lc.bootState = 3) →
    let b : Block := { s.b with lc := { s.b.lc with bundle := BitVec.ofNat 52 (wbits v 12 52), bootState := 1, bootErr := 0 } }
    (s.b.clk.loaded = true → exec (.lcBootWrite v) s = .next (s.withB (emit (.dmaRead (BitVec.ofNat 64 (wbits v 12 52 * 4096)) 4194304) b))) ∧
    (s.b.clk.loaded = false → exec (.lcBootWrite v) s = .next (s.withB b))) ∧
  (∀ (s : State) (d : Option Bytes), s.b.up = true → s.b.clk.loaded = true → s.b.lc.bootState = 1 →
    (bundleErr s.hard s.b d = 0 → ∃ t, exec (.bootBundleFetched d) s = .next t ∧ t.b.lc.bootState = 2 ∧ t.b.lc.bootErr = 0 ∧
      t.b.lc.patchHash = Config.sha384 ((d.getD []).take (64 + fieldAt (d.getD []) 12 4)) ∧ t.b = { s.b with lc := t.b.lc }) ∧
    (bundleErr s.hard s.b d ≠ 0 → ∃ t, exec (.bootBundleFetched d) s = .next t ∧ t.b.lc.bootState = 3 ∧ t.b.lc.bootErr = BitVec.ofNat 8 (bundleErr s.hard s.b d) ∧ t.hard = s.hard)) ∧
  (∀ s : State, ∃ b, exec .chipRstAssert s = .next (s.withB b) ∧ b.rst.chipRstN = true ∧ b.rst.chipRstReq = false ∧ b.rst.halted = false ∧ b.clk = Block.reset.clk ∧
    b.ks = Block.reset.ks ∧ b.parts = [] ∧ b.host = Block.reset.host ∧ b.regions = [] ∧ b.log = s.b.log) ∧
  (∀ (s : State) (k ts lg : Bool), s.b.rst.chipRstN = true → s.b.clk.locked = false →
    exec (.chipRstRelease k ts lg) s = .next (s.withB { s.b with rst := { s.b.rst with chipRstN := false }, clk := { s.b.clk with waits := some (k, ts, lg) } })) ∧
  (∀ (s : State) (k lg : Bool), s.b.rst.chipRstN = true → s.b.clk.locked = true →
    (∃ t, exec (.chipRstRelease k true lg) s = .next t ∧ t.b.rst.chipRstN = false ∧ t.b.lc.romRun = true ∧ t.b.lc.phase = BitVec.ofNat 4 (resume s.hard.fuse s.hard.bat).phase) ∧
    (∃ t, exec (.chipRstRelease k false lg) s = .next t ∧ t.b.rst.chipRstN = false ∧ t.b.lc.bootState = 3 ∧ t.b.lc.bootErr = 0 ∧ t.hard = s.hard)) ∧
  (∀ s : State, s.b.up = true → s.b.rst.halted = true → exec .haltAck s = .next (s.withB (logEv s.hard 0x090F 27 none 1 1 [] s.b))) ∧
  (∀ s : State, s.b.up = true → s.b.rst.halted = true →
    ∃ b, exec .clampEnd s = .next (s.withB b) ∧ b.rst.chipRstReq = true ∧ b.ks.slots = Tab.keep s.b.ks.slots (fun n _ => decide (n < 16)))

/-- R32, R50, R96, R103: the instructions of the test access port: what each selects and shifts out (what the scan chains and a debugger's reads return is a free value, log entry 83), TC's halt, the spread of the clock; those of an Open chip select `BYPASS` in any `PHASE` other than 0. -/
def Obligations.TestAccessPort : Prop :=
  (∀ s : State, exec .jtagExtest s = .next (s.withB { s.b with jtag := { s.b.jtag with ir := 0x00 } }) ∧
    exec .jtagSamplePreload s = .next (s.withB { s.b with jtag := { s.b.jtag with ir := 0x02 } }) ∧
    (∃ v : BitVec 32, exec .jtagIdcode s = .next (s.withB (emit (.jtag (leBytes 4 v.toNat)) { s.b with jtag := { s.b.jtag with ir := 0x01 } })) ∧
      v.extractLsb' 12 16 = 0x5A17 ∧ v.extractLsb' 28 4 = Config.siliconRev ∧ v.extractLsb' 1 11 = Config.manufacturer ∧ v.getLsbD 0 = true)) ∧
  (∀ (s : State) (c : Byte), exec (.jtagBypass c) s = .next (s.withB { s.b with jtag := { s.b.jtag with ir := 0xFF } })) ∧
  (∀ s : State, s.hard.fuse.open' = true →
    exec .jtagIntScan s = .next (s.withB { s.b with jtag := { s.b.jtag with ir := 0x10 }, out := .jtag (leBytes 64 (Config.openValue s.b.ent.opens).toNat) :: s.b.out, ent := { s.b.ent with opens := s.b.ent.opens + 1 } }) ∧
    exec (.jtagTcDbg .halt) s = .next (s.withB { s.b with jtag := { ir := 0x11, tcHalt := true } }) ∧
    exec (.jtagTcDbg .resume) s = .next (s.withB { s.b with jtag := { ir := 0x11, tcHalt := false } }) ∧
    exec (.jtagTcDbg .step) s = .next (s.withB { s.b with jtag := { s.b.jtag with ir := 0x11 } }) ∧
    (∀ a, exec (.jtagTcDbg (.memRead a)) s = .next (s.withB { s.b with jtag := { s.b.jtag with ir := 0x11 }, out := .jtag (leBytes 64 (Config.openValue s.b.ent.opens).toNat) :: s.b.out, ent := { s.b.ent with opens := s.b.ent.opens + 1 } })) ∧
    (∀ a v, exec (.jtagTcDbg (.memWrite a v)) s = .next (s.withB { s.b with jtag := { s.b.jtag with ir := 0x11 } })) ∧
    (∀ off : Bool, exec (.jtagClkCtl off) s = .next (s.withB { s.b with jtag := { s.b.jtag with ir := 0x12 }, clk := { s.b.clk with spreadOff := off } })) ∧
    exec .jtagFuseRead s = .next (s.withB (emit (.jtag (fuseBytes s.hard.fuse)) { s.b with jtag := { s.b.jtag with ir := 0x13 } }))) ∧
  (∀ (s : State) (c : Instr), s.hard.fuse.open' = false → (c = .jtagIntScan ∨ (∃ op, c = .jtagTcDbg op) ∨ c = .jtagFuseRead ∨ ∃ off, c = .jtagClkCtl off) →
    exec c s = .next (s.withB { s.b with jtag := { s.b.jtag with ir := 0xFF } }))

/-! ### Interrupts and the log -/

/-- R361, R362: a source is delivered to its owner as one MSI-X write and becomes active; a firing makes an inactive source pending and leaves a pending one as it is; a completion makes an active source inactive, or pending again when it fired meanwhile, by the state machine of either interface mode. -/
def Obligations.SourcesAreDeliveredAndFire : Prop :=
  (∀ (s : State) (k x : Nat) (src : Src), s.b.up = true → s.b.nextOwner s.b.ic.turn 9 = some (k, x, src) →
    ∃ b, exec .interruptDelivery s = .next (s.withB b) ∧ b.out = .msix src.vector :: s.b.out ∧ b.ic.turn = (k + 1) % 9 ∧
      b.ic.srcs = Tab.set s.b.ic.srcs x { src with state := 2, requeued := false, cond := if srcIsLevel x then src.cond else false } ∧ b = { s.b with ic := b.ic, out := b.out }) ∧
  (∀ (src : Src) (pap level : Bool), src.state = 0 → (src.fired pap level).state = 1) ∧
  (∀ (src : Src) (pap level : Bool), src.state = 1 → src.fired pap level = src) ∧
  (∀ (src : Src) (level : Bool), src.state = 2 → (src.fired true level).state = 3 ∧ (src.fired false level).state = 2) ∧
  (∀ src : Src, src.state = 2 → (src.completed true).state = 0) ∧
  (∀ src : Src, src.state = 3 → (src.completed true).state = 1 ∧ (src.completed true).requeued = true) ∧
  (∀ src : Src, (src.completed false).state = if src.cond then 1 else 0) ∧
  (∀ src : Src, src.state = 2 → ((src.fired false false).completed false).state = 1)

/-- R363, R364: a completion has its effect for an active or active-and-pending source of that owner; any other is counted in the owner's `STRAY` and in the total and changes no source. A `SETPEND` of an owned source is one firing of it (while halted, only of the sources of R365); of another, it has no effect. -/
def Obligations.CompletionsAndSetpend : Prop :=
  ∀ (s : State) (o : Owner) (x : BitVec 10), s.b.up = true → s.b.lc.bootState = 2 →
    let src := s.b.src s.hard.cfg x.toNat
    let taken := x.toNat ≤ 420 ∧ src.owner = some o ∧ (src.state = 2 ∨ src.state = 3)
    (taken → exec (.interruptDone o x) s = .next (s.withB (setSrc x.toNat (src.completed (icPap s.hard.cfg)) s.b))) ∧
    (¬ taken → ∃ b, exec (.interruptDone o x) s = .next (s.withB b) ∧ (b.icPage (ownerKey o)).stray = (s.b.icPage (ownerKey o)).stray + 1 ∧
      b.ic.strayTotal = s.b.ic.strayTotal + 1 ∧ b.ic.srcs = s.b.ic.srcs ∧ b = { s.b with ic := b.ic }) ∧
    (src.owner = some o → s.b.rst.halted = false ∨ srcFiresHalted x.toNat = true →
      exec (.interruptSetpend o x) s = .next (s.withB (setSrc x.toNat (src.fired (icPap s.hard.cfg) (srcIsLevel x.toNat)) s.b))) ∧
    (src.owner ≠ some o ∨ (s.b.rst.halted = true ∧ srcFiresHalted x.toNat = false) → exec (.interruptSetpend o x) s = .next s)

/-- R388: a read of word 3 of an entry returns its word and moves `RD` to the next entry; with no entry there it returns zero and sets `GONE`. -/
def Obligations.LogDataReadAdvances : Prop :=
  ∀ (s : State) (o : Owner), s.b.up = true → s.b.lc.bootState = 2 →
    ∃ b, exec (.logDataRead o) s = .next (s.withB b) ∧ b.out = .regRead (s.b.logWord (ownerKey o) 3) :: s.b.out ∧
      (b.logPage (ownerKey o)).rd = (s.b.logPage (ownerKey o)).rd + 1 ∧
      (b.logPage (ownerKey o)).gone = ((s.b.logPage (ownerKey o)).gone || (s.b.logEntry (ownerKey o) (s.b.logPage (ownerKey o)).rd.toNat).isNone) ∧
      (s.b.logEntry (ownerKey o) (s.b.logPage (ownerKey o)).rd.toNat = none → s.b.logWord (ownerKey o) 3 = 0) ∧
      b.log.rings = s.b.log.rings ∧ b = { s.b with log := b.log, out := b.out }

/-- R386: no event makes a ring of the log longer than its capacity, 448 entries of a partition and 512 global ones; a full ring loses its oldest entry. -/
def Obligations.LogRingsKeepTheirCapacity : Prop :=
  ∀ (h : Hard) (code isl : Nat) (p : Option Part) (view sev : Nat) (args : List (Nat × Nat)) (b : Block),
    (∀ r, (b.ring r).length ≤ ringCap r) → ∀ r, ((logEv h code isl p view sev args b).ring r).length ≤ ringCap r

/-! ### The sealing fabric -/

/-- R29, R120, R175, R176, R179, R181: a grid switch; a request that enters its partition's entries, or waits at its engine's crossing behind a full part; work of more than 64 groups as consecutive requests; a generation with no value refused; and the start of the next windows, in which a partition's groups are issued in its own cells alone. -/
def Obligations.GridsAndCipherRequests : Prop :=
  (∀ (s : State) (isl : Island) (x : NextGrid) (rest : List NextGrid), s.b.live = true → (s.b.island isl).grid.next = x :: rest → (s.b.island isl).grid.column = 0 →
    x.due.toNat ≤ s.b.clk.tick.toNat → (∀ q ∈ (s.b.island isl).reqs, (s.b.jigOf q.req.part).isSome = true ∧ (s.b.part q.req.part).state ≠ 3) → (s.b.island isl).held = [] →
    ∃ b, exec (.gridSwitch isl) s = .next (s.withB b) ∧ b.island isl = { s.b.island isl with grid := { (s.b.island isl).grid with basis := x.basis, cells := x.cells, gen := (s.b.island isl).grid.gen + 1, next := rest, foreign := [] } } ∧
      b = { s.b with islands := b.islands }) ∧
  (∀ (s : State) (isl : Island) (req : CipherReq) (j : Jig), s.b.live = true → islandPresent s.hard.cfg isl = true → (s.b.island isl).asleep = false → (s.b.island isl).inReset = false →
    s.b.jigOf req.part = some j → j.share isl ≠ 0 → 1 ≤ req.groups →
    (s.b.genLive req.slot req.gen = false → exec (.cipherRequest isl req) s = .next (s.withB (emit (.cipherDone isl req.part req.ret stKeyOrphaned) s.b))) ∧
    (s.b.genLive req.slot req.gen = true → (s.b.slot req.slot.toNat).attr.uses.getLsbD (useBit req.use) = true → req.use.getLsbD 0 = false →
      (64 < req.groups → exec (.cipherRequest isl req) s = .next (s.withB ((splitReq (req.groups / 64 + 1) req).foldl (fun b r => enqueue isl r b) s.b))) ∧
      (req.groups ≤ 64 → ((s.b.island isl).held.any fun q => decide (q.part = req.part)) = false →
        (((s.b.island isl).reqs.filter fun q => decide (q.req.part = req.part)).length < 32 →
          exec (.cipherRequest isl req) s = .next (s.withB (modIsland isl (fun st => { st with reqs := st.reqs ++ [{ req := req, issued := 0 }] }) s.b))) ∧
        (32 ≤ ((s.b.island isl).reqs.filter fun q => decide (q.req.part = req.part)).length →
          exec (.cipherRequest isl req) s = .next (s.withB (modIsland isl (fun st => { st with held := st.held ++ [req] }) s.b)))))) ∧
  (∀ r : CipherReq, 1 ≤ r.groups → (((splitReq (r.groups / 64 + 1) r).map fun x => x.groups).sum = r.groups ∧ ∀ x ∈ splitReq (r.groups / 64 + 1) r, x.groups ≤ 64 ∧ x.slot = r.slot ∧ x.part = r.part)) ∧
  (∀ (s : State) (isl : Island), s.b.live = true → coresOf s.hard.cfg isl ≠ 0 → islandPresent s.hard.cfg isl = true → (s.b.island isl).asleep = false → (s.b.island isl).inReset = false →
    (∀ q ∈ (s.b.island isl).reqs, s.b.genLive q.req.slot q.req.gen = true) → (s.b.island isl).held = [] → (s.b.island isl).grid.waiting = [] → (s.b.island isl).grid.moved = [] →
    ∃ b new, exec (.coreWindowStart isl) s = .next (s.withB b) ∧ (b.island isl).groups = (s.b.island isl).groups ++ new ∧
      (b.island isl).grid = { (s.b.island isl).grid with column := ((s.b.island isl).grid.column + 1) % columnsOf s.hard.cfg isl, foreign := [], issued := (b.island isl).grid.issued } ∧
      (∀ g ∈ new, ∃ p, g.part = some p ∧ cellOwner (s.b.island isl).grid.cells (columnsOf s.hard.cfg isl) g.core (s.b.island isl).grid.column = p.val) ∧
      b = { s.b with islands := b.islands })

/-- R166, R168, R170, R171, R173, R185: a group whose copies agree goes to its engine as keystream, a finished tag as it is; a mismatch is recomputed once, in a warning period up to three times, and then Clamps; a recomputation takes a cycle at nobody's cost, or the one cycle a window of another partition gives, or goes to another core, or waits; a passed periodic test is noted, a forced one takes a cycle and is counted, a wrong answer of both copies Clamps. -/
def Obligations.ComparedGroupsAndCoreTests : Prop :=
  (∀ (s : State) (isl : Island) (core : Nat) (g : Group) (p : Part), s.b.live = true → ((s.b.island isl).groups.find? fun x => decide (x.core = core)) = some g → g.recomp = 0 → g.part = some p →
    exec (.cipherGroupCompare isl core true) s = .next (s.withB (emit (if g.tag then .ghash isl p g.ret else .group isl p g.ret (keystream g.key 4 g.ctr)) (modIsland isl (fun st => { st with groups := st.groups.erase g }) s.b)))) ∧
  (∀ (s : State) (isl : Island) (core : Nat) (g : Group), s.b.live = true → ((s.b.island isl).groups.find? fun x => decide (x.core = core)) = some g → 1 ≤ g.recomp →
    (s.b.inWarning isl = false ∨ 3 ≤ g.recomp) →
    exec (.cipherGroupCompare isl core false) s = .next (s.withB (clamp s.hard 1 (islandCode isl) none [] (mismatchNote s.hard isl g (modIsland isl (fun st => { st with groups := st.groups.erase g }) s.b))))) ∧
  (∀ (s : State) (isl : Island) (core : Nat) (g : Group), s.b.live = true → ((s.b.island isl).groups.find? fun x => decide (x.core = core)) = some g →
    (g.recomp = 0 ∨ (s.b.inWarning isl = true ∧ g.recomp < 3)) →
    exec (.cipherGroupCompare isl core false) s = .next (s.withB (modIsland isl (fun st => reissue s.hard.cfg isl
        { g with recomp := g.recomp + 1, first := if g.recomp = 0 then s.b.clk.tick else g.first, warned := if g.recomp = 0 then s.b.inWarning isl else g.warned }
        { st with mmRecomp := if s.b.inWarning isl then satInc st.mmRecomp else st.mmRecomp })
      (modIsland isl (fun st => { st with groups := st.groups.erase g }) s.b)))) ∧
  (∀ (c : Cfg) (isl : Island) (g : Group) (st : IslandSt),
    (freeCycle c isl st.grid g.part g.core = true → reissue c isl g st = { st with groups := st.groups ++ [g] }) ∧
    (freeCycle c isl st.grid g.part g.core = false → st.grid.foreign.contains g.core = false →
      (reissue c isl g st).mmDisp = satInc st.mmDisp ∧ (reissue c isl g st).grid.foreign = g.core :: st.grid.foreign ∧ g ∈ (reissue c isl g st).groups) ∧
    (freeCycle c isl st.grid g.part g.core = false → st.grid.foreign.contains g.core = true →
      (∀ k, (List.range (coresOf c isl)).find? (fun k => freeCycle c isl st.grid g.part k) = some k → reissue c isl g st = { st with groups := st.groups ++ [{ g with core := k }] }) ∧
      ((∀ k, k < coresOf c isl → freeCycle c isl st.grid g.part k = false) → reissue c isl g st = { st with grid := { st.grid with waiting := st.grid.waiting ++ [g] } }))) ∧
  (∀ (s : State) (isl : Island) (core : Nat), s.b.live = true → islandPresent s.hard.cfg isl = true → core < coresOf s.hard.cfg isl → (s.b.island isl).asleep = false → (s.b.island isl).inReset = false →
    Tab.get? (s.b.island isl).tests core = none →
    (freeCycle s.hard.cfg isl (s.b.island isl).grid none core = true →
      exec (.periodicCoreTest isl core .pass false) s = .next (s.withB (modIsland isl (fun st => { st with tests := Tab.set st.tests core s.b.clk.tick }) s.b)) ∧
      exec (.periodicCoreTest isl core .wrongBoth false) s = .next (s.withB (clamp s.hard 5 (islandCode isl) none [] (modIsland isl (fun st => { st with tests := Tab.set st.tests core s.b.clk.tick }) s.b)))) ∧
    (freeCycle s.hard.cfg isl (s.b.island isl).grid none core = false → (s.b.island isl).grid.foreign.contains core = false →
      exec (.periodicCoreTest isl core .pass false) s = .next s ∧
      ∃ b, exec (.periodicCoreTest isl core .pass true) s = .next (s.withB b) ∧ (b.island isl).mmForced = satInc (s.b.island isl).mmForced ∧ (b.island isl).mmDisp = satInc (s.b.island isl).mmDisp ∧
        Tab.get? (b.island isl).tests core = some s.b.clk.tick ∧ b = { s.b with islands := b.islands }))

/-- R185: random values are withheld from a failed health test until the source recovers, the DRBG is reseeded after 2^20 requests, and a command that has waited more than 1 s ends with `ST_ABORTED`. -/
def Obligations.RandomValuesAreTested : Prop :=
  (∀ s : State, s.b.up = true → 2 ^ 20 ≤ s.b.ent.gens → s.b.ent.withheld = false → exec .drbgReseed s = .next (s.withB { s.b with ent := { s.b.ent with gens := 0 } })) ∧
  (∀ s : State, s.b.up = true → exec .entropyHealthFail s = .next (s.withB { s.b with ent := { s.b.ent with withheld := true } })) ∧
  (∀ s : State, s.b.up = true → exec .entropySourceRecovered s = .next (s.withB { s.b with ent := { s.b.ent with withheld := false } })) ∧
  (∀ (s : State) (p : Part) (ctx : CmdCtx) (t : Word), s.b.live = true → s.b.ent.waiting = [(ctx, p, t)] → t.toNat + 1000000000 < s.b.clk.tick.toNat →
    exec (.entropyWaitTimeout p) s = .next (s.withB (logEv s.hard 0x0910 27 (some p) 0 2 [] (complete s.hard ctx 0x01 0 0 0 s.b))))

/-! ### Keys -/

/-- R112, R114, R115, R116, R117, R120, R127, R128, R132: the four key commands. -/
def Obligations.KeyCommandsTakeEffect : Prop :=
  (∀ (s : State) (ctx : CmdCtx) (q : Queue) (parent : Slot) (uses : BitVec 3) (ex : Bool) (lim : BitVec 6) (target : Slot) (label : BitVec 256) (n : Nat),
    s.starts ctx 0x08 0 q → s.b.keysPaused = false → keyRefusal s.b q parent = none → (s.b.slot parent.toNat).attr.uses.getLsbD useDerive = true →
    depthOf s.b 8 parent.toNat < 7 → targetSlot s.b target = some n →
    exec (.cmdKeyDerive ctx parent uses ex lim target label) s = .next (s.settled (complete s.hard ctx 0x00 0 n 0 (setSlot n
      { value := kdf (s.b.keyVal parent) (leBytes 32 label.toNat ++ leBytes 2 0) "SWY-USER",
        attr := { st := 1, limitExp := lim, generation := 0, parent := parent, owner := (s.b.slot parent.toNat).attr.owner, testRoot := (s.b.slot parent.toNat).attr.testRoot,
                  exportable := ex, uses := userUses uses, type := 13 },
        count := 0, pasid := q.pasid, label := label, heldBy := [], told := 0 } (markStarted ctx s.b))))) ∧
  (∀ (s : State) (ctx : CmdCtx) (q : Queue) (slot : Slot) (tick : Word) (n : Nat),
    s.starts ctx 0x09 0 q → s.b.keysPaused = false → keyRefusal s.b q slot = none → (s.b.slot slot.toNat).attr.type = 13 → s.b.repl slot.toNat = none →
    (s.b.slot slot.toNat).attr.generation ≠ 0xFFFF → s.b.lowestFreeSlot = some n →
    exec (.cmdKeyReplace ctx slot tick) s = .next (s.settled (setRepl slot.toNat
      { shadow := BitVec.ofNat 12 n, ctx := some ctx, stage := .staged, commitTick := tick, notBefore := 0, await := [], failedKat := false, retireTick := none, link := none }
      (setSlot n { value := kdf (s.b.keyVal (s.b.slot slot.toNat).attr.parent)
                     (leBytes 32 (s.b.slot slot.toNat).label.toNat ++ leBytes 2 ((s.b.slot slot.toNat).attr.generation + 1).toNat) "SWY-USER",
                   attr := { (s.b.slot slot.toNat).attr with st := 2, generation := (s.b.slot slot.toNat).attr.generation + 1 },
                   count := 0, pasid := (s.b.slot slot.toNat).pasid, label := (s.b.slot slot.toNat).label, heldBy := [], told := 0 } (markStarted ctx s.b))))) ∧
  (∀ (s : State) (ctx : CmdCtx) (q : Queue) (slot : Slot),
    s.starts ctx 0x0A 0 q → s.b.keysPaused = false → keyRefusal s.b q slot = none → (s.b.slot slot.toNat).attr.type = 13 →
    exec (.cmdKeyInvalidate ctx slot) s = .next (s.settled (invalidate s.hard slot.toNat (some ctx) (markStarted ctx s.b)))) ∧
  (∀ (s : State) (ctx : CmdCtx) (q : Queue) (slot : Slot) (addr : Word) (j : Jig) (r : Bytes × Block),
    s.starts ctx 0x0B 0 q → s.b.keysPaused = false → keyRefusal s.b q slot = none → s.b.jigOf q.part = some j → addr.toNat % 8 = 0 →
    (s.b.slot slot.toNat).attr.exportable = true → s.b.noRandom = false → wrapForOwner j (s.b.slot slot.toNat) (entropyServed ctx (markStarted ctx s.b)) = r →
    exec (.cmdKeyWrap ctx slot 0xFFFFFFFF addr true) s = .next (s.settled (complete s.hard ctx 0x00 0 r.1.length 0 (emit (.dmaWrite addr r.1) r.2))))

/-- R117, R118: an invalidation orphans its root, and no slot with the root above it in the tree, up to seven levels, is usable any longer; slots 0 to 7 other than the root keep their state. -/
def Obligations.InvalidationReachesTheWholeTree : Prop :=
  ∀ (h : Hard) (root n k : Nat) (ctx : Option CmdCtx) (b : Block), root < 4096 → k ≤ 7 →
    ((fun x => (b.slot x).attr.parent.toNat)^[k]) n = root → (∀ i, i < k → ((fun x => (b.slot x).attr.parent.toNat)^[i]) n ≠ 0) →
    (invalidate h root ctx b).slotLive n = false ∧ ((invalidate h root ctx b).slot root).attr.st = 3 ∧
    (∀ x, x < 8 → x ≠ root → Tab.has b.ks.slots x = true → b.ks.repls = [] → ((invalidate h root ctx b).slot x).attr.st = (b.slot x).attr.st)

/-- R29, R117, R118, R126, R129, R130, R131: messages of the KDR take effect in the order sent, and one that fails its CRC is a Clamp: a kill makes an island forget a value, its acknowledgement lets the invalidation go on, a load enters the cache; a zeroed slot is free, and a miss is answered with a load; a key's count is reported to TC, and its limit and the point before it are recorded once each. -/
def Obligations.KillsLoadsMissesAndLimits : Prop :=
  (∀ (s : State) (isl : Island) (slot : Slot) (rest : List KdrMsg), s.b.live = true → takeKill slot (s.b.island isl).kdrIn = some rest →
    exec (.kdrKill isl slot true) s = .next (s.settled (modIsland isl (fun st => { st with kdrIn := rest, cache := st.cache.filter fun e => decide (e.home ≠ slot) }) s.b)) ∧
    exec (.kdrKill isl slot false) s = .next (s.settled (clamp s.hard 4 28 none [] s.b))) ∧
  (∀ (slot : Slot) (ms : List KdrMsg), (∀ rest, takeKill slot ms = some rest ↔ ms = .kill slot :: rest) ∧ (takeKill slot ms = none ↔ ∀ rest, ms ≠ .kill slot :: rest)) ∧
  (∀ (s : State) (isl : Island) (slot : Slot), s.b.live = true → (s.b.ks.invals.any fun v => v.waits.contains (isl, slot)) = true → killDone (s.b.island isl) slot = true →
    exec (.kdrAcknowledge isl slot true) s = .next (s.settled (pushAll (ackKill s.hard isl slot s.b))) ∧
    exec (.kdrAcknowledge isl slot false) s = .next (s.settled (clamp s.hard 4 28 none [] s.b))) ∧
  (∀ (s : State) (slot : Slot), s.b.live = true → (s.b.slot slot.toNat).attr.st = 3 → (∀ v ∈ s.b.ks.invals, ∀ w ∈ v.waits, w.2 ≠ slot) →
    exec (.orphanZeroed slot) s = .next (s.settled { s.b with ks := { s.b.ks with slots := Tab.del s.b.ks.slots slot.toNat } })) ∧
  (∀ (s : State) (n : Fin 8) (slot home : Slot) (gen : BitVec 16) (prev : Bool) (v : Key) (count : Nat) (commit : Word) (o : BitVec 4) (rest : List KdrMsg),
    s.b.live = true → (s.b.island (.me n)).asleep = false → (s.b.island (.me n)).inReset = false →
    (s.b.island (.me n)).kdrIn = .load slot home gen prev v count commit o .own 0 :: rest →
    (gen = (s.b.slot slot.toNat).attr.generation →
      exec (.kdrKeyLoad (.me n) slot true) s = .next (s.settled (pushAll (cacheInsert s.hard.cfg (.me n)
        { slot := slot, home := home, gen := gen, previous := prev, value := v, count := count, reported := count, commit := if commit.toNat ≤ s.b.clk.tick.toNat then 0 else commit, part := o, what := .own, alpha := 0 }
        (modIsland (.me n) (fun st => { st with kdrIn := rest }) s.b))))) ∧
    (gen ≠ (s.b.slot slot.toNat).attr.generation → prev = false → commit.toNat ≤ s.b.clk.tick.toNat → s.b.repl slot.toNat = none →
      exec (.kdrKeyLoad (.me n) slot true) s = .next (s.settled (pushAll (unholdSlot (.me n) slot (modIsland (.me n) (fun st => { st with kdrIn := rest }) s.b))))) ∧
    exec (.kdrKeyLoad (.me n) slot false) s = .next (s.settled (pushAll (clamp s.hard 4 28 none [] s.b)))) ∧
  (∀ (s : State) (isl : Island) (p : Part) (slot : Slot), s.b.live = true → (cipherIslands s.hard.cfg).contains isl = true → (s.b.island isl).asleep = false → (s.b.island isl).inReset = false →
    (s.b.slot slot.toNat).attr.owner = BitVec.ofNat 4 p.val → s.b.slotLive slot.toNat = true → s.b.cached isl slot = none → loadPending s.b isl slot false .own = false →
    (s.b.groupOfSlot p slot = none → s.b.repl slot.toNat = none → exec (.keyCacheMiss isl p slot true) s = .next (s.settled (loadKey isl slot 0 s.b))) ∧
    (∀ r, s.b.groupOfSlot p slot = none → s.b.repl slot.toNat = some r → r.stage = .confirmed →
      exec (.keyCacheMiss isl p slot true) s = .next (s.settled (loadNext isl slot r.shadow r.commitTick (loadKey isl slot 0 s.b)))) ∧
    (∀ g, s.b.groupOfSlot p slot = some g → exec (.keyCacheMiss isl p slot true) s = .next (s.settled (wantGroup isl p g s.b))) ∧
    exec (.keyCacheMiss isl p slot false) s = .next (s.settled (clamp s.hard 4 28 none [] s.b))) ∧
  (∀ (s : State) (isl : Island) (slot : Slot) (e : CacheEnt), s.b.live = true → s.b.cached isl slot = some e → (s.b.slot slot.toNat).attr.limitExp ≠ 0 →
    exec (.keyCountReport isl slot false) s = .next (s.settled (clamp s.hard 4 28 none [] s.b)) ∧
    exec (.keyCountReport isl slot true) s = .next (s.settled (modSlot slot.toNat (fun k => { k with count := max k.count e.count })
      (modIsland isl (fun st => { st with cache := st.cache.map fun x => if x = e then { e with reported := e.count } else x }) s.b)))) ∧
  (∀ (s : State) (isl : Island) (slot : Slot) (e : CacheEnt), s.b.live = true → s.b.cached isl slot = some e → (s.b.slot slot.toNat).attr.limitExp ≠ 0 →
    (s.b.slot slot.toNat).attr.st = 1 → (s.b.slot slot.toNat).attr.type = 13 →
    (nearPoint (s.b.slot slot.toNat).attr.limitExp.toNat ≤ s.b.useCount isl slot → (s.b.slot slot.toNat).told.getLsbD 0 = false →
      exec (.keyLimitNear isl slot false) s = .next (s.settled (clamp s.hard 4 28 none [] s.b)) ∧
      exec (.keyLimitNear isl slot true) s = .next (s.settled (modSlot slot.toNat (fun k => { k with told := k.told ||| 1 })
        (keyNote s.hard 0x0203 (islandCode isl) slot.toNat [aW8 (s.b.useCount isl slot)] (reportCount isl slot e s.b))))) ∧
    (2 ^ (s.b.slot slot.toNat).attr.limitExp.toNat ≤ s.b.useCount isl slot → (s.b.slot slot.toNat).told.getLsbD 1 = false →
      exec (.keyLimitReached isl slot false) s = .next (s.settled (clamp s.hard 4 28 none [] s.b)) ∧
      exec (.keyLimitReached isl slot true) s = .next (s.settled (modSlot slot.toNat (fun k => { k with told := k.told ||| 2 })
        (keyNote s.hard 0x0204 (islandCode isl) slot.toNat [aW8 (s.b.useCount isl slot)] (reportCount isl slot e s.b))))))

/-- R120, R121, R122, R123, R124: a replacement's known-answer check, its confirmations and their deadline, its commit and its retirement. -/
def Obligations.ReplacementsAreCheckedConfirmedAndCommitted : Prop :=
  (∀ (s : State) (slot : Slot) (r : Repl), s.b.live = true → s.b.repl slot.toNat = some r → r.stage = .staged → s.b.keysPaused = false →
    (∀ isl, (s.b.slot slot.toNat).attr.type = 13 → r.link = none → r.await = [] → r.commitTick = 0 ∨ s.b.clk.tick.toNat ≤ r.commitTick.toNat →
      exec (.knownAnswerCheck slot true isl) s = .next (s.settled (confirmRepl s.hard slot (setRepl slot.toNat { r with stage := .checked } s.b)))) ∧
    (∀ isl, r.commitTick ≠ 0 → r.commitTick.toNat < s.b.clk.tick.toNat → exec (.knownAnswerCheck slot true isl) s = .next (s.settled (failRepl s.hard slot.toNat 1 stAborted s.b))) ∧
    (∀ isl, r.failedKat = false → (replIslands s.b slot).contains isl = true →
      exec (.knownAnswerCheck slot false isl) s = .next (s.settled (keyNote s.hard 0x0207 27 slot.toNat [aByte (islandCode isl)] (setRepl slot.toNat { r with failedKat := true } s.b)))) ∧
    (∀ isl, r.failedKat = true → exec (.knownAnswerCheck slot false isl) s = .next (s.settled (clamp s.hard 3 27 none [] s.b)))) ∧
  (∀ (s : State) (sec : Sec) (n : Nat) (r : Repl) (cx kcv : Word), s.hears sec →
    ((heard sec s.b).ks.repls.find? fun e => decide (((heard sec s.b).slot e.1).attr.owner = BitVec.ofNat 4 sec.part.val) &&
      (match e.2.link with | some l => l.egress && decide (linkContext l = cx.toNat) | none => false)) = some (n, r) →
    n < 4096 → r.await.contains sec.peer = true → kcv = kcvOf ((heard sec s.b).slot r.shadow.toNat).value → s.b.clk.tick.toNat + 10000 ≤ r.commitTick.toNat →
    exec (.keyConfirm sec 6 0 cx kcv) s = .next (s.settled (advanceRepl s.hard (BitVec.ofNat 12 n)
      (setRepl n { r with await := r.await.filter fun m => decide (m ≠ sec.peer) } (heard sec s.b))))) ∧
  (∀ (s : State) (slot : Slot) (r : Repl) (p : Part), s.b.live = true → s.b.repl slot.toNat = some r → ownerPart (s.b.slot slot.toNat).attr.owner = some p → r.await ≠ [] → r.stage ≠ .committed →
    (∀ m ∈ r.await, (s.b.peer p m).inSession = true) → r.commitTick ≠ 0 → r.commitTick.toNat < s.b.clk.tick.toNat + 10000 →
    exec (.keyConfirmDeadline slot) s = .next (s.settled (failRepl s.hard slot.toNat 2 0x01 s.b))) ∧
  (∀ (s : State) (slot : Slot) (r : Repl), s.b.live = true → s.b.repl slot.toNat = some r → r.stage = .confirmed → r.commitTick ≠ 0 → r.commitTick.toNat ≤ s.b.clk.tick.toNat →
    exec (.keyReplaceCommit slot) s = .next (s.settled (pushAll (commitRepl s.hard slot s.b)))) ∧
  (∀ (s : State) (slot : Slot) (r : Repl) (t : Word), s.b.live = true → s.b.repl slot.toNat = some r → r.stage = .committed → r.retireTick = some t → t.toNat ≤ s.b.clk.tick.toNat →
    exec (.keyRetire slot) s = .next (s.settled (invalidate s.hard r.shadow.toNat none (dropRepl slot.toNat s.b))))

/-- R124: a commit puts the shadow's value and generation into the slot in one swap. -/
def Obligations.CommitSwapsInTheNewValue : Prop :=
  ∀ (h : Hard) (s : Slot) (r : Repl) (b : Block), b.repl s.toNat = some r → r.shadow ≠ s →
    ((commitRepl h s b).slot s.toNat).value = (b.slot r.shadow.toNat).value ∧
    ((commitRepl h s b).slot s.toNat).attr.generation = (b.slot r.shadow.toNat).attr.generation ∧
    ((commitRepl h s b).slot s.toNat).count = 0

/-! ### The optical ports -/

/-- R197: what a window has marked it never accepts again, whatever is marked in between: no duplicate is delivered. -/
def Obligations.NoSequenceNumberIsDeliveredTwice : Prop :=
  ∀ (w w' w'' : Window) (q floor : Nat) (qs : List Nat), w.mark q = some w' → qs.foldlM (fun (x : Window) n => x.mark n) w' = some w'' →
    w''.pre floor q = false ∨ w''.mark q = none

/-- R197: a window's pre-check and mark. `top` is T + 1, bit n of `bits` stands for sequence number T − n; F is the record's floor, and a new context starts with T = F − 1 and an empty bitmap. -/
def Obligations.ReplayWindowsCheckAndMark : Prop :=
  (∀ f : Nat, (Window.fresh f).top = f ∧ (Window.fresh f).bits = 0) ∧
  (∀ (w : Window) (f q : Nat), w.pre f q = true ↔ f ≤ q ∧ (w.top ≤ q ∨ w.top ≤ q + 4096 ∧ w.bits.getLsbD (w.top - 1 - q) = false)) ∧
  (∀ (w : Window) (q : Nat), w.mark q = none ↔ q < w.top ∧ (q + 4096 < w.top ∨ w.bits.getLsbD (w.top - 1 - q) = true)) ∧
  (∀ (w w' : Window) (q : Nat), w.mark q = some w' → w'.top = max w.top (q + 1) ∧
    ∀ x : Nat, x < w'.top → w'.top ≤ x + 4096 → w'.bits.getLsbD (w'.top - 1 - x) = (decide (x = q) || decide (x < w.top) && w.bits.getLsbD (w.top - 1 - x)))

/-- R187, R189, R190: a sealed frame is the 16 B header with `CMARK` and `HOPS` zero, the ciphertext and a 16 B tag; a frame's bytes read back as its fields. -/
def Obligations.FramesParseAsTheyAreWritten : Prop :=
  ∀ (f : Frame) (tag : BitVec 128), f.payload.length % 8 = 0 → f.payload.length ≤ 512 → 1 ≤ f.ftype.toNat → f.ftype.toNat ≤ 8 → (f.skind = true → f.ftype = 5) →
    parseFrame (plainFrame f tag) = some { f with cmark := false, hops := 0, tag := tag } ∧ (plainFrame f tag).length = f.payload.length + 32

/-- R37, R157, R188, R193, R194, R231: a frame that breaks step 1 is counted as malformed and one for a sleeping LE waits for it, an admission frame goes to the envelope path, a tray frame of at most five stages to the transaction path, and a frame for a partition that is not loaded is counted; the data of a scheduled slot is sealed for its egress pin; a sealed frame still in the Shim 1,250 ticks after the boundary that ends its epoch is dropped. -/
def Obligations.FramesAreCheckedScheduledAndDropped : Prop :=
  (∀ (s : State) (k : Port) (node : BitVec 16) (p : Part) (bs : Bytes), s.b.live = true → portPresent s.hard.cfg k = true → (s.b.island (portIsland k)).inReset = false → (s.b.island (portIsland k)).asleep = false →
    (parseFrame bs = none → exec (.frameReceived k node p bs) s = .next (s.withB (modPort k (fun x => { x with malformed := x.malformed + 1 }) s.b))) ∧
    (∀ f : Frame, parseFrame bs = some f → (s.b.port k).mode = 0 →
      (f.ftype = 4 → exec (.frameReceived k node p bs) s = .next (s.withB (emit (.toEnvelope p f.payload) s.b))) ∧
      (f.ftype = 1 → s.b.jigOf p = none → exec (.frameReceived k node p bs) s = .next (s.withB (modPort k (fun x => { x with noPart := x.noPart + 1 }) s.b))) ∧
      (∀ j : Jig, f.ftype = 8 → s.b.jigOf p = some j → s.b.keyed p = true → f.hops.toNat ≤ 5 →
        exec (.frameReceived k node p bs) s = .next (s.withB (emit (.toTray p f.payload) (noteHops p j f s.b)))))) ∧
  (∀ (s : State) (p : Part) (k : Port) (t : Word) (data : Bytes) (j : Jig) (sc : Schedule) (e : SchedEntry), s.b.live = true → s.b.jigOf p = some j → s.b.schedule p = some sc →
    egressEntry sc k t.toNat = some e → t.toNat ≤ s.b.clk.tick.toNat → s.b.clk.tick.toNat < t.toNat + sc.slotTicks → s.b.gone p e.peer = false → e.cls = 1 → egressStopped s.b p k = false →
    exec (.streamSlotData p k t data) s = .next (s.withB (sealScheduled s.hard p k sc e j t data s.b))) ∧
  (∀ (s : State) (k : Port) (node : BitVec 16) (p : Part) (bs : Bytes), s.b.live = true → portPresent s.hard.cfg k = true → (s.b.island (portIsland k)).inReset = false → (s.b.island (portIsland k)).asleep = true →
    exec (.frameReceived k node p bs) s = .next (s.withB (waitFrame p k s.b.clk.tick bs s.b))) ∧
  (∀ (s : State) (p : Part) (k : Port) (x : Pinned) (j : Jig), s.b.live = true → s.b.jigOf p = some j → s.b.shim = [(.egress k, x)] → x.part = p → x.sealed' = true →
    epochStart j (x.epoch + 1) + 1250 ≤ s.b.clk.tick.toNat →
    exec (.staleDrop p) s = .next (s.withB (linkNote s.hard 0x0409 p k (fun n => [aByte x.stream.toNat, aW3 x.epoch.toNat, aCount n]) { s.b with shim := [] })))

/-- R198, R199: a `SYNC_REQ` of the current epoch moves the stream's counters to the seed 4 × (t − B + 1) and is answered with it; a matching `SYNC_ACK` synchronises the pending record; an unanswered request is repeated twice and then fails. -/
def Obligations.StreamsSynchronise : Prop :=
  (∀ (s : State) (p : Part) (k : Port) (sender : BitVec 16) (stream : Byte) (ch : Word), s.b.live = true → s.b.keyed p = true → portPresent s.hard.cfg k = true → (s.b.epochSt p).start.toNat ≤ s.b.clk.tick.toNat →
    (∀ q : Port, s.b.seqOf p q (s.b.epochSt p).epoch stream ≤ 4 * (s.b.clk.tick.toNat - (s.b.epochSt p).start.toNat + 1)) →
    ∃ b, exec (.syncReq p k sender (s.b.selfIndex p) stream ch (s.b.epochSt p).epoch) s = .next (s.withB b) ∧
      (∀ q : Port, portPresent s.hard.cfg q = true → b.seqOf p q (s.b.epochSt p).epoch stream = 4 * (s.b.clk.tick.toNat - (s.b.epochSt p).start.toNat + 1)) ∧
      (∃ q x, b.port q = PortSt.put0 s.b.clk.tick [x] (s.b.port q) ∧ x.part = p ∧ x.ftype = 2 ∧ x.dest = sender ∧
        x.payload = ctlBytes 2 sender stream ch (4 * (s.b.clk.tick.toNat - (s.b.epochSt p).start.toNat + 1))) ∧
      b = { s.b with pports := b.pports, ports := b.ports }) ∧
  (∀ (s : State) (p : Part) (k : Port) (sender : BitVec 16) (sport : BitVec 6) (stream : Byte) (floor : BitVec 48) (n : Nat) (r : StreamRec), s.b.live = true → portPresent s.hard.cfg k = true →
    n < leCount s.hard.cfg → (∀ m, m < leCount s.hard.cfg → m ≠ n → (s.b.lePart (Fin.ofNat 16 m) p).pendingRec sender stream (fun y => decide (y.challenge = r.challenge)) = none) →
    (s.b.lePart (Fin.ofNat 16 n) p).pendingRec sender stream (fun y => decide (y.challenge = r.challenge)) = some r → r.scheduled = false →
    exec (.syncAck p k sender sport stream r.challenge floor) s = .next (s.withB (putRecord (Fin.ofNat 16 n) p { r with st := 1, floor := floor.toNat } s.b))) ∧
  (∀ (s : State) (p : Part) (k : Port) (sender : BitVec 16) (stream : Byte) (r : StreamRec), s.b.live = true → (s.b.lePart (portLe k) p).pendingRec sender stream (fun y => decide (20000 ≤ since s.b y.asked)) = some r →
    (r.tries < 3 → exec (.syncReqRetry p k sender stream) s = .next (s.withB (sendSync p { r with tries := r.tries + 1, asked := s.b.clk.tick }
      (putRecord (portLe k) p { r with tries := r.tries + 1, asked := s.b.clk.tick } s.b)))) ∧
    (3 ≤ r.tries → exec (.syncReqRetry p k sender stream) s = .next (s.withB (linkNote s.hard 0x0406 p r.port
      (fun n => [aHalf sender.toNat, aByte stream.toNat, aW3 (s.b.epochSt p).epoch.toNat, aCount n]) (putRecord (portLe k) p { r with st := 2 } s.b)))))

/-- R195, R196, R199, R200, R201: the change of link keys: its start 1 ms before the boundary, the boundary, the retry of a failed change, the end of Kerf, and the loads ahead of an epoch. -/
def Obligations.LinkKeysChangeWithTheEpoch : Prop :=
  (∀ (s : State) (p : Part) (j : Jig) (k : Port), s.b.live = true → s.b.jigOf p = some j → s.b.keyed p = true → epochStart j ((s.b.epochSt p).epoch + 1) ≤ s.b.clk.tick.toNat + 1000000 →
    s.b.clk.tick.toNat < epochStart j ((s.b.epochSt p).epoch + 1) → changingPorts s.hard s.b p = [k] → (s.b.epochSt p).keys = [] →
    exec (.rekeyStart p) s = .next (s.withB (changeEgress p k ((s.b.epochSt p).epoch + 1) (BitVec.ofNat 64 (epochStart j ((s.b.epochSt p).epoch + 1))) 0
      (modPortPart k p (fun x => { x with tried := none }) s.b)))) ∧
  (∀ (s : State) (p : Part) (j : Jig), s.b.live = true → s.b.jigOf p = some j → s.b.keyed p = true → epochStart j ((s.b.epochSt p).epoch + 1) ≤ s.b.clk.tick.toNat → s.b.lparts = [] →
    exec (.epochBoundary p) s = .next (s.withB (sealWaiting (fun _ => true) (boundary s.hard p j s.b)))) ∧
  (∀ (s : State) (p : Part) (k : Port) (j : Jig) (e : BitVec 24) (c : Nat), s.b.live = true → s.b.jigOf p = some j → s.b.keyed p = true → (s.b.portPart k p).failed = some (e, c) →
    (e = (s.b.epochSt p).epoch ∨ e = (s.b.epochSt p).epoch + 1) → (∀ t, (s.b.portPart k p).tried = some t → 1000000 ≤ since s.b t) →
    exec (.rekeyRetry p k) s = .next (s.withB
      (if (s.b.portPart k p).egressKey.isSome then changeEgress p k e 0 (BitVec.ofNat 64 (epochStart j e)) (modPortPart k p (fun x => { x with tried := some s.b.clk.tick }) s.b)
       else retryKeying p k (s.b.epochSt p).epoch (modPortPart k p (fun x => { x with tried := some s.b.clk.tick }) s.b)))) ∧
  (∀ (s : State) (p : Part), s.b.live = true → (s.b.epochSt p).kerf = true → (s.b.epochSt p).start.toNat + 2000 ≤ s.b.clk.tick.toNat → (s.b.epochSt p).keys = [] →
    (∀ n, ∀ c ∈ (s.b.island (.le n)).cache, c.what = .own) → (∀ n, (s.b.lePart n p).inbuf = []) →
    ∃ b, exec (.kerfEnd p) s = .next (s.withB b) ∧ (b.epochSt p).kerf = false ∧
      (∀ (n : Fin 16) (c : Context), c ∈ (b.lePart n p).contexts → c.prev = none) ∧
      (∀ (n : Fin 16) (c : Context), c ∈ (b.lePart n p).contexts → c.usedPrev = true ∨ (s.b.epochSt p).start.toNat ≤ c.created.toNat) ∧
      b = { s.b with epochs := b.epochs, lparts := b.lparts, pports := b.pports }) ∧
  (∀ (s : State) (p : Part) (x : LinkKey), s.b.live = true → s.b.keyed p = true → (s.b.epochSt p).keys = [x] → x.ref.egress = true → (∀ g ∈ s.b.vgroups, g.part ≠ p) →
    exec (.keyEpochPreload p) s = .next (s.withB (wantKey (portIsland (Fin.ofNat 64 x.ref.port.toNat)) x.slot s.b)))

/-- R202, R203, R204, R205, R371: class 0, admission frames among it, is chosen before class 3 and a frame's cost leaves its shaper; an empty port starts nothing; a halted block sends clamp notices; a queue takes what its capacity holds and the rest waits, in order. -/
def Obligations.EgressChoosesAndShapes : Prop :=
  (∀ (s : State) (k : Port) (q : QFrame), s.b.live = true → portPresent s.hard.cfg k = true → (s.b.port k).mode = 0 → (s.b.island (portIsland k)).asleep = false → (s.b.island (portIsland k)).inReset = false →
    (s.b.port k).queue0 = [q] → (s.b.port k).wait0 = [] → (∀ p : Part, (s.b.portPart k p).queue3 = []) → 0 ≤ (s.b.port k).tokens → (q.ftype = 4 ∨ q.ftype ≠ 8 ∧ ∃ sl, s.b.egressSlot q.part k = some sl) → guardOk s.b k (qBytes q) = true →
    exec (.egressFrameStart k) s = .next (s.withB (sendQ k 0 q (modPort k (fun x => { x with queue0 := [], turn0 := (q.part.val + 1) % 8, tokens := x.tokens - frameCost (s.b.port k) (qBytes q) }) s.b)))) ∧
  (∀ (s : State) (k : Port), s.b.live = true → (s.b.port k).queue0 = [] → (∀ p : Part, (s.b.portPart k p).queue3 = []) → (s.b.port k).genEn = false → (s.b.port k).chkEn = false → exec (.egressFrameStart k) s = .next s) ∧
  (∀ (s : State) (k : Port) (q : QFrame) (j : Jig), s.b.up = true → s.b.clk.loaded = true → s.b.rst.halted = true → portPresent s.hard.cfg k = true → (s.b.island (portIsland k)).inReset = false →
    (s.b.port k).queue0 = [q] → (s.b.port k).wait0 = [] → q.ftype = 4 → q.tag = none → s.b.jigOf q.part = some j →
    exec (.egressFrameStart k) s = .next (s.withB (if q.notice then
      emit (.frame k (envSide j.domainId q) (plainFrame (frameOf k j.memberIndex q 0 0 0) 0)) (modPort k (fun x => { x with queue0 := [], turn0 := (q.part.val + 1) % 8 }) s.b) else s.b))) ∧
  (∀ (cap : Nat) (now : Word) (q new : List QFrame), ((enterQueue cap now q new).1.map qBytes).sum ≤ max cap (q.map qBytes).sum ∧
    ((enterQueue cap now q new).1 ++ (enterQueue cap now q new).2).map (fun x => { x with tick := now }) = (q ++ new).map fun x => { x with tick := now }) ∧
  (∀ x : PortSt, (x.lenMode = false → ∀ n, frameCost x n = 1000 * ((n : Int) + x.overhead.toNat)) ∧ (x.lenMode = true → ∀ n, frameCost x n = 1000 * (n : Int))) ∧
  (∀ (t : Int) (r b : Nat), refill t r b ≤ b ∧ (t ≤ (b : Int) → t ≤ refill t r b)) ∧
  (∀ (share : Nat) (x : PortPart), c3Rate share x ≤ 3125 * share)

/-- R207, R208, R209, R210, R211, R212: a port's mode (it reads as written last, and is in force once the queues have drained), its drain and its link, the pattern control with its refusal on a Closed chip and the start of a run, the injected bit, and the samples of every queue. -/
def Obligations.PortModesPatternsAndSamples : Prop :=
  (∀ (s : State) (k : Port) (m : BitVec 2), s.b.regs = true → islandPresent s.hard.cfg (portIsland k) = true → (s.b.island (portIsland k)).inReset = false → (s.b.island (portIsland k)).asleep = false →
    portPresent s.hard.cfg k = true →
    ((m = 0 ∨ m = 1 ∨ ∀ p : Part, ∀ e ∈ s.b.entries p, e.port ≠ k.val) →
      exec (.portModeWrite k m) s = .next (s.settled (modPort k (PortSt.takeMode m s.b.clk.tick) s.b))) ∧
    ((m = 2 ∨ m = 3) → (∃ p : Part, ∃ e ∈ s.b.entries p, e.port = k.val) → exec (.portModeWrite k m) s = .next (s.settled (patternNote s.hard k 1 s.b)))) ∧
  (∀ (m : BitVec 2) (now : Word) (x : PortSt), (PortSt.takeMode m now x).modeReg = m ∧ (PortSt.takeMode m now x).mode = x.mode ∧
    (m = x.mode → (PortSt.takeMode m now x).drain = none) ∧ (m ≠ x.mode → ∃ t, (PortSt.takeMode m now x).drain = some (m, t)) ∧ (m ≠ x.mode → x.drain = none → (PortSt.takeMode m now x).drain = some (m, now))) ∧
  (∀ (s : State) (k : Port) (m : BitVec 2) (t : Word), s.b.up = true → s.b.rst.halted = false → (s.b.port k).drain = some (m, t) → portQueues s.b k = [] → (m = 0 ∨ m = 1) →
    exec (.portModeDrained k) s = .next (s.settled (pushAll (setPortLevel s.hard k (modPort k (fun x => { x with drain := none, mode := m, queue0 := [], wait0 := [] }) s.b))))) ∧
  (∀ (s : State) (k : Port) (up : Bool), s.b.up = true → portPresent s.hard.cfg k = true →
    exec (.linkUpChange k up) s = .next (s.settled (pushAll (setPortLevel s.hard k (modPort k (fun x =>
      { x with linkUp := up, downSince := if up then x.downSince else if x.linkUp then s.b.clk.tick else x.downSince }) s.b))))) ∧
  (∀ (s : State) (k : Port) (v : Word), s.b.regs = true → islandPresent s.hard.cfg (portIsland k) = true → (s.b.island (portIsland k)).inReset = false → (s.b.island (portIsland k)).asleep = false →
    portPresent s.hard.cfg k = true →
    ∃ b no, exec (.patternCtlWrite k v) s = .next (s.settled b) ∧ no = (decide (wbits v 8 2 = 3) && (wbit v 0 || wbit v 1) && lcClosed s.b && decide ((s.b.port k).mode = 0 ∨ (s.b.port k).mode = 1)) ∧
      (b.port k).refused = no ∧ (b.port k).genEn = (wbit v 0 && !no) ∧ (b.port k).chkEn = (wbit v 1 && !no) ∧ (b.port k).pattern = BitVec.ofNat 2 (wbits v 8 2) ∧
      (b.port k).bgRate = BitVec.ofNat 16 (wbits v 32 16) ∧ ((s.b.port k).chkEn = false → (b.port k).chkEn = true → (b.port k).bitErr = 0 ∧ (b.port k).frames = 0 ∧ (b.port k).lock = false) ∧
      ((s.b.port k).pattern ≠ BitVec.ofNat 2 (wbits v 8 2) ∨ (s.b.port k).genEn = false ∧ (b.port k).genEn = true → (b.port k).patSeq = 0 ∧ (b.port k).patReg = 1)) ∧
  (∀ (s : State) (k : Port), s.b.up = true → s.b.rst.halted = false → portPresent s.hard.cfg k = true → exec (.patternInject k) s = .next (s.withB (modPort k (fun x => { x with inject := true }) s.b))) ∧
  (∀ s : State, s.b.live = true → s.b.clk.tick.toNat % 1000 = 0 →
    ∃ b, exec .queueSample s = .next (s.withB b) ∧ b = { s.b with lparts := b.lparts } ∧
      (∀ (n : Fin 16) (p : Part), n.val < leCount s.hard.cfg → (b.lePart n p).sampSeq = (s.b.lePart n p).sampSeq + 1 ∧
        ∀ i, i < 16 → (sampleOf s.b p (Fin.ofNat 64 (4 * n.val + i / 4)) (i % 4) 0).depth ≠ 0 →
          Tab.get? (b.lePart n p).samples i = some (sampleOf s.b p (Fin.ofNat 64 (4 * n.val + i / 4)) (i % 4) ((s.b.lePart n p).sampSeq + 1)))) ∧
  (∀ (s : State) (n : Fin 16) (p : Part) (v : Word), s.b.regs = true → islandPresent s.hard.cfg (.le n) = true → (s.b.island (.le n)).inReset = false → (s.b.island (.le n)).asleep = false → s.b.partExists p = true →
    exec (.qselWrite n p v) s = .next (s.settled (modLePart n p (fun l => { l with qsel := BitVec.ofNat 4 (wbits v 0 4), maxima := [] }) s.b)))

/-! ### Transactions across the pool -/

/-- R287, R290, R292: a `READ`, `WRITE` or `ATOMIC` that is the pair's next in order is applied at the keeper, one bundle of line operations on its region; a duplicate of a write is answered and not applied again; one out of order waits in the reorder buffer; an entry of an atomic's window expires 500 µs after its answer. -/
def Obligations.KeepersApplyMessagesInOrder : Prop :=
  (∀ (s : State) (p : Part) (peer : BitVec 16) (x : Xact) (rid : Nat) (r : Region) (m : Held) (c : Instr),
    (c = .read p peer x ∧ m = { dseq := x.dseq.toNat, mtype := mRead, x := x, lines := [], aop := 0, opA := 0, opB := 0 }) ∨
    (∃ lines, c = .write p peer x lines ∧ m = { dseq := x.dseq.toNat, mtype := mWrite, x := x, lines := lines, aop := 0, opA := 0, opB := 0 }) ∨
    (∃ aop u v, c = .atomic p peer x aop u v ∧ m = { dseq := x.dseq.toNat, mtype := mAtomic, x := x, lines := [], aop := aop, opA := u, opB := v }) →
    s.b.live = true → s.b.session p peer = true → (s.b.island .ahu).inReset = false → m.wellFormed = true → x.dseq.toNat = (s.b.pairKeep p peer).accepted + 1 →
    (s.b.pairKeep p peer).busy = false → x.abandon = false → keepRefusal s.b p m = none → s.b.regionById p x.regionId = some (rid, r) →
    exec c s = .next (s.settled (keepStart p peer m rid (modKeep p peer (fun k => { k with busy := true }) (keepFloor p peer x.aux.toNat s.b))))) ∧
  (∀ (s : State) (p : Part) (peer : BitVec 16) (x : Xact) (lines : List Line), s.b.live = true → s.b.session p peer = true → (s.b.island .ahu).inReset = false → 1 ≤ x.count.toNat →
    lines.length = x.count.toNat → x.dseq.toNat ≤ (s.b.pairKeep p peer).accepted → (s.b.pairKeep p peer).floor ≤ x.dseq.toNat → x.aux.toNat ≤ x.dseq.toNat →
    exec (.write p peer x lines) s = .next (s.settled (respond s.hard p peer 0x82 x 0x00 [] (modAhu p (fun a => { a with duplicate := a.duplicate + 1 }) (keepFloor p peer x.aux.toNat s.b))))) ∧
  (∀ (s : State) (p : Part) (peer : BitVec 16) (x : Xact), s.b.live = true → s.b.session p peer = true → (s.b.island .ahu).inReset = false → 1 ≤ x.count.toNat →
    (s.b.pairKeep p peer).accepted + 1 < x.dseq.toNat → (s.b.pairKeep p peer).reorder = [] →
    exec (.read p peer x) s = .next (s.settled (modKeep p peer (fun k => { k with reorder := [{ dseq := x.dseq.toNat, mtype := mRead, x := x, lines := [], aop := 0, opA := 0, opB := 0 }] })
      (keepFloor p peer x.aux.toNat s.b)))) ∧
  (∀ (s : State) (p : Part) (peer : BitVec 16) (d : Word), s.b.live = true →
    exec (.atomicWindowExpire p peer d) s = .next (s.settled (modKeep p peer (fun k =>
      { k with window := k.window.filter fun w => !decide (w.dseq = d.toNat ∧ w.tick.toNat + 500000 ≤ s.b.clk.tick.toNat) }) s.b)))

/-- R282, R284, R288, R293, R298, R299: a matching response ends its message: the requester has its one answer, and the tag is free; a response that matches nothing is counted as stale; a message without its answer goes out again after `RTO`; an abandon copy takes the place of a write or atomic whose requester has been aborted. -/
def Obligations.MessagesEndOrAreSentAgain : Prop :=
  (∀ (s : State) (p : Part) (peer : BitVec 16) (x : Xact) (t : Nat) (y : TagSt) (c : Instr) (mt : Byte) (v : Line),
    (∃ l, c = .readRsp p peer x [l] ∧ x.count = 1 ∧ mt = mRead ∧ v = l) ∨ (c = .writeAck p peer x ∧ mt = mWrite ∧ v = 0) ∨ (∃ old : Word, c = .atomicRsp p peer x old ∧ mt = mAtomic ∧ v = old.setWidth 512) →
    s.b.live = true → s.b.session p peer = true → (s.b.island .ahu).inReset = false → matchTag s.b p peer mt x = some (t, y) → x.status ≠ 0x07 → y.silent = false →
    exec c s = .next (s.settled (freeTag p t (answerTag p y x.status v (modPair p peer (fun q => { q with accepted := max q.accepted x.aux.toNat }) (dropQueued p t s.b)))))) ∧
  (∀ (s : State) (p : Part) (peer : BitVec 16) (x : Xact), s.b.live = true → s.b.session p peer = true → (s.b.island .ahu).inReset = false → matchTag s.b p peer mWrite x = none →
    exec (.writeAck p peer x) s = .next (s.settled (modAhu p (fun a => { a with staleRsp := a.staleRsp + 1 }) s.b))) ∧
  (∀ (s : State) (p : Part) (r : TrayRsp) (x : TagSt), s.b.live = true → r.op = 4 → (s.b.island .ahu).inReset = false → s.b.tagSt p (bitsOf r.tag.toNat 0 11) = some x → x.mtype = mWrite → trayMatches s.b p r x = true →
    exec (.trayResponse p r) s = .next (s.settled (push (.pub x.region) (modRegion x.region
      (fun y => if y.regionId = x.regionId then { y with pub := y.pub.map fun u => { u with tags := u.tags.filter fun n => decide (n ≠ bitsOf r.tag.toNat 0 11) } } else y)
      (freeTag p (bitsOf r.tag.toNat 0 11) (dropQueued p (bitsOf r.tag.toNat 0 11) s.b)))))) ∧
  (∀ (s : State) (p : Part) (t : Fin 2048) (x : TagSt), s.b.live = true → s.b.tagSt p t.val = some x → x.kind = 2 → x.quarEnd.toNat ≤ s.b.clk.tick.toNat →
    exec (.tagQuarantineEnd p t) s = .next (s.settled (freeTag p t.val s.b))) ∧
  (∀ (s : State) (p : Part) (t : Fin 2048) (x : TagSt), s.b.live = true → s.b.tagSt p t.val = some x → x.kind = 0 → resendDue s.b p t.val x = true →
    exec (.retransmit p t) s = .next (s.settled (resend s.hard p t.val s.b))) ∧
  (∀ (s : State) (p : Part) (t : Fin 2048) (x : TagSt), s.b.live = true → s.b.tagSt p t.val = some x → x.kind = 1 → x.dseq.isSome = true → x.abandon = false → (x.mtype = mWrite ∨ x.mtype = mAtomic) → x.silent = true →
    exec (.abandonCopy p t) s = .next (s.settled (sendAsk s.hard p t.val (modAhu p (fun a => { a with abandoned := a.abandoned + 1 })
      (modTag p t.val (fun y => { y with abandon := true }) (dropQueued p t.val s.b))))))

/-- R295, R296, R297: a fence's target at the keeper is noted and answered, its answer at the requester moves `VISIBLE`, a compute die's fence is taken in order, an unanswered fence request goes out again after 100 µs, and a late token is asked for once. -/
def Obligations.FencesAreAskedAndAnswered : Prop :=
  (∀ (s : State) (p : Part) (peer : BitVec 16) (x : Xact), s.b.live = true → s.b.session p peer = true → (s.b.island .ahu).inReset = false → x.acquire = false → (s.b.pairKeep p peer).unseen = [] →
    exec (.fenceReq p peer x) s = .next (s.settled (modKeep p peer (fun k => { k with fence := if max (s.b.pairKeep p peer).target x.aux.toNat ≤ (s.b.pairKeep p peer).visible then none else some (x.tag, x.regionId) })
      (fenceAck s.hard p peer x.tag x.regionId (fenceSeq s.b p x.regionId) (modKeep p peer (fun k => { k with target := max k.target x.aux.toNat }) s.b))))) ∧
  (∀ (s : State) (p : Part) (peer : BitVec 16) (x : Xact) (seq : Word) (t : Nat) (y : TagSt), s.b.live = true → s.b.session p peer = true → (s.b.island .ahu).inReset = false →
    matchTag s.b p peer mFence x = some (t, y) → y.aop ≠ 1 → (s.b.pairReq p peer).target ≤ x.aux.toNat → (s.b.pairReq p peer).visible ≤ x.aux.toNat →
    exec (.fenceAck p peer x seq) s = .next (s.settled (push (.part p) (push (.fences p) (freeTag p t (modPair p peer (fun q => { q with fenceTag := none })
      (modPair p peer (fun q => { q with visible := x.aux.toNat }) s.b))))))) ∧
  (∀ (s : State) (die : Fin 4) (p : Part), s.b.live = true → s.b.partExists p = true →
    ∃ b f, exec (.computeDieFence die p) s = .next (s.settled (push (.fences p) b)) ∧ (b.ahuPart p).fences = (s.b.ahuPart p).fences ++ [f] ∧ f.die = some die ∧ f.ctx = none ∧ f.status = 0x00 ∧
      (∀ (m : Nat) (q : PairReq), (m, q) ∈ (s.b.ahuPart p).req → q.visible + 1 < q.next → (BitVec.ofNat 16 m, q.next - 1) ∈ f.targets) ∧ b = { s.b with ahu := b.ahu }) ∧
  (∀ (s : State) (p : Part) (peer : BitVec 16) (t : Nat), s.b.live = true → (s.b.pairReq p peer).fenceTag = some t → (s.b.pairReq p peer).visible < (s.b.pairReq p peer).target →
    (s.b.pairReq p peer).asked.toNat + 100000 ≤ s.b.clk.tick.toNat → (s.b.ahuPart p).fences = [] →
    exec (.fenceReqResend p peer) s = .next (s.settled (sendAsk s.hard p t (modPair p peer (fun q => { q with asked := s.b.clk.tick }) s.b)))) ∧
  (∀ (s : State) (p : Part) (id : BitVec 32) (rid : Nat) (r : Region), s.b.live = true → s.b.regionById p id = some (rid, r) → r.role ≠ 0 →
    (∃ f ∈ (s.b.ahuPart p).fences, ∃ a ∈ f.acquire, acquireLate s.b r a = true) → s.b.session p r.token.keeper = true →
    ∃ b, exec (.acquireTimeout p id) s = .next (s.settled (sendMem s.hard p r.token.keeper 5 id [] b)) ∧ b = { s.b with ahu := b.ahu } ∧ (∀ f ∈ (b.ahuPart p).fences, ∀ a ∈ f.acquire, acquireLate s.b r a = false))

/-! ### Jigs -/

/-- R75, R76, R77, R79, R80, R83, R97: a load is taken and queued, but for an open lifecycle transition; a staged copy that does not fit the partition's state, that could not be read, that is too long or that fails a check is reported, recorded and completed with its status; one that passes is loaded, or stands as the pending replacement; the commit point decides on it and `ACTIVATE_TICK` puts it in force. -/
def Obligations.JigLoadsAreStagedAndCommitted : Prop :=
  (∀ (s : State) (ctx : CmdCtx) (part : Part) (rep : Bool) (addr : Word) (len : BitVec 32) (q : Queue), s.starts ctx 0x02 0 q →
    (part = q.part → transitionOpen s.hard.fuse = false → exec (.cmdJigLoad ctx part rep addr len) s = .next (s.settled (nextLoad
      { markStarted ctx s.b with tcQueue := (markStarted ctx s.b).tcQueue ++ [{ ctx := ctx, part := part, replace := rep, addr := addr, length := len, begun := 0 }] }))) ∧
    (part = q.part → transitionOpen s.hard.fuse = true → exec (.cmdJigLoad ctx part rep addr len) s = .next (s.settled (complete s.hard ctx stNoSlot 0 0 0 (rejectOpen part (markStarted ctx s.b))))) ∧
    (part ≠ q.part → exec (.cmdJigLoad ctx part rep addr len) s = .next (s.settled (complete s.hard ctx stNotOwner 0 0 0 (markStarted ctx s.b))))) ∧
  (∀ (s : State) (l : JigLoad) (image : Option Bytes), s.b.live = true → s.b.tcLoad = some l → loadLives s.b l = true → s.b.noRandom = false → transitionOpen s.hard.fuse = false →
    let fails (st : Byte) (host : Nat) (r : Rej) : Block := dropLoads (fun x => decide (x = l)) (complete s.hard l.ctx st host 0 0
      (note s.hard 0x0802 27 (some l.part) [aHalf r.reason, aHalf r.type, aW3 r.off] (setReject l.part r (entropyServed l.ctx s.b))))
    ((∃ j, s.b.jigOf l.part = some j) → l.replace = false → exec (.jigStagedCheck image) s = .next (s.settled (fails stJigRejected 0x30 { reason := 0x30, type := 0, off := 0 }))) ∧
    (s.b.jigOf l.part = none → l.replace = true → exec (.jigStagedCheck image) s = .next (s.settled (fails stJigRejected 0x31 { reason := 0x31, type := 0, off := 0 }))) ∧
    ((s.b.jigOf l.part).isSome = l.replace →
      (image = none → exec (.jigStagedCheck image) s = .next (s.settled (fails stAborted 0x0104 { reason := 0x06, type := 0, off := 0 }))) ∧
      (∀ img, image = some img → 16777216 < l.length.toNat → exec (.jigStagedCheck image) s = .next (s.settled (fails stJigRejected 0x05 { reason := 0x05, type := 0, off := 0 }))) ∧
      (∀ img, image = some img → l.length.toNat ≤ 16777216 → img.length = l.length.toNat →
        (∀ r, steps1to8 s.hard s.b l.part l.replace img = some r → exec (.jigStagedCheck image) s = .next (s.settled (fails stJigRejected r.reason r))) ∧
        (∀ old, steps1to8 s.hard s.b l.part l.replace img = none → s.b.jigOf l.part = some old → step9 s.b l.part old (jigOfImage img) img = none →
          exec (.jigStagedCheck image) s = .next (s.settled (dropLoads (fun x => decide (x = l)) (modPart l.part (fun x =>
            { x with pending := some { jig := jigOfImage img, offs := [0x10, 0x11, 0x21, 0x30, 0x40].map fun t => (t, offOf (records img) t), ctx := l.ctx, committed := false } }) (entropyServed l.ctx s.b))))) ∧
        (∀ k, steps1to8 s.hard s.b l.part l.replace img = none → s.b.jigOf l.part = none → step10 s.hard s.b l.part (jigOfImage img) s.b.clk.tick.toNat (offOf (records img)) = none → dumpSecret s.hard s.b img = some k →
          exec (.jigStagedCheck image) s = .next (s.settled (dropLoads (fun x => decide (x = l)) (firstLoad s.hard l (jigOfImage img) k (entropyServed l.ctx s.b)))))))) ∧
  (∀ (s : State) (l : JigLoad) (image : Option Bytes), s.b.live = true → s.b.tcLoad = some l → loadLives s.b l = true → s.b.noRandom = false → transitionOpen s.hard.fuse = true →
    exec (.jigStagedCheck image) s = .next (s.settled (dropLoads (fun x => decide (x = l)) (complete s.hard l.ctx stNoSlot 0 0 0 (rejectOpen l.part (entropyServed l.ctx s.b)))))) ∧
  (∀ (s : State) (l : JigLoad) (image : Option Bytes), s.b.live = true → s.b.tcLoad = some l → loadLives s.b l = true → s.b.noRandom = true → (s.b.ent.waiting.any fun w => decide (w.1 = l.ctx)) = false →
    exec (.jigStagedCheck image) s = .next (s.settled { s.b with ent := { s.b.ent with waiting := s.b.ent.waiting ++ [(l.ctx, l.part, s.b.clk.tick)] } })) ∧
  (∀ (s : State) (l : JigLoad) (image : Option Bytes), s.b.live = true → s.b.tcLoad = some l → loadLives s.b l = false →
    exec (.jigStagedCheck image) s = .next (s.settled (dropLoads (fun x => decide (x = l)) (rejectOpen l.part s.b)))) ∧
  (∀ (s : State) (p : Part) (x : PendingJig) (old : Jig), s.b.live = true → (s.b.part p).pending = some x → s.b.jigOf p = some old →
    let tenth := step10 s.hard s.b p x.jig x.jig.activateTick.toNat (Tab.getD x.offs · 0)
    (x.committed = false → x.jig.activateTick.toNat ≤ s.b.clk.tick.toNat + 100000 →
      (∀ st r, tenth = some (st, r) → exec (.jigCommitPoint p) s = .next (s.settled (complete s.hard x.ctx st r.reason 0 0
        (note s.hard 0x0802 27 (some p) [aHalf r.reason, aHalf r.type, aW3 r.off] (setReject p r (modPart p (fun y => { y with pending := none }) s.b)))))) ∧
      (tenth = none → inUse s.b p old x.jig = true → exec (.jigCommitPoint p) s = .next (s.settled (complete s.hard x.ctx stJigRejected 0x36 0 0
        (note s.hard 0x0802 27 (some p) [aHalf 0x36, aHalf 0, aW3 0] (setReject p { reason := 0x36, type := 0, off := 0 } (modPart p (fun y => { y with pending := none }) s.b)))))) ∧
      (tenth = none → inUse s.b p old x.jig = false →
        exec (.jigCommitPoint p) s = .next (s.settled (rebuildGrids s.hard
          (modPart p (fun y => { y with pending := some { x with committed := true } }) s.b))))) ∧
    (s.b.clk.tick.toNat + 100000 < x.jig.activateTick.toNat → exec (.jigCommitPoint p) s = .next (s.settled s.b)) ∧
    (x.committed = true → x.jig.activateTick.toNat ≤ s.b.clk.tick.toNat → exec (.jigActivate p) s = .next (s.settled (activate s.hard p x old s.b))) ∧
    (s.b.clk.tick.toNat < x.jig.activateTick.toNat → exec (.jigActivate p) s = .next (s.settled s.b)))

/-- R83, R84: a mailbox operation ends with its words, or with `ERROR` while no Jig is loaded; one asked for while another runs is an overrun. -/
def Obligations.MailboxReportsTheJig : Prop :=
  ∀ (s : State) (p : Part) (a : BitVec 32) (c : Instr) (op : Byte) (k : Jig → Option (List Word)), s.b.live = true → s.b.partExists p = true →
    (c = .mboxReadDigests p ∧ op = 1 ∧ a = (s.b.part p).mbox.arg ∧ k = fun j => some (digestWords (s.b.part p) j)) ∨
    (c = .mboxReadDecisions p a ∧ op = 2 ∧ k = fun j => decisionWords s.hard.cfg s.b p j a.toNat) ∨
    (c = .mboxReadHeader p ∧ op = 3 ∧ a = (s.b.part p).mbox.arg ∧ k = fun j => some (wordsOf j.header)) →
    let ends (err : Bool) (ws : List Word) : Block := modPart p (fun x => { x with mbox := { x.mbox with op := op, arg := a, go := false, done := true, error := err, words := ws.take 256 } }) s.b
    ((s.b.part p).mbox.go = false ∨ ((s.b.part p).mbox.op = op ∧ (s.b.part p).mbox.arg = a) →
      (∀ j ws, s.b.jigOf p = some j → k j = some ws → exec c s = .next (s.settled (ends false ws))) ∧
      (s.b.jigOf p = none → exec c s = .next (s.settled (ends true [])))) ∧
    ((s.b.part p).mbox.go = true → (s.b.part p).mbox.op ≠ op → exec c s = .next (s.settled (modPart p (fun x => { x with mbox := { x.mbox with overrun := true } }) s.b)))

/-! ### Veneer -/

/-- R215, R224, R225, R229: whatever the masks, the words of a block added over all members, modulo p, verify under both tags, and unmask to the sums of the members' integers. -/
def Obligations.MaskedContributionsSumAndVerify : Prop :=
  ∀ (m : VMask) (blk n : Nat) (qs : Nat → List Int), 1 ≤ n → (∀ r, r < n → ∀ j, j < 32 → ((qs r).getD j 0).natAbs ≤ qMax n) →
    let sums := (List.range 34).map fun w => (((List.range n).map fun r => (blockWords m n r blk (qs r)).getD w 0).sum) % vp
    badTags m blk sums = 0 ∧ unmask m blk sums = (List.range 32).map fun j => ((List.range n).map fun r => (qs r).getD j 0).sum

/-- R222, R231, R234, R235, R236, R239: an arm is checked and takes its group over, the admitted key's count of frames staying with it, a halt is noted, a step begins at its boundary with every block still to come, a halt asked for takes effect at a step boundary, and TC derives a step's key and coefficients and loads them to the LEs of the group's lanes. -/
def Obligations.VeneerGroupsArmStepAndHalt : Prop :=
  (∀ (s : State) (ctx : CmdCtx) (q : Queue) (g : BitVec 32) (op : BitVec 2) (src : Bool) (first tab : Word), s.starts ctx 0x0C 0 q →
    let b := markStarted ctx s.b
    let ends (st : Byte) (host : Nat) : Host.Outcome State Fault Refusal := .next (s.withB (complete s.hard ctx st host 0 0 b))
    ((op ≠ 1 ∧ op ≠ 2) ∨ tab.toNat % 8 ≠ 0 → exec (.cmdVeneerGroup ctx g op src first tab) s = ends stAborted 0x0102) ∧
    (op = 1 ∨ op = 2 → tab.toNat % 8 = 0 → s.b.vgeo q.part g = none →
      exec (.cmdVeneerGroup ctx g op src first tab) s = ends (if ∃ x : Part, x ≠ q.part ∧ ∃ j, s.b.jigOf x = some j ∧ ∃ r ∈ j.groups, r.groupId = g then stNotOwner else stObjectGone) 0) ∧
    (∀ v, tab.toNat % 8 = 0 → s.b.vgeo q.part g = some v → v.grp.groupId = g →
      (∀ x, s.b.vgroup q.part g = some x → x.state = 2 →
        exec (.cmdVeneerGroup ctx g 1 src first tab) s = ends stAborted 0 ∧
        exec (.cmdVeneerGroup ctx g 2 src first tab) s = .next (s.withB (complete s.hard ctx stOk 0 0 0 (putGroup { x with haltReq := true } b)))) ∧
      ((∀ y, s.b.vgroup q.part g = some y → y.state ≠ 2 ∧ y.final = false ∧ y.steps = []) →
        exec (.cmdVeneerGroup ctx g 2 src first tab) s = ends stAborted 0 ∧
        (s.b.groupKey q.part g = none → exec (.cmdVeneerGroup ctx g 1 src first tab) s = ends stKeyOrphaned 0) ∧
        (∀ k, s.b.groupKey q.part g = some k →
          (v.stepTick first.toNat < s.b.clk.tick.toNat + 1000000 → exec (.cmdVeneerGroup ctx g 1 src first tab) s = ends stAborted 0) ∧
          (s.b.clk.tick.toNat + 1000000 ≤ v.stepTick first.toNat → tab ≠ 0 →
            ∃ x t, exec (.cmdVeneerGroup ctx g 1 src first tab) s = .next (s.withB t) ∧ t = complete s.hard ctx stOk 0 0 0 (loadAdmitted q.part v (s.b.epochNow q.part)
                (loadStep q.part v (first.toNat + 1) (loadStep q.part v first.toNat (putGroup x { b with ent := { b.ent with opens := b.ent.opens + v.blocks / 64 + 1 } })))) ∧
              x.admCount = (match s.b.vgroup q.part g with | some y => y.admCount | none => 0) ∧ x.masks = [] ∧
              x.part = q.part ∧ x.groupId = g ∧ x.state = 2 ∧ x.ctx = some ctx ∧ x.firstStep = first.toNat ∧ x.newest = none ∧ x.steps = [] ∧ x.haltReq = false ∧ x.tableAt = tab ∧
              (∀ sc, v.scale = some sc → src = false → x.table = match sc.exps with | some es => es | none => List.replicate sc.blocks sc.init)))))) ∧
  (∀ (s : State) (p : Part) (id : BitVec 32) (v : VGeo) (g : VGroup), s.b.live = true → s.b.vgeo p id = some v → v.grp.groupId = id → s.b.vgroup p id = some g → s.b.shim = [] → g.steps = [] → g.state = 2 →
    g.newest = none →
    (s.b.clk.tick.toNat < v.stepTick g.firstStep → g.haltReq = false ∨ stepBoundary v s.b.clk.tick.toNat = false → exec (.veneerStepStart p id) s = .next (s.withB s.b)) ∧
    (v.stepTick g.firstStep ≤ s.b.clk.tick.toNat ∨ stepBoundary v s.b.clk.tick.toNat = true → g.haltReq = true → exec (.veneerStepStart p id) s = .next (s.withB (veneerHalt s.hard p id 1 none stOk s.b))) ∧
    (v.stepTick g.firstStep ≤ s.b.clk.tick.toNat → g.haltReq = false →
      exec (.veneerStepStart p id) s = .next (s.withB (loadAdmitted p v (s.b.epochNow p) (loadStep p v (g.firstStep + 1) (loadStep p v g.firstStep (putGroup { g with newest := some g.firstStep, steps := [{ step := g.firstStep, exps := g.table.map some, total := v.blocks, received := [], delivered := [], failed := [], sent := [], sat := [], malformed := [], departed := false, aborted := false }] } s.b))))))) ∧
  (∀ (p : Part) (v : VGeo) (n : Nat) (k : Slot) (g : VGroup) (b : Block) (i : Island), b.groupKey p v.grp.groupId = some k → b.vgroup p v.grp.groupId = some g → g.mask n = none → v.grp.admitted = false → v.les = [i] →
    loadStep p v n b = wantDerived i k (.step n) (stepMask (b.keyVal k) v.grp.groupId n).key (stepMask (b.keyVal k) v.grp.groupId n).alpha (putGroup { g with masks := g.masks ++ [stepMask (b.keyVal k) v.grp.groupId n] } b))

/-! ### Admission -/

/-- R135, R136, R137, R138, R139, R411: a message leaves in fragments that fit a frame and give the message back; a fragment whose header is not in order is dropped, fragments are put together by sender and message, one that overlaps or disagrees drops what is held, a complete message goes on, a message not complete in 10 ms is discarded; announcements leave on their period and discover the members this one needs; another port takes over for one down a millisecond. -/
def Obligations.EnvelopesAndAnnouncements : Prop :=
  (∀ (kind : Nat) (id : BitVec 16) (domain : BitVec 32) (src dst : MemberRef) (spdm : Nat) (msg : Bytes), msg.length ≤ 61440 →
    (∀ f ∈ envFragments kind id domain src dst spdm msg, f.length ≤ 512 ∧ f.length % 8 = 0 ∧ fieldAt f 0 1 = 1 ∧ fieldAt f 2 2 = id.toNat ∧ fieldAt f 16 2 = msg.length) ∧
    ((envFragments kind id domain src dst spdm msg).flatMap fun f => (f.drop 32).take (fieldAt f 20 2)) = msg) ∧
  (∀ (b : Block) (p : Part) (hd : EnvHead) (data : Bytes), fragmentOk b p hd data = true →
    hd.version = 1 ∧ 1 ≤ hd.kind.toNat ∧ hd.kind.toNat ≤ 3 ∧ hd.resv = 0 ∧ hd.dst = (if hd.kind = 1 then 0 else b.selfRef p) ∧ 1 ≤ hd.totalLen.toNat ∧ hd.totalLen.toNat ≤ 61440 ∧
    data.length = hd.fragLen.toNat ∧ hd.fragOffset.toNat + data.length ≤ hd.totalLen.toNat ∧ (hd.kind ≠ 2 → hd.spdmLen = hd.totalLen) ∧ (memberKind hd.src ≠ 1 → data.length ≤ 480)) ∧
  (∀ (s : State) (p : Part) (hd : EnvHead) (data : Bytes), s.b.live = true → (∃ j, s.b.jigOf p = some j) →
    let held := (s.b.adm' p).reasm.find? fun r => decide (r.src = hd.src ∧ r.msgId = hd.msgId)
    let drop := modAdm p (fun a => { a with reasm := a.reasm.filter fun x => !decide (x.src = hd.src ∧ x.msgId = hd.msgId) }) s.b
    (fragmentOk s.b p hd data = false → exec (.envelopeFragment p hd data) s = .next (s.settled s.b)) ∧
    (fragmentOk s.b p hd data = true → held = none → data.length ≠ hd.totalLen.toNat →
      exec (.envelopeFragment p hd data) s = .next (s.settled (modAdm p (fun a =>
        { a with reasm := a.reasm ++ [{ src := hd.src, msgId := hd.msgId, totalLen := hd.totalLen, started := s.b.clk.tick, frags := [(hd.fragOffset.toNat, data)] }] }) s.b))) ∧
    (fragmentOk s.b p hd data = true → held = none → data.length = hd.totalLen.toNat → exec (.envelopeFragment p hd data) s = .next (s.settled (envelopeDone s.hard p hd data s.b))) ∧
    (∀ r, fragmentOk s.b p hd data = true → held = some r → r.totalLen ≠ hd.totalLen ∨ r.overlaps hd.fragOffset.toNat data.length = true → exec (.envelopeFragment p hd data) s = .next (s.settled drop)) ∧
    (∀ r, fragmentOk s.b p hd data = true → held = some r → r.totalLen = hd.totalLen → r.overlaps hd.fragOffset.toNat data.length = false → r.got + data.length = hd.totalLen.toNat →
      exec (.envelopeFragment p hd data) s = .next (s.settled (envelopeDone s.hard p hd { r with frags := r.frags ++ [(hd.fragOffset.toNat, data)] }.message drop)))) ∧
  (∀ (h : Hard) (p : Part) (hd : EnvHead) (msg : Bytes) (b : Block), ∃ t, t = emit (.envelope p hd.src hd.kind hd.spdmLen.toNat msg) b ∧
    envelopeDone h p hd msg b = (if hd.kind = 2 ∧ outsideSubset (msg.take hd.spdmLen.toNat) = true then sendEnv h p hd.src (.spdm 0x7F (.error 0x07) []) t else t)) ∧
  (∀ (s : State) (p : Part) (src : MemberRef) (msg : BitVec 16), s.b.live = true →
    exec (.envelopeReassemblyTimeout p src msg) s = .next (s.settled (modAdm p (fun a =>
      { a with reasm := a.reasm.filter fun r => !(decide (r.src = src ∧ r.msgId = msg) && decide (r.started.toNat + 10000000 ≤ s.b.clk.tick.toNat)) }) s.b))) ∧
  (∀ (s : State) (p : Part) (j : Jig), s.b.live = true → s.b.jigOf p = some j → (s.b.adm' p).selfOff = false →
    ((s.b.adm' p).announceAt.toNat ≤ s.b.clk.tick.toNat → exec (.announcementSend p) s = .next (s.settled (sendAnnouncement s.hard.cfg p j
      (leBytes 48 j.ownerDigest.toNat ++ leBytes 8 j.serial.toNat ++ leBytes 4 (s.b.adm' p).term.toNat ++
        leBytes 4 (bit (lcClosed s.b) + 2 * bit (s.b.adm' p).keyed + 4 * bit (decide ((s.b.adm' p).anchor = j.memberIndex))))
      (modAdm p (fun a => { a with announceAt := s.b.clk.tick + (if formed s.b p j then 1000000000 else 100000000) }) s.b)))) ∧
    (s.b.clk.tick.toNat < (s.b.adm' p).announceAt.toNat → exec (.announcementSend p) s = .next (s.settled s.b))) ∧
  (∀ (s : State) (p : Part) (j : Jig) (a : Announce), s.b.live = true → s.b.jigOf p = some j →
    (a.domainId = j.domainId → a.ownerDigest = j.ownerDigest → memberKind a.sender ≠ 1 → (s.b.adm' p).manual = false → (s.b.adm' p).selfOff = false → pairNeeded s.b p j a.sender = true →
      (s.b.peer p a.sender).state = 0 ∨ (s.b.peer p a.sender).state = 9 → exec (.announcement p a) s = .next (s.settled (push (.adm p) (modPeer p a.sender (fun q =>
        { Peer.reset with state := 1, reason := q.reason, admitCtx := q.admitCtx, relay := q.relay, port := q.port }) s.b)))) ∧
    (a.domainId ≠ j.domainId ∨ a.ownerDigest ≠ j.ownerDigest ∨ (s.b.adm' p).manual = true → exec (.announcement p a) s = .next (s.settled s.b))) ∧
  (∀ (s : State) (p : Part) (m : MemberRef) (k n : Port) (rest : List Port), s.b.live = true → envPorts s.hard.cfg s.b p m = k :: n :: rest → (s.b.peer p m).port = none →
    ((s.b.port k).linkUp = false → (s.b.port k).downSince.toNat + 1000000 ≤ s.b.clk.tick.toNat → (s.b.port n).linkUp = true →
      exec (.envelopePortFailover p m) s = .next (s.settled (modPeer p m (fun q => { q with port := some n }) s.b))) ∧
    ((s.b.port k).linkUp = true → exec (.envelopePortFailover p m) s = .next (s.settled s.b)))

/-- R139, R140, R141, R142, R143, R144, R146, R185: a responder answers the requests of a connection in their order with what the profile says, again as it did when one is sent again and with an error when one is not expected, both having asked the lower member reference goes on; a signed answer carries both halves over one transcript; the two sides of the key exchange form one hybrid secret; the requester checks each response and sends the next request, ends the attempt on a failed check, sends a request once more after 100 ms as it was and gives up after another 100 ms, and tries again after a busy delay or a second. -/
def Obligations.SpdmExchangesRunInOrder : Prop :=
  (∀ (s : State) (p : Part) (m : MemberRef) (msg : Bytes) (n : Nat) (c : Instr) (say : SpdmBody),
    (c = .getCapabilities p m msg ∧ n = 1 ∧ say = .capabilities [.cert, .chal, .meas, .encrypt, .mac, .mutAuth, .keyEx, .keyUpd] 14 61440 61440) ∨
    (c = .getDigests p m msg ∧ n = 3 ∧ say = .digests (Config.sha384 (ourChain s.b).flatten)) ∨ (c = .getCertificate p m msg ∧ n = 4 ∧ say = .chain (ourChain s.b)) →
    s.b.live = true → (∃ j, s.b.jigOf p = some j) → (s.b.att p m).answers = true →
    ((s.b.att p m).step = n → exec c s = .next (s.settled (reply s.hard p m (rspCode n) say [] (modAtt p m (fun q => { q with step := n + 1 }) (noteScript p m msg s.b))))) ∧
    ((s.b.att p m).step ≠ n → (∀ x, (s.b.att p m).answeredWith (rspCode n) = some x → exec c s = .next (s.settled (sendSent s.hard p m (attKey s.b p m) x s.b))) ∧
      ((s.b.att p m).answeredWith (rspCode n) = none → exec c s = .next (s.settled (sendEnv s.hard p m (.spdm 0x7F (.error 0x04) []) s.b))))) ∧
  (∀ (h : Hard) (b : Block) (q : Peer) (code : Byte) (body : Bytes → SpdmBody) (comp : Bytes),
    let msg := Config.spdmSigned code (q.script ++ [Config.spdmBytes code (body []) ++ comp])
    signBody h b q code body comp = (body (leBytes 96 (Config.ecdsaSign (idEcdsa (signRoot h b)) msg).toNat), compEntry 1 (leBytes 4627 (Config.mldsaSign (idMldsa (signRoot h b)) msg "swiwyn-spdm").toNat) ++ comp)) ∧
  (∀ (s : State) (p : Part) (m : MemberRef) (msg : Bytes) (t : SelfTest), s.b.live = true → (∃ j, s.b.jigOf p = some j) → (s.b.att p m).answers = true →
    let b := noteScript p m msg s.b
    ((s.b.att p m).step = 5 → t ≠ .fail → ∀ x, x = signBody s.hard b (b.att p m) 0x03 (fun sig => .signed 0 sig) [] →
      exec (.challenge p m msg t) s = .next (s.settled (reply s.hard p m 0x03 x.1 x.2 (modAtt p m (fun q => { q with step := 6 }) b)))) ∧
    ((s.b.att p m).step = 6 → t ≠ .fail → ∀ x b', x = signBody s.hard b (b.att p m) 0x60 (fun sig => .measurements (ourMeasurements s.hard b) sig) [] →
      b' = reply s.hard p m 0x60 x.1 x.2 (modAtt p m (fun q => { q with step := 7 }) b) →
      exec (.getMeasurements p m msg t) s = .next (s.settled (if (b'.att p m).requester then askExchange s.hard p m t b'
        else ask s.hard p m 0x84 .none [] (modAtt p m (fun q => { q with state := 4, step := 0 }) b')))) ∧
    ((s.b.att p m).step = 5 → exec (.challenge p m msg .fail) s = .next (s.settled (clamp s.hard 5 27 none [] s.b))) ∧
    ((s.b.att p m).step = 2 →
      exec (.negotiateAlgorithms p m true msg) s = .next (s.settled (modAtt p m (fun q => { q with state := if q.state = 2 then 3 else q.state })
        (reply s.hard p m 0x63 (.algorithms .ecdsaP384 .ecdsaP384 .sha384 .sha384 .secp384r1 .aes256gcm .spdmSchedule .dmtf) [] (modAtt p m (fun q => { q with step := 3 }) b)))) ∧
      exec (.negotiateAlgorithms p m false msg) s = .next (s.settled (refuse s.hard p m 0x0001 s.b)))) ∧
  (∀ (s : State) (p : Part) (m : MemberRef) (msg : Bytes) (j : Jig), s.b.live = true → s.b.jigOf p = some j → (s.b.adm' p).selfOff = false → memberKind m ≠ 3 → memberKind m ≠ 1 →
    let begins := reply s.hard p m 0x04 (.version 0x13) [] (noteScript p m msg (modAtt p m (fun q => { q.started false s.b.clk.tick j (s.b.adm' p).groupLog with step := 1 }) s.b))
    ((s.b.att p m).state = 0 ∨ (s.b.att p m).state = 1 ∨ (s.b.att p m).state = 9 →
      (s.b.contexts < contextCount s.hard.cfg → exec (.getVersion p m msg) s = .next (s.settled begins)) ∧
      (contextCount s.hard.cfg ≤ s.b.contexts → exec (.getVersion p m msg) s = .next (s.settled (sendEnv s.hard p m (.spdm 0x7F (.error 0x03) []) s.b)))) ∧
    ((s.b.att p m).requester = true → (s.b.att p m).state = 2 → (s.b.att p m).step = 0 →
      exec (.getVersion p m msg) s = .next (s.settled (if (s.b.selfRef p).toNat < m.toNat then s.b else begins)))) ∧
  (∀ (s : State) (p : Part) (m : MemberRef) (ek share msg : Bytes), s.b.live = true → (s.b.att p m).state = 5 → (s.b.att p m).requester = false →
    ((s.b.att p m).step = 0 → ∃ b kem d x, b = drawn (modAtt p m (fun q => { q with ecdh := d }) (drawn (noteScript p m msg s.b))) ∧ kem = Config.mlkemEncap ek (s.b.draw.setWidth 256) ∧ d = ecdhOf (drawn s.b).draw ∧
      x = signBody s.hard b (b.att p m) 0x64 (fun sig => .keyExchangeRsp (shareOf (b.att p m).ecdh) true sig) (compEntry 3 kem.1) ∧
      exec (.keyExchange p m ek share msg .pass) s = .next (s.settled (takeHash p m (reply s.hard p m 0x64 x.1 x.2
        (modAtt p m (fun q => { q with step := 1, dhe := hybridDhe (Config.ecdhP384 (b.att p m).ecdh share) kem.2 }) b))))) ∧
    ((s.b.att p m).step = 1 →
      exec (.finish p m true true msg) s = .next (s.settled (sessionUp s.hard p m (modAtt p m (fun q => { q with th := Config.transcriptHash ((s.b.att p m).script ++ [msg]) })
        (reply s.hard p m 0x65 .none [] (noteScript p m msg s.b))))) ∧
      (∀ e d : Bool, (e && d) = false → exec (.finish p m e d msg) s = .next (s.settled (refuse s.hard p m 0x0004 s.b))))) ∧
  (∀ (ecdh : BitVec 384) (kem : Key), hybridDhe ecdh kem = (Config.kmac256 (leBytes 48 ecdh.toNat ++ keyBytes kem) [] "SWY-HYBRID-DHE").setWidth 384) ∧
  (∀ (s : State) (p : Part) (m : MemberRef) (j : Jig) (msg : Bytes) (t : SelfTest), s.b.live = true → s.b.jigOf p = some j → (s.b.att p m).asks = true → (s.b.att p m).state ≠ 5 →
    let b := noteScript p m msg s.b
    let next (n : Nat) (c : Block) : Block := ask s.hard p m (reqCode n) (reqBody n) [] (modAtt p m (fun q => { q with step := n }) c)
    ((s.b.att p m).step = 0 → exec (.spdmResponse p m (.version true) msg t) s = .next (s.settled (next 1 b)) ∧
      exec (.spdmResponse p m (.version false) msg t) s = .next (s.settled (refuse s.hard p m 0x0001 s.b))) ∧
    ((s.b.att p m).step = 1 → exec (.spdmResponse p m (.capabilities true) msg t) s = .next (s.settled (next 2 b))) ∧
    ((s.b.att p m).step = 2 → exec (.spdmResponse p m (.algorithms true) msg t) s = .next (s.settled (next 3 (modAtt p m (fun q => { q with state := if q.state = 2 then 3 else q.state }) b)))) ∧
    ((s.b.att p m).step = 3 → exec (.spdmResponse p m .digests msg t) s = .next (s.settled (next 4 b))) ∧
    ((s.b.att p m).step = 4 → ∀ (chain selfI root : Bool) (leaf : Digest),
      (chain = false ∨ (memberKind m ≠ 1 ∧ (if lcClosed s.b then !root else !selfI) = true) → exec (.spdmResponse p m (.certificate chain selfI root leaf) msg t) s = .next (s.settled (refuse s.hard p m 0x0002 s.b))) ∧
      (chain = true → (if lcClosed s.b then root else selfI) = true → memberKind m = 0 →
        exec (.spdmResponse p m (.certificate chain selfI root leaf) msg t) s = .next (s.settled (next 5 (modAtt p m (fun q => { q with leaf := leaf, tag := leaf.setWidth 128 }) b))))) ∧
    ((s.b.att p m).step = 5 → exec (.spdmResponse p m (.challengeAuth true true) msg t) s = .next (s.settled (next 6 b)) ∧
      (∀ e d : Bool, (e && d) = false → exec (.spdmResponse p m (.challengeAuth e d) msg t) s = .next (s.settled (refuse s.hard p m 0x0004 s.b)))) ∧
    ((s.b.att p m).step = 6 → ∀ (blocks : List (Byte × Digest)) (lc : Word) (i : Jig), i = (s.b.att p m).jig j →
      exec (.spdmResponse p m (.measurements true true blocks lc) msg t) s = .next (s.settled (
        if measureReason i (memberKind m) (s.b.att p m).leaf blocks ≠ 0 then refuse s.hard p m (measureReason i (memberKind m) (s.b.att p m).leaf blocks) s.b
        else if memberKind m ≠ 1 ∧ (lc.getLsbD 0 ≠ lcClosed s.b ∨ (lcClosed s.b = true ∧ lc.getLsbD 9 = false)) then refuse s.hard p m 0x0006 s.b
        else attested p m (modAtt p m (fun q => { q with meas := blocks }) b))))) ∧
  (∀ (s : State) (p : Part) (m : MemberRef) (j : Jig) (share ct msg : Bytes), s.b.live = true → s.b.jigOf p = some j → (s.b.att p m).state = 5 → (s.b.att p m).requester = true →
    ((s.b.att p m).step = 0 →
      exec (.spdmResponse p m (.keyExchangeRsp true true share ct) msg .pass) s = .next (s.settled (finishOut s.hard p m share ct (noteScript p m msg s.b))) ∧
      (∀ e d : Bool, (e && d) = false → ∀ t, exec (.spdmResponse p m (.keyExchangeRsp e d share ct) msg t) s = .next (s.settled (refuse s.hard p m 0x0004 s.b)))) ∧
    ((s.b.att p m).step = 1 → ∀ t, exec (.spdmResponse p m .finishRsp msg t) s = .next (s.settled (sessionUp s.hard p m (takeHash p m s.b))))) ∧
  (∀ (s : State) (p : Part) (m : MemberRef) (x : Sent), s.b.live = true → (s.b.att p m).asks = true → (s.b.att p m).asking = some x → (s.b.att p m).asked.toNat + 100000000 ≤ s.b.clk.tick.toNat →
    ((s.b.att p m).resent = false → exec (.spdmRequestTimeout p m) s = .next (s.settled (sendSent s.hard p m (attKey s.b p m) x (modAtt p m (fun q => { q with asked := s.b.clk.tick, resent := true }) s.b)))) ∧
    ((s.b.att p m).resent = true → exec (.spdmRequestTimeout p m) s = .next (s.settled (refuseQuiet s.hard p m (attKey s.b p m) 0x000D
      (note s.hard 0x0304 27 (some p) [aW4 m.toNat, aByte (s.b.att p m).state.toNat, aByte x.code.toNat] s.b))))) ∧
  (∀ (s : State) (p : Part) (m : MemberRef) (j : Jig), s.b.live = true → s.b.jigOf p = some j → (s.b.att p m).state = 1 → (s.b.att p m).requester = true → (s.b.att p m).asked.toNat ≤ s.b.clk.tick.toNat →
    s.b.contexts < contextCount s.hard.cfg →
    exec (.busyRetry p m) s = .next (s.settled (ask s.hard p m 0x84 .none [] (modAtt p m (fun q => q.started true s.b.clk.tick j (s.b.adm' p).groupLog) s.b)))) ∧
  (∀ (s : State) (p : Part) (m : MemberRef), s.b.live = true → (s.b.att p m).state = 10 →
    ((s.b.att p m).refusedAt.toNat + 1000000000 ≤ s.b.clk.tick.toNat → exec (.admissionRetry p m) s = .next (s.settled (modAtt p m (fun q => { q with state := 0 }) s.b))) ∧
    (s.b.clk.tick.toNat < (s.b.att p m).refusedAt.toNat + 1000000000 → exec (.admissionRetry p m) s = .next (s.settled s.b)))

/-- R145, R147, R148, R149, R150, R151, R159, R160: a `JOIN` is refused with its reason or passes, under the image its attempt began with, the two acknowledgements admit the pair, keys asked for are given, a refused blob refuses its message, and the anchor grants or refuses an index, the changes under way counted, syncs it to its standbys and waits for their acknowledgement. -/
def Obligations.JoiningRosterAndKeys : Prop :=
  (∀ (s : State) (sec : Sec) (body : Join) (now : Jig), s.hearsJoin sec → s.b.jigOf sec.part = some now → (s.b.peerAt sec.part (joinKey s.b sec.part sec.peer)).joinIn = false →
    let b := heardJoin sec s.b
    let k := joinKey s.b sec.part sec.peer
    let q := b.peerAt sec.part k
    ∃ r, r = joinReason b sec.part (q.jig now) sec.peer q body ∧
      (r ≠ 0 → exec (.join sec body) s = .next (s.settled (refuseAt s.hard sec.part sec.peer k r (sendAt s.hard sec.part sec.peer k (.dove 0x02 (leBytes 2 r ++ leBytes 6 0)) b)))) ∧
      (r = 0 → exec (.join sec body) s = .next (s.settled (joinPasses s.hard sec.part (q.jig now) sec.peer body b)))) ∧
  (∀ (s : State) (sec : Sec) (r : BitVec 16), s.hearsJoin sec →
    let k := joinKey s.b sec.part sec.peer
    let b := modPeerAt sec.part k (fun q => { q with ackIn := true }) (heardJoin sec s.b)
    (s.b.peerAt sec.part k).ackIn = false → (s.b.peerAt sec.part k).state = 6 ∨ (s.b.peerAt sec.part k).rejoin = true →
    (r ≠ 0 → exec (.joinAck sec r) s = .next (s.settled (refuseAt s.hard sec.part sec.peer k r.toNat (heardJoin sec s.b)))) ∧
    ((s.b.peerAt sec.part k).ackOut = true → exec (.joinAck sec 0) s = .next (s.settled (admitted s.hard sec.part sec.peer b))) ∧
    ((s.b.peerAt sec.part k).ackOut = false → exec (.joinAck sec 0) s = .next (s.settled b))) ∧
  (∀ (s : State) (sec : Sec) (gs : List (BitVec 32)), s.hears sec →
    ((s.b.adm' sec.part).keyed = false ∨ memberKind sec.peer ≠ 0 → exec (.keyFetch sec gs) s = .next (s.settled (heard sec s.b))) ∧
    (∀ g k, (s.b.adm' sec.part).keyed = true → memberKind sec.peer = 0 → (s.b.adm' sec.part).anchor = s.b.selfIndex sec.part → gs = [g] → Tab.get? (s.b.adm' sec.part).groupSlots g.toNat = some k →
      (s.b.adm' sec.part).drawn = [] → exec (.keyFetch sec gs) s = .next (s.settled (awaitGroups sec.part sec.peer [g] (deliverKeys s.hard sec.part sec.peer [(g, k)] (heard sec s.b)))))) ∧
  (∀ (s : State) (sec : Sec) (term : BitVec 32) (es : List (BitVec 32 × Bytes)) (j : Jig), s.hears sec → s.b.jigOf sec.part = some j →
    (term.toNat < (s.b.adm' sec.part).term.toNat ∨ memberKind sec.peer ≠ 0 → exec (.keyDeliver sec term es) s = .next (s.settled (heard sec s.b))) ∧
    ((s.b.adm' sec.part).term.toNat ≤ term.toNat → memberKind sec.peer = 0 → (s.b.peer sec.part sec.peer).anchor = true → ∀ g, openBlobs (heard sec s.b) sec.part sec.peer j (s.b.peer sec.part sec.peer).wrapIn es = .inr g →
      exec (.keyDeliver sec term es) s = .next (s.settled (refuseKeys s.hard sec.part sec.peer g (heard sec s.b)))) ∧
    (∀ g bs a v seq, (s.b.adm' sec.part).term = term → memberKind sec.peer = 0 → (s.b.peer sec.part sec.peer).anchor = true → es = [(g, bs)] → (s.b.adm' sec.part).wantGroups = [] →
      openBlob (heard sec s.b) sec.part sec.peer j (s.b.peer sec.part sec.peer).wrapIn bs = .inl (a, v, seq) →
      ((g = 0 ∧ (s.b.adm' sec.part).keyed = true) ∨ (g ≠ 0 ∧ (Tab.get? (s.b.adm' sec.part).groupSlots g.toNat).isSome = true)) →
      ∃ b, exec (.keyDeliver sec term es) s = .next (s.settled (push (.part sec.part) b)) ∧ (b.peer sec.part sec.peer).wrapIn = some (BitVec.ofNat 64 (fieldAt bs 24 8)) ∧ b = { s.b with adm := b.adm })) ∧
  (∀ (s : State) (sec : Sec) (i : BitVec 16) (tag : BitVec 128) (j : Jig), s.hears sec → s.b.jigOf sec.part = some j → (s.b.adm' sec.part).anchor = j.memberIndex →
    let b := heard sec s.b
    let answers (r : Nat) : Host.Outcome State Fault Refusal := .next (s.settled (sendTo s.hard sec.part sec.peer 0x06 (leBytes 2 i.toNat ++ leBytes 2 r) b))
    (j.memberCount ≤ i.toNat → exec (.rosterClaim sec i tag) s = answers 9) ∧
    (i.toNat < j.memberCount →
      (∀ e, s.b.rosterNow sec.part i = some e → e.state ≠ 0 → e.tag ≠ tag → exec (.rosterClaim sec i tag) s = answers 8) ∧
      (indexTaken b sec.part (accel i) tag = false →
        exec (.rosterClaim sec i tag) s = (if rosterLive b sec.part i tag then answers 0 else .next (s.settled (grantIndex s.hard sec.part i tag sec.peer b)))))) ∧
  (∀ (s : State) (sec : Sec) (i : BitVec 16) (r : BitVec 16) (term : BitVec 32), s.hears sec → (s.b.adm' sec.part).term.toNat ≤ term.toNat → sec.peer = accel (s.b.adm' sec.part).anchor →
    (s.b.peer sec.part (accel i)).ackHeld = true →
    exec (.rosterGrant sec i 0 term) s = .next (s.settled (sendAck s.hard sec.part (accel i) (heard sec s.b))) ∧
    (r ≠ 0 → exec (.rosterGrant sec i r term) s = .next (s.settled (refuseAt s.hard sec.part (accel i) (accel i).toNat r.toNat
      (sendAt s.hard sec.part (accel i) (accel i).toNat (.dove 0x02 (leBytes 2 r.toNat ++ leBytes 6 0)) (heard sec s.b)))))) ∧
  (∀ (s : State) (sec : Sec) (e : RosterEntry), s.hears sec →
    (sec.peer = accel (s.b.adm' sec.part).anchor ∨ (s.b.peer sec.part sec.peer).anchor = true →
      exec (.rosterSync sec e) s = .next (s.settled (sendTo s.hard sec.part sec.peer 0x07 (leBytes 2 e.index.toNat ++ leBytes 6 0)
        (modAdm sec.part (fun a => { a with rosterSeq := a.rosterSeq + 1, roster := if e.state = 0 then Tab.del a.roster e.index.toNat else Tab.set a.roster e.index.toNat e }) (heard sec s.b))))) ∧
    (sec.peer ≠ accel (s.b.adm' sec.part).anchor → (s.b.peer sec.part sec.peer).anchor = false → exec (.rosterSync sec e) s = .next (s.settled (heard sec s.b)))) ∧
  (∀ (s : State) (sec : Sec) (i : BitVec 16), s.hears sec →
    exec (.rosterSyncAck sec i) s = .next (s.settled (push (.adm sec.part) (modAdm sec.part (fun a => { a with rosterPend := ackRoster sec.peer i a.rosterPend }) (heard sec s.b)))))

/-- R147, R149, R152, R153, R154, R156, R157, R158, R165: a failed authentication is counted; sessions refresh their keys, are probed and end; heartbeats leave and are heard, a takeover by the next of `ANCHORS` is followed, and one this standby is due comes about, a departure is recorded, withdrawn and takes effect at its epoch, a late formation is recorded, and absent delegates are replaced after a second. -/
def Obligations.SessionsHeartbeatsAndDepartures : Prop :=
  (∀ (s : State) (sec : Sec) (c : Instr), (c = .keyUpdate sec ∨ c = .probe sec ∨ c = .probeAck sec) → s.b.live = true → (s.b.peer sec.part sec.peer).hasSession = true → sec.auth = false →
    (s.b.peer sec.part sec.peer).authFails + 1 < 3 → exec c s = .next (s.settled (modPeer sec.part sec.peer (fun q => { q with authFails := (s.b.peer sec.part sec.peer).authFails + 1 }) s.b))) ∧
  (∀ (s : State) (sec : Sec), s.hears sec →
    exec (.keyUpdate sec) s = .next (s.settled (sendEnv s.hard sec.part sec.peer (.spdm 0x69 .none []) (modPeer sec.part sec.peer (fun q => { q with sent := 0, received := 0 }) (heard sec s.b)))) ∧
    exec (.probe sec) s = .next (s.settled (sendTo s.hard sec.part sec.peer 0x0C [] (heard sec s.b))) ∧
    exec (.probeAck sec) s = .next (s.settled (push (.adm sec.part) (modAdm sec.part (fun a => { a with drawn := a.drawn.map fun g => { g with await := g.await.filter fun x => decide (x ≠ sec.peer) } })
      (modPeer sec.part sec.peer (fun q => { q with probes := 0 }) (heard sec s.b)))))) ∧
  (∀ (s : State) (sec : Sec), s.hearsJoin sec →
    let k := joinKey s.b sec.part sec.peer
    let b := sendAt s.hard sec.part sec.peer k (.spdm 0x6C .none []) (heardJoin sec s.b)
    let ended := freeEntry sec.part sec.peer (closeSession s.hard sec.part sec.peer stPeerDeparted b)
    ((s.b.peerAt sec.part k).state ≠ 6 → exec (.endSession sec) s = .next (s.settled (if memberKind sec.peer = 0 then memberLost s.hard sec.part (memberIndex sec.peer) ended else ended))) ∧
    ((s.b.peerAt sec.part k).state = 6 → exec (.endSession sec) s = .next (s.settled (refuseAt s.hard sec.part sec.peer k 0x000D
      (modPeerAt sec.part k (fun q => { q with secret := 0 }) (endKey s.hard (s.b.peerAt sec.part k).secret b)))))) ∧
  (∀ (s : State) (p : Part) (m : MemberRef), s.b.live = true → (s.b.peer p m).inSession = true →
    ((s.b.peer p m).probes = 0 ∨ ((s.b.peer p m).probes < 3 ∧ (s.b.peer p m).probeTick.toNat + 10000000 ≤ s.b.clk.tick.toNat) →
      exec (.probeTimeout p m) s = .next (s.settled (sendTo s.hard p m 0x0B [] (modPeer p m (fun q => { q with probes := q.probes + 1, probeTick := s.b.clk.tick }) s.b)))) ∧
    (3 ≤ (s.b.peer p m).probes → (s.b.peer p m).probeTick.toNat + 10000000 ≤ s.b.clk.tick.toNat → exec (.probeTimeout p m) s = .next (s.settled (sessionLost s.hard p m 2 s.b))) ∧
    ((s.b.peer p m).requester = true → 2 ^ 24 ≤ (s.b.peer p m).sent ∨ 2 ^ 24 ≤ (s.b.peer p m).received →
      exec (.keyUpdateTrigger p m) s = .next (s.settled (sendEnv s.hard p m (.spdm 0xE9 .updateAllKeys []) s.b))) ∧
    ((s.b.peer p m).requester = false → exec (.keyUpdateTrigger p m) s = .next (s.settled s.b))) ∧
  (∀ (s : State) (sec : Sec) (term seq : BitVec 32), s.hears sec → memberKind sec.peer = 0 →
    ((s.b.adm' sec.part).term.toNat ≤ term.toNat → exec (.heartbeat sec term seq) s = .next (s.settled (modAdm sec.part (fun a => { a with heard := Tab.set a.heard (memberIndex sec.peer).toNat s.b.clk.tick }) (heard sec s.b)))) ∧
    (term.toNat < (s.b.adm' sec.part).term.toNat → exec (.heartbeat sec term seq) s = .next (s.settled (heard sec s.b)))) ∧
  (∀ (s : State) (p : Part) (j : Jig), s.b.live = true → s.b.jigOf p = some j →
    ((s.b.adm' p).anchor = j.memberIndex → exec (.heartbeatSend p) s = .next (s.settled ((((standbys j (s.b.adm' p)).map accel).filter fun m => (s.b.peer p m).inSession).foldl
      (fun b m => sendTo s.hard p m 0x08 (leBytes 4 (s.b.adm' p).term.toNat ++ leBytes 4 (s.b.adm' p).rosterSeq.toNat) b) s.b))) ∧
    ((s.b.adm' p).byAnchor = false → (s.b.adm' p).keyed = false → exec (.heartbeatLost p) s = .next (s.settled s.b)) ∧
    ((s.b.adm' p).byAnchor = true → (standbys j (s.b.adm' p)).contains j.memberIndex = true → (((j.anchors.take (anchorRank j j.memberIndex)).drop (anchorRank j (s.b.adm' p).anchor)).all (watchLost s.b p)) = true →
      (s.b.adm' p).peers = [] → (s.b.adm' p).departed = [] → (s.b.adm' p).departing = [] → (s.b.adm' p).lost.contains j.memberIndex = false →
      exec (.heartbeatLost p) s = .next (s.settled (note s.hard 0x0305 27 (some p) [aHalf j.memberIndex.toNat, aW4 ((s.b.adm' p).term + 1).toNat]
        (ownIndex p j.memberIndex (modAdm p (fun a => { a with term := a.term + 1, anchor := j.memberIndex }) s.b))))) ∧
    ((s.b.adm' p).anchor = j.memberIndex → (s.b.adm' p).formStart.toNat + 12000000000 ≤ s.b.clk.tick.toNat → ∀ n,
      n = (((List.range j.memberCount).filter fun i => decide (i ≠ j.memberIndex.toNat) && !(s.b.peer p (accel (BitVec.ofNat 16 i))).inSession).length) →
      exec (.formationLate p) s = .next (s.settled (if n = 0 then s.b else note s.hard 0x0308 27 (some p) [aCount n] s.b))) ∧
    ((s.b.adm' p).formStart.toNat + 1000000000 ≤ s.b.clk.tick.toNat → exec (.delegateAbsent p) s = .next (s.settled (push (.adm p) s.b)))) ∧
  (∀ (s : State) (sec : Sec) (term : BitVec 32) (i : BitVec 16) (j : Jig), s.hears sec → s.b.jigOf sec.part = some j →
    let old := (s.b.adm' sec.part).anchor
    let followed := modAdm sec.part (fun a => { a with term := term, anchor := i, noAnchor := false, heard := Tab.set a.heard i.toNat s.b.clk.tick, peers := Tab.mapV a.peers fun n q => { q with anchor := decide (n = (accel i).toNat) } }) (overtake sec.part j.memberIndex old (heard sec s.b))
    ((s.b.adm' sec.part).term.toNat < term.toNat → sec.peer = accel i → nextAnchor (heard sec s.b) sec.part j i = true →
      exec (.takeover sec term i) s = .next (s.settled (if old = j.memberIndex then dropHeld s.hard sec.part followed else followed))) ∧
    (term.toNat ≤ (s.b.adm' sec.part).term.toNat ∨ sec.peer ≠ accel i → exec (.takeover sec term i) s = .next (s.settled (heard sec s.b)))) ∧
  (∀ (s : State) (sec : Sec) (m : MemberRef) (cause : Byte) (e : BitVec 24), s.hears sec →
    let b := heard sec s.b
    ((s.b.adm' sec.part).anchor = s.b.selfIndex sec.part → e ≠ 0 →
      exec (.depart sec m cause e) s = .next (s.settled (if memberKind m = 0 then heardDeparture s.hard sec.part m (recordDeparture s.hard sec.part m cause b) else setDeparting sec.part m cause (departEpoch b sec.part) true b))) ∧
    ((s.b.adm' sec.part).anchor ≠ s.b.selfIndex sec.part → e ≠ 0 → sec.peer = accel (s.b.adm' sec.part).anchor ∨ sec.peer = m →
      exec (.depart sec m cause e) s = .next (s.settled (heardDeparture s.hard sec.part m (setDeparting sec.part m cause e (decide (sec.peer = accel (s.b.adm' sec.part).anchor) || decide (memberKind m ≠ 0)) b)))) ∧
    ((s.b.adm' sec.part).anchor ≠ s.b.selfIndex sec.part → sec.peer = accel (s.b.adm' sec.part).anchor → exec (.depart sec m cause 0) s = .next (s.settled (undoDeparting sec.part m b)))) ∧
  (∀ (s : State) (p : Part) (j : Jig) (d : Departing), s.b.live = true → s.b.jigOf p = some j → ((s.b.adm' p).departing.find? fun x => decide (x.member = d.member)) = some d →
    (epochStart j d.epoch ≤ s.b.clk.tick.toNat → exec (.departureEffective p d.member) s = .next (s.settled (departNow s.hard p d s.b))) ∧
    (s.b.clk.tick.toNat < epochStart j d.epoch → exec (.departureEffective p d.member) s = .next (s.settled s.b)))

/-- R156, R159, R161, R347: the driver's admission and release of a peer, and the relay's indices with their check. -/
def Obligations.PeerCommandsAndRelay : Prop :=
  (∀ (s : State) (ctx : CmdCtx) (q : Queue) (m : MemberRef) (man : Bool) (deleg : BitVec 4) (rel : Word) (j : Jig), s.starts ctx 0x03 0 q → s.b.jigOf q.part = some j →
    let b := markStarted ctx s.b
    (m = accel j.memberIndex →
      (deleg = 0 ∨ 4 ≤ deleg.toNat ∧ deleg ≠ 0xD ∧ deleg ≠ 0xE → exec (.cmdPeerAdmit ctx m man deleg rel) s = .next (s.settled (push (.adm q.part) (complete s.hard ctx stOk 0 (2 ^ 32 * (s.b.adm' q.part).term.toNat) 0
        (modAdm q.part (fun a => { a with manual := man, selfOff := false, groupLog := if deleg = 0 then a.groupLog else deleg.toNat }) b))))) ∧
      (deleg ≠ 0 → deleg.toNat < 4 ∨ deleg = 0xD ∨ deleg = 0xE → exec (.cmdPeerAdmit ctx m man deleg rel) s = .next (s.settled (complete s.hard ctx stPeerDeparted 0x0009 0 0 b)))) ∧
    (m ≠ accel j.memberIndex → peerKnown j m = false → exec (.cmdPeerAdmit ctx m man deleg rel) s = .next (s.settled (complete s.hard ctx stPeerDeparted 0x0009 0 0 b))) ∧
    (m ≠ accel j.memberIndex → peerKnown j m = true → memberKind m = 0 → s.b.gone q.part (memberIndex m) = false →
      ((s.b.peer q.part m).state = 7 → exec (.cmdPeerAdmit ctx m man deleg rel) s = .next (s.settled (complete s.hard ctx stOk 0 ((s.b.peer q.part m).sessionId.toNat + 2 ^ 32 * (s.b.adm' q.part).term.toNat) 0 b))) ∧
      ((s.b.peer q.part m).state = 0 → (s.b.peer q.part m).admitCtx = none →
        exec (.cmdPeerAdmit ctx m man deleg rel) s = .next (s.settled (discover q.part m (modAtt q.part m (fun y => { y with admitCtx := some ctx }) (modPeer q.part m (fun y => { y with relay := (s.b.peer q.part m).relay }) b)))))) ∧
    (m ≠ accel j.memberIndex → peerKnown j m = true → memberKind m = 1 → rel.toNat % 4096 ≠ 0 ∨ rel = 0 → exec (.cmdPeerAdmit ctx m man deleg rel) s = .next (s.settled (complete s.hard ctx stAborted 0x0102 0 0 b)))) ∧
  (∀ (s : State) (ctx : CmdCtx) (q : Queue) (m : MemberRef), s.starts ctx 0x04 0 q →
    let b := markStarted ctx s.b
    (m ≠ s.b.selfRef q.part → memberKind m = 0 → exec (.cmdPeerRelease ctx m) s = .next (s.settled (complete s.hard ctx stNotOwner 0 0 0 b))) ∧
    (m ≠ s.b.selfRef q.part → memberKind m ≠ 0 → (s.b.peer q.part m).inSession = false → exec (.cmdPeerRelease ctx m) s = .next (s.settled (complete s.hard ctx stPeerDeparted 0 0 0 b))) ∧
    (m ≠ s.b.selfRef q.part → memberKind m ≠ 0 → (s.b.peer q.part m).inSession = true → exec (.cmdPeerRelease ctx m) s = .next (s.settled (complete s.hard ctx stOk 0 1 0
      (freeEntry q.part m (closeSession s.hard q.part m stPeerDeparted (sendEnv s.hard q.part m (.spdm 0xEC .none []) b)))))) ∧
    (m = s.b.selfRef q.part → exec (.cmdPeerRelease ctx m) s = .next (s.settled (complete s.hard ctx stOk 0 (selfRelease s.hard q.part b).1 0 (selfRelease s.hard q.part b).2)))) ∧
  (∀ (s : State) (p : Part) (host : BitVec 16) (prod cons : BitVec 32) (r : Relay), s.b.regs = true → s.b.partExists p = true → (∃ j, s.b.jigOf p = some j) → (s.b.peer p (0x10000 ||| host.setWidth 32)).relay = some r →
    (prod = r.inCons → cons = r.outCons → r.outq = [] → exec (.relayDoorbell p host prod cons) s = .next (s.settled (emit (.dmaWrite (r.addr + 12) (leBytes 4 prod.toNat))
      (modPeer p (0x10000 ||| host.setWidth 32) (fun q => { q with relay := some { r with inProd := prod, inCons := prod, outCons := cons } }) s.b)))) ∧
    (8 < (prod - r.inCons).toNat → (s.b.peer p (0x10000 ||| host.setWidth 32)).inSession = true → ∃ b t, t = modPeer p (0x10000 ||| host.setWidth 32) (fun q => { q with relay := none }) s.b ∧
      b = noteLimited s.hard 0x0809 24 (some p) host.toNat (fun n => [aHalf host.toNat, aCount n]) t ∧
      exec (.relayDoorbell p host prod cons) s = .next (s.settled (sessionLost s.hard p (0x10000 ||| host.setWidth 32) 2 b))))
/-! ### Protected memory -/

/-- R247, R249, R253, R276: what is sealed opens again, under the counter and key it was sealed with; a counter block and a node keep the fields that are written to them and no others move; an atomic gives each operation's new value. -/
def Obligations.LinesCountersAndNodesRoundTrip : Prop :=
  (∀ (key : Key) (line : Nat) (major : Word) (minor : Nat) (pt : Line), openLine key line major minor (sealLine key line major minor pt).1 (sealLine key line major minor pt).2 = some pt) ∧
  (∀ (c : Line) (j v : Nat), j < 64 → v < 128 → cbMinor (cbSetMinor c j v) j = v ∧ cbMajor (cbSetMinor c j v) = cbMajor c ∧ ∀ i, i < 64 → i ≠ j → cbMinor (cbSetMinor c j v) i = cbMinor c i) ∧
  (∀ (major : Word) (j : Nat), j < 64 → cbMajor (cbNew major) = major ∧ cbMinor (cbNew major) j = 0) ∧
  (∀ (n : Line) (j : Nat) (mac : BitVec 56) (g : Bool), j < 8 →
    nodeMac (nodeSetChild n j mac g) j = mac ∧ nodeFresh (nodeSetChild n j mac g) j = false ∧ nodeGen (nodeSetChild n j mac g) j = g ∧ nodeLost (nodeSetChild n j mac g) j = nodeLost n j ∧
    ∀ i, i < 8 → i ≠ j → nodeMac (nodeSetChild n j mac g) i = nodeMac n i ∧ nodeFresh (nodeSetChild n j mac g) i = nodeFresh n i ∧ nodeGen (nodeSetChild n j mac g) i = nodeGen n i ∧ nodeLost (nodeSetChild n j mac g) i = nodeLost n i) ∧
  (∀ j : Nat, j < 8 → nodeFresh nodeNew j = true ∧ nodeMac nodeNew j = 0 ∧ nodeLost nodeNew j = false ∧ nodeGen nodeNew j = false) ∧
  (∀ a c m : Word, atomicNew 1 a c m = BitVec.ofNat 64 ((m.toNat + a.toNat) % 2 ^ 32) ∧ atomicNew 2 a c m = m + a ∧ atomicNew 7 a c m = (if m = a then c else m) ∧
    (atomicNew 3 a c m).toInt = min m.toInt a.toInt ∧ (atomicNew 4 a c m).toInt = max m.toInt a.toInt ∧ (atomicNew 5 a c m).toNat = min m.toNat a.toNat ∧ (atomicNew 6 a c m).toNat = max m.toNat a.toNat)

/-- R251, R255, R256, R257, R258, R259, R269, R270, R271, R276, R306: a request goes to translation, an object fetched is checked, a re-encryption waits for its lines and for room in the cache and is sealed, a staging request keeps what the buffer has room for, the scrub and the sweep take their next page, after the work that goes before them and within the budget, a cleared footprint is free again, a stack's readiness changes, and a counter block that cannot be read costs its page. -/
def Obligations.MemoryEngineCommands : Prop :=
  (∀ (s : State) (die : Fin 4) (p : Part) (pasid : BitVec 20) (eng : BitVec 16) (op : DomOp) (a : BitVec 57) (sch ok : Bool), s.b.live = true → s.b.partExists p = true → (s.b.island .ptu).inReset = false →
    (domOpDefined op = true → exec (.domainRequest die p pasid eng op a sch ok) s = .next (s.settled (xlatNew s.hard p ok
      { pasid := pasid, engine := eng, src := .port die, op := op, addr := portAddr op a, since := s.b.clk.tick, fault := none, scheduled := sch } s.b))) ∧
    (domOpDefined op = false → exec (.domainRequest die p pasid eng op a sch ok) s = .next (s.settled s.b))) ∧
  (∀ (s : State) (n : Fin 8) (rid : BitVec 10) (obj : MemObj) (st : BitVec 2) (l : Line) (r : Region), s.b.live = true → s.b.region rid.toNat = some r → r.me = n → r.kind ≠ 2 →
    (s.b.fetches.contains (rid.toNat, obj) = true →
      exec (.hbmResponse n rid obj st l) s = .next (s.settled (objArrives s.hard rid.toNat obj st l s.b)) ∧
      (∀ i, obj = .dataLine i → 2 ≤ st.toNat → s.b.memReqs = [] →
        exec (.hbmResponse n rid obj st l) s = .next (s.settled (uncorrected s.hard r obj false { s.b with fetches := s.b.fetches.erase (rid.toNat, obj) })))) ∧
    (s.b.fetches.contains (rid.toNat, obj) = false → exec (.hbmResponse n rid obj st l) s = .next (s.settled s.b))) ∧
  (∀ (s : State) (n : Fin 8) (p : Part) (k : Fin 2), s.b.live = true →
    (Tab.get? (s.b.mePart n p).slots k.val = none → exec (.reencryptionDone n p k) s = .next (s.settled s.b)) ∧
    (∀ x r, Tab.get? (s.b.mePart n p).slots k.val = some x → s.b.region x.region = some r →
      (x.await ≠ [] → exec (.reencryptionDone n p k) s = .next (s.settled s.b)) ∧
      (x.await = [] → (s.b.island (.me n)).inReset = false → (s.b.island (.me n)).asleep = false → pageReading s.b x.region x.page = false → regionKeysReady s.b (.me n) r = true →
        (∃ cb parent, walk s.b x.region r x.page = .cb cb parent) → ∀ room, room = roomFor s.hard.cfg x.region r ((List.range 7).map fun t => .tagLine (7 * x.page + t)) (touchPath x.region r x.page s.b) →
          exec (.reencryptionDone n p k) s = .next (s.settled (if room.1 then sealSlot s.hard x.region r k.val x room.2 else room.2))))) ∧
  (∀ (s : State) (p : Part) (rid : BitVec 10) (page j : Nat) (t : Word) (r : Region), s.b.live = true → s.b.region rid.toNat = some r → r.part = p → r.kind ≠ 2 → r.role = 0 → page < r.pages → j < 64 →
    (s.b.mePart r.me p).staging = [] →
    exec (.stageRequest p rid page (1#64 <<< j) t) s = .next (s.settled (newReqs p rid.toNat .quiet [(64 * page, .path)]
      (modMePart r.me p (fun m => { m with staging := m.staging ++ [{ region := rid.toNat, line := 64 * page + j, complete := false, dataTick := t }] }) s.b)))) ∧
  (∀ (s : State) (p : Part) (rid : BitVec 10) (page : Nat) (lines : BitVec 64) (t : Word) (r : Region), s.b.live = true → s.b.region rid.toNat = some r → r.pages ≤ page → exec (.stageRequest p rid page lines t) s = .next (s.settled s.b)) ∧
  (∀ (s : State) (n : Fin 8) (p : Part), s.b.live = true → (s.b.island (.me n)).inReset = false → (s.b.island (.me n)).asleep = false →
    ((s.b.mePart n p).scrubPeriod = 0 → exec (.scrubStep n p) s = .next (s.settled s.b)) ∧
    (planeBusy s.b n p true = true → exec (.scrubStep n p) s = .next (s.settled s.b)) ∧
    (∀ rid r, (s.b.mePart n p).scrubPeriod ≠ 0 → planeBusy s.b n p true = false → planeMay s.b n p false = true → scrubRegions s.b n p = [(rid, r)] → (s.b.mePart n p).scrubRegion = rid → r.pub = none → ∀ page, page = (s.b.mePart n p).page.toNat →
      exec (.scrubStep n p) s = .next (s.settled (newReqs p rid .quiet ((List.range 64).map fun j => (64 * page + j, MemOp.fill)) (dropPath rid r page (modMePart n p (fun m =>
        if page + 1 < r.pages then { m with scrubRegion := rid, page := BitVec.ofNat 36 (page + 1) } else { m with scrubRegion := 0, page := 0, passes := m.passes + 1 }) s.b)))))) ∧
  (∀ (s : State) (p : Part) (rid : BitVec 10) (r : Region) (k : Nat), s.b.live = true → s.b.region rid.toNat = some r → r.part = p → r.role = 0 → r.state = 2 → (s.b.island (.me r.me)).inReset = false →
    (s.b.island (.me r.me)).asleep = false → regionKeysReady s.b (.me r.me) r = true →
    (planeBusy s.b r.me p false = true → exec (.sweepStep p rid) s = .next (s.settled s.b)) ∧
    (r.sweeping = true → planeBusy s.b r.me p false = false → planeMay s.b r.me p (decide (2 ^ 39 < s.b.useCount (.me r.me) r.keySlot)) = true → r.token.sweepPtr.toNat < r.pages → walk s.b rid.toNat r r.token.sweepPtr.toNat = .fresh k →
      exec (.sweepStep p rid) s = .next (s.settled (modRegion rid.toNat (fun x => { x with token := { x.token with sweepPtr := x.token.sweepPtr + 1 } }) (sweepNodes rid.toNat r r.token.sweepPtr.toNat s.b)))) ∧
    (r.sweeping = false → exec (.sweepStep p rid) s = .next (s.settled s.b))) ∧
  (∀ (s : State) (n : Fin 8) (id : BitVec 32) (f : Footprint), s.b.live = true → (s.b.me n).placed = [f] → f.clearing = true → f.regionId = id →
    exec (.memClearDone n id) s = .next (s.settled (push (.part f.part) (meLevel s.hard n (note s.hard 0x050D (16 + n.val) (some f.part) [aW4 id.toNat, aW6 f.size] (modMe n (fun x => { x with placed := [] }) s.b)))))) ∧
  (∀ (s : State) (n : Fin 8) (ready : Bool), s.b.up = true → n.val < meCount s.hard.cfg →
    exec (.hbmReadyChange n ready) s = .next (s.settled (pushAll (meLevel s.hard n (modMe n (fun x => { x with ready := ready }) s.b))))) ∧
  (∀ (s : State) (p : Part) (rid : BitVec 10) (i : Nat) (cs : List (BitVec 2 × Line)) (r : Region), s.b.live = true → s.b.region rid.toNat = some r → r.part = p → r.role = 0 → 1 ≤ r.levels →
    (r.repair = some (0, i) → exec (.repairDone p rid 0 i cs) s = .next (s.settled (repairEnded s.hard rid.toNat 0 i 1 (losePage s.hard rid.toNat i 1 s.b)))) ∧
    (∀ k, r.repair ≠ some (k, i) → exec (.repairDone p rid k i cs) s = .next (s.settled s.b)))

/-- R261, R262, R263, R264, R265, R270: an older token, one that fails its check or one from no keeper changes nothing, a newer one is taken by its mirror and acknowledged; an intent is held until its token and acknowledged, and the keeper's publication goes on with each acknowledgement; a reader is taken into the reader set or refused and leaves it; a keeper reverifies a page and repairs a node on request; a relay passes its token on to the members it names. -/
def Obligations.TokensIntentsAndReaders : Prop :=
  (∀ (s : State) (sec : Sec) (t : Token), s.hears sec → memberKind sec.peer = 0 →
    ((s.b.adm' sec.part).keyed = false ∨ tokenOk (heard sec s.b) sec.part t = false ∨ t.keeper = s.b.selfIndex sec.part → exec (.token sec t) s = .next (s.settled (heard sec s.b))) ∧
    ((s.b.adm' sec.part).keyed = true → tokenOk (heard sec s.b) sec.part t = true → t.keeper ≠ s.b.selfIndex sec.part → s.b.regionById sec.part t.regionId = none →
      (∀ n, lastSeq s.b sec.part t.regionId = some n → t.tokenSeq.toNat ≤ n → exec (.token sec t) s = .next (s.settled (heard sec s.b))) ∧
      (∀ m, s.b.mirrorEnt sec.part t.regionId = some m → m.token = none → t.mirror = s.b.selfIndex sec.part → t.noMirror = false → s.b.session sec.part t.keeper = true →
        exec (.token sec t) s = .next (s.settled (sendMem s.hard sec.part t.keeper 2 t.regionId (leBytes 8 t.tokenSeq.toNat)
          (putMirror { part := sec.part, regionId := t.regionId, token := some t, intent := none, heard := s.b.clk.tick } (heard sec s.b))))))) ∧
  (∀ (s : State) (sec : Sec) (id : BitVec 32) (seq : Word) (rid : Nat) (r : Region) (x : Publication), s.hears sec → memberKind sec.peer = 0 → keptById s.b sec.part id = some (rid, r) → r.state ≠ 7 → r.pub = some x →
    (seq ≠ r.token.tokenSeq → exec (.tokenAck sec id seq) s = .next (s.settled (heard sec s.b))) ∧
    (seq = r.token.tokenSeq → x.phase = 3 → memberIndex sec.peer = r.token.mirror → exec (.tokenAck sec id seq) s = .next (s.settled (pubAcked s.hard rid r x (heard sec s.b)))) ∧
    (seq = r.token.tokenSeq → x.phase = 4 → exec (.tokenAck sec id seq) s = .next (s.settled (push (.pub rid) (setRegion rid { r with pub := some { x with await := x.await.filter fun y => decide (y ≠ memberIndex sec.peer) } } (heard sec s.b))))) ∧
    (x.phase = 1 → sec.peer = accel r.token.mirror → seq = r.token.tokenSeq + 1 → exec (.intentAck sec id seq) s = .next (s.settled (push (.pub rid) (setRegion rid { r with pub := some { x with await := [] } } (heard sec s.b))))) ∧
    (x.phase ≠ 1 → exec (.intentAck sec id seq) s = .next (s.settled (heard sec s.b)))) ∧
  (∀ (s : State) (sec : Sec) (id : BitVec 32) (seq : Word) (es : List IntentEntry) (m : MirrorEnt) (t : Token), s.hears sec → s.b.mirrorEnt sec.part id = some m → m.token = some t →
    (accel t.keeper = sec.peer → exec (.intent sec id seq es) s = .next (s.settled (sendMem s.hard sec.part (memberIndex sec.peer) 4 id (leBytes 8 seq.toNat) (putMirror { m with intent := some (seq, es), heard := s.b.clk.tick } (heard sec s.b))))) ∧
    (accel t.keeper ≠ sec.peer → exec (.intent sec id seq es) s = .next (s.settled (heard sec s.b)))) ∧
  (∀ (s : State) (sec : Sec) (id : BitVec 32), s.hears sec → memberKind sec.peer = 0 → keptById s.b sec.part id = none →
    exec (.readOpen sec id) s = .next (s.settled (sendMem s.hard sec.part (memberIndex sec.peer) 10 id (leBytes 1 stRegionRevoked.toNat ++ leBytes 7 0) (heard sec s.b))) ∧
    exec (.readClose sec id) s = .next (s.settled (heard sec s.b)) ∧ (∀ pg sq, exec (.reverify sec id pg sq) s = .next (s.settled (heard sec s.b))) ∧
    (∀ lv ix, exec (.repairReq sec id lv ix) s = .next (s.settled (heard sec s.b)))) ∧
  (∀ (s : State) (sec : Sec) (id : BitVec 32) (rid : Nat) (r : Region), s.hears sec → memberKind sec.peer = 0 → keptById s.b sec.part id = some (rid, r) → r.pub = none →
    (r.kind ≠ 0 → r.state ≠ 7 → r.state ≠ 8 → r.dying = false → r.readers.contains (memberIndex sec.peer) = false →
      (r.readers.length < 65535 → exec (.readOpen sec id) s = .next (s.settled (sendToken s.hard sec.part (memberIndex sec.peer) (currentToken (setRegion rid { r with readers := r.readers ++ [memberIndex sec.peer] } (heard sec s.b)) r)
        (setRegion rid { r with readers := r.readers ++ [memberIndex sec.peer] } (heard sec s.b))))) ∧
      (65535 ≤ r.readers.length → exec (.readOpen sec id) s = .next (s.settled (sendMem s.hard sec.part (memberIndex sec.peer) 10 id (leBytes 1 stNoSlot.toNat ++ leBytes 7 0) (heard sec s.b))))) ∧
    exec (.readClose sec id) s = .next (s.settled (push (.pub rid) (setRegion rid { r with readers := r.readers.filter fun x => decide (x ≠ memberIndex sec.peer) } (heard sec s.b)))) ∧
    (∀ pg sq : Word, r.kind = 2 → pg.toNat < r.pages → exec (.reverify sec id pg sq) s = .next (s.settled (startReverify rid r (memberIndex sec.peer) pg.toNat (heard sec s.b)))) ∧
    (∀ (lv : Byte) (ix : Word), r.kind = 2 → 1 ≤ lv.toNat → lv.toNat < r.levels → ix.toNat < nodesAt r.pages lv.toNat → exec (.repairReq sec id lv ix) s = .next (s.settled (startRepair s.hard rid r lv.toNat ix.toNat (heard sec s.b))))) ∧
  (∀ (s : State) (sec : Sec) (t : Token) (ds : List (BitVec 16)), s.hears sec → memberKind sec.peer = 0 → (s.b.adm' sec.part).anchor ≠ s.b.selfIndex sec.part →
    exec (.relay sec ds t) s = .next (s.settled (if ds.contains (s.b.selfIndex sec.part) then tokenIn s.hard sec.part t (heard sec s.b) else heard sec s.b))) ∧
  (∀ (s : State) (sec : Sec) (t : Token) (d : BitVec 16), s.hears sec → memberKind sec.peer = 0 → (s.b.adm' sec.part).anchor = s.b.selfIndex sec.part → d ≠ s.b.selfIndex sec.part → s.b.session sec.part d = true →
    exec (.relay sec [d] t) s = .next (s.settled (sendMem s.hard sec.part d 11 t.regionId (leBytes 2 1 ++ leBytes 2 d.toNat ++ tokenBody t) (heard sec s.b))))

/-- R265, R266, R268, R271, R272: the region commands end with their statuses, an open local window (its key's major counters going on from where they were left), an open with no entry left, a hand-off and a clear take effect, a mirror takes over when its keeper is lost, a hand-off is taken from the region's keeper only, a refusal ends an open, and an open without a token ends after a second. -/
def Obligations.RegionsOpenMoveAndClear : Prop :=
  (∀ (s : State) (ctx : CmdCtx) (q : Queue) (w : Fin 16) (n : BitVec 4), s.starts ctx 0x05 0 q →
    let b := markStarted ctx s.b
    (∀ j, s.b.jigOf q.part = some j → (∀ v ∈ j.windows, v.window ≠ w.val) → exec (.cmdRegionOpen ctx w n) s = .next (s.settled (complete s.hard ctx stObjectGone 0 0 0 b))) ∧
    (∀ j v rid r, s.b.jigOf q.part = some j → (j.windows.find? fun x => decide (x.window = w.val)) = some v → windowObject s.b q.part w.val = some (rid, r) → r.dying = false → r.closing = false →
      (r.pasid = some q.pasid → exec (.cmdRegionOpen ctx w n) s = .next (s.settled (complete s.hard ctx stOk 0 (rid + 1024 * r.role.toNat) (if r.kind = 0 then 0 else r.token.tokenSeq.toNat) b))) ∧
      (∀ other, r.pasid = some other → other ≠ q.pasid → exec (.cmdRegionOpen ctx w n) s = .next (s.settled (complete s.hard ctx stNotOwner 0 0 0 b)))) ∧
    (∀ j v, s.b.jigOf q.part = some j → (j.windows.find? fun x => decide (x.window = w.val)) = some v → windowObject s.b q.part w.val = none →
      (meCount s.hard.cfg ≤ n.toNat → n.toNat ≤ 14 → exec (.cmdRegionOpen ctx w n) s = .next (s.settled (complete s.hard ctx stAborted 0x0102 0 0 b))) ∧
      (∀ sl rid me off k t, n = 15 → s.b.sliceOf q.pasid = some sl → regionsHeld s.b q.pasid < sl.rgn.toNat → b.freeRegion = some rid → v.kind = 0 → rootEntries b b.jigs < 1024 →
        chooseStack s.hard.cfg b q.part none (footprintOf (pagesOf v.size)) = some (me, off) → openKey q.part 0 (BitVec.ofNat 8 v.window) v.regionId v.generation b = some (k, t) →
        ∃ r, exec (.cmdRegionOpen ctx w n) s = .next (s.settled (openObject ctx rid r (placeFoot me { regionId := v.regionId, part := q.part, base := off, size := footprintOf (pagesOf v.size), clearing := false, pool := false } t))) ∧
          r.part = q.part ∧ r.pasid = some q.pasid ∧ r.window = some (Fin.ofNat 16 v.window) ∧ r.kind = 0 ∧ r.role = 0 ∧ r.state = 2 ∧ r.me = me ∧ r.base = off ∧ r.keySlot = k ∧ r.token.root = nodeNew ∧ r.token.noMirror = true ∧ r.token.majorHwm = t.markOf q.part v.regionId v.window v.generation) ∧
      (∀ sl, n = 15 → s.b.sliceOf q.pasid = some sl → sl.rgn.toNat ≤ regionsHeld s.b q.pasid ∨ b.freeRegion = none ∨ (v.kind = 0 ∧ 1024 ≤ rootEntries b b.jigs) → exec (.cmdRegionOpen ctx w n) s = .next (s.settled (complete s.hard ctx stNoSlot 0 0 0 b))))) ∧
  (∀ (s : State) (ctx : CmdCtx) (q : Queue) (rid : BitVec 10), s.starts ctx 0x06 0 q →
    let b := markStarted ctx s.b
    (s.b.region rid.toNat = none → exec (.cmdRegionHandoff ctx rid) s = .next (s.settled (complete s.hard ctx stObjectGone 0 0 0 b))) ∧
    (∀ r, s.b.region rid.toNat = some r → r.pasid ≠ some q.pasid → exec (.cmdRegionHandoff ctx rid) s = .next (s.settled (complete s.hard ctx stNotOwner 0 0 0 b))) ∧
    (∀ r, s.b.region rid.toNat = some r → r.pasid = some q.pasid → r.dying = false → r.role ≠ 0 ∨ r.kind ≠ 2 → exec (.cmdRegionHandoff ctx rid) s = .next (s.settled (complete s.hard ctx stNotOwner 0 0 0 b))) ∧
    (∀ r, s.b.region rid.toNat = some r → r.pasid = some q.pasid → r.dying = false → r.role = 0 → r.kind = 2 →
      (r.state = 5 ∨ r.state = 8 → exec (.cmdRegionHandoff ctx rid) s = .next (s.settled (complete s.hard ctx stRegionRevoked 0 0 0 b))) ∧
      (r.state = 2 → r.ctx = none → s.b.session r.part r.token.mirror = false → exec (.cmdRegionHandoff ctx rid) s = .next (s.settled (complete s.hard ctx stPeerDeparted 0 0 0 b))) ∧
      (r.state = 2 → r.ctx = none → s.b.session r.part r.token.mirror = true → r.token.mirror ≠ s.b.selfIndex r.part →
        exec (.cmdRegionHandoff ctx rid) s = .next (s.settled (wantPub rid.toNat (setRegion rid.toNat { r with handing := true, ctx := some ctx } b)))))) ∧
  (∀ (s : State) (ctx : CmdCtx) (q : Queue) (rid : BitVec 10) (r : Region), s.starts ctx 0x07 0 q → s.b.region rid.toNat = some r → r.pasid = some q.pasid → r.dying = false →
    let b := markStarted ctx s.b
    (r.role ≠ 0 → exec (.cmdRegionClear ctx rid) s = .next (s.settled (complete s.hard ctx stNotOwner 0 0 0 b))) ∧
    (r.role = 0 → r.state = 5 ∨ r.state = 7 ∨ r.state = 8 → exec (.cmdRegionClear ctx rid) s = .next (s.settled (complete s.hard ctx stRegionRevoked 0 0 0 b))) ∧
    (r.role = 0 → r.state = 2 → r.ctx = none → r.kind = 0 → exec (.cmdRegionClear ctx rid) s = .next (s.settled (complete s.hard ctx stOk 0 0 0
      (modRegion rid.toNat (fun x => { x with state := 2 }) (push (.part r.part) (clearRoot s.hard rid.toNat r b)))))) ∧
    (r.role = 0 → r.state = 2 → r.ctx = none → r.kind = 2 → exec (.cmdRegionClear ctx rid) s = .next (s.settled (wantPub rid.toNat
      (modRegion rid.toNat (fun x => { x with state := 9, ctx := some ctx }) (push (.part r.part) (clearRoot s.hard rid.toNat r b))))))) ∧
  (∀ (s : State) (p : Part) (id : BitVec 32) (m : MirrorEnt) (t : Token), s.b.live = true → s.b.mirrorEnt p id = some m → m.token = some t →
    (s.b.session p t.keeper = false → exec (.mirrorTakeover p id) s = .next (s.settled (takeover s.hard m s.b))) ∧
    (s.b.session p t.keeper = true → s.b.gone p t.keeper = false → exec (.mirrorTakeover p id) s = .next (s.settled s.b))) ∧
  (∀ (s : State) (sec : Sec) (t t0 : Token) (m : MirrorEnt), s.hears sec → memberKind sec.peer = 0 → s.b.mirrorEnt sec.part t.regionId = some m → m.token = some t0 →
    (tokenOk (heard sec s.b) sec.part t = false ∨ t.keeper ≠ s.b.selfIndex sec.part ∨ t0.keeper ≠ memberIndex sec.peer ∨ t.tokenSeq.toNat ≤ t0.tokenSeq.toNat → exec (.handoff sec t) s = .next (s.settled (heard sec s.b))) ∧
    (∀ rid b, tokenOk (heard sec s.b) sec.part t = true → t.keeper = s.b.selfIndex sec.part → t0.keeper = memberIndex sec.peer → t0.tokenSeq.toNat < t.tokenSeq.toNat → becomeKeeper s.hard sec.part t (heard sec s.b) = some (rid, b) →
      exec (.handoff sec t) s = .next (s.settled (takeHandoff s.hard sec.part (memberIndex sec.peer) t (heard sec s.b))))) ∧
  (∀ (s : State) (sec : Sec) (id : BitVec 32) (st : Byte) (rid : Nat) (r : Region), s.hears sec → s.b.regionById sec.part id = some (rid, r) →
    (r.role ≠ 0 → sec.peer = accel r.token.keeper → r.state = 1 → exec (.refuse sec id st) s = .next (s.settled (closeRegion s.hard rid (heard sec s.b)))) ∧
    (r.role ≠ 0 → sec.peer = accel r.token.keeper → r.state ≠ 1 → exec (.refuse sec id st) s = .next (s.settled (revokeRegion s.hard rid (heard sec s.b)))) ∧
    (r.role = 0 ∨ sec.peer ≠ accel r.token.keeper → exec (.refuse sec id st) s = .next (s.settled (heard sec s.b)))) ∧
  (∀ (s : State) (p : Part) (rid : BitVec 10) (r : Region), s.b.live = true → s.b.region rid.toNat = some r → r.part = p → r.state = 1 →
    (r.openTick.toNat + 1000000000 ≤ s.b.clk.tick.toNat → exec (.regionOpenTimeout p rid) s = .next (s.settled (closeRegion s.hard rid.toNat s.b))) ∧
    (s.b.clk.tick.toNat < r.openTick.toNat + 1000000000 → exec (.regionOpenTimeout p rid) s = .next (s.settled s.b)))

/-! ### Translation -/

/-- R306, R307, R311, R312, R313: an address outside every window faults with cause 1 and one in a closed window with cause 2, a page marked for withdrawal, with its host or read only faults with cause 5, 3 or 4, and a page at home or in the pool leads to its line. -/
def Obligations.AddressesTranslateByWindowAndEntry : Prop :=
  ∀ (b : Block) (p : Part) (q : Stalled) (j : Jig), b.jigOf p = some j →
    (windowAt j q.addr.toNat = none → ∃ page, classify b p q = .fault 1 0x1F page) ∧
    (∀ w, windowAt j q.addr.toNat = some w →
      (b.windowRegion p w.window = none → classify b p q = .fault 2 w.window (w.window * 2 ^ 40 + (q.addr.toNat - w.base) / 2097152)) ∧
      (∀ rid r, b.windowRegion p w.window = some (rid, r) →
        (w.kind ≠ 0 → classify b p q = .go rid ((q.addr.toNat - w.base) / 64) (w.window * 2 ^ 40 + (q.addr.toNat - w.base) / 2097152)) ∧
        (w.kind = 0 → (b.ptuPart p).table = none → ∀ top e, top = w.window * 2 ^ 40 + (q.addr.toNat - w.base) / 2097152 → (b.ptuPart p).pte top = e → e.res ≠ 3 →
          (e.busy = true → classify b p q = .busy) ∧
          (e.busy = false → e.wd = true → classify b p q = .fault 5 w.window top) ∧
          (e.busy = false → e.wd = false → e.res = 2 → classify b p q = .fault 3 w.window top) ∧
          (e.busy = false → e.wd = false → e.res ≠ 2 → e.ro = true → q.op ≠ .read → classify b p q = .fault 4 w.window top) ∧
          (e.busy = false → e.wd = false → e.res = 0 → e.ro = false → classify b p q = .go rid ((q.addr.toNat - w.base) / 64) top) ∧
          (e.busy = false → e.wd = false → e.res = 1 → e.ro = false → classify b p q = .go e.rgn.toNat (1024 * e.frame.toNat + (q.addr.toNat - w.base) % 2097152 / 64) top))))

/-- R312, R314, R315, R318, R319, R320, R322, R324: a fault is completed by replay or by failure, one that is not outstanding is recorded; the ring takes its consumer index, its base and enable; a move, an advice and an invalidation are refused when their operands are malformed and else wait their turn as changes; drained changes go on, copied pages take their residence, marked pages are moved, destinations leave a port that is down, and a pin is written. -/
def Obligations.TranslationCommands : Prop :=
  (∀ (s : State) (p : Part) (id : BitVec 16) (c : Instr) (again : Bool), (c = .fdoneReplay p id ∧ again = true) ∨ (c = .fdoneFail p id ∧ again = false) → s.b.regs = true → islandPresent s.hard.cfg .ptu = true →
    (s.b.island .ptu).inReset = false → (s.b.island .ptu).asleep = false → s.b.partExists p = true →
    (((s.b.ptuPart p).faults.find? fun f => decide (f.id = id)) = none → exec c s = .next (s.settled (xlatNote s.hard 0x0703 p [aHalf id.toNat] s.b))) ∧
    (∀ f, ((s.b.ptuPart p).faults.find? fun f => decide (f.id = id)) = some f →
      (f.written = false → exec c s = .next (s.settled s.b)) ∧
      (f.written = true → ∃ b, b = modPtu p (fun x => { x with faults := x.faults.filter fun g => decide (g.id ≠ id) }) s.b ∧
        exec c s = .next (s.settled (if again then replay s.hard p true (fun _ q => decide (q.fault = some id)) b else endStalls p (fun q => decide (q.fault = some id)) b))))) ∧
  (∀ (s : State) (p : Part) (rd : BitVec 10) (ok : Bool) (v : Word), s.b.regs = true → islandPresent s.hard.cfg .ptu = true → (s.b.island .ptu).inReset = false → (s.b.island .ptu).asleep = false → s.b.partExists p = true →
    ((s.b.ptuPart p).wr.toNat - (s.b.ptuPart p).rd.toNat < (rd - (s.b.ptuPart p).rd).toNat → (s.b.ptuPart p).rd.toNat ≤ (s.b.ptuPart p).wr.toNat → exec (.faultRingConsume p rd ok) s = .next (s.settled s.b)) ∧
    ((rd - (s.b.ptuPart p).rd).toNat ≤ ((s.b.ptuPart p).wr - (s.b.ptuPart p).rd).toNat → (s.b.ptuPart p).faults = [] →
      exec (.faultRingConsume p rd ok) s = .next (s.settled (ringLevel s.hard p (modPtu p (fun x => { x with rd := rd }) s.b)))) ∧
    ((s.b.ptuPart p).faults = [] → exec (.faultRingEnable p v ok) s = .next (s.settled (modPtu p (fun x => { x with base := BitVec.ofNat 52 (wbits v 12 52), en := wbit v 0 }) s.b))) ∧
    (∀ n, n = ((s.b.ptuPart p).pins.filter fun e => !e.names (s.b.ptuPart p).selKind (s.b.ptuPart p).selDest) → ∃ k : Port, k.val = wbits v 8 6 ∧
      exec (.pinWrite p v) s = .next (s.settled (push (.part p) (modPtu p (fun x => { x with pins := if wbit v 63 && pinnable s.hard.cfg s.b p k && decide (n.length < 256) then n ++ [{ dkind := (s.b.ptuPart p).selKind, dest := (s.b.ptuPart p).selDest, port := k }] else n }) s.b))))) ∧
  (∀ (s : State) (ctx : CmdCtx) (q : Queue) (a : BitVec 57) (n : BitVec 16) (small : Bool),
    let b := markStarted ctx s.b
    let bad : Host.Outcome State Fault Refusal := .next (s.settled (complete s.hard ctx stAborted 0x0102 0 0 b))
    (s.starts ctx 0x0F 0 q → ∀ (dest : BitVec 2) (w : BitVec 6) (rv : BitVec 10),
      (moveKeys b q.part a n small = none → exec (.cmdPrefetch ctx a n small dest w rv) s = bad) ∧
      (∀ ks, moveKeys b q.part a n small = some ks → dest = 1 → rv = 0x3FF →
        exec (.cmdPrefetch ctx a n small dest w rv) s = .next (s.settled (push (.part q.part) (newChange q.part { XChange.blank 0 (some ctx) with todo := ks, small := small, arg := 1, reserve := rv, bounce := w } b)))) ∧
      (∀ ks, moveKeys b q.part a n small = some ks → dest = 2 → b.bounce w = none → exec (.cmdPrefetch ctx a n small dest w rv) s = .next (s.settled (complete s.hard ctx stObjectGone 0 0 0 b))) ∧
      (∀ ks, moveKeys b q.part a n small = some ks → dest = 3 → exec (.cmdPrefetch ctx a n small dest w rv) s = bad)) ∧
    (s.starts ctx 0x10 0 q → ∀ (adv : BitVec 4),
      (adv = 0 ∨ 6 < adv.toNat ∨ (small = true ∧ (adv = 3 ∨ adv = 4)) ∨ moveKeys b q.part a n small = none → exec (.cmdAdvise ctx a n small adv) s = bad) ∧
      (∀ ks, moveKeys b q.part a n small = some ks → 1 ≤ adv.toNat → adv.toNat ≤ 6 → small = false →
        exec (.cmdAdvise ctx a n small adv) s = .next (s.settled (push (.part q.part) (newChange q.part { XChange.blank 1 (some ctx) with todo := ks, small := small, arg := adv.toNat } b))))) ∧
    (s.starts ctx 0x0E 0 q → ∀ wd : Bool,
      (invalKeys b q.part a n small wd = none → exec (.cmdInvalidateXlat ctx a n small wd) s = bad) ∧
      (∀ ks, invalKeys b q.part a n small wd = some ks → exec (.cmdInvalidateXlat ctx a n small wd) s = .next (s.settled (push (.part q.part) (newChange q.part { XChange.blank 2 (some ctx) with todo := ks, small := small, arg := bit wd } b)))))) ∧
  (∀ (s : State) (p : Part) (c : XChange), s.b.live = true → (s.b.ptuPart p).changes = [c] →
    (c.stage = 1 → (s.b.ptuPart p).drained c.epoch = true → exec (.epochDrainDone p) s = .next (s.settled (push (.part p) (changeDrained s.hard p c s.b)))) ∧
    (c.stage = 1 → (s.b.ptuPart p).drained c.epoch = false → exec (.epochDrainDone p) s = .next (s.settled (push (.part p) s.b))) ∧
    (∀ key ks, c.todo = key :: ks → c.stage = 4 → exec (.pageMoveDone p) s = .next (s.settled (pageMoved s.hard p c key s.b))) ∧
    (c.stage ≠ 4 → exec (.pageMoveDone p) s = .next (s.settled s.b))) ∧
  (∀ (s : State) (p : Part), s.b.live = true →
    (∀ key, evictNext s.b p = some key → exec (.evictMove p) s = .next (s.settled (push (.part p) (newChange p { XChange.blank 0 none with todo := [key], small := keyIsPart key, arg := 1 } s.b)))) ∧
    (evictNext s.b p = none → exec (.evictMove p) s = .next (s.settled s.b))) ∧
  (∀ (s : State) (p : Part) (k m : Port) (e : PinEnt), s.b.live = true → portPresent s.hard.cfg k = true →
    ((s.b.port k).linkUp = true ∨ s.b.clk.tick.toNat < (s.b.port k).downSince.toNat + 1000000 → exec (.portMoved p k) s = .next (s.settled s.b)) ∧
    ((s.b.port k).linkUp = false → (s.b.port k).downSince.toNat + 1000000 ≤ s.b.clk.tick.toNat → (s.b.ptuPart p).chosen = [e] → e.port = k → (s.b.ptuPart p).pins = [] → (s.b.portPart k p).queue3 = [] → (s.b.portPart k p).wait3 = [] →
      fewestDests { s.b.ptuPart p with chosen := [] } (((allPorts.filter (portOpen s.hard.cfg s.b p)).filter fun x => decide (x ≠ k))) = some m →
      ∃ b, exec (.portMoved p k) s = .next (s.settled (push (.part p) (xlatNote s.hard 0x0706 p [aByte k.val, aCount 1] b))) ∧ (b.ptuPart p).chosen = [{ e with port := m }]))

/-! ### The host interface -/

/-- R19, R21, R328, R330, R331, R332, R334, R336, R337: a slice entry takes a write unless its PASID is taken, a queue is created or its status says why not, a tail and a head are taken only within the ring, and a descriptor is fetched, rejected with its reason, completed as aborted, or a failed DMA of either ring fails its queue; descriptors of an unknown `OPCODE` end with reason 0x0100, those with a reserved bit set with 0x0101, and a field reads its bits of the descriptor. -/
def Obligations.SlicesQueuesAndDescriptors : Prop :=
  (∀ (s : State) (k : Fin 64) (quota : Bool) (v : Word), s.b.regs = true → islandPresent s.hard.cfg .hbe = true → (s.b.island .hbe).inReset = false → (s.b.island .hbe).asleep = false →
    let new := (s.b.slice k.val).written quota v
    (new.valid = true → sliceTaken s.b k.val new.pasid = true →
      exec (.sliceWrite k quota v) s = .next (s.settled (fire s.hard 420 (note s.hard 0x0803 24 (some (Fin.ofNat 8 new.part.toNat)) [aHalf k.val, aW3 new.pasid.toNat] s.b)))) ∧
    ((s.b.slice k.val).valid = false → new.valid = false ∨ sliceTaken s.b k.val new.pasid = false →
      exec (.sliceWrite k quota v) s = .next (s.settled { s.b with host := { s.b.host with slices := Tab.set s.b.host.slices k.val new } }))) ∧
  (∀ (s : State) (p : Part) (v : Word), s.b.regs = true →
    let b := modPart p (fun x => { x with qVector := BitVec.ofNat 11 (wbits v 44 11), qCqLog := BitVec.ofNat 4 (wbits v 40 4), qSqLog := BitVec.ofNat 4 (wbits v 36 4), qPasid := BitVec.ofNat 20 (wbits v 12 20) }) s.b
    (wbit v 63 = false → exec (.queueCreate p v) s = .next (s.settled b)) ∧
    (∀ st n, wbit v 63 = true → queueStatus s.b p (BitVec.ofNat 20 (wbits v 12 20)) (wbits v 36 4) (wbits v 40 4) = (st, n) →
      (st ≠ stOk → exec (.queueCreate p v) s = .next (s.settled (modPart p (fun x => { x with qDone := true, qStatus := st, qQueue := BitVec.ofNat 8 n }) b))) ∧
      (st = stOk → ∃ q, exec (.queueCreate p v) s = .next (s.settled (ownSrc s.hard n p (wbits v 44 11) (setQueue n q (modPart p (fun x => { x with qDone := true, qStatus := stOk, qQueue := BitVec.ofNat 8 n }) b)))) ∧
        q.part = p ∧ q.pasid = BitVec.ofNat 20 (wbits v 12 20) ∧ q.sqBase = (s.b.part p).qSqBase ∧ q.cqBase = (s.b.part p).qCqBase ∧ q.sqLog = wbits v 36 4 ∧ q.cqLog = wbits v 40 4 ∧
        q.sqTail = 0 ∧ q.sqHead = 0 ∧ q.cqTail = 0 ∧ q.cqHead = 0 ∧ q.state = 1 ∧ q.held = [] ∧ q.flight = []))) ∧
  (∀ (s : State) (n : BitVec 8) (i : BitVec 32) (q : Queue), s.b.regs = true → s.b.queue n = some q → q.state = 1 →
    ((i - q.sqHead).toNat ≤ 2 ^ q.sqLog → exec (.sqTailWrite n i) s = .next (s.settled (setQueue n.toNat { q with sqTail := i } s.b))) ∧
    (2 ^ q.sqLog < (i - q.sqHead).toNat → exec (.sqTailWrite n i) s = .next (s.settled (setQueue n.toNat { q with tailErr := true } s.b))) ∧
    ((i - q.cqHead).toNat ≤ (q.cqTail - q.cqHead).toNat → q.held = [] → exec (.cqHeadWrite n i) s = .next (s.settled (setQueue n.toNat { q with cqHead := i } s.b))) ∧
    ((q.cqTail - q.cqHead).toNat < (i - q.cqHead).toNat → exec (.cqHeadWrite n i) s = .next (s.settled (setQueue n.toNat { q with tailErr := true } s.b)))) ∧
  (∀ (s : State) (n : BitVec 8) (q : Queue), s.b.live = true → s.b.queue n = some q →
    (q.state ≠ 1 ∨ q.held ≠ [] ∨ q.sqHead = q.sqTail ∨ s.b.jtag.tcHalt = true → ∀ d, exec (.descriptorFetch n d false) s = .next (s.settled s.b)) ∧
    (q.state ≠ 1 → ∀ d, exec (.descriptorFetch n d true) s = .next (s.settled s.b)) ∧
    (q.state = 1 → ∀ d, exec (.descriptorFetch n d true) s = .next (s.settled (note s.hard 0x0807 24 (some q.part) [aByte n.toNat, aByte 1] (setQueue n.toNat { q with state := 3 } s.b)))) ∧
    (q.state = 1 → q.held = [] → q.sqHead ≠ q.sqTail → s.b.jtag.tcHalt = false →
      exec (.descriptorFetch n none false) s = .next (s.settled (note s.hard 0x0807 24 (some q.part) [aByte n.toNat, aByte 0] (setQueue n.toNat { q with state := 3 } s.b))) ∧
      (∀ d : Line, q.aborted = [] →
        let b := emit (.dmaRead ((q.sqBase.setWidth 64) <<< 12 + BitVec.ofNat 64 (64 * (q.sqHead.toNat % 2 ^ q.sqLog))) 64) s.b
        let ctx : CmdCtx := { queue := n, cmdId := q.sqHead, cookie := (descHead d).cookie, intr := (descHead d).intr }
        (∀ r, descReason d = some r → exec (.descriptorFetch n (some d) false) s = .next (s.settled (complete s.hard ctx stAborted r 0 0 (setQueue n.toNat { q with sqHead := q.sqHead + 1 } b)))) ∧
        (descReason d = none → ∃ f, exec (.descriptorFetch n (some d) false) s = .next (s.settled (setQueue n.toNat { q with sqHead := q.sqHead + 1, flight := q.flight ++ [f] } b)) ∧
          f.ctx = ctx ∧ f.opcode = BitVec.ofNat 8 (descHead d).opcode ∧ f.ordered = (descHead d).ordered ∧ f.started = false)))) ∧
  (∀ d : Line, (d.toNat % 256 = 0 ∨ 0x14 < d.toNat % 256) → descReason d = some 0x0100) ∧
  (∀ d : Line, 1 ≤ d.toNat % 256 → d.toNat % 256 ≤ 0x14 → (∃ i, 10 ≤ i ∧ i < 64 ∧ d.getLsbD i = true) → descReason d = some 0x0101) ∧
  (∀ (d : Line) (off bit' w : Nat), descField d off bit' w = d.toNat / 2 ^ (8 * off + bit') % 2 ^ w) ∧
  (∀ slot : Slot, descReason (BitVec.ofNat 512 (0x0A + 2 ^ 128 * slot.toNat)) = none ∧ descField (BitVec.ofNat 512 (0x0A + 2 ^ 128 * slot.toNat)) 16 0 12 = slot.toNat)

/-- R116, R295, R337, R338, R339, R340, R341, R343, R344: a partition is created or barred, a fence object is made, waited for or refused, an abort says what it found, a free ends with its status, and a query writes whole entries. -/
def Obligations.HostCommandsComplete : Prop :=
  (∀ (s : State) (ctx : CmdCtx) (q : Queue) (p : Part), s.starts ctx 0x01 0 q →
    let b := markStarted ctx s.b
    (p ≠ q.part → exec (.cmdPartCreate ctx p) s = .next (s.settled (complete s.hard ctx stNotOwner 0 0 0 b))) ∧
    (p = q.part → s.b.partExists p = true ∨ createBarred s.hard s.b = true → exec (.cmdPartCreate ctx p) s = .next (s.settled (complete s.hard ctx stNoSlot 0 0 0 b))) ∧
    (p = q.part → s.b.partExists p = false → createBarred s.hard s.b = false → s.b.noRandom = true → exec (.cmdPartCreate ctx p) s = .next (s.settled (awaitEntropy ctx p b))) ∧
    (p = q.part → s.b.partExists p = false → createBarred s.hard s.b = false → s.b.noRandom = false → ∃ t, exec (.cmdPartCreate ctx p) s = .next (s.settled (complete s.hard ctx stOk 0 0 0 (setPartState s.hard p 1
      (modPart p (fun x => { x with createTick := s.b.clk.tick, held := false }) t)))) ∧
      (t.slot (16 + p.val)).value = kdf (s.b.keyVal 1) (leBytes 1 p.val ++ leBytes 32 (Config.drbg s.b.ent.draws).toNat) "SWY-PART-ROOT" ∧ t.ent.draws = s.b.ent.draws + 1)) ∧
  (∀ (s : State) (ctx : CmdCtx) (q : Queue) (mode : BitVec 2) (sh : Bool) (k : BitVec 3) (f : BitVec 32) (acq : List (BitVec 16)), s.starts ctx 0x0D 0 q →
    let b := markStarted ctx s.b
    (mode = 3 ∨ (mode = 0 ∧ 4 < k.toNat) → exec (.cmdFence ctx mode sh k f acq) s = .next (s.settled (complete s.hard ctx stAborted 0x0102 0 0 b))) ∧
    (mode = 2 → (∀ n t, quotaFence q sh 0 b = some (n, t) → exec (.cmdFence ctx mode sh k f acq) s = .next (s.settled (complete s.hard ctx stOk 0 (t.fenceHandle n).toNat 0 t))) ∧
      (quotaFence q sh 0 b = none → exec (.cmdFence ctx mode sh k f acq) s = .next (s.settled (complete s.hard ctx stNoSlot 0 0 0 b)))) ∧
    (mode = 1 → (s.b.fenceSlot f = none → exec (.cmdFence ctx mode sh k f acq) s = .next (s.settled (complete s.hard ctx stObjectGone 0 0 0 b))) ∧
      (∀ n o, s.b.fenceSlot f = some (n, o) → o.kind = 0 → o.freed = false →
        (o.pasid ≠ q.pasid → o.shared = false → exec (.cmdFence ctx mode sh k f acq) s = .next (s.settled (complete s.hard ctx stNotOwner 0 0 0 b))) ∧
        (∀ st, o.pasid = q.pasid → o.status = some st → exec (.cmdFence ctx mode sh k f acq) s = .next (s.settled (complete s.hard ctx st 0 0 0 b))) ∧
        (o.pasid = q.pasid → o.status = none → exec (.cmdFence ctx mode sh k f acq) s = .next (s.settled (setFence n { o with waits := o.waits ++ [ctx] } b))))) ∧
    (mode = 0 → k = 0 → f = 0 → ∀ n t, quotaFence q false 1 b = some (n, t) → t.fenceSlot 0 = none → exec (.cmdFence ctx mode sh k f acq) s = .next (s.settled (takeFence q.part (some ctx) none 0 (some n) q.pasid [] none t)))) ∧
  (∀ (s : State) (ctx : CmdCtx) (q : Queue) (n : BitVec 8) (target : BitVec 32), s.starts ctx 0x11 0 q →
    let b := markStarted ctx s.b
    (s.b.queue n = none → exec (.cmdAbort ctx n target) s = .next (s.settled (complete s.hard ctx stNotOwner 0 0 0 b))) ∧
    (∀ t, n ≠ ctx.queue → s.b.queue n = some t →
      (t.pasid ≠ q.pasid → exec (.cmdAbort ctx n target) s = .next (s.settled (complete s.hard ctx stNotOwner 0 0 0 b))) ∧
      (t.pasid = q.pasid → target = t.sqTail → exec (.cmdAbort ctx n target) s = .next (s.settled (complete s.hard ctx stNothingToAbort 0 0 0 b))) ∧
      (t.pasid = q.pasid → 1 ≤ (t.sqTail - target).toNat → (t.sqTail - target).toNat ≤ 2 ^ 32 - 2 ^ t.sqLog → (target - t.sqHead).toNat < (t.sqTail - t.sqHead).toNat →
        exec (.cmdAbort ctx n target) s = .next (s.settled (complete s.hard ctx stOk 0 0 0 (setQueue n.toNat { t with aborted := target :: t.aborted.filter fun x => decide (x ≠ target) } b)))))) ∧
  (∀ (s : State) (ctx : CmdCtx) (q : Queue) (ot : Byte) (refs : Bool) (hd : BitVec 32), s.starts ctx 0x12 ot.toNat q →
    let b := markStarted ctx s.b
    (ot = 0 ∨ 5 < ot.toNat ∨ (ot = 1 ∧ 256 ≤ hd.toNat) ∨ (ot = 2 ∧ 1024 ≤ hd.toNat) ∨ (ot = 4 ∧ 64 ≤ hd.toNat) ∨ (ot = 5 ∧ 8 ≤ hd.toNat) → exec (.cmdObjFree ctx ot refs hd) s = .next (s.settled (complete s.hard ctx stAborted 0x0102 0 0 b))) ∧
    (ot = 2 → hd.toNat < 1024 → s.b.region hd.toNat = none → exec (.cmdObjFree ctx ot refs hd) s = .next (s.settled (complete s.hard ctx stObjectGone 0 0 0 b))) ∧
    (∀ r, ot = 2 → hd.toNat < 1024 → s.b.region hd.toNat = some r → r.pasid ≠ some q.pasid → exec (.cmdObjFree ctx ot refs hd) s = .next (s.settled (complete s.hard ctx stNotOwner 0 0 0 b))) ∧
    (ot = 5 → hd.toNat < 8 → hd.toNat ≠ q.part.val → exec (.cmdObjFree ctx ot refs hd) s = .next (s.settled (complete s.hard ctx stNotOwner 0 0 0 b))) ∧
    (ot = 5 → hd.toNat = q.part.val → exec (.cmdObjFree ctx ot refs hd) s = .next (s.settled (releasePart s.hard q.part ctx b)))) ∧
  (∀ (s : State) (ctx : CmdCtx) (q : Queue) (sel : BitVec 16) (arg : BitVec 32) (addr : Word) (len : BitVec 32) (ok : Bool), s.starts ctx 0x13 0 q →
    let b := markStarted ctx s.b
    (addr.toNat % 8 ≠ 0 ∨ queryEntries s.hard b q sel arg = none → exec (.cmdQuery ctx sel arg addr len ok) s = .next (s.settled (complete s.hard ctx stAborted 0x0102 0 0 b))) ∧
    (∀ es, addr.toNat % 8 = 0 → queryEntries s.hard b q sel arg = some es →
      exec (.cmdQuery ctx sel arg addr len false) s = .next (s.settled (complete s.hard ctx stAborted 0x0104 0 0 b)) ∧
      (fitting len.toNat es ≠ [] → exec (.cmdQuery ctx sel arg addr len true) s = .next (s.settled (complete s.hard ctx stOk 0 (fitting len.toNat es).length es.length (emit (.dmaWrite addr (fitting len.toNat es)) b))))))

/-- R348, R349, R350, R351, R352, R354: a bounce window opens under its session or its opening is refused, a record that fails a check fails its window with the cause, one that passes moves the head and does its operation, the doorbells move the indices, and a page that takes over a second ends its move. -/
def Obligations.BounceWindowsMoveRecords : Prop :=
  (∀ (s : State) (ctx : CmdCtx) (q : Queue) (host : BitVec 16) (sl : BitVec 4) (h2d d2h : Word) (w : Byte), s.starts ctx 0x14 0 q →
    let b := markStarted ctx s.b
    let x := s.b.peer q.part (0x10000 ||| host.setWidth 32)
    (sl.toNat < 4 ∨ 12 < sl.toNat ∨ h2d.toNat % 4096 ≠ 0 ∨ d2h.toNat % 4096 ≠ 0 ∨ (w ≠ 0xFF ∧ 64 ≤ w.toNat) → exec (.cmdBounceOpen ctx host sl h2d d2h w) s = .next (s.settled (complete s.hard ctx stAborted 0x0102 0 0 b))) ∧
    (4 ≤ sl.toNat → sl.toNat ≤ 12 → h2d.toNat % 4096 = 0 → d2h.toNat % 4096 = 0 → w.toNat < 64 →
      (x.inSession = false → exec (.cmdBounceOpen ctx host sl h2d d2h w) s = .next (s.settled (complete s.hard ctx stPeerDeparted 0 0 0 b))) ∧
      (∀ e, x.inSession = true → s.b.sliceOf q.pasid = some e → e.bw.toNat ≤ bouncesHeld s.b q.pasid → exec (.cmdBounceOpen ctx host sl h2d d2h w) s = .next (s.settled (complete s.hard ctx stNoSlot 0 0 0 b))) ∧
      (∀ e k t, x.inSession = true → s.b.sliceOf q.pasid = some e → bouncesHeld s.b q.pasid < e.bw.toNat → Tab.has s.b.host.bounces w.toNat = false → Tab.getD s.b.host.bwGen w.toNat 0 ≠ 0xFFFF →
        deriveKey 10 q.part x.secret (Tab.getD s.b.host.bwGen w.toNat 0 + 1).toNat (leBytes 1 w.toNat ++ leBytes 2 (Tab.getD s.b.host.bwGen w.toNat 0 + 1).toNat) "SWY-BOUNCE" b = some (k, t) →
        ∃ y u, exec (.cmdBounceOpen ctx host sl h2d d2h w) s = .next (s.settled (complete s.hard ctx stOk 0 (w.toNat + 2 ^ 16 * (Tab.getD s.b.host.bwGen w.toNat 0 + 1).toNat) 0
          (ownSrc s.hard (280 + w.toNat) q.part (vectorBase (.part q.part)) u))) ∧ Tab.get? u.host.bounces w.toNat = some y ∧ y.part = q.part ∧ y.pasid = q.pasid ∧ y.host = host ∧ y.state = 1 ∧ y.slotsLog = sl.toNat ∧
          y.h2dBase = h2d ∧ y.d2hBase = d2h ∧ y.h2dHead = 0 ∧ y.h2dTail = 0 ∧ y.d2hHead = 0 ∧ y.d2hTail = 0 ∧ y.seqIn = 0 ∧ y.seqOut = 0 ∧ y.keySlot = k))) ∧
  (∀ (s : State) (w : BitVec 6) (t : BitVec 32) (x : Bounce), s.b.regs = true → islandPresent s.hard.cfg .hbe = true → (s.b.island .hbe).inReset = false → (s.b.island .hbe).asleep = false → s.b.bounce w = some x →
    ((t - x.h2dHead).toNat ≤ 2 ^ x.slotsLog → exec (.h2dTailWrite w t) s = .next (s.settled (modBounce w (fun y => { y with h2dTail := t }) s.b))) ∧
    (2 ^ x.slotsLog < (t - x.h2dHead).toNat → exec (.h2dTailWrite w t) s = .next (s.settled s.b)) ∧
    (x.outq = [] → (s.b.ptuPart x.part).changes = [] → exec (.d2hHeadWrite w t) s = .next (s.settled (modBounce w (fun y => { y with d2hHead := t }) s.b)))) ∧
  (∀ (s : State) (w : BitVec 6) (x : Bounce) (key : Key) (r : BounceRec) (c : Instr), (c = .bounceWrite w r ∧ r.rtype = 1) ∨ (c = .readReq w r ∧ r.rtype = 2) ∨ (c = .pageData w r ∧ r.rtype = 3) ∨ (c = .flush w r ∧ r.rtype = 4) →
    s.b.live = true → s.b.bounce w = some x → x.state = 1 → x.h2dHead ≠ x.h2dTail → bounceBusy s.b w = false → pageBusyIn s.b w x.part = false → (s.b.island .hbe).asleep = false → (s.b.island .hbe).inReset = false → bounceKey s.b x = some key →
    let b := emit (.dmaRead (x.h2dBase + BitVec.ofNat 64 (4160 * (x.h2dHead.toNat % 2 ^ x.slotsLog))) 4160) s.b
    (∀ cause, recordCheck s.b w x key r = .inl cause → exec c s = .next (s.settled (bounceFail s.hard w x cause r.seq b))) ∧
    (∀ data, recordCheck s.b w x key r = .inr data → ∃ u, u = modBounce w (fun y => { y with h2dHead := y.h2dHead + 1, seqIn := y.seqIn + 1 }) (touchKey .hbe x.keySlot b) ∧
      (r.rtype = 1 → r.length = 0 → exec c s = .next (s.settled u)) ∧
      (r.rtype = 4 → exec c s = .next (s.settled (takeFence x.part none none 0 none 0 [] (some (w, r.reqId)) u))) ∧
      exec c s = .next (s.settled (recordRun s.hard w { x with seqIn := x.seqIn + 1 } r data u)))) ∧
  (∀ (b : Block) (w : BitVec 6) (x : Bounce) (key : Key) (r : BounceRec) (data : Bytes),
    (gcmOpen key (bounceIv false r.seq) (recordHeader r) r.payload r.tag = none → recordCheck b w x key r = .inl 1) ∧
    (gcmOpen key (bounceIv false r.seq) (recordHeader r) r.payload r.tag = some data → r.seq ≠ x.seqIn → recordCheck b w x key r = .inl 2) ∧
    (gcmOpen key (bounceIv false r.seq) (recordHeader r) r.payload r.tag = some data → r.seq = x.seqIn → headerGood r = false → recordCheck b w x key r = .inl 3) ∧
    (gcmOpen key (bounceIv false r.seq) (recordHeader r) r.payload r.tag = some data → r.seq = x.seqIn → headerGood r = true → r.rtype ≠ 3 → recordCheck b w x key r = .inr data)) ∧
  (∀ (s : State) (w : BitVec 6) (x : Bounce) (c : XChange) (t : Word), s.b.live = true → s.b.bounce w = some x → (s.b.ptuPart x.part).changes = [c] → c.kind = 0 → c.bounce = w → c.began = some t →
    (t.toNat + 1000000000 ≤ s.b.clk.tick.toNat → exec (.bouncePageTimeout w) s = .next (s.settled (failChange s.hard x.part c stAborted 0 s.b))) ∧
    (s.b.clk.tick.toNat < t.toNat + 1000000000 → exec (.bouncePageTimeout w) s = .next (s.settled s.b)))

/-! ### Resets -/

/-- R316, R370, R371, R376, R378, R380, R381, R382, R389: the requests of a context, of a partition and of the operator; which level acts, when the next takes over, and when a partition's Jig holds it back; a stall of 2 s; the operator's end of the out-of-service state. -/
def Obligations.ResetsAreAskedAndEscalated : Prop :=
  (∀ (s : State) (p : Part) (e : BitVec 16), s.b.up = true → s.b.lc.bootState = 2 → s.b.partExists p = true → (s.b.rstPart p).go = false →
    (let b := takeContext s.hard p e (BitVec.ofNat 8 p.val) (modRstPart p (fun r => { r with go := true, level := 0, engine := e }) s.b)
     exec (.rstReqContext p e) s = .next (s.settled (if b.runs (.context p e) || b.runs (.partition p) then b else modRstPart p (fun r => { r with go := false }) b))) ∧
    (let e := (s.b.rstPart p).engine
     let b := takePartition s.hard p (BitVec.ofNat 8 p.val) (some p) (modRstPart p (fun r => { r with go := true, level := 2, engine := e }) s.b)
     exec (.rstReqPartition p) s = .next (s.settled (if b.runs (.context p e) || b.runs (.partition p) then b else modRstPart p (fun r => { r with go := false }) b)))) ∧
  (∀ (s : State) (code : Byte), s.b.up = true → s.b.lc.bootState = 2 →
    (s.b.rst.halted = false →
      (∀ i, islandOfCode code.toNat = some i → exec (.rstOpEngine code) s = .next (s.settled (takeEngine s.hard i 0xFE none (modRst (fun r => { r with opLevel := 1, opIsland := code }) s.b)))) ∧
      exec .rstOpChip s = .next (s.settled (takeChip s.hard chipByOperator 0xFE none (modRst (fun r => { r with opLevel := 3 }) s.b))) ∧
      exec .rstOpPowerCycle s = .next (s.settled (takePowerCycle s.hard 0xFE (modRst (fun r => { r with opLevel := 4 }) s.b)))) ∧
    (s.b.rst.halted = true →
      exec (.rstOpEngine code) s = .next (s.settled (modRst (fun r => { r with opLevel := 1, opIsland := code }) s.b)) ∧
      exec .rstOpChip s = .next (s.settled (modRst (fun r => { r with opLevel := 3 }) s.b)) ∧
      exec .rstOpPowerCycle s = .next (s.settled (modRst (fun r => { r with opLevel := 4 }) s.b)))) ∧
  (∀ (h : Hard) (p : Part) (e : BitVec 16) (who : Byte) (b : Block), b.rst.halted = false → b.partExists p = true → (b.part p).held = false → b.runs (.context p e) = false →
    (b.taken (.context p e) 1000000000 < 2 → takeContext h p e who b = clearContext h p e (countReset p 0
      (logEv h 0x0903 27 (some p) 0 2 [aHalf e.toNat, aByte who.toNat] (pushRunning (.context p e) who (some p) b)))) ∧
    (∀ i, 2 ≤ b.taken (.context p e) 1000000000 → holders b p e = [i] →
      (escalateMax b p < 1 → takeContext h p e who b = holdPart h p 1 b) ∧
      (1 ≤ escalateMax b p → takeContext h p e who b = takeEngine h i 0xFF (some p) (noteEscalate h (some p) 0 1 2 b)))) ∧
  (∀ (h : Hard) (i : Island) (who : Byte) (origin : Option Part) (b : Block), b.rst.halted = false → resettable h i = true → b.runs (.engine i) = false →
    (b.taken (.engine i) 10000000000 < 2 → takeEngine h i who origin b = clearIsland h i ((partsOn b i).foldl (fun b p =>
      logEv h 0x0904 (islandCode i) (some p) 2 3 [aByte (requesterFor who origin p)] (countReset p 1 b)) (pushRunning (.engine i) who origin b))) ∧
    (2 ≤ b.taken (.engine i) 10000000000 →
      (∀ p, origin = some p → escalateMax b p < 2 → takeEngine h i who origin b = holdPart h p 2 b) ∧
      (∀ p, origin = some p → 2 ≤ escalateMax b p → takeEngine h i who origin b = takePartition h p 0xFF (some p) (noteEscalate h (some p) 1 2 2 b)) ∧
      (origin = none → takeEngine h i who origin b = takeChip h chipByEscalation 0xFF none (noteEscalate h none 1 3 2 b)))) ∧
  (∀ (h : Hard) (p : Part) (who : Byte) (origin : Option Part) (b : Block), b.rst.halted = false → ((b.part p).state = 1 ∨ (b.part p).state = 2) → (b.part p).held = false → b.runs (.partition p) = false →
    (b.taken (.partition p) 60000000000 < 2 → (b.rstPart p).dumpEn = false → (b.rstPart p).sampling = none → takePartition h p who origin b = clearPartition h p (modRstPart p (fun r => { r with dumpResult := 2 })
      (countReset p 2 (logEv h 0x0905 27 (some p) 2 3 [aByte who.toNat] (pushRunning (.partition p) who origin b))))) ∧
    (2 ≤ b.taken (.partition p) 60000000000 →
      (∀ q, origin = some q → escalateMax b q < 3 → takePartition h p who origin b = holdPart h q 3 b) ∧
      (∀ q, origin = some q → 3 ≤ escalateMax b q → takePartition h p who origin b = takeChip h chipByEscalation 0xFF (some q) (noteEscalate h (some q) 2 3 2 b)))) ∧
  (∀ (s : State) (p : Part) (e : BitVec 16) (q : Stalled), s.b.live = true → (s.b.ptuPart p).stalls = [q] → q.engine = e → 2000000000 ≤ s.b.clk.tick.toNat - q.since.toNat →
    exec (.stallEscalate p e) s = .next (s.settled (takeContext s.hard p e 0xFF (xlatNote s.hard 0x0702 p [aHalf (match q.fault with | some f => f.toNat | none => 0), aHalf e.toNat] s.b)))) ∧
  (∀ s : State, s.b.up = true → s.b.lc.bootState = 2 →
    ∃ b, exec .compatOosClear s = .next (s.settled b) ∧ b.rst.compat.oos = false ∧ b.rst.compat.resets = [] ∧ (s.b.i3c.request = 3 → b.i3c.request = if s.b.rst.halted then 2 else 0) ∧
      (s.b.i3c.request ≠ 3 → b.i3c = s.b.i3c) ∧ b.rst.running = s.b.rst.running ∧ b.rst.parts = s.b.rst.parts)

/-- R267, R373, R376, R377, R378, R381: what ends a reset of each level, and what the level that passes its bound (2 ms, 50 ms, 400 ms, 6 s) becomes; a sample sealed or lost; a clamp notice that is taken once and makes its sender departed. -/
def Obligations.ResetsEndSamplesAndNotices : Prop :=
  (∀ s : State, s.b.live = true →
    (∀ (p : Part) (e : BitVec 16), (s.b.runs (.context p e) = true → holders s.b p e = [] →
        exec (.resetComplete (.context p e)) s = .next (s.settled (reqEnds p (dropRun (.context p e) s.b)))) ∧
      (holders s.b p e ≠ [] → exec (.resetComplete (.context p e)) s = .next (s.settled s.b))) ∧
    (∀ i : Island, (s.b.island i).inReset = true → exec (.resetComplete (.engine i)) s = .next (s.settled (islandBack s.hard i (dropRun (.engine i) s.b)))) ∧
    (∀ p : Part, s.b.runs (.partition p) = true →
      ((s.b.rstPart p).sampling = none → exec (.resetComplete (.partition p)) s = .next (s.settled (push (.part p) (fire s.hard (272 + p.val) (reqEnds p (dropRun (.partition p) s.b)))))) ∧
      (∀ x, (s.b.rstPart p).sampling = some x → exec (.resetComplete (.partition p)) s = .next (s.settled s.b))) ∧
    (s.b.runs .chip = true → s.b.chipPending = false → s.b.jigs ≠ [] →
      (readmitted s.b = true → exec (.resetComplete .chip) s = .next (s.settled (dropRun .chip s.b))) ∧ (readmitted s.b = false → exec (.resetComplete .chip) s = .next (s.settled s.b)))) ∧
  (∀ (s : State) (r : Running), s.b.up = true → s.b.rst.halted = false → s.b.rst.running = [r] →
    (∀ (p : Part) (e : BitVec 16), r.scope = .context p e → 2000000 ≤ s.b.clk.tick.toNat - r.taken.toNat →
      exec (.resetBoundExpire r.scope) s = .next (s.settled (reqEnds p (escalateContext s.hard p (if holders s.b p e = [] then [.ptu] else holders s.b p e) 1 (dropRun r.scope s.b))))) ∧
    (∀ i : Island, r.scope = .engine i → 50000000 ≤ s.b.clk.tick.toNat - r.taken.toNat →
      exec (.resetBoundExpire r.scope) s = .next (s.settled (escalateEngine s.hard r.origin 1 (dropRun r.scope s.b)))) ∧
    (∀ p : Part, r.scope = .partition p → 400000000 ≤ s.b.clk.tick.toNat - r.taken.toNat →
      exec (.resetBoundExpire r.scope) s = .next (s.settled (escalateChip s.hard r.origin 2 1 (reqEnds p (dropRun r.scope s.b))))) ∧
    (r.scope = .chip → s.b.rst.compat.oos = false → 6000000000 ≤ s.b.clk.tick.toNat - r.taken.toNat →
      exec (.resetBoundExpire r.scope) s = .next (s.settled (takePowerCycle s.hard 0xFF (noteEscalate s.hard none 3 4 1 (dropRun .chip s.b))))) ∧
    (s.b.clk.tick.toNat - r.taken.toNat < 2000000 → exec (.resetBoundExpire r.scope) s = .next s)) ∧
  (∀ (s : State) (p : Part) (content : Bytes) (j : Jig) (level cause : Byte) (tick : Word), s.b.up = true → s.b.noRandom = false → s.b.jigOf p = some j →
    (s.b.rstPart p).sampling = some (level, cause, tick) → s.b.runs (.partition p) = false →
    (let o := sampleOut p j (s.b.rstPart p) level cause tick content s.b
     exec (.sampleSealed p true content) s = .next (s.settled (afterSamples s.hard (sampleEnds s.hard p 1 o.1 o.2)))) ∧
    (∃ n, exec (.sampleSealed p false content) s = .next (s.settled (afterSamples s.hard (sampleEnds s.hard p 3 n { s.b with ent := { s.b.ent with opens := s.b.ent.opens + 1 } }))))) ∧
  (∀ (s : State) (sec : Sec) (n : ClampNotice) (j : Jig), s.hears sec → s.b.jigOf sec.part = some j →
    ((n.domainId ≠ j.domainId ∨ (s.b.adm' sec.part).notices.contains (n.clamping, n.tick) = true ∨ within n.tick s.b.clk.tick 1000000000 = false ∨
        kmac128 (s.b.keyVal (s.b.adm' sec.part).domainSlot) (noticeHead n.tick n.domainId n.clamping n.cause.toNat n.suspects) "SWY-CLAMP" ≠ n.mac) →
      exec (.clampNotice sec n) s = .next (s.settled (heard sec s.b))) ∧
    (n.domainId = j.domainId → (s.b.adm' sec.part).notices.contains (n.clamping, n.tick) = false → within n.tick s.b.clk.tick 1000000000 = true →
      kmac128 (s.b.keyVal (s.b.adm' sec.part).domainSlot) (noticeHead n.tick n.domainId n.clamping n.cause.toNat n.suspects) "SWY-CLAMP" = n.mac →
      (let b := seeDeparture s.hard sec.part n.clamping 5 (modAdm sec.part (fun a => { a with notices := (n.clamping, n.tick) :: a.notices }) (heard sec s.b))
       let b := n.suspects.foldl (suspectNoticed s.hard sec.part n) b
       exec (.clampNotice sec n) s = .next (s.settled (if isAccel n.clamping then memberLost s.hard sec.part (memberIndex n.clamping) (keeperLost s.hard sec.part (memberIndex n.clamping) b) else b)))))

/-! ### The registers -/

/-- R2, R7, R403, R407: a register keeps the bits a write may change and reads them back; an aligned read of a register that a read does not change returns its value; where some registers lie; the configuration word. -/
def Obligations.RegistersKeepWhatIsWritten : Prop :=
  (∀ (s : State) (off : BitVec 24) (v : Word) (r : Reg), s.quiet → off.toNat % 8 = 0 → regAt off.toNat = some r → answers s.hard s.b r = true →
    (∀ i, regIsland r = some i → (s.b.island i).asleep = false) → (∀ p, regPartition r = some p → s.b.partExists p = true) →
    let keeps (mask : Word) : Prop := ∃ b, exec (.registerWrite off v) s = .next (s.withB b) ∧ regValue s.hard b r = v &&& mask
    (∀ p, r = .ksSel p → keeps 0xFFF) ∧ (∀ k p, r = .leShape k p → keeps 0xFFFFFF0000) ∧ (∀ n p, r = .mePlane n p → keeps 0x0000FFFFFFFF007F) ∧
      (∀ o, r = .icSel o → keeps 0x3FF) ∧ (∀ o, r = .icPctl o → keeps 0x8000000000000003) ∧ (∀ p, r = .pinSel p → keeps 0x30000FFFF) ∧ (∀ i, r = .gridSel i → keeps 0x1F1F) ∧
      (∀ n p, r = .vnSel n p → keeps 0xFFFFFFFF) ∧ (∀ n, r = .partQsqb n → s.b.partExists n = true → keeps 0xFFFFFFFFFFFFF000) ∧
      (∀ n, r = .partQcqb n → s.b.partExists n = true → keeps 0xFFFFFFFFFFFFF000)) ∧
  (∀ (s : State) (off : BitVec 24) (r : Reg), s.b.up = true → off.toNat % 8 = 0 → regAt off.toNat = some r → answers s.hard s.b r = true → regIsland r = none →
    (∀ o, r ≠ .telEnv o ∧ r ≠ .telTick o ∧ r ≠ .telCfg o ∧ r ≠ .logData o 3) → exec (.hostAccessSize off 8 false) s = .next (s.settled (emit (.regRead (regValue s.hard s.b r)) s.b))) ∧
  (regAt 0x0 = some .glbId ∧ regAt 0x8 = some .glbConfig ∧ regAt 0x1028 = some .lcBoot ∧ regAt 0x102800 = some (.qsel 0 1) ∧ regAt 0x200000 = some (.meStat 0) ∧ regAt 0x280000 = some .hbeStat ∧
    regAt 0x900000 = none) ∧
  (∀ h b, h.cfg = .x → regValue h b .glbConfig = 0x0010124440181004) ∧ (∀ h b, h.cfg = .s → regValue h b .glbConfig = 0x0004000602110101)

/-- R6, R404: an access that is not one aligned 64-bit word is completed, not performed and recorded: a write has no effect and a read returns zero. An offset that holds no register, or whose register does not answer, ignores a write, reads zero and records nothing. -/
def Obligations.AccessesThatReachNoRegister : Prop :=
  ∀ (s : State) (off : BitVec 24), s.b.up = true →
    (∀ size, size ≠ 8 ∨ off.toNat % 8 ≠ 0 →
      exec (.hostAccessSize off size true) s = .next (s.withB (note s.hard 0x0801 27 none [aW3 off.toNat] s.b)) ∧
      exec (.hostAccessSize off size false) s = .next (s.withB (emit (.regRead 0) (note s.hard 0x0801 27 none [aW3 off.toNat] s.b)))) ∧
    (off.toNat % 8 = 0 → (regAt off.toNat = none ∨ ∃ r, regAt off.toNat = some r ∧ answers s.hard s.b r = false) →
      (∀ v, exec (.registerWrite off v) s = .next s) ∧ exec (.hostAccessSize off 8 true) s = .next s ∧ exec (.hostAccessSize off 8 false) s = .next (s.settled (emit (.regRead 0) s.b)))

/-- R405, R406 and the reset columns of the registers: what reset leaves, as the registers read. -/
def Obligations.ResetLeavesTheStatedValues : Prop :=
  let v := regValue State.reset.hard State.reset.b
  State.reset.pending = [] ∧ State.reset.b.rst.chipRstN = true ∧
    v .ksGlobal = 0xFC000000000 ∧ v (.schedStat .hbe) = 0x410000000 ∧ v (.gridOwner .hbe) = 0xF ∧ v .rstCompat = 0x30258000000 ∧ v .rstOp = 0 ∧
    (∀ n, v (.schedStat (.le n)) = 0x1808000000 ∧ v (.gridOwner (.le n)) = 0xF) ∧ (∀ n, v (.schedStat (.me n)) = 0x1808000000 ∧ v (.gridOwner (.me n)) = 0xF) ∧
    (∀ k, v (.portCtl k) = 0x404180000 ∧ v (.patCtl k) = 0x2000000) ∧ (∀ k p, v (.leShape k p) = 0x1000000000) ∧ (∀ n p, v (.mePlane n p) = 0xE100008) ∧
    (∀ p, v (.xctl p) = 0x10 ∧ v (.ptuEpoch p) = 0x200000000000 ∧ v (.rstStat p) = 0xF0 ∧ v (.jigState p) = 0 ∧ v (.rstReq p) = 0) ∧
    (∀ o, v (.telCfg o) = 0x1020101 ∧ v (.icPctl o) = 0 ∧ v (.logPtr o) = 0)

/-- R371: a halted block takes no work: what arrives from the links, the engines, the peers and the driver, and what its ports and engines were to do next, leaves it as it is. -/
def Obligations.HaltedBlockTakesNoWork : Prop :=
  ∀ s : State, s.halted → s.quiet →
    (∀ k n p f, exec (.frameReceived k n p f) s = .next s) ∧ (∀ k, exec (.portModeDrained k) s = .next s ∧ exec (.patternInject k) s = .next s ∧ ((∀ q ∈ (s.b.port k).queue0 ++ (s.b.port k).wait0, q.notice = false) → exec (.egressFrameStart k) s = .next s)) ∧
    (∀ d p id e op a sch ok, exec (.domainRequest d p id e op a sch ok) s = .next s) ∧ (∀ n r o st d, exec (.hbmResponse n r o st d) s = .next s) ∧
    (∀ p r pg l t, exec (.stageRequest p r pg l t) s = .next s) ∧
    (∀ sec tok, exec (.token sec tok) s = .next s) ∧ (∀ sec n, exec (.clampNotice sec n) s = .next s) ∧ (∀ p a, exec (.announcement p a) s = .next s) ∧
    (∀ q i, exec (.sqTailWrite q i) s = .next s) ∧ (∀ q d f, exec (.descriptorFetch q d f) s = .next s) ∧ (∀ ctx m sh n f l, exec (.cmdFence ctx m sh n f l) s = .next s) ∧
    (∀ k m, exec (.portModeWrite k m) s = .next s) ∧ (∀ sc, exec (.resetComplete sc) s = .next s) ∧ (∀ sc, exec (.resetBoundExpire sc) s = .next s) ∧
    (∀ off v r, off.toNat % 8 = 0 → regAt off.toNat = some r → haltedReg r = false → exec (.registerWrite off v) s = .next s) ∧
    (∀ off r, off.toNat % 8 = 0 → regAt off.toNat = some r → haltedReg r = false → exec (.hostAccessSize off 8 false) s = .next (s.withB (emit (.regRead 0) s.b)))
end

