-- ==== Sys2Proof/Laws/Tab.lean ====
section
/-! SUPPORT. The laws of sparse tables: a read after a write to the same key gives the value written, a write leaves every other key alone, and every operation keeps the canonical form. -/

namespace Sys2Proof.Machine

theorem Tab.get?_set_same {α : Type} (t : Tab α) (k : Nat) (v : α) : Tab.get? (Tab.set t k v) k = some v := by
  induction t with
  | nil => simp [Tab.set, Tab.get?]
  | cons e t ih =>
    obtain ⟨j, w⟩ := e
    simp only [Tab.set]
    split
    · simp [Tab.get?]
    · split
      · simp [Tab.get?]
      · simp [Tab.get?, ih, show j ≠ k by omega]

theorem Tab.get?_set_other {α : Type} (t : Tab α) {k i : Nat} (h : i ≠ k) (v : α) : Tab.get? (Tab.set t k v) i = Tab.get? t i := by
  induction t with
  | nil => simp [Tab.set, Tab.get?, Ne.symm h]
  | cons e t ih =>
    obtain ⟨j, w⟩ := e
    simp only [Tab.set]
    split
    · simp [Tab.get?, Ne.symm h]
    · split
      · simp_all [Tab.get?, eq_comm]
      · simp [Tab.get?, ih]

theorem Tab.getD_upd_same {α : Type} (t : Tab α) (k : Nat) (d : α) (f : α → α) : Tab.getD (Tab.upd t k d f) k d = f (Tab.getD t k d) := by
  simp [Tab.upd, Tab.getD, Tab.get?_set_same]

theorem Tab.getD_upd_other {α : Type} (t : Tab α) {k i : Nat} (h : i ≠ k) (d : α) (f : α → α) : Tab.getD (Tab.upd t k d f) i d = Tab.getD t i d := by
  simp [Tab.upd, Tab.getD, Tab.get?_set_other t h]

theorem Tab.get?_del_same {α : Type} (t : Tab α) (k : Nat) : Tab.get? (Tab.del t k) k = none := by
  induction t with
  | nil => rfl
  | cons e t ih => obtain ⟨j, w⟩ := e; simp only [Tab.del]; split <;> simp_all [Tab.get?]

theorem Tab.get?_del_other {α : Type} (t : Tab α) {k i : Nat} (h : i ≠ k) : Tab.get? (Tab.del t k) i = Tab.get? t i := by
  induction t with
  | nil => rfl
  | cons e t ih =>
    obtain ⟨j, w⟩ := e
    simp only [Tab.del]
    split
    · next hj => rw [ih]; simp [Tab.get?, hj, Ne.symm h]
    · simp [Tab.get?, ih]

/-- Every key of a table in canonical form that begins above `n` lies above `n`. -/
def Tab.above {α : Type} (n : Nat) (t : Tab α) : Prop := ∀ e ∈ t, n < e.1

theorem Tab.wf_cons {α : Type} (j : Nat) (v : α) (t : Tab α) : Tab.wf ((j, v) :: t) = true ↔ Tab.above j t ∧ Tab.wf t = true := by
  induction t generalizing j v with
  | nil => simp [Tab.wf, Tab.above]
  | cons e t ih =>
    obtain ⟨k, w⟩ := e
    have h1 : Tab.wf ((j, v) :: (k, w) :: t) = (decide (j < k) && Tab.wf ((k, w) :: t)) := rfl
    rw [h1, Bool.and_eq_true, decide_eq_true_eq]
    constructor
    · intro ⟨h, hw⟩
      refine ⟨?_, hw⟩
      intro e he
      rcases List.mem_cons.mp he with rfl | he
      · exact h
      · exact lt_trans h (((ih k w).mp hw).1 e he)
    · intro ⟨h, hw⟩
      exact ⟨h (k, w) (List.mem_cons_self ..), hw⟩

theorem Tab.set_above {α : Type} {n : Nat} (t : Tab α) (k : Nat) (v : α) (ht : Tab.above n t) (hk : n < k) : Tab.above n (Tab.set t k v) := by
  induction t with
  | nil => intro e he; simp [Tab.set] at he; subst he; exact hk
  | cons e t ih =>
    obtain ⟨j, w⟩ := e
    have htl : Tab.above n t := fun e he => ht e (List.mem_cons_of_mem _ he)
    have hj : n < j := ht (j, w) (List.mem_cons_self ..)
    simp only [Tab.set]
    intro e he
    split at he
    · rcases List.mem_cons.mp he with rfl | he
      · exact hk
      · exact ht e he
    · split at he
      · rcases List.mem_cons.mp he with rfl | he
        · exact hk
        · exact htl e he
      · rcases List.mem_cons.mp he with rfl | he
        · exact hj
        · exact ih htl e he

theorem Tab.wf_set {α : Type} (t : Tab α) (k : Nat) (v : α) (h : Tab.wf t = true) : Tab.wf (Tab.set t k v) = true := by
  induction t with
  | nil => rfl
  | cons e t ih =>
    obtain ⟨j, w⟩ := e
    obtain ⟨ha, hw⟩ := (Tab.wf_cons j w t).mp h
    simp only [Tab.set]
    split
    · next hk => exact (Tab.wf_cons ..).mpr ⟨fun e he => by
        rcases List.mem_cons.mp he with rfl | he
        · exact hk
        · exact lt_trans hk (ha e he), h⟩
    · split
      · next hk => subst hk; exact (Tab.wf_cons ..).mpr ⟨ha, hw⟩
      · exact (Tab.wf_cons ..).mpr ⟨Tab.set_above t k v ha (by omega), ih hw⟩

theorem Tab.wf_upd {α : Type} (t : Tab α) (k : Nat) (d : α) (f : α → α) (h : Tab.wf t = true) : Tab.wf (Tab.upd t k d f) = true := Tab.wf_set _ _ _ h

theorem Tab.del_above {α : Type} {n : Nat} (t : Tab α) (k : Nat) (ht : Tab.above n t) : Tab.above n (Tab.del t k) := by
  induction t with
  | nil => exact ht
  | cons e t ih =>
    obtain ⟨j, w⟩ := e
    have htl : Tab.above n t := fun e he => ht e (List.mem_cons_of_mem _ he)
    simp only [Tab.del]
    split
    · exact ih htl
    · intro e he
      rcases List.mem_cons.mp he with rfl | he
      · exact ht _ (List.mem_cons_self ..)
      · exact ih htl e he

theorem Tab.wf_del {α : Type} (t : Tab α) (k : Nat) (h : Tab.wf t = true) : Tab.wf (Tab.del t k) = true := by
  induction t with
  | nil => rfl
  | cons e t ih =>
    obtain ⟨j, w⟩ := e
    obtain ⟨ha, hw⟩ := (Tab.wf_cons j w t).mp h
    simp only [Tab.del]
    split
    · exact ih hw
    · exact (Tab.wf_cons ..).mpr ⟨Tab.del_above t k ha, ih hw⟩

theorem Tab.get?_mapV {α : Type} (t : Tab α) (f : Nat → α → α) (k : Nat) : Tab.get? (Tab.mapV t f) k = (Tab.get? t k).map (f k) := by
  induction t with
  | nil => rfl
  | cons e t ih =>
    obtain ⟨j, w⟩ := e
    simp only [Tab.mapV, List.map_cons, Tab.get?]
    split
    · next h => subst h; rfl
    · exact ih

theorem Tab.wf_mapV {α : Type} (t : Tab α) (f : Nat → α → α) : Tab.wf (Tab.mapV t f) = Tab.wf t := by
  induction t with
  | nil => rfl
  | cons e t ih =>
    obtain ⟨j, w⟩ := e
    cases t with
    | nil => rfl
    | cons e' t' => simp only [Tab.mapV, List.map_cons, Tab.wf] at ih ⊢; rw [ih]

end Sys2Proof.Machine
end

