-- ==== Sys2Proof/Laws/State.lean ====
section
/-! SUPPORT. One lemma per field per update of the state: what an update leaves is read as before. -/

namespace Sys2Proof.Machine

/-! ### The state itself -/

@[simp] theorem State.withB_pending (s : State) (b : Block) : (s.withB b).pending = s.pending := rfl
@[simp] theorem State.withB_hard (s : State) (b : Block) : (s.withB b).hard = s.hard := rfl
@[simp] theorem State.withB_b (s : State) (b : Block) : (s.withB b).b = b := rfl
@[simp] theorem State.settled_pending (s : State) (b : Block) : (s.settled b).pending = s.pending := rfl
@[simp] theorem State.settled_hard (s : State) (b : Block) : (s.settled b).hard = s.hard := rfl
@[simp] theorem State.settled_b (s : State) (b : Block) : (s.settled b).b = settle s.hard b := rfl
@[simp] theorem State.withB_self (s : State) : s.withB s.b = s := rfl

/-! ### The parts of the block -/

@[simp] theorem emit_clk (o : Out) (b : Block) : (emit o b).clk = b.clk := rfl
@[simp] theorem emit_islands (o : Out) (b : Block) : (emit o b).islands = b.islands := rfl
@[simp] theorem emit_shim (o : Out) (b : Block) : (emit o b).shim = b.shim := rfl
@[simp] theorem emit_log (o : Out) (b : Block) : (emit o b).log = b.log := rfl
@[simp] theorem emit_ic (o : Out) (b : Block) : (emit o b).ic = b.ic := rfl
@[simp] theorem emit_ks (o : Out) (b : Block) : (emit o b).ks = b.ks := rfl
@[simp] theorem emit_parts (o : Out) (b : Block) : (emit o b).parts = b.parts := rfl
@[simp] theorem emit_tcLoad (o : Out) (b : Block) : (emit o b).tcLoad = b.tcLoad := rfl
@[simp] theorem emit_tcQueue (o : Out) (b : Block) : (emit o b).tcQueue = b.tcQueue := rfl
@[simp] theorem emit_adm (o : Out) (b : Block) : (emit o b).adm = b.adm := rfl
@[simp] theorem emit_ports (o : Out) (b : Block) : (emit o b).ports = b.ports := rfl
@[simp] theorem emit_pports (o : Out) (b : Block) : (emit o b).pports = b.pports := rfl
@[simp] theorem emit_lparts (o : Out) (b : Block) : (emit o b).lparts = b.lparts := rfl
@[simp] theorem emit_epochs (o : Out) (b : Block) : (emit o b).epochs = b.epochs := rfl
@[simp] theorem emit_vgroups (o : Out) (b : Block) : (emit o b).vgroups = b.vgroups := rfl
@[simp] theorem emit_regions (o : Out) (b : Block) : (emit o b).regions = b.regions := rfl
@[simp] theorem emit_mirrors (o : Out) (b : Block) : (emit o b).mirrors = b.mirrors := rfl
@[simp] theorem emit_marks (o : Out) (b : Block) : (emit o b).marks = b.marks := rfl
@[simp] theorem emit_mes (o : Out) (b : Block) : (emit o b).mes = b.mes := rfl
@[simp] theorem emit_meparts (o : Out) (b : Block) : (emit o b).meparts = b.meparts := rfl
@[simp] theorem emit_memReqs (o : Out) (b : Block) : (emit o b).memReqs = b.memReqs := rfl
@[simp] theorem emit_bundles (o : Out) (b : Block) : (emit o b).bundles = b.bundles := rfl
@[simp] theorem emit_nextReq (o : Out) (b : Block) : (emit o b).nextReq = b.nextReq := rfl
@[simp] theorem emit_fetches (o : Out) (b : Block) : (emit o b).fetches = b.fetches := rfl
@[simp] theorem emit_work (o : Out) (b : Block) : (emit o b).work = b.work := rfl
@[simp] theorem emit_ahu (o : Out) (b : Block) : (emit o b).ahu = b.ahu := rfl
@[simp] theorem emit_ptu (o : Out) (b : Block) : (emit o b).ptu = b.ptu := rfl
@[simp] theorem emit_host (o : Out) (b : Block) : (emit o b).host = b.host := rfl
@[simp] theorem emit_rst (o : Out) (b : Block) : (emit o b).rst = b.rst := rfl
@[simp] theorem emit_sup (o : Out) (b : Block) : (emit o b).sup = b.sup := rfl
@[simp] theorem emit_i3c (o : Out) (b : Block) : (emit o b).i3c = b.i3c := rfl
@[simp] theorem emit_jtag (o : Out) (b : Block) : (emit o b).jtag = b.jtag := rfl
@[simp] theorem emit_tel (o : Out) (b : Block) : (emit o b).tel = b.tel := rfl
@[simp] theorem emit_lc (o : Out) (b : Block) : (emit o b).lc = b.lc := rfl
@[simp] theorem emit_ent (o : Out) (b : Block) : (emit o b).ent = b.ent := rfl

@[simp] theorem modIsland_clk (i : Island) (f : IslandSt → IslandSt) (b : Block) : (modIsland i f b).clk = b.clk := rfl
@[simp] theorem modIsland_shim (i : Island) (f : IslandSt → IslandSt) (b : Block) : (modIsland i f b).shim = b.shim := rfl
@[simp] theorem modIsland_log (i : Island) (f : IslandSt → IslandSt) (b : Block) : (modIsland i f b).log = b.log := rfl
@[simp] theorem modIsland_ic (i : Island) (f : IslandSt → IslandSt) (b : Block) : (modIsland i f b).ic = b.ic := rfl
@[simp] theorem modIsland_ks (i : Island) (f : IslandSt → IslandSt) (b : Block) : (modIsland i f b).ks = b.ks := rfl
@[simp] theorem modIsland_parts (i : Island) (f : IslandSt → IslandSt) (b : Block) : (modIsland i f b).parts = b.parts := rfl
@[simp] theorem modIsland_tcLoad (i : Island) (f : IslandSt → IslandSt) (b : Block) : (modIsland i f b).tcLoad = b.tcLoad := rfl
@[simp] theorem modIsland_tcQueue (i : Island) (f : IslandSt → IslandSt) (b : Block) : (modIsland i f b).tcQueue = b.tcQueue := rfl
@[simp] theorem modIsland_adm (i : Island) (f : IslandSt → IslandSt) (b : Block) : (modIsland i f b).adm = b.adm := rfl
@[simp] theorem modIsland_ports (i : Island) (f : IslandSt → IslandSt) (b : Block) : (modIsland i f b).ports = b.ports := rfl
@[simp] theorem modIsland_pports (i : Island) (f : IslandSt → IslandSt) (b : Block) : (modIsland i f b).pports = b.pports := rfl
@[simp] theorem modIsland_lparts (i : Island) (f : IslandSt → IslandSt) (b : Block) : (modIsland i f b).lparts = b.lparts := rfl
@[simp] theorem modIsland_epochs (i : Island) (f : IslandSt → IslandSt) (b : Block) : (modIsland i f b).epochs = b.epochs := rfl
@[simp] theorem modIsland_vgroups (i : Island) (f : IslandSt → IslandSt) (b : Block) : (modIsland i f b).vgroups = b.vgroups := rfl
@[simp] theorem modIsland_regions (i : Island) (f : IslandSt → IslandSt) (b : Block) : (modIsland i f b).regions = b.regions := rfl
@[simp] theorem modIsland_mirrors (i : Island) (f : IslandSt → IslandSt) (b : Block) : (modIsland i f b).mirrors = b.mirrors := rfl
@[simp] theorem modIsland_marks (i : Island) (f : IslandSt → IslandSt) (b : Block) : (modIsland i f b).marks = b.marks := rfl
@[simp] theorem modIsland_mes (i : Island) (f : IslandSt → IslandSt) (b : Block) : (modIsland i f b).mes = b.mes := rfl
@[simp] theorem modIsland_meparts (i : Island) (f : IslandSt → IslandSt) (b : Block) : (modIsland i f b).meparts = b.meparts := rfl
@[simp] theorem modIsland_memReqs (i : Island) (f : IslandSt → IslandSt) (b : Block) : (modIsland i f b).memReqs = b.memReqs := rfl
@[simp] theorem modIsland_bundles (i : Island) (f : IslandSt → IslandSt) (b : Block) : (modIsland i f b).bundles = b.bundles := rfl
@[simp] theorem modIsland_nextReq (i : Island) (f : IslandSt → IslandSt) (b : Block) : (modIsland i f b).nextReq = b.nextReq := rfl
@[simp] theorem modIsland_fetches (i : Island) (f : IslandSt → IslandSt) (b : Block) : (modIsland i f b).fetches = b.fetches := rfl
@[simp] theorem modIsland_work (i : Island) (f : IslandSt → IslandSt) (b : Block) : (modIsland i f b).work = b.work := rfl
@[simp] theorem modIsland_ahu (i : Island) (f : IslandSt → IslandSt) (b : Block) : (modIsland i f b).ahu = b.ahu := rfl
@[simp] theorem modIsland_ptu (i : Island) (f : IslandSt → IslandSt) (b : Block) : (modIsland i f b).ptu = b.ptu := rfl
@[simp] theorem modIsland_host (i : Island) (f : IslandSt → IslandSt) (b : Block) : (modIsland i f b).host = b.host := rfl
@[simp] theorem modIsland_rst (i : Island) (f : IslandSt → IslandSt) (b : Block) : (modIsland i f b).rst = b.rst := rfl
@[simp] theorem modIsland_sup (i : Island) (f : IslandSt → IslandSt) (b : Block) : (modIsland i f b).sup = b.sup := rfl
@[simp] theorem modIsland_i3c (i : Island) (f : IslandSt → IslandSt) (b : Block) : (modIsland i f b).i3c = b.i3c := rfl
@[simp] theorem modIsland_jtag (i : Island) (f : IslandSt → IslandSt) (b : Block) : (modIsland i f b).jtag = b.jtag := rfl
@[simp] theorem modIsland_tel (i : Island) (f : IslandSt → IslandSt) (b : Block) : (modIsland i f b).tel = b.tel := rfl
@[simp] theorem modIsland_lc (i : Island) (f : IslandSt → IslandSt) (b : Block) : (modIsland i f b).lc = b.lc := rfl
@[simp] theorem modIsland_ent (i : Island) (f : IslandSt → IslandSt) (b : Block) : (modIsland i f b).ent = b.ent := rfl
@[simp] theorem modIsland_out (i : Island) (f : IslandSt → IslandSt) (b : Block) : (modIsland i f b).out = b.out := rfl

@[simp] theorem modPart_clk (p : Part) (f : PartSt → PartSt) (b : Block) : (modPart p f b).clk = b.clk := rfl
@[simp] theorem modPart_islands (p : Part) (f : PartSt → PartSt) (b : Block) : (modPart p f b).islands = b.islands := rfl
@[simp] theorem modPart_shim (p : Part) (f : PartSt → PartSt) (b : Block) : (modPart p f b).shim = b.shim := rfl
@[simp] theorem modPart_log (p : Part) (f : PartSt → PartSt) (b : Block) : (modPart p f b).log = b.log := rfl
@[simp] theorem modPart_ic (p : Part) (f : PartSt → PartSt) (b : Block) : (modPart p f b).ic = b.ic := rfl
@[simp] theorem modPart_ks (p : Part) (f : PartSt → PartSt) (b : Block) : (modPart p f b).ks = b.ks := rfl
@[simp] theorem modPart_tcLoad (p : Part) (f : PartSt → PartSt) (b : Block) : (modPart p f b).tcLoad = b.tcLoad := rfl
@[simp] theorem modPart_tcQueue (p : Part) (f : PartSt → PartSt) (b : Block) : (modPart p f b).tcQueue = b.tcQueue := rfl
@[simp] theorem modPart_adm (p : Part) (f : PartSt → PartSt) (b : Block) : (modPart p f b).adm = b.adm := rfl
@[simp] theorem modPart_ports (p : Part) (f : PartSt → PartSt) (b : Block) : (modPart p f b).ports = b.ports := rfl
@[simp] theorem modPart_pports (p : Part) (f : PartSt → PartSt) (b : Block) : (modPart p f b).pports = b.pports := rfl
@[simp] theorem modPart_lparts (p : Part) (f : PartSt → PartSt) (b : Block) : (modPart p f b).lparts = b.lparts := rfl
@[simp] theorem modPart_epochs (p : Part) (f : PartSt → PartSt) (b : Block) : (modPart p f b).epochs = b.epochs := rfl
@[simp] theorem modPart_vgroups (p : Part) (f : PartSt → PartSt) (b : Block) : (modPart p f b).vgroups = b.vgroups := rfl
@[simp] theorem modPart_regions (p : Part) (f : PartSt → PartSt) (b : Block) : (modPart p f b).regions = b.regions := rfl
@[simp] theorem modPart_mirrors (p : Part) (f : PartSt → PartSt) (b : Block) : (modPart p f b).mirrors = b.mirrors := rfl
@[simp] theorem modPart_marks (p : Part) (f : PartSt → PartSt) (b : Block) : (modPart p f b).marks = b.marks := rfl
@[simp] theorem modPart_mes (p : Part) (f : PartSt → PartSt) (b : Block) : (modPart p f b).mes = b.mes := rfl
@[simp] theorem modPart_meparts (p : Part) (f : PartSt → PartSt) (b : Block) : (modPart p f b).meparts = b.meparts := rfl
@[simp] theorem modPart_memReqs (p : Part) (f : PartSt → PartSt) (b : Block) : (modPart p f b).memReqs = b.memReqs := rfl
@[simp] theorem modPart_bundles (p : Part) (f : PartSt → PartSt) (b : Block) : (modPart p f b).bundles = b.bundles := rfl
@[simp] theorem modPart_nextReq (p : Part) (f : PartSt → PartSt) (b : Block) : (modPart p f b).nextReq = b.nextReq := rfl
@[simp] theorem modPart_fetches (p : Part) (f : PartSt → PartSt) (b : Block) : (modPart p f b).fetches = b.fetches := rfl
@[simp] theorem modPart_work (p : Part) (f : PartSt → PartSt) (b : Block) : (modPart p f b).work = b.work := rfl
@[simp] theorem modPart_ahu (p : Part) (f : PartSt → PartSt) (b : Block) : (modPart p f b).ahu = b.ahu := rfl
@[simp] theorem modPart_ptu (p : Part) (f : PartSt → PartSt) (b : Block) : (modPart p f b).ptu = b.ptu := rfl
@[simp] theorem modPart_host (p : Part) (f : PartSt → PartSt) (b : Block) : (modPart p f b).host = b.host := rfl
@[simp] theorem modPart_rst (p : Part) (f : PartSt → PartSt) (b : Block) : (modPart p f b).rst = b.rst := rfl
@[simp] theorem modPart_sup (p : Part) (f : PartSt → PartSt) (b : Block) : (modPart p f b).sup = b.sup := rfl
@[simp] theorem modPart_i3c (p : Part) (f : PartSt → PartSt) (b : Block) : (modPart p f b).i3c = b.i3c := rfl
@[simp] theorem modPart_jtag (p : Part) (f : PartSt → PartSt) (b : Block) : (modPart p f b).jtag = b.jtag := rfl
@[simp] theorem modPart_tel (p : Part) (f : PartSt → PartSt) (b : Block) : (modPart p f b).tel = b.tel := rfl
@[simp] theorem modPart_lc (p : Part) (f : PartSt → PartSt) (b : Block) : (modPart p f b).lc = b.lc := rfl
@[simp] theorem modPart_ent (p : Part) (f : PartSt → PartSt) (b : Block) : (modPart p f b).ent = b.ent := rfl
@[simp] theorem modPart_out (p : Part) (f : PartSt → PartSt) (b : Block) : (modPart p f b).out = b.out := rfl

@[simp] theorem modAdm_clk (p : Part) (f : Adm → Adm) (b : Block) : (modAdm p f b).clk = b.clk := rfl
@[simp] theorem modAdm_islands (p : Part) (f : Adm → Adm) (b : Block) : (modAdm p f b).islands = b.islands := rfl
@[simp] theorem modAdm_shim (p : Part) (f : Adm → Adm) (b : Block) : (modAdm p f b).shim = b.shim := rfl
@[simp] theorem modAdm_log (p : Part) (f : Adm → Adm) (b : Block) : (modAdm p f b).log = b.log := rfl
@[simp] theorem modAdm_ic (p : Part) (f : Adm → Adm) (b : Block) : (modAdm p f b).ic = b.ic := rfl
@[simp] theorem modAdm_ks (p : Part) (f : Adm → Adm) (b : Block) : (modAdm p f b).ks = b.ks := rfl
@[simp] theorem modAdm_parts (p : Part) (f : Adm → Adm) (b : Block) : (modAdm p f b).parts = b.parts := rfl
@[simp] theorem modAdm_tcLoad (p : Part) (f : Adm → Adm) (b : Block) : (modAdm p f b).tcLoad = b.tcLoad := rfl
@[simp] theorem modAdm_tcQueue (p : Part) (f : Adm → Adm) (b : Block) : (modAdm p f b).tcQueue = b.tcQueue := rfl
@[simp] theorem modAdm_ports (p : Part) (f : Adm → Adm) (b : Block) : (modAdm p f b).ports = b.ports := rfl
@[simp] theorem modAdm_pports (p : Part) (f : Adm → Adm) (b : Block) : (modAdm p f b).pports = b.pports := rfl
@[simp] theorem modAdm_lparts (p : Part) (f : Adm → Adm) (b : Block) : (modAdm p f b).lparts = b.lparts := rfl
@[simp] theorem modAdm_epochs (p : Part) (f : Adm → Adm) (b : Block) : (modAdm p f b).epochs = b.epochs := rfl
@[simp] theorem modAdm_vgroups (p : Part) (f : Adm → Adm) (b : Block) : (modAdm p f b).vgroups = b.vgroups := rfl
@[simp] theorem modAdm_regions (p : Part) (f : Adm → Adm) (b : Block) : (modAdm p f b).regions = b.regions := rfl
@[simp] theorem modAdm_mirrors (p : Part) (f : Adm → Adm) (b : Block) : (modAdm p f b).mirrors = b.mirrors := rfl
@[simp] theorem modAdm_marks (p : Part) (f : Adm → Adm) (b : Block) : (modAdm p f b).marks = b.marks := rfl
@[simp] theorem modAdm_mes (p : Part) (f : Adm → Adm) (b : Block) : (modAdm p f b).mes = b.mes := rfl
@[simp] theorem modAdm_meparts (p : Part) (f : Adm → Adm) (b : Block) : (modAdm p f b).meparts = b.meparts := rfl
@[simp] theorem modAdm_memReqs (p : Part) (f : Adm → Adm) (b : Block) : (modAdm p f b).memReqs = b.memReqs := rfl
@[simp] theorem modAdm_bundles (p : Part) (f : Adm → Adm) (b : Block) : (modAdm p f b).bundles = b.bundles := rfl
@[simp] theorem modAdm_nextReq (p : Part) (f : Adm → Adm) (b : Block) : (modAdm p f b).nextReq = b.nextReq := rfl
@[simp] theorem modAdm_fetches (p : Part) (f : Adm → Adm) (b : Block) : (modAdm p f b).fetches = b.fetches := rfl
@[simp] theorem modAdm_work (p : Part) (f : Adm → Adm) (b : Block) : (modAdm p f b).work = b.work := rfl
@[simp] theorem modAdm_ahu (p : Part) (f : Adm → Adm) (b : Block) : (modAdm p f b).ahu = b.ahu := rfl
@[simp] theorem modAdm_ptu (p : Part) (f : Adm → Adm) (b : Block) : (modAdm p f b).ptu = b.ptu := rfl
@[simp] theorem modAdm_host (p : Part) (f : Adm → Adm) (b : Block) : (modAdm p f b).host = b.host := rfl
@[simp] theorem modAdm_rst (p : Part) (f : Adm → Adm) (b : Block) : (modAdm p f b).rst = b.rst := rfl
@[simp] theorem modAdm_sup (p : Part) (f : Adm → Adm) (b : Block) : (modAdm p f b).sup = b.sup := rfl
@[simp] theorem modAdm_i3c (p : Part) (f : Adm → Adm) (b : Block) : (modAdm p f b).i3c = b.i3c := rfl
@[simp] theorem modAdm_jtag (p : Part) (f : Adm → Adm) (b : Block) : (modAdm p f b).jtag = b.jtag := rfl
@[simp] theorem modAdm_tel (p : Part) (f : Adm → Adm) (b : Block) : (modAdm p f b).tel = b.tel := rfl
@[simp] theorem modAdm_lc (p : Part) (f : Adm → Adm) (b : Block) : (modAdm p f b).lc = b.lc := rfl
@[simp] theorem modAdm_ent (p : Part) (f : Adm → Adm) (b : Block) : (modAdm p f b).ent = b.ent := rfl
@[simp] theorem modAdm_out (p : Part) (f : Adm → Adm) (b : Block) : (modAdm p f b).out = b.out := rfl

@[simp] theorem modPeerAt_clk (p : Part) (k : Nat) (f : Peer → Peer) (b : Block) : (modPeerAt p k f b).clk = b.clk := rfl
@[simp] theorem modPeerAt_islands (p : Part) (k : Nat) (f : Peer → Peer) (b : Block) : (modPeerAt p k f b).islands = b.islands := rfl
@[simp] theorem modPeerAt_shim (p : Part) (k : Nat) (f : Peer → Peer) (b : Block) : (modPeerAt p k f b).shim = b.shim := rfl
@[simp] theorem modPeerAt_log (p : Part) (k : Nat) (f : Peer → Peer) (b : Block) : (modPeerAt p k f b).log = b.log := rfl
@[simp] theorem modPeerAt_ic (p : Part) (k : Nat) (f : Peer → Peer) (b : Block) : (modPeerAt p k f b).ic = b.ic := rfl
@[simp] theorem modPeerAt_ks (p : Part) (k : Nat) (f : Peer → Peer) (b : Block) : (modPeerAt p k f b).ks = b.ks := rfl
@[simp] theorem modPeerAt_parts (p : Part) (k : Nat) (f : Peer → Peer) (b : Block) : (modPeerAt p k f b).parts = b.parts := rfl
@[simp] theorem modPeerAt_tcLoad (p : Part) (k : Nat) (f : Peer → Peer) (b : Block) : (modPeerAt p k f b).tcLoad = b.tcLoad := rfl
@[simp] theorem modPeerAt_tcQueue (p : Part) (k : Nat) (f : Peer → Peer) (b : Block) : (modPeerAt p k f b).tcQueue = b.tcQueue := rfl
@[simp] theorem modPeerAt_ports (p : Part) (k : Nat) (f : Peer → Peer) (b : Block) : (modPeerAt p k f b).ports = b.ports := rfl
@[simp] theorem modPeerAt_pports (p : Part) (k : Nat) (f : Peer → Peer) (b : Block) : (modPeerAt p k f b).pports = b.pports := rfl
@[simp] theorem modPeerAt_lparts (p : Part) (k : Nat) (f : Peer → Peer) (b : Block) : (modPeerAt p k f b).lparts = b.lparts := rfl
@[simp] theorem modPeerAt_epochs (p : Part) (k : Nat) (f : Peer → Peer) (b : Block) : (modPeerAt p k f b).epochs = b.epochs := rfl
@[simp] theorem modPeerAt_vgroups (p : Part) (k : Nat) (f : Peer → Peer) (b : Block) : (modPeerAt p k f b).vgroups = b.vgroups := rfl
@[simp] theorem modPeerAt_regions (p : Part) (k : Nat) (f : Peer → Peer) (b : Block) : (modPeerAt p k f b).regions = b.regions := rfl
@[simp] theorem modPeerAt_mirrors (p : Part) (k : Nat) (f : Peer → Peer) (b : Block) : (modPeerAt p k f b).mirrors = b.mirrors := rfl
@[simp] theorem modPeerAt_marks (p : Part) (k : Nat) (f : Peer → Peer) (b : Block) : (modPeerAt p k f b).marks = b.marks := rfl
@[simp] theorem modPeerAt_mes (p : Part) (k : Nat) (f : Peer → Peer) (b : Block) : (modPeerAt p k f b).mes = b.mes := rfl
@[simp] theorem modPeerAt_meparts (p : Part) (k : Nat) (f : Peer → Peer) (b : Block) : (modPeerAt p k f b).meparts = b.meparts := rfl
@[simp] theorem modPeerAt_memReqs (p : Part) (k : Nat) (f : Peer → Peer) (b : Block) : (modPeerAt p k f b).memReqs = b.memReqs := rfl
@[simp] theorem modPeerAt_bundles (p : Part) (k : Nat) (f : Peer → Peer) (b : Block) : (modPeerAt p k f b).bundles = b.bundles := rfl
@[simp] theorem modPeerAt_nextReq (p : Part) (k : Nat) (f : Peer → Peer) (b : Block) : (modPeerAt p k f b).nextReq = b.nextReq := rfl
@[simp] theorem modPeerAt_fetches (p : Part) (k : Nat) (f : Peer → Peer) (b : Block) : (modPeerAt p k f b).fetches = b.fetches := rfl
@[simp] theorem modPeerAt_work (p : Part) (k : Nat) (f : Peer → Peer) (b : Block) : (modPeerAt p k f b).work = b.work := rfl
@[simp] theorem modPeerAt_ahu (p : Part) (k : Nat) (f : Peer → Peer) (b : Block) : (modPeerAt p k f b).ahu = b.ahu := rfl
@[simp] theorem modPeerAt_ptu (p : Part) (k : Nat) (f : Peer → Peer) (b : Block) : (modPeerAt p k f b).ptu = b.ptu := rfl
@[simp] theorem modPeerAt_host (p : Part) (k : Nat) (f : Peer → Peer) (b : Block) : (modPeerAt p k f b).host = b.host := rfl
@[simp] theorem modPeerAt_rst (p : Part) (k : Nat) (f : Peer → Peer) (b : Block) : (modPeerAt p k f b).rst = b.rst := rfl
@[simp] theorem modPeerAt_sup (p : Part) (k : Nat) (f : Peer → Peer) (b : Block) : (modPeerAt p k f b).sup = b.sup := rfl
@[simp] theorem modPeerAt_i3c (p : Part) (k : Nat) (f : Peer → Peer) (b : Block) : (modPeerAt p k f b).i3c = b.i3c := rfl
@[simp] theorem modPeerAt_jtag (p : Part) (k : Nat) (f : Peer → Peer) (b : Block) : (modPeerAt p k f b).jtag = b.jtag := rfl
@[simp] theorem modPeerAt_tel (p : Part) (k : Nat) (f : Peer → Peer) (b : Block) : (modPeerAt p k f b).tel = b.tel := rfl
@[simp] theorem modPeerAt_lc (p : Part) (k : Nat) (f : Peer → Peer) (b : Block) : (modPeerAt p k f b).lc = b.lc := rfl
@[simp] theorem modPeerAt_ent (p : Part) (k : Nat) (f : Peer → Peer) (b : Block) : (modPeerAt p k f b).ent = b.ent := rfl
@[simp] theorem modPeerAt_out (p : Part) (k : Nat) (f : Peer → Peer) (b : Block) : (modPeerAt p k f b).out = b.out := rfl

@[simp] theorem modPeer_clk (p : Part) (m : MemberRef) (f : Peer → Peer) (b : Block) : (modPeer p m f b).clk = b.clk := rfl
@[simp] theorem modPeer_islands (p : Part) (m : MemberRef) (f : Peer → Peer) (b : Block) : (modPeer p m f b).islands = b.islands := rfl
@[simp] theorem modPeer_shim (p : Part) (m : MemberRef) (f : Peer → Peer) (b : Block) : (modPeer p m f b).shim = b.shim := rfl
@[simp] theorem modPeer_log (p : Part) (m : MemberRef) (f : Peer → Peer) (b : Block) : (modPeer p m f b).log = b.log := rfl
@[simp] theorem modPeer_ic (p : Part) (m : MemberRef) (f : Peer → Peer) (b : Block) : (modPeer p m f b).ic = b.ic := rfl
@[simp] theorem modPeer_ks (p : Part) (m : MemberRef) (f : Peer → Peer) (b : Block) : (modPeer p m f b).ks = b.ks := rfl
@[simp] theorem modPeer_parts (p : Part) (m : MemberRef) (f : Peer → Peer) (b : Block) : (modPeer p m f b).parts = b.parts := rfl
@[simp] theorem modPeer_tcLoad (p : Part) (m : MemberRef) (f : Peer → Peer) (b : Block) : (modPeer p m f b).tcLoad = b.tcLoad := rfl
@[simp] theorem modPeer_tcQueue (p : Part) (m : MemberRef) (f : Peer → Peer) (b : Block) : (modPeer p m f b).tcQueue = b.tcQueue := rfl
@[simp] theorem modPeer_ports (p : Part) (m : MemberRef) (f : Peer → Peer) (b : Block) : (modPeer p m f b).ports = b.ports := rfl
@[simp] theorem modPeer_pports (p : Part) (m : MemberRef) (f : Peer → Peer) (b : Block) : (modPeer p m f b).pports = b.pports := rfl
@[simp] theorem modPeer_lparts (p : Part) (m : MemberRef) (f : Peer → Peer) (b : Block) : (modPeer p m f b).lparts = b.lparts := rfl
@[simp] theorem modPeer_epochs (p : Part) (m : MemberRef) (f : Peer → Peer) (b : Block) : (modPeer p m f b).epochs = b.epochs := rfl
@[simp] theorem modPeer_vgroups (p : Part) (m : MemberRef) (f : Peer → Peer) (b : Block) : (modPeer p m f b).vgroups = b.vgroups := rfl
@[simp] theorem modPeer_regions (p : Part) (m : MemberRef) (f : Peer → Peer) (b : Block) : (modPeer p m f b).regions = b.regions := rfl
@[simp] theorem modPeer_mirrors (p : Part) (m : MemberRef) (f : Peer → Peer) (b : Block) : (modPeer p m f b).mirrors = b.mirrors := rfl
@[simp] theorem modPeer_marks (p : Part) (m : MemberRef) (f : Peer → Peer) (b : Block) : (modPeer p m f b).marks = b.marks := rfl
@[simp] theorem modPeer_mes (p : Part) (m : MemberRef) (f : Peer → Peer) (b : Block) : (modPeer p m f b).mes = b.mes := rfl
@[simp] theorem modPeer_meparts (p : Part) (m : MemberRef) (f : Peer → Peer) (b : Block) : (modPeer p m f b).meparts = b.meparts := rfl
@[simp] theorem modPeer_memReqs (p : Part) (m : MemberRef) (f : Peer → Peer) (b : Block) : (modPeer p m f b).memReqs = b.memReqs := rfl
@[simp] theorem modPeer_bundles (p : Part) (m : MemberRef) (f : Peer → Peer) (b : Block) : (modPeer p m f b).bundles = b.bundles := rfl
@[simp] theorem modPeer_nextReq (p : Part) (m : MemberRef) (f : Peer → Peer) (b : Block) : (modPeer p m f b).nextReq = b.nextReq := rfl
@[simp] theorem modPeer_fetches (p : Part) (m : MemberRef) (f : Peer → Peer) (b : Block) : (modPeer p m f b).fetches = b.fetches := rfl
@[simp] theorem modPeer_work (p : Part) (m : MemberRef) (f : Peer → Peer) (b : Block) : (modPeer p m f b).work = b.work := rfl
@[simp] theorem modPeer_ahu (p : Part) (m : MemberRef) (f : Peer → Peer) (b : Block) : (modPeer p m f b).ahu = b.ahu := rfl
@[simp] theorem modPeer_ptu (p : Part) (m : MemberRef) (f : Peer → Peer) (b : Block) : (modPeer p m f b).ptu = b.ptu := rfl
@[simp] theorem modPeer_host (p : Part) (m : MemberRef) (f : Peer → Peer) (b : Block) : (modPeer p m f b).host = b.host := rfl
@[simp] theorem modPeer_rst (p : Part) (m : MemberRef) (f : Peer → Peer) (b : Block) : (modPeer p m f b).rst = b.rst := rfl
@[simp] theorem modPeer_sup (p : Part) (m : MemberRef) (f : Peer → Peer) (b : Block) : (modPeer p m f b).sup = b.sup := rfl
@[simp] theorem modPeer_i3c (p : Part) (m : MemberRef) (f : Peer → Peer) (b : Block) : (modPeer p m f b).i3c = b.i3c := rfl
@[simp] theorem modPeer_jtag (p : Part) (m : MemberRef) (f : Peer → Peer) (b : Block) : (modPeer p m f b).jtag = b.jtag := rfl
@[simp] theorem modPeer_tel (p : Part) (m : MemberRef) (f : Peer → Peer) (b : Block) : (modPeer p m f b).tel = b.tel := rfl
@[simp] theorem modPeer_lc (p : Part) (m : MemberRef) (f : Peer → Peer) (b : Block) : (modPeer p m f b).lc = b.lc := rfl
@[simp] theorem modPeer_ent (p : Part) (m : MemberRef) (f : Peer → Peer) (b : Block) : (modPeer p m f b).ent = b.ent := rfl
@[simp] theorem modPeer_out (p : Part) (m : MemberRef) (f : Peer → Peer) (b : Block) : (modPeer p m f b).out = b.out := rfl

@[simp] theorem modRst_clk (f : Rst → Rst) (b : Block) : (modRst f b).clk = b.clk := rfl
@[simp] theorem modRst_islands (f : Rst → Rst) (b : Block) : (modRst f b).islands = b.islands := rfl
@[simp] theorem modRst_shim (f : Rst → Rst) (b : Block) : (modRst f b).shim = b.shim := rfl
@[simp] theorem modRst_log (f : Rst → Rst) (b : Block) : (modRst f b).log = b.log := rfl
@[simp] theorem modRst_ic (f : Rst → Rst) (b : Block) : (modRst f b).ic = b.ic := rfl
@[simp] theorem modRst_ks (f : Rst → Rst) (b : Block) : (modRst f b).ks = b.ks := rfl
@[simp] theorem modRst_parts (f : Rst → Rst) (b : Block) : (modRst f b).parts = b.parts := rfl
@[simp] theorem modRst_tcLoad (f : Rst → Rst) (b : Block) : (modRst f b).tcLoad = b.tcLoad := rfl
@[simp] theorem modRst_tcQueue (f : Rst → Rst) (b : Block) : (modRst f b).tcQueue = b.tcQueue := rfl
@[simp] theorem modRst_adm (f : Rst → Rst) (b : Block) : (modRst f b).adm = b.adm := rfl
@[simp] theorem modRst_ports (f : Rst → Rst) (b : Block) : (modRst f b).ports = b.ports := rfl
@[simp] theorem modRst_pports (f : Rst → Rst) (b : Block) : (modRst f b).pports = b.pports := rfl
@[simp] theorem modRst_lparts (f : Rst → Rst) (b : Block) : (modRst f b).lparts = b.lparts := rfl
@[simp] theorem modRst_epochs (f : Rst → Rst) (b : Block) : (modRst f b).epochs = b.epochs := rfl
@[simp] theorem modRst_vgroups (f : Rst → Rst) (b : Block) : (modRst f b).vgroups = b.vgroups := rfl
@[simp] theorem modRst_regions (f : Rst → Rst) (b : Block) : (modRst f b).regions = b.regions := rfl
@[simp] theorem modRst_mirrors (f : Rst → Rst) (b : Block) : (modRst f b).mirrors = b.mirrors := rfl
@[simp] theorem modRst_marks (f : Rst → Rst) (b : Block) : (modRst f b).marks = b.marks := rfl
@[simp] theorem modRst_mes (f : Rst → Rst) (b : Block) : (modRst f b).mes = b.mes := rfl
@[simp] theorem modRst_meparts (f : Rst → Rst) (b : Block) : (modRst f b).meparts = b.meparts := rfl
@[simp] theorem modRst_memReqs (f : Rst → Rst) (b : Block) : (modRst f b).memReqs = b.memReqs := rfl
@[simp] theorem modRst_bundles (f : Rst → Rst) (b : Block) : (modRst f b).bundles = b.bundles := rfl
@[simp] theorem modRst_nextReq (f : Rst → Rst) (b : Block) : (modRst f b).nextReq = b.nextReq := rfl
@[simp] theorem modRst_fetches (f : Rst → Rst) (b : Block) : (modRst f b).fetches = b.fetches := rfl
@[simp] theorem modRst_work (f : Rst → Rst) (b : Block) : (modRst f b).work = b.work := rfl
@[simp] theorem modRst_ahu (f : Rst → Rst) (b : Block) : (modRst f b).ahu = b.ahu := rfl
@[simp] theorem modRst_ptu (f : Rst → Rst) (b : Block) : (modRst f b).ptu = b.ptu := rfl
@[simp] theorem modRst_host (f : Rst → Rst) (b : Block) : (modRst f b).host = b.host := rfl
@[simp] theorem modRst_sup (f : Rst → Rst) (b : Block) : (modRst f b).sup = b.sup := rfl
@[simp] theorem modRst_i3c (f : Rst → Rst) (b : Block) : (modRst f b).i3c = b.i3c := rfl
@[simp] theorem modRst_jtag (f : Rst → Rst) (b : Block) : (modRst f b).jtag = b.jtag := rfl
@[simp] theorem modRst_tel (f : Rst → Rst) (b : Block) : (modRst f b).tel = b.tel := rfl
@[simp] theorem modRst_lc (f : Rst → Rst) (b : Block) : (modRst f b).lc = b.lc := rfl
@[simp] theorem modRst_ent (f : Rst → Rst) (b : Block) : (modRst f b).ent = b.ent := rfl
@[simp] theorem modRst_out (f : Rst → Rst) (b : Block) : (modRst f b).out = b.out := rfl

@[simp] theorem modRstPart_clk (p : Part) (f : RstPart → RstPart) (b : Block) : (modRstPart p f b).clk = b.clk := rfl
@[simp] theorem modRstPart_islands (p : Part) (f : RstPart → RstPart) (b : Block) : (modRstPart p f b).islands = b.islands := rfl
@[simp] theorem modRstPart_shim (p : Part) (f : RstPart → RstPart) (b : Block) : (modRstPart p f b).shim = b.shim := rfl
@[simp] theorem modRstPart_log (p : Part) (f : RstPart → RstPart) (b : Block) : (modRstPart p f b).log = b.log := rfl
@[simp] theorem modRstPart_ic (p : Part) (f : RstPart → RstPart) (b : Block) : (modRstPart p f b).ic = b.ic := rfl
@[simp] theorem modRstPart_ks (p : Part) (f : RstPart → RstPart) (b : Block) : (modRstPart p f b).ks = b.ks := rfl
@[simp] theorem modRstPart_parts (p : Part) (f : RstPart → RstPart) (b : Block) : (modRstPart p f b).parts = b.parts := rfl
@[simp] theorem modRstPart_tcLoad (p : Part) (f : RstPart → RstPart) (b : Block) : (modRstPart p f b).tcLoad = b.tcLoad := rfl
@[simp] theorem modRstPart_tcQueue (p : Part) (f : RstPart → RstPart) (b : Block) : (modRstPart p f b).tcQueue = b.tcQueue := rfl
@[simp] theorem modRstPart_adm (p : Part) (f : RstPart → RstPart) (b : Block) : (modRstPart p f b).adm = b.adm := rfl
@[simp] theorem modRstPart_ports (p : Part) (f : RstPart → RstPart) (b : Block) : (modRstPart p f b).ports = b.ports := rfl
@[simp] theorem modRstPart_pports (p : Part) (f : RstPart → RstPart) (b : Block) : (modRstPart p f b).pports = b.pports := rfl
@[simp] theorem modRstPart_lparts (p : Part) (f : RstPart → RstPart) (b : Block) : (modRstPart p f b).lparts = b.lparts := rfl
@[simp] theorem modRstPart_epochs (p : Part) (f : RstPart → RstPart) (b : Block) : (modRstPart p f b).epochs = b.epochs := rfl
@[simp] theorem modRstPart_vgroups (p : Part) (f : RstPart → RstPart) (b : Block) : (modRstPart p f b).vgroups = b.vgroups := rfl
@[simp] theorem modRstPart_regions (p : Part) (f : RstPart → RstPart) (b : Block) : (modRstPart p f b).regions = b.regions := rfl
@[simp] theorem modRstPart_mirrors (p : Part) (f : RstPart → RstPart) (b : Block) : (modRstPart p f b).mirrors = b.mirrors := rfl
@[simp] theorem modRstPart_marks (p : Part) (f : RstPart → RstPart) (b : Block) : (modRstPart p f b).marks = b.marks := rfl
@[simp] theorem modRstPart_mes (p : Part) (f : RstPart → RstPart) (b : Block) : (modRstPart p f b).mes = b.mes := rfl
@[simp] theorem modRstPart_meparts (p : Part) (f : RstPart → RstPart) (b : Block) : (modRstPart p f b).meparts = b.meparts := rfl
@[simp] theorem modRstPart_memReqs (p : Part) (f : RstPart → RstPart) (b : Block) : (modRstPart p f b).memReqs = b.memReqs := rfl
@[simp] theorem modRstPart_bundles (p : Part) (f : RstPart → RstPart) (b : Block) : (modRstPart p f b).bundles = b.bundles := rfl
@[simp] theorem modRstPart_nextReq (p : Part) (f : RstPart → RstPart) (b : Block) : (modRstPart p f b).nextReq = b.nextReq := rfl
@[simp] theorem modRstPart_fetches (p : Part) (f : RstPart → RstPart) (b : Block) : (modRstPart p f b).fetches = b.fetches := rfl
@[simp] theorem modRstPart_work (p : Part) (f : RstPart → RstPart) (b : Block) : (modRstPart p f b).work = b.work := rfl
@[simp] theorem modRstPart_ahu (p : Part) (f : RstPart → RstPart) (b : Block) : (modRstPart p f b).ahu = b.ahu := rfl
@[simp] theorem modRstPart_ptu (p : Part) (f : RstPart → RstPart) (b : Block) : (modRstPart p f b).ptu = b.ptu := rfl
@[simp] theorem modRstPart_host (p : Part) (f : RstPart → RstPart) (b : Block) : (modRstPart p f b).host = b.host := rfl
@[simp] theorem modRstPart_sup (p : Part) (f : RstPart → RstPart) (b : Block) : (modRstPart p f b).sup = b.sup := rfl
@[simp] theorem modRstPart_i3c (p : Part) (f : RstPart → RstPart) (b : Block) : (modRstPart p f b).i3c = b.i3c := rfl
@[simp] theorem modRstPart_jtag (p : Part) (f : RstPart → RstPart) (b : Block) : (modRstPart p f b).jtag = b.jtag := rfl
@[simp] theorem modRstPart_tel (p : Part) (f : RstPart → RstPart) (b : Block) : (modRstPart p f b).tel = b.tel := rfl
@[simp] theorem modRstPart_lc (p : Part) (f : RstPart → RstPart) (b : Block) : (modRstPart p f b).lc = b.lc := rfl
@[simp] theorem modRstPart_ent (p : Part) (f : RstPart → RstPart) (b : Block) : (modRstPart p f b).ent = b.ent := rfl
@[simp] theorem modRstPart_out (p : Part) (f : RstPart → RstPart) (b : Block) : (modRstPart p f b).out = b.out := rfl

@[simp] theorem setSrc_clk (x : Nat) (s : Src) (b : Block) : (setSrc x s b).clk = b.clk := rfl
@[simp] theorem setSrc_islands (x : Nat) (s : Src) (b : Block) : (setSrc x s b).islands = b.islands := rfl
@[simp] theorem setSrc_shim (x : Nat) (s : Src) (b : Block) : (setSrc x s b).shim = b.shim := rfl
@[simp] theorem setSrc_log (x : Nat) (s : Src) (b : Block) : (setSrc x s b).log = b.log := rfl
@[simp] theorem setSrc_ks (x : Nat) (s : Src) (b : Block) : (setSrc x s b).ks = b.ks := rfl
@[simp] theorem setSrc_parts (x : Nat) (s : Src) (b : Block) : (setSrc x s b).parts = b.parts := rfl
@[simp] theorem setSrc_tcLoad (x : Nat) (s : Src) (b : Block) : (setSrc x s b).tcLoad = b.tcLoad := rfl
@[simp] theorem setSrc_tcQueue (x : Nat) (s : Src) (b : Block) : (setSrc x s b).tcQueue = b.tcQueue := rfl
@[simp] theorem setSrc_adm (x : Nat) (s : Src) (b : Block) : (setSrc x s b).adm = b.adm := rfl
@[simp] theorem setSrc_ports (x : Nat) (s : Src) (b : Block) : (setSrc x s b).ports = b.ports := rfl
@[simp] theorem setSrc_pports (x : Nat) (s : Src) (b : Block) : (setSrc x s b).pports = b.pports := rfl
@[simp] theorem setSrc_lparts (x : Nat) (s : Src) (b : Block) : (setSrc x s b).lparts = b.lparts := rfl
@[simp] theorem setSrc_epochs (x : Nat) (s : Src) (b : Block) : (setSrc x s b).epochs = b.epochs := rfl
@[simp] theorem setSrc_vgroups (x : Nat) (s : Src) (b : Block) : (setSrc x s b).vgroups = b.vgroups := rfl
@[simp] theorem setSrc_regions (x : Nat) (s : Src) (b : Block) : (setSrc x s b).regions = b.regions := rfl
@[simp] theorem setSrc_mirrors (x : Nat) (s : Src) (b : Block) : (setSrc x s b).mirrors = b.mirrors := rfl
@[simp] theorem setSrc_marks (x : Nat) (s : Src) (b : Block) : (setSrc x s b).marks = b.marks := rfl
@[simp] theorem setSrc_mes (x : Nat) (s : Src) (b : Block) : (setSrc x s b).mes = b.mes := rfl
@[simp] theorem setSrc_meparts (x : Nat) (s : Src) (b : Block) : (setSrc x s b).meparts = b.meparts := rfl
@[simp] theorem setSrc_memReqs (x : Nat) (s : Src) (b : Block) : (setSrc x s b).memReqs = b.memReqs := rfl
@[simp] theorem setSrc_bundles (x : Nat) (s : Src) (b : Block) : (setSrc x s b).bundles = b.bundles := rfl
@[simp] theorem setSrc_nextReq (x : Nat) (s : Src) (b : Block) : (setSrc x s b).nextReq = b.nextReq := rfl
@[simp] theorem setSrc_fetches (x : Nat) (s : Src) (b : Block) : (setSrc x s b).fetches = b.fetches := rfl
@[simp] theorem setSrc_work (x : Nat) (s : Src) (b : Block) : (setSrc x s b).work = b.work := rfl
@[simp] theorem setSrc_ahu (x : Nat) (s : Src) (b : Block) : (setSrc x s b).ahu = b.ahu := rfl
@[simp] theorem setSrc_ptu (x : Nat) (s : Src) (b : Block) : (setSrc x s b).ptu = b.ptu := rfl
@[simp] theorem setSrc_host (x : Nat) (s : Src) (b : Block) : (setSrc x s b).host = b.host := rfl
@[simp] theorem setSrc_rst (x : Nat) (s : Src) (b : Block) : (setSrc x s b).rst = b.rst := rfl
@[simp] theorem setSrc_sup (x : Nat) (s : Src) (b : Block) : (setSrc x s b).sup = b.sup := rfl
@[simp] theorem setSrc_i3c (x : Nat) (s : Src) (b : Block) : (setSrc x s b).i3c = b.i3c := rfl
@[simp] theorem setSrc_jtag (x : Nat) (s : Src) (b : Block) : (setSrc x s b).jtag = b.jtag := rfl
@[simp] theorem setSrc_tel (x : Nat) (s : Src) (b : Block) : (setSrc x s b).tel = b.tel := rfl
@[simp] theorem setSrc_lc (x : Nat) (s : Src) (b : Block) : (setSrc x s b).lc = b.lc := rfl
@[simp] theorem setSrc_ent (x : Nat) (s : Src) (b : Block) : (setSrc x s b).ent = b.ent := rfl
@[simp] theorem setSrc_out (x : Nat) (s : Src) (b : Block) : (setSrc x s b).out = b.out := rfl

@[simp] theorem setQueue_clk (n : Nat) (q : Queue) (b : Block) : (setQueue n q b).clk = b.clk := rfl
@[simp] theorem setQueue_islands (n : Nat) (q : Queue) (b : Block) : (setQueue n q b).islands = b.islands := rfl
@[simp] theorem setQueue_shim (n : Nat) (q : Queue) (b : Block) : (setQueue n q b).shim = b.shim := rfl
@[simp] theorem setQueue_log (n : Nat) (q : Queue) (b : Block) : (setQueue n q b).log = b.log := rfl
@[simp] theorem setQueue_ic (n : Nat) (q : Queue) (b : Block) : (setQueue n q b).ic = b.ic := rfl
@[simp] theorem setQueue_ks (n : Nat) (q : Queue) (b : Block) : (setQueue n q b).ks = b.ks := rfl
@[simp] theorem setQueue_parts (n : Nat) (q : Queue) (b : Block) : (setQueue n q b).parts = b.parts := rfl
@[simp] theorem setQueue_tcLoad (n : Nat) (q : Queue) (b : Block) : (setQueue n q b).tcLoad = b.tcLoad := rfl
@[simp] theorem setQueue_tcQueue (n : Nat) (q : Queue) (b : Block) : (setQueue n q b).tcQueue = b.tcQueue := rfl
@[simp] theorem setQueue_adm (n : Nat) (q : Queue) (b : Block) : (setQueue n q b).adm = b.adm := rfl
@[simp] theorem setQueue_ports (n : Nat) (q : Queue) (b : Block) : (setQueue n q b).ports = b.ports := rfl
@[simp] theorem setQueue_pports (n : Nat) (q : Queue) (b : Block) : (setQueue n q b).pports = b.pports := rfl
@[simp] theorem setQueue_lparts (n : Nat) (q : Queue) (b : Block) : (setQueue n q b).lparts = b.lparts := rfl
@[simp] theorem setQueue_epochs (n : Nat) (q : Queue) (b : Block) : (setQueue n q b).epochs = b.epochs := rfl
@[simp] theorem setQueue_vgroups (n : Nat) (q : Queue) (b : Block) : (setQueue n q b).vgroups = b.vgroups := rfl
@[simp] theorem setQueue_regions (n : Nat) (q : Queue) (b : Block) : (setQueue n q b).regions = b.regions := rfl
@[simp] theorem setQueue_mirrors (n : Nat) (q : Queue) (b : Block) : (setQueue n q b).mirrors = b.mirrors := rfl
@[simp] theorem setQueue_marks (n : Nat) (q : Queue) (b : Block) : (setQueue n q b).marks = b.marks := rfl
@[simp] theorem setQueue_mes (n : Nat) (q : Queue) (b : Block) : (setQueue n q b).mes = b.mes := rfl
@[simp] theorem setQueue_meparts (n : Nat) (q : Queue) (b : Block) : (setQueue n q b).meparts = b.meparts := rfl
@[simp] theorem setQueue_memReqs (n : Nat) (q : Queue) (b : Block) : (setQueue n q b).memReqs = b.memReqs := rfl
@[simp] theorem setQueue_bundles (n : Nat) (q : Queue) (b : Block) : (setQueue n q b).bundles = b.bundles := rfl
@[simp] theorem setQueue_nextReq (n : Nat) (q : Queue) (b : Block) : (setQueue n q b).nextReq = b.nextReq := rfl
@[simp] theorem setQueue_fetches (n : Nat) (q : Queue) (b : Block) : (setQueue n q b).fetches = b.fetches := rfl
@[simp] theorem setQueue_work (n : Nat) (q : Queue) (b : Block) : (setQueue n q b).work = b.work := rfl
@[simp] theorem setQueue_ahu (n : Nat) (q : Queue) (b : Block) : (setQueue n q b).ahu = b.ahu := rfl
@[simp] theorem setQueue_ptu (n : Nat) (q : Queue) (b : Block) : (setQueue n q b).ptu = b.ptu := rfl
@[simp] theorem setQueue_rst (n : Nat) (q : Queue) (b : Block) : (setQueue n q b).rst = b.rst := rfl
@[simp] theorem setQueue_sup (n : Nat) (q : Queue) (b : Block) : (setQueue n q b).sup = b.sup := rfl
@[simp] theorem setQueue_i3c (n : Nat) (q : Queue) (b : Block) : (setQueue n q b).i3c = b.i3c := rfl
@[simp] theorem setQueue_jtag (n : Nat) (q : Queue) (b : Block) : (setQueue n q b).jtag = b.jtag := rfl
@[simp] theorem setQueue_tel (n : Nat) (q : Queue) (b : Block) : (setQueue n q b).tel = b.tel := rfl
@[simp] theorem setQueue_lc (n : Nat) (q : Queue) (b : Block) : (setQueue n q b).lc = b.lc := rfl
@[simp] theorem setQueue_ent (n : Nat) (q : Queue) (b : Block) : (setQueue n q b).ent = b.ent := rfl
@[simp] theorem setQueue_out (n : Nat) (q : Queue) (b : Block) : (setQueue n q b).out = b.out := rfl

@[simp] theorem setRegion_clk (r : Nat) (x : Region) (b : Block) : (setRegion r x b).clk = b.clk := rfl
@[simp] theorem setRegion_islands (r : Nat) (x : Region) (b : Block) : (setRegion r x b).islands = b.islands := rfl
@[simp] theorem setRegion_shim (r : Nat) (x : Region) (b : Block) : (setRegion r x b).shim = b.shim := rfl
@[simp] theorem setRegion_log (r : Nat) (x : Region) (b : Block) : (setRegion r x b).log = b.log := rfl
@[simp] theorem setRegion_ic (r : Nat) (x : Region) (b : Block) : (setRegion r x b).ic = b.ic := rfl
@[simp] theorem setRegion_ks (r : Nat) (x : Region) (b : Block) : (setRegion r x b).ks = b.ks := rfl
@[simp] theorem setRegion_parts (r : Nat) (x : Region) (b : Block) : (setRegion r x b).parts = b.parts := rfl
@[simp] theorem setRegion_tcLoad (r : Nat) (x : Region) (b : Block) : (setRegion r x b).tcLoad = b.tcLoad := rfl
@[simp] theorem setRegion_tcQueue (r : Nat) (x : Region) (b : Block) : (setRegion r x b).tcQueue = b.tcQueue := rfl
@[simp] theorem setRegion_adm (r : Nat) (x : Region) (b : Block) : (setRegion r x b).adm = b.adm := rfl
@[simp] theorem setRegion_ports (r : Nat) (x : Region) (b : Block) : (setRegion r x b).ports = b.ports := rfl
@[simp] theorem setRegion_pports (r : Nat) (x : Region) (b : Block) : (setRegion r x b).pports = b.pports := rfl
@[simp] theorem setRegion_lparts (r : Nat) (x : Region) (b : Block) : (setRegion r x b).lparts = b.lparts := rfl
@[simp] theorem setRegion_epochs (r : Nat) (x : Region) (b : Block) : (setRegion r x b).epochs = b.epochs := rfl
@[simp] theorem setRegion_vgroups (r : Nat) (x : Region) (b : Block) : (setRegion r x b).vgroups = b.vgroups := rfl
@[simp] theorem setRegion_mirrors (r : Nat) (x : Region) (b : Block) : (setRegion r x b).mirrors = b.mirrors := rfl
@[simp] theorem setRegion_marks (r : Nat) (x : Region) (b : Block) : (setRegion r x b).marks = b.marks := rfl
@[simp] theorem setRegion_mes (r : Nat) (x : Region) (b : Block) : (setRegion r x b).mes = b.mes := rfl
@[simp] theorem setRegion_meparts (r : Nat) (x : Region) (b : Block) : (setRegion r x b).meparts = b.meparts := rfl
@[simp] theorem setRegion_memReqs (r : Nat) (x : Region) (b : Block) : (setRegion r x b).memReqs = b.memReqs := rfl
@[simp] theorem setRegion_bundles (r : Nat) (x : Region) (b : Block) : (setRegion r x b).bundles = b.bundles := rfl
@[simp] theorem setRegion_nextReq (r : Nat) (x : Region) (b : Block) : (setRegion r x b).nextReq = b.nextReq := rfl
@[simp] theorem setRegion_fetches (r : Nat) (x : Region) (b : Block) : (setRegion r x b).fetches = b.fetches := rfl
@[simp] theorem setRegion_work (r : Nat) (x : Region) (b : Block) : (setRegion r x b).work = b.work := rfl
@[simp] theorem setRegion_ahu (r : Nat) (x : Region) (b : Block) : (setRegion r x b).ahu = b.ahu := rfl
@[simp] theorem setRegion_ptu (r : Nat) (x : Region) (b : Block) : (setRegion r x b).ptu = b.ptu := rfl
@[simp] theorem setRegion_host (r : Nat) (x : Region) (b : Block) : (setRegion r x b).host = b.host := rfl
@[simp] theorem setRegion_rst (r : Nat) (x : Region) (b : Block) : (setRegion r x b).rst = b.rst := rfl
@[simp] theorem setRegion_sup (r : Nat) (x : Region) (b : Block) : (setRegion r x b).sup = b.sup := rfl
@[simp] theorem setRegion_i3c (r : Nat) (x : Region) (b : Block) : (setRegion r x b).i3c = b.i3c := rfl
@[simp] theorem setRegion_jtag (r : Nat) (x : Region) (b : Block) : (setRegion r x b).jtag = b.jtag := rfl
@[simp] theorem setRegion_tel (r : Nat) (x : Region) (b : Block) : (setRegion r x b).tel = b.tel := rfl
@[simp] theorem setRegion_lc (r : Nat) (x : Region) (b : Block) : (setRegion r x b).lc = b.lc := rfl
@[simp] theorem setRegion_ent (r : Nat) (x : Region) (b : Block) : (setRegion r x b).ent = b.ent := rfl
@[simp] theorem setRegion_out (r : Nat) (x : Region) (b : Block) : (setRegion r x b).out = b.out := rfl

@[simp] theorem modMePart_clk (n : Fin 8) (p : Part) (f : MePart → MePart) (b : Block) : (modMePart n p f b).clk = b.clk := rfl
@[simp] theorem modMePart_islands (n : Fin 8) (p : Part) (f : MePart → MePart) (b : Block) : (modMePart n p f b).islands = b.islands := rfl
@[simp] theorem modMePart_shim (n : Fin 8) (p : Part) (f : MePart → MePart) (b : Block) : (modMePart n p f b).shim = b.shim := rfl
@[simp] theorem modMePart_log (n : Fin 8) (p : Part) (f : MePart → MePart) (b : Block) : (modMePart n p f b).log = b.log := rfl
@[simp] theorem modMePart_ic (n : Fin 8) (p : Part) (f : MePart → MePart) (b : Block) : (modMePart n p f b).ic = b.ic := rfl
@[simp] theorem modMePart_ks (n : Fin 8) (p : Part) (f : MePart → MePart) (b : Block) : (modMePart n p f b).ks = b.ks := rfl
@[simp] theorem modMePart_parts (n : Fin 8) (p : Part) (f : MePart → MePart) (b : Block) : (modMePart n p f b).parts = b.parts := rfl
@[simp] theorem modMePart_tcLoad (n : Fin 8) (p : Part) (f : MePart → MePart) (b : Block) : (modMePart n p f b).tcLoad = b.tcLoad := rfl
@[simp] theorem modMePart_tcQueue (n : Fin 8) (p : Part) (f : MePart → MePart) (b : Block) : (modMePart n p f b).tcQueue = b.tcQueue := rfl
@[simp] theorem modMePart_adm (n : Fin 8) (p : Part) (f : MePart → MePart) (b : Block) : (modMePart n p f b).adm = b.adm := rfl
@[simp] theorem modMePart_ports (n : Fin 8) (p : Part) (f : MePart → MePart) (b : Block) : (modMePart n p f b).ports = b.ports := rfl
@[simp] theorem modMePart_pports (n : Fin 8) (p : Part) (f : MePart → MePart) (b : Block) : (modMePart n p f b).pports = b.pports := rfl
@[simp] theorem modMePart_lparts (n : Fin 8) (p : Part) (f : MePart → MePart) (b : Block) : (modMePart n p f b).lparts = b.lparts := rfl
@[simp] theorem modMePart_epochs (n : Fin 8) (p : Part) (f : MePart → MePart) (b : Block) : (modMePart n p f b).epochs = b.epochs := rfl
@[simp] theorem modMePart_vgroups (n : Fin 8) (p : Part) (f : MePart → MePart) (b : Block) : (modMePart n p f b).vgroups = b.vgroups := rfl
@[simp] theorem modMePart_regions (n : Fin 8) (p : Part) (f : MePart → MePart) (b : Block) : (modMePart n p f b).regions = b.regions := rfl
@[simp] theorem modMePart_mirrors (n : Fin 8) (p : Part) (f : MePart → MePart) (b : Block) : (modMePart n p f b).mirrors = b.mirrors := rfl
@[simp] theorem modMePart_marks (n : Fin 8) (p : Part) (f : MePart → MePart) (b : Block) : (modMePart n p f b).marks = b.marks := rfl
@[simp] theorem modMePart_mes (n : Fin 8) (p : Part) (f : MePart → MePart) (b : Block) : (modMePart n p f b).mes = b.mes := rfl
@[simp] theorem modMePart_memReqs (n : Fin 8) (p : Part) (f : MePart → MePart) (b : Block) : (modMePart n p f b).memReqs = b.memReqs := rfl
@[simp] theorem modMePart_bundles (n : Fin 8) (p : Part) (f : MePart → MePart) (b : Block) : (modMePart n p f b).bundles = b.bundles := rfl
@[simp] theorem modMePart_nextReq (n : Fin 8) (p : Part) (f : MePart → MePart) (b : Block) : (modMePart n p f b).nextReq = b.nextReq := rfl
@[simp] theorem modMePart_fetches (n : Fin 8) (p : Part) (f : MePart → MePart) (b : Block) : (modMePart n p f b).fetches = b.fetches := rfl
@[simp] theorem modMePart_work (n : Fin 8) (p : Part) (f : MePart → MePart) (b : Block) : (modMePart n p f b).work = b.work := rfl
@[simp] theorem modMePart_ahu (n : Fin 8) (p : Part) (f : MePart → MePart) (b : Block) : (modMePart n p f b).ahu = b.ahu := rfl
@[simp] theorem modMePart_ptu (n : Fin 8) (p : Part) (f : MePart → MePart) (b : Block) : (modMePart n p f b).ptu = b.ptu := rfl
@[simp] theorem modMePart_host (n : Fin 8) (p : Part) (f : MePart → MePart) (b : Block) : (modMePart n p f b).host = b.host := rfl
@[simp] theorem modMePart_rst (n : Fin 8) (p : Part) (f : MePart → MePart) (b : Block) : (modMePart n p f b).rst = b.rst := rfl
@[simp] theorem modMePart_sup (n : Fin 8) (p : Part) (f : MePart → MePart) (b : Block) : (modMePart n p f b).sup = b.sup := rfl
@[simp] theorem modMePart_i3c (n : Fin 8) (p : Part) (f : MePart → MePart) (b : Block) : (modMePart n p f b).i3c = b.i3c := rfl
@[simp] theorem modMePart_jtag (n : Fin 8) (p : Part) (f : MePart → MePart) (b : Block) : (modMePart n p f b).jtag = b.jtag := rfl
@[simp] theorem modMePart_tel (n : Fin 8) (p : Part) (f : MePart → MePart) (b : Block) : (modMePart n p f b).tel = b.tel := rfl
@[simp] theorem modMePart_lc (n : Fin 8) (p : Part) (f : MePart → MePart) (b : Block) : (modMePart n p f b).lc = b.lc := rfl
@[simp] theorem modMePart_ent (n : Fin 8) (p : Part) (f : MePart → MePart) (b : Block) : (modMePart n p f b).ent = b.ent := rfl
@[simp] theorem modMePart_out (n : Fin 8) (p : Part) (f : MePart → MePart) (b : Block) : (modMePart n p f b).out = b.out := rfl

@[simp] theorem modPtu_clk (p : Part) (f : PtuPart → PtuPart) (b : Block) : (modPtu p f b).clk = b.clk := rfl
@[simp] theorem modPtu_islands (p : Part) (f : PtuPart → PtuPart) (b : Block) : (modPtu p f b).islands = b.islands := rfl
@[simp] theorem modPtu_shim (p : Part) (f : PtuPart → PtuPart) (b : Block) : (modPtu p f b).shim = b.shim := rfl
@[simp] theorem modPtu_log (p : Part) (f : PtuPart → PtuPart) (b : Block) : (modPtu p f b).log = b.log := rfl
@[simp] theorem modPtu_ic (p : Part) (f : PtuPart → PtuPart) (b : Block) : (modPtu p f b).ic = b.ic := rfl
@[simp] theorem modPtu_ks (p : Part) (f : PtuPart → PtuPart) (b : Block) : (modPtu p f b).ks = b.ks := rfl
@[simp] theorem modPtu_parts (p : Part) (f : PtuPart → PtuPart) (b : Block) : (modPtu p f b).parts = b.parts := rfl
@[simp] theorem modPtu_tcLoad (p : Part) (f : PtuPart → PtuPart) (b : Block) : (modPtu p f b).tcLoad = b.tcLoad := rfl
@[simp] theorem modPtu_tcQueue (p : Part) (f : PtuPart → PtuPart) (b : Block) : (modPtu p f b).tcQueue = b.tcQueue := rfl
@[simp] theorem modPtu_adm (p : Part) (f : PtuPart → PtuPart) (b : Block) : (modPtu p f b).adm = b.adm := rfl
@[simp] theorem modPtu_ports (p : Part) (f : PtuPart → PtuPart) (b : Block) : (modPtu p f b).ports = b.ports := rfl
@[simp] theorem modPtu_pports (p : Part) (f : PtuPart → PtuPart) (b : Block) : (modPtu p f b).pports = b.pports := rfl
@[simp] theorem modPtu_lparts (p : Part) (f : PtuPart → PtuPart) (b : Block) : (modPtu p f b).lparts = b.lparts := rfl
@[simp] theorem modPtu_epochs (p : Part) (f : PtuPart → PtuPart) (b : Block) : (modPtu p f b).epochs = b.epochs := rfl
@[simp] theorem modPtu_vgroups (p : Part) (f : PtuPart → PtuPart) (b : Block) : (modPtu p f b).vgroups = b.vgroups := rfl
@[simp] theorem modPtu_regions (p : Part) (f : PtuPart → PtuPart) (b : Block) : (modPtu p f b).regions = b.regions := rfl
@[simp] theorem modPtu_mirrors (p : Part) (f : PtuPart → PtuPart) (b : Block) : (modPtu p f b).mirrors = b.mirrors := rfl
@[simp] theorem modPtu_marks (p : Part) (f : PtuPart → PtuPart) (b : Block) : (modPtu p f b).marks = b.marks := rfl
@[simp] theorem modPtu_mes (p : Part) (f : PtuPart → PtuPart) (b : Block) : (modPtu p f b).mes = b.mes := rfl
@[simp] theorem modPtu_meparts (p : Part) (f : PtuPart → PtuPart) (b : Block) : (modPtu p f b).meparts = b.meparts := rfl
@[simp] theorem modPtu_memReqs (p : Part) (f : PtuPart → PtuPart) (b : Block) : (modPtu p f b).memReqs = b.memReqs := rfl
@[simp] theorem modPtu_bundles (p : Part) (f : PtuPart → PtuPart) (b : Block) : (modPtu p f b).bundles = b.bundles := rfl
@[simp] theorem modPtu_nextReq (p : Part) (f : PtuPart → PtuPart) (b : Block) : (modPtu p f b).nextReq = b.nextReq := rfl
@[simp] theorem modPtu_fetches (p : Part) (f : PtuPart → PtuPart) (b : Block) : (modPtu p f b).fetches = b.fetches := rfl
@[simp] theorem modPtu_work (p : Part) (f : PtuPart → PtuPart) (b : Block) : (modPtu p f b).work = b.work := rfl
@[simp] theorem modPtu_ahu (p : Part) (f : PtuPart → PtuPart) (b : Block) : (modPtu p f b).ahu = b.ahu := rfl
@[simp] theorem modPtu_host (p : Part) (f : PtuPart → PtuPart) (b : Block) : (modPtu p f b).host = b.host := rfl
@[simp] theorem modPtu_rst (p : Part) (f : PtuPart → PtuPart) (b : Block) : (modPtu p f b).rst = b.rst := rfl
@[simp] theorem modPtu_sup (p : Part) (f : PtuPart → PtuPart) (b : Block) : (modPtu p f b).sup = b.sup := rfl
@[simp] theorem modPtu_i3c (p : Part) (f : PtuPart → PtuPart) (b : Block) : (modPtu p f b).i3c = b.i3c := rfl
@[simp] theorem modPtu_jtag (p : Part) (f : PtuPart → PtuPart) (b : Block) : (modPtu p f b).jtag = b.jtag := rfl
@[simp] theorem modPtu_tel (p : Part) (f : PtuPart → PtuPart) (b : Block) : (modPtu p f b).tel = b.tel := rfl
@[simp] theorem modPtu_lc (p : Part) (f : PtuPart → PtuPart) (b : Block) : (modPtu p f b).lc = b.lc := rfl
@[simp] theorem modPtu_ent (p : Part) (f : PtuPart → PtuPart) (b : Block) : (modPtu p f b).ent = b.ent := rfl
@[simp] theorem modPtu_out (p : Part) (f : PtuPart → PtuPart) (b : Block) : (modPtu p f b).out = b.out := rfl

@[simp] theorem modIcPage_clk (k : Nat) (f : IcPage → IcPage) (b : Block) : (modIcPage k f b).clk = b.clk := rfl
@[simp] theorem modIcPage_islands (k : Nat) (f : IcPage → IcPage) (b : Block) : (modIcPage k f b).islands = b.islands := rfl
@[simp] theorem modIcPage_shim (k : Nat) (f : IcPage → IcPage) (b : Block) : (modIcPage k f b).shim = b.shim := rfl
@[simp] theorem modIcPage_log (k : Nat) (f : IcPage → IcPage) (b : Block) : (modIcPage k f b).log = b.log := rfl
@[simp] theorem modIcPage_ks (k : Nat) (f : IcPage → IcPage) (b : Block) : (modIcPage k f b).ks = b.ks := rfl
@[simp] theorem modIcPage_parts (k : Nat) (f : IcPage → IcPage) (b : Block) : (modIcPage k f b).parts = b.parts := rfl
@[simp] theorem modIcPage_tcLoad (k : Nat) (f : IcPage → IcPage) (b : Block) : (modIcPage k f b).tcLoad = b.tcLoad := rfl
@[simp] theorem modIcPage_tcQueue (k : Nat) (f : IcPage → IcPage) (b : Block) : (modIcPage k f b).tcQueue = b.tcQueue := rfl
@[simp] theorem modIcPage_adm (k : Nat) (f : IcPage → IcPage) (b : Block) : (modIcPage k f b).adm = b.adm := rfl
@[simp] theorem modIcPage_ports (k : Nat) (f : IcPage → IcPage) (b : Block) : (modIcPage k f b).ports = b.ports := rfl
@[simp] theorem modIcPage_pports (k : Nat) (f : IcPage → IcPage) (b : Block) : (modIcPage k f b).pports = b.pports := rfl
@[simp] theorem modIcPage_lparts (k : Nat) (f : IcPage → IcPage) (b : Block) : (modIcPage k f b).lparts = b.lparts := rfl
@[simp] theorem modIcPage_epochs (k : Nat) (f : IcPage → IcPage) (b : Block) : (modIcPage k f b).epochs = b.epochs := rfl
@[simp] theorem modIcPage_vgroups (k : Nat) (f : IcPage → IcPage) (b : Block) : (modIcPage k f b).vgroups = b.vgroups := rfl
@[simp] theorem modIcPage_regions (k : Nat) (f : IcPage → IcPage) (b : Block) : (modIcPage k f b).regions = b.regions := rfl
@[simp] theorem modIcPage_mirrors (k : Nat) (f : IcPage → IcPage) (b : Block) : (modIcPage k f b).mirrors = b.mirrors := rfl
@[simp] theorem modIcPage_marks (k : Nat) (f : IcPage → IcPage) (b : Block) : (modIcPage k f b).marks = b.marks := rfl
@[simp] theorem modIcPage_mes (k : Nat) (f : IcPage → IcPage) (b : Block) : (modIcPage k f b).mes = b.mes := rfl
@[simp] theorem modIcPage_meparts (k : Nat) (f : IcPage → IcPage) (b : Block) : (modIcPage k f b).meparts = b.meparts := rfl
@[simp] theorem modIcPage_memReqs (k : Nat) (f : IcPage → IcPage) (b : Block) : (modIcPage k f b).memReqs = b.memReqs := rfl
@[simp] theorem modIcPage_bundles (k : Nat) (f : IcPage → IcPage) (b : Block) : (modIcPage k f b).bundles = b.bundles := rfl
@[simp] theorem modIcPage_nextReq (k : Nat) (f : IcPage → IcPage) (b : Block) : (modIcPage k f b).nextReq = b.nextReq := rfl
@[simp] theorem modIcPage_fetches (k : Nat) (f : IcPage → IcPage) (b : Block) : (modIcPage k f b).fetches = b.fetches := rfl
@[simp] theorem modIcPage_work (k : Nat) (f : IcPage → IcPage) (b : Block) : (modIcPage k f b).work = b.work := rfl
@[simp] theorem modIcPage_ahu (k : Nat) (f : IcPage → IcPage) (b : Block) : (modIcPage k f b).ahu = b.ahu := rfl
@[simp] theorem modIcPage_ptu (k : Nat) (f : IcPage → IcPage) (b : Block) : (modIcPage k f b).ptu = b.ptu := rfl
@[simp] theorem modIcPage_host (k : Nat) (f : IcPage → IcPage) (b : Block) : (modIcPage k f b).host = b.host := rfl
@[simp] theorem modIcPage_rst (k : Nat) (f : IcPage → IcPage) (b : Block) : (modIcPage k f b).rst = b.rst := rfl
@[simp] theorem modIcPage_sup (k : Nat) (f : IcPage → IcPage) (b : Block) : (modIcPage k f b).sup = b.sup := rfl
@[simp] theorem modIcPage_i3c (k : Nat) (f : IcPage → IcPage) (b : Block) : (modIcPage k f b).i3c = b.i3c := rfl
@[simp] theorem modIcPage_jtag (k : Nat) (f : IcPage → IcPage) (b : Block) : (modIcPage k f b).jtag = b.jtag := rfl
@[simp] theorem modIcPage_tel (k : Nat) (f : IcPage → IcPage) (b : Block) : (modIcPage k f b).tel = b.tel := rfl
@[simp] theorem modIcPage_lc (k : Nat) (f : IcPage → IcPage) (b : Block) : (modIcPage k f b).lc = b.lc := rfl
@[simp] theorem modIcPage_ent (k : Nat) (f : IcPage → IcPage) (b : Block) : (modIcPage k f b).ent = b.ent := rfl
@[simp] theorem modIcPage_out (k : Nat) (f : IcPage → IcPage) (b : Block) : (modIcPage k f b).out = b.out := rfl

@[simp] theorem modLogPage_clk (k : Nat) (f : LogPage → LogPage) (b : Block) : (modLogPage k f b).clk = b.clk := rfl
@[simp] theorem modLogPage_islands (k : Nat) (f : LogPage → LogPage) (b : Block) : (modLogPage k f b).islands = b.islands := rfl
@[simp] theorem modLogPage_shim (k : Nat) (f : LogPage → LogPage) (b : Block) : (modLogPage k f b).shim = b.shim := rfl
@[simp] theorem modLogPage_ic (k : Nat) (f : LogPage → LogPage) (b : Block) : (modLogPage k f b).ic = b.ic := rfl
@[simp] theorem modLogPage_ks (k : Nat) (f : LogPage → LogPage) (b : Block) : (modLogPage k f b).ks = b.ks := rfl
@[simp] theorem modLogPage_parts (k : Nat) (f : LogPage → LogPage) (b : Block) : (modLogPage k f b).parts = b.parts := rfl
@[simp] theorem modLogPage_tcLoad (k : Nat) (f : LogPage → LogPage) (b : Block) : (modLogPage k f b).tcLoad = b.tcLoad := rfl
@[simp] theorem modLogPage_tcQueue (k : Nat) (f : LogPage → LogPage) (b : Block) : (modLogPage k f b).tcQueue = b.tcQueue := rfl
@[simp] theorem modLogPage_adm (k : Nat) (f : LogPage → LogPage) (b : Block) : (modLogPage k f b).adm = b.adm := rfl
@[simp] theorem modLogPage_ports (k : Nat) (f : LogPage → LogPage) (b : Block) : (modLogPage k f b).ports = b.ports := rfl
@[simp] theorem modLogPage_pports (k : Nat) (f : LogPage → LogPage) (b : Block) : (modLogPage k f b).pports = b.pports := rfl
@[simp] theorem modLogPage_lparts (k : Nat) (f : LogPage → LogPage) (b : Block) : (modLogPage k f b).lparts = b.lparts := rfl
@[simp] theorem modLogPage_epochs (k : Nat) (f : LogPage → LogPage) (b : Block) : (modLogPage k f b).epochs = b.epochs := rfl
@[simp] theorem modLogPage_vgroups (k : Nat) (f : LogPage → LogPage) (b : Block) : (modLogPage k f b).vgroups = b.vgroups := rfl
@[simp] theorem modLogPage_regions (k : Nat) (f : LogPage → LogPage) (b : Block) : (modLogPage k f b).regions = b.regions := rfl
@[simp] theorem modLogPage_mirrors (k : Nat) (f : LogPage → LogPage) (b : Block) : (modLogPage k f b).mirrors = b.mirrors := rfl
@[simp] theorem modLogPage_marks (k : Nat) (f : LogPage → LogPage) (b : Block) : (modLogPage k f b).marks = b.marks := rfl
@[simp] theorem modLogPage_mes (k : Nat) (f : LogPage → LogPage) (b : Block) : (modLogPage k f b).mes = b.mes := rfl
@[simp] theorem modLogPage_meparts (k : Nat) (f : LogPage → LogPage) (b : Block) : (modLogPage k f b).meparts = b.meparts := rfl
@[simp] theorem modLogPage_memReqs (k : Nat) (f : LogPage → LogPage) (b : Block) : (modLogPage k f b).memReqs = b.memReqs := rfl
@[simp] theorem modLogPage_bundles (k : Nat) (f : LogPage → LogPage) (b : Block) : (modLogPage k f b).bundles = b.bundles := rfl
@[simp] theorem modLogPage_nextReq (k : Nat) (f : LogPage → LogPage) (b : Block) : (modLogPage k f b).nextReq = b.nextReq := rfl
@[simp] theorem modLogPage_fetches (k : Nat) (f : LogPage → LogPage) (b : Block) : (modLogPage k f b).fetches = b.fetches := rfl
@[simp] theorem modLogPage_work (k : Nat) (f : LogPage → LogPage) (b : Block) : (modLogPage k f b).work = b.work := rfl
@[simp] theorem modLogPage_ahu (k : Nat) (f : LogPage → LogPage) (b : Block) : (modLogPage k f b).ahu = b.ahu := rfl
@[simp] theorem modLogPage_ptu (k : Nat) (f : LogPage → LogPage) (b : Block) : (modLogPage k f b).ptu = b.ptu := rfl
@[simp] theorem modLogPage_host (k : Nat) (f : LogPage → LogPage) (b : Block) : (modLogPage k f b).host = b.host := rfl
@[simp] theorem modLogPage_rst (k : Nat) (f : LogPage → LogPage) (b : Block) : (modLogPage k f b).rst = b.rst := rfl
@[simp] theorem modLogPage_sup (k : Nat) (f : LogPage → LogPage) (b : Block) : (modLogPage k f b).sup = b.sup := rfl
@[simp] theorem modLogPage_i3c (k : Nat) (f : LogPage → LogPage) (b : Block) : (modLogPage k f b).i3c = b.i3c := rfl
@[simp] theorem modLogPage_jtag (k : Nat) (f : LogPage → LogPage) (b : Block) : (modLogPage k f b).jtag = b.jtag := rfl
@[simp] theorem modLogPage_tel (k : Nat) (f : LogPage → LogPage) (b : Block) : (modLogPage k f b).tel = b.tel := rfl
@[simp] theorem modLogPage_lc (k : Nat) (f : LogPage → LogPage) (b : Block) : (modLogPage k f b).lc = b.lc := rfl
@[simp] theorem modLogPage_ent (k : Nat) (f : LogPage → LogPage) (b : Block) : (modLogPage k f b).ent = b.ent := rfl
@[simp] theorem modLogPage_out (k : Nat) (f : LogPage → LogPage) (b : Block) : (modLogPage k f b).out = b.out := rfl

@[simp] theorem setSlot_clk (n : Nat) (k : KeySlot) (b : Block) : (setSlot n k b).clk = b.clk := rfl
@[simp] theorem setSlot_islands (n : Nat) (k : KeySlot) (b : Block) : (setSlot n k b).islands = b.islands := rfl
@[simp] theorem setSlot_shim (n : Nat) (k : KeySlot) (b : Block) : (setSlot n k b).shim = b.shim := rfl
@[simp] theorem setSlot_log (n : Nat) (k : KeySlot) (b : Block) : (setSlot n k b).log = b.log := rfl
@[simp] theorem setSlot_ic (n : Nat) (k : KeySlot) (b : Block) : (setSlot n k b).ic = b.ic := rfl
@[simp] theorem setSlot_parts (n : Nat) (k : KeySlot) (b : Block) : (setSlot n k b).parts = b.parts := rfl
@[simp] theorem setSlot_tcLoad (n : Nat) (k : KeySlot) (b : Block) : (setSlot n k b).tcLoad = b.tcLoad := rfl
@[simp] theorem setSlot_tcQueue (n : Nat) (k : KeySlot) (b : Block) : (setSlot n k b).tcQueue = b.tcQueue := rfl
@[simp] theorem setSlot_adm (n : Nat) (k : KeySlot) (b : Block) : (setSlot n k b).adm = b.adm := rfl
@[simp] theorem setSlot_ports (n : Nat) (k : KeySlot) (b : Block) : (setSlot n k b).ports = b.ports := rfl
@[simp] theorem setSlot_pports (n : Nat) (k : KeySlot) (b : Block) : (setSlot n k b).pports = b.pports := rfl
@[simp] theorem setSlot_lparts (n : Nat) (k : KeySlot) (b : Block) : (setSlot n k b).lparts = b.lparts := rfl
@[simp] theorem setSlot_epochs (n : Nat) (k : KeySlot) (b : Block) : (setSlot n k b).epochs = b.epochs := rfl
@[simp] theorem setSlot_vgroups (n : Nat) (k : KeySlot) (b : Block) : (setSlot n k b).vgroups = b.vgroups := rfl
@[simp] theorem setSlot_regions (n : Nat) (k : KeySlot) (b : Block) : (setSlot n k b).regions = b.regions := rfl
@[simp] theorem setSlot_mirrors (n : Nat) (k : KeySlot) (b : Block) : (setSlot n k b).mirrors = b.mirrors := rfl
@[simp] theorem setSlot_marks (n : Nat) (k : KeySlot) (b : Block) : (setSlot n k b).marks = b.marks := rfl
@[simp] theorem setSlot_mes (n : Nat) (k : KeySlot) (b : Block) : (setSlot n k b).mes = b.mes := rfl
@[simp] theorem setSlot_meparts (n : Nat) (k : KeySlot) (b : Block) : (setSlot n k b).meparts = b.meparts := rfl
@[simp] theorem setSlot_memReqs (n : Nat) (k : KeySlot) (b : Block) : (setSlot n k b).memReqs = b.memReqs := rfl
@[simp] theorem setSlot_bundles (n : Nat) (k : KeySlot) (b : Block) : (setSlot n k b).bundles = b.bundles := rfl
@[simp] theorem setSlot_nextReq (n : Nat) (k : KeySlot) (b : Block) : (setSlot n k b).nextReq = b.nextReq := rfl
@[simp] theorem setSlot_fetches (n : Nat) (k : KeySlot) (b : Block) : (setSlot n k b).fetches = b.fetches := rfl
@[simp] theorem setSlot_work (n : Nat) (k : KeySlot) (b : Block) : (setSlot n k b).work = b.work := rfl
@[simp] theorem setSlot_ahu (n : Nat) (k : KeySlot) (b : Block) : (setSlot n k b).ahu = b.ahu := rfl
@[simp] theorem setSlot_ptu (n : Nat) (k : KeySlot) (b : Block) : (setSlot n k b).ptu = b.ptu := rfl
@[simp] theorem setSlot_host (n : Nat) (k : KeySlot) (b : Block) : (setSlot n k b).host = b.host := rfl
@[simp] theorem setSlot_rst (n : Nat) (k : KeySlot) (b : Block) : (setSlot n k b).rst = b.rst := rfl
@[simp] theorem setSlot_sup (n : Nat) (k : KeySlot) (b : Block) : (setSlot n k b).sup = b.sup := rfl
@[simp] theorem setSlot_i3c (n : Nat) (k : KeySlot) (b : Block) : (setSlot n k b).i3c = b.i3c := rfl
@[simp] theorem setSlot_jtag (n : Nat) (k : KeySlot) (b : Block) : (setSlot n k b).jtag = b.jtag := rfl
@[simp] theorem setSlot_tel (n : Nat) (k : KeySlot) (b : Block) : (setSlot n k b).tel = b.tel := rfl
@[simp] theorem setSlot_lc (n : Nat) (k : KeySlot) (b : Block) : (setSlot n k b).lc = b.lc := rfl
@[simp] theorem setSlot_ent (n : Nat) (k : KeySlot) (b : Block) : (setSlot n k b).ent = b.ent := rfl
@[simp] theorem setSlot_out (n : Nat) (k : KeySlot) (b : Block) : (setSlot n k b).out = b.out := rfl

@[simp] theorem setLc_clk (f : Lc → Lc) (b : Block) : (setLc f b).clk = b.clk := rfl
@[simp] theorem setLc_islands (f : Lc → Lc) (b : Block) : (setLc f b).islands = b.islands := rfl
@[simp] theorem setLc_shim (f : Lc → Lc) (b : Block) : (setLc f b).shim = b.shim := rfl
@[simp] theorem setLc_log (f : Lc → Lc) (b : Block) : (setLc f b).log = b.log := rfl
@[simp] theorem setLc_ic (f : Lc → Lc) (b : Block) : (setLc f b).ic = b.ic := rfl
@[simp] theorem setLc_ks (f : Lc → Lc) (b : Block) : (setLc f b).ks = b.ks := rfl
@[simp] theorem setLc_parts (f : Lc → Lc) (b : Block) : (setLc f b).parts = b.parts := rfl
@[simp] theorem setLc_tcLoad (f : Lc → Lc) (b : Block) : (setLc f b).tcLoad = b.tcLoad := rfl
@[simp] theorem setLc_tcQueue (f : Lc → Lc) (b : Block) : (setLc f b).tcQueue = b.tcQueue := rfl
@[simp] theorem setLc_adm (f : Lc → Lc) (b : Block) : (setLc f b).adm = b.adm := rfl
@[simp] theorem setLc_ports (f : Lc → Lc) (b : Block) : (setLc f b).ports = b.ports := rfl
@[simp] theorem setLc_pports (f : Lc → Lc) (b : Block) : (setLc f b).pports = b.pports := rfl
@[simp] theorem setLc_lparts (f : Lc → Lc) (b : Block) : (setLc f b).lparts = b.lparts := rfl
@[simp] theorem setLc_epochs (f : Lc → Lc) (b : Block) : (setLc f b).epochs = b.epochs := rfl
@[simp] theorem setLc_vgroups (f : Lc → Lc) (b : Block) : (setLc f b).vgroups = b.vgroups := rfl
@[simp] theorem setLc_regions (f : Lc → Lc) (b : Block) : (setLc f b).regions = b.regions := rfl
@[simp] theorem setLc_mirrors (f : Lc → Lc) (b : Block) : (setLc f b).mirrors = b.mirrors := rfl
@[simp] theorem setLc_marks (f : Lc → Lc) (b : Block) : (setLc f b).marks = b.marks := rfl
@[simp] theorem setLc_mes (f : Lc → Lc) (b : Block) : (setLc f b).mes = b.mes := rfl
@[simp] theorem setLc_meparts (f : Lc → Lc) (b : Block) : (setLc f b).meparts = b.meparts := rfl
@[simp] theorem setLc_memReqs (f : Lc → Lc) (b : Block) : (setLc f b).memReqs = b.memReqs := rfl
@[simp] theorem setLc_bundles (f : Lc → Lc) (b : Block) : (setLc f b).bundles = b.bundles := rfl
@[simp] theorem setLc_nextReq (f : Lc → Lc) (b : Block) : (setLc f b).nextReq = b.nextReq := rfl
@[simp] theorem setLc_fetches (f : Lc → Lc) (b : Block) : (setLc f b).fetches = b.fetches := rfl
@[simp] theorem setLc_work (f : Lc → Lc) (b : Block) : (setLc f b).work = b.work := rfl
@[simp] theorem setLc_ahu (f : Lc → Lc) (b : Block) : (setLc f b).ahu = b.ahu := rfl
@[simp] theorem setLc_ptu (f : Lc → Lc) (b : Block) : (setLc f b).ptu = b.ptu := rfl
@[simp] theorem setLc_host (f : Lc → Lc) (b : Block) : (setLc f b).host = b.host := rfl
@[simp] theorem setLc_rst (f : Lc → Lc) (b : Block) : (setLc f b).rst = b.rst := rfl
@[simp] theorem setLc_sup (f : Lc → Lc) (b : Block) : (setLc f b).sup = b.sup := rfl
@[simp] theorem setLc_i3c (f : Lc → Lc) (b : Block) : (setLc f b).i3c = b.i3c := rfl
@[simp] theorem setLc_jtag (f : Lc → Lc) (b : Block) : (setLc f b).jtag = b.jtag := rfl
@[simp] theorem setLc_tel (f : Lc → Lc) (b : Block) : (setLc f b).tel = b.tel := rfl
@[simp] theorem setLc_ent (f : Lc → Lc) (b : Block) : (setLc f b).ent = b.ent := rfl
@[simp] theorem setLc_out (f : Lc → Lc) (b : Block) : (setLc f b).out = b.out := rfl

@[simp] theorem modPort_clk (k : Port) (f : PortSt → PortSt) (b : Block) : (modPort k f b).clk = b.clk := rfl
@[simp] theorem modPort_islands (k : Port) (f : PortSt → PortSt) (b : Block) : (modPort k f b).islands = b.islands := rfl
@[simp] theorem modPort_shim (k : Port) (f : PortSt → PortSt) (b : Block) : (modPort k f b).shim = b.shim := rfl
@[simp] theorem modPort_log (k : Port) (f : PortSt → PortSt) (b : Block) : (modPort k f b).log = b.log := rfl
@[simp] theorem modPort_ic (k : Port) (f : PortSt → PortSt) (b : Block) : (modPort k f b).ic = b.ic := rfl
@[simp] theorem modPort_ks (k : Port) (f : PortSt → PortSt) (b : Block) : (modPort k f b).ks = b.ks := rfl
@[simp] theorem modPort_parts (k : Port) (f : PortSt → PortSt) (b : Block) : (modPort k f b).parts = b.parts := rfl
@[simp] theorem modPort_tcLoad (k : Port) (f : PortSt → PortSt) (b : Block) : (modPort k f b).tcLoad = b.tcLoad := rfl
@[simp] theorem modPort_tcQueue (k : Port) (f : PortSt → PortSt) (b : Block) : (modPort k f b).tcQueue = b.tcQueue := rfl
@[simp] theorem modPort_adm (k : Port) (f : PortSt → PortSt) (b : Block) : (modPort k f b).adm = b.adm := rfl
@[simp] theorem modPort_pports (k : Port) (f : PortSt → PortSt) (b : Block) : (modPort k f b).pports = b.pports := rfl
@[simp] theorem modPort_lparts (k : Port) (f : PortSt → PortSt) (b : Block) : (modPort k f b).lparts = b.lparts := rfl
@[simp] theorem modPort_epochs (k : Port) (f : PortSt → PortSt) (b : Block) : (modPort k f b).epochs = b.epochs := rfl
@[simp] theorem modPort_vgroups (k : Port) (f : PortSt → PortSt) (b : Block) : (modPort k f b).vgroups = b.vgroups := rfl
@[simp] theorem modPort_regions (k : Port) (f : PortSt → PortSt) (b : Block) : (modPort k f b).regions = b.regions := rfl
@[simp] theorem modPort_mirrors (k : Port) (f : PortSt → PortSt) (b : Block) : (modPort k f b).mirrors = b.mirrors := rfl
@[simp] theorem modPort_marks (k : Port) (f : PortSt → PortSt) (b : Block) : (modPort k f b).marks = b.marks := rfl
@[simp] theorem modPort_mes (k : Port) (f : PortSt → PortSt) (b : Block) : (modPort k f b).mes = b.mes := rfl
@[simp] theorem modPort_meparts (k : Port) (f : PortSt → PortSt) (b : Block) : (modPort k f b).meparts = b.meparts := rfl
@[simp] theorem modPort_memReqs (k : Port) (f : PortSt → PortSt) (b : Block) : (modPort k f b).memReqs = b.memReqs := rfl
@[simp] theorem modPort_bundles (k : Port) (f : PortSt → PortSt) (b : Block) : (modPort k f b).bundles = b.bundles := rfl
@[simp] theorem modPort_nextReq (k : Port) (f : PortSt → PortSt) (b : Block) : (modPort k f b).nextReq = b.nextReq := rfl
@[simp] theorem modPort_fetches (k : Port) (f : PortSt → PortSt) (b : Block) : (modPort k f b).fetches = b.fetches := rfl
@[simp] theorem modPort_work (k : Port) (f : PortSt → PortSt) (b : Block) : (modPort k f b).work = b.work := rfl
@[simp] theorem modPort_ahu (k : Port) (f : PortSt → PortSt) (b : Block) : (modPort k f b).ahu = b.ahu := rfl
@[simp] theorem modPort_ptu (k : Port) (f : PortSt → PortSt) (b : Block) : (modPort k f b).ptu = b.ptu := rfl
@[simp] theorem modPort_host (k : Port) (f : PortSt → PortSt) (b : Block) : (modPort k f b).host = b.host := rfl
@[simp] theorem modPort_rst (k : Port) (f : PortSt → PortSt) (b : Block) : (modPort k f b).rst = b.rst := rfl
@[simp] theorem modPort_sup (k : Port) (f : PortSt → PortSt) (b : Block) : (modPort k f b).sup = b.sup := rfl
@[simp] theorem modPort_i3c (k : Port) (f : PortSt → PortSt) (b : Block) : (modPort k f b).i3c = b.i3c := rfl
@[simp] theorem modPort_jtag (k : Port) (f : PortSt → PortSt) (b : Block) : (modPort k f b).jtag = b.jtag := rfl
@[simp] theorem modPort_tel (k : Port) (f : PortSt → PortSt) (b : Block) : (modPort k f b).tel = b.tel := rfl
@[simp] theorem modPort_lc (k : Port) (f : PortSt → PortSt) (b : Block) : (modPort k f b).lc = b.lc := rfl
@[simp] theorem modPort_ent (k : Port) (f : PortSt → PortSt) (b : Block) : (modPort k f b).ent = b.ent := rfl
@[simp] theorem modPort_out (k : Port) (f : PortSt → PortSt) (b : Block) : (modPort k f b).out = b.out := rfl

@[simp] theorem modPortPart_clk (k : Port) (p : Part) (f : PortPart → PortPart) (b : Block) : (modPortPart k p f b).clk = b.clk := rfl
@[simp] theorem modPortPart_islands (k : Port) (p : Part) (f : PortPart → PortPart) (b : Block) : (modPortPart k p f b).islands = b.islands := rfl
@[simp] theorem modPortPart_shim (k : Port) (p : Part) (f : PortPart → PortPart) (b : Block) : (modPortPart k p f b).shim = b.shim := rfl
@[simp] theorem modPortPart_log (k : Port) (p : Part) (f : PortPart → PortPart) (b : Block) : (modPortPart k p f b).log = b.log := rfl
@[simp] theorem modPortPart_ic (k : Port) (p : Part) (f : PortPart → PortPart) (b : Block) : (modPortPart k p f b).ic = b.ic := rfl
@[simp] theorem modPortPart_ks (k : Port) (p : Part) (f : PortPart → PortPart) (b : Block) : (modPortPart k p f b).ks = b.ks := rfl
@[simp] theorem modPortPart_parts (k : Port) (p : Part) (f : PortPart → PortPart) (b : Block) : (modPortPart k p f b).parts = b.parts := rfl
@[simp] theorem modPortPart_tcLoad (k : Port) (p : Part) (f : PortPart → PortPart) (b : Block) : (modPortPart k p f b).tcLoad = b.tcLoad := rfl
@[simp] theorem modPortPart_tcQueue (k : Port) (p : Part) (f : PortPart → PortPart) (b : Block) : (modPortPart k p f b).tcQueue = b.tcQueue := rfl
@[simp] theorem modPortPart_adm (k : Port) (p : Part) (f : PortPart → PortPart) (b : Block) : (modPortPart k p f b).adm = b.adm := rfl
@[simp] theorem modPortPart_ports (k : Port) (p : Part) (f : PortPart → PortPart) (b : Block) : (modPortPart k p f b).ports = b.ports := rfl
@[simp] theorem modPortPart_lparts (k : Port) (p : Part) (f : PortPart → PortPart) (b : Block) : (modPortPart k p f b).lparts = b.lparts := rfl
@[simp] theorem modPortPart_epochs (k : Port) (p : Part) (f : PortPart → PortPart) (b : Block) : (modPortPart k p f b).epochs = b.epochs := rfl
@[simp] theorem modPortPart_vgroups (k : Port) (p : Part) (f : PortPart → PortPart) (b : Block) : (modPortPart k p f b).vgroups = b.vgroups := rfl
@[simp] theorem modPortPart_regions (k : Port) (p : Part) (f : PortPart → PortPart) (b : Block) : (modPortPart k p f b).regions = b.regions := rfl
@[simp] theorem modPortPart_mirrors (k : Port) (p : Part) (f : PortPart → PortPart) (b : Block) : (modPortPart k p f b).mirrors = b.mirrors := rfl
@[simp] theorem modPortPart_marks (k : Port) (p : Part) (f : PortPart → PortPart) (b : Block) : (modPortPart k p f b).marks = b.marks := rfl
@[simp] theorem modPortPart_mes (k : Port) (p : Part) (f : PortPart → PortPart) (b : Block) : (modPortPart k p f b).mes = b.mes := rfl
@[simp] theorem modPortPart_meparts (k : Port) (p : Part) (f : PortPart → PortPart) (b : Block) : (modPortPart k p f b).meparts = b.meparts := rfl
@[simp] theorem modPortPart_memReqs (k : Port) (p : Part) (f : PortPart → PortPart) (b : Block) : (modPortPart k p f b).memReqs = b.memReqs := rfl
@[simp] theorem modPortPart_bundles (k : Port) (p : Part) (f : PortPart → PortPart) (b : Block) : (modPortPart k p f b).bundles = b.bundles := rfl
@[simp] theorem modPortPart_nextReq (k : Port) (p : Part) (f : PortPart → PortPart) (b : Block) : (modPortPart k p f b).nextReq = b.nextReq := rfl
@[simp] theorem modPortPart_fetches (k : Port) (p : Part) (f : PortPart → PortPart) (b : Block) : (modPortPart k p f b).fetches = b.fetches := rfl
@[simp] theorem modPortPart_work (k : Port) (p : Part) (f : PortPart → PortPart) (b : Block) : (modPortPart k p f b).work = b.work := rfl
@[simp] theorem modPortPart_ahu (k : Port) (p : Part) (f : PortPart → PortPart) (b : Block) : (modPortPart k p f b).ahu = b.ahu := rfl
@[simp] theorem modPortPart_ptu (k : Port) (p : Part) (f : PortPart → PortPart) (b : Block) : (modPortPart k p f b).ptu = b.ptu := rfl
@[simp] theorem modPortPart_host (k : Port) (p : Part) (f : PortPart → PortPart) (b : Block) : (modPortPart k p f b).host = b.host := rfl
@[simp] theorem modPortPart_rst (k : Port) (p : Part) (f : PortPart → PortPart) (b : Block) : (modPortPart k p f b).rst = b.rst := rfl
@[simp] theorem modPortPart_sup (k : Port) (p : Part) (f : PortPart → PortPart) (b : Block) : (modPortPart k p f b).sup = b.sup := rfl
@[simp] theorem modPortPart_i3c (k : Port) (p : Part) (f : PortPart → PortPart) (b : Block) : (modPortPart k p f b).i3c = b.i3c := rfl
@[simp] theorem modPortPart_jtag (k : Port) (p : Part) (f : PortPart → PortPart) (b : Block) : (modPortPart k p f b).jtag = b.jtag := rfl
@[simp] theorem modPortPart_tel (k : Port) (p : Part) (f : PortPart → PortPart) (b : Block) : (modPortPart k p f b).tel = b.tel := rfl
@[simp] theorem modPortPart_lc (k : Port) (p : Part) (f : PortPart → PortPart) (b : Block) : (modPortPart k p f b).lc = b.lc := rfl
@[simp] theorem modPortPart_ent (k : Port) (p : Part) (f : PortPart → PortPart) (b : Block) : (modPortPart k p f b).ent = b.ent := rfl
@[simp] theorem modPortPart_out (k : Port) (p : Part) (f : PortPart → PortPart) (b : Block) : (modPortPart k p f b).out = b.out := rfl

@[simp] theorem modLePart_clk (n : Fin 16) (p : Part) (f : LePart → LePart) (b : Block) : (modLePart n p f b).clk = b.clk := rfl
@[simp] theorem modLePart_islands (n : Fin 16) (p : Part) (f : LePart → LePart) (b : Block) : (modLePart n p f b).islands = b.islands := rfl
@[simp] theorem modLePart_shim (n : Fin 16) (p : Part) (f : LePart → LePart) (b : Block) : (modLePart n p f b).shim = b.shim := rfl
@[simp] theorem modLePart_log (n : Fin 16) (p : Part) (f : LePart → LePart) (b : Block) : (modLePart n p f b).log = b.log := rfl
@[simp] theorem modLePart_ic (n : Fin 16) (p : Part) (f : LePart → LePart) (b : Block) : (modLePart n p f b).ic = b.ic := rfl
@[simp] theorem modLePart_ks (n : Fin 16) (p : Part) (f : LePart → LePart) (b : Block) : (modLePart n p f b).ks = b.ks := rfl
@[simp] theorem modLePart_parts (n : Fin 16) (p : Part) (f : LePart → LePart) (b : Block) : (modLePart n p f b).parts = b.parts := rfl
@[simp] theorem modLePart_tcLoad (n : Fin 16) (p : Part) (f : LePart → LePart) (b : Block) : (modLePart n p f b).tcLoad = b.tcLoad := rfl
@[simp] theorem modLePart_tcQueue (n : Fin 16) (p : Part) (f : LePart → LePart) (b : Block) : (modLePart n p f b).tcQueue = b.tcQueue := rfl
@[simp] theorem modLePart_adm (n : Fin 16) (p : Part) (f : LePart → LePart) (b : Block) : (modLePart n p f b).adm = b.adm := rfl
@[simp] theorem modLePart_ports (n : Fin 16) (p : Part) (f : LePart → LePart) (b : Block) : (modLePart n p f b).ports = b.ports := rfl
@[simp] theorem modLePart_pports (n : Fin 16) (p : Part) (f : LePart → LePart) (b : Block) : (modLePart n p f b).pports = b.pports := rfl
@[simp] theorem modLePart_epochs (n : Fin 16) (p : Part) (f : LePart → LePart) (b : Block) : (modLePart n p f b).epochs = b.epochs := rfl
@[simp] theorem modLePart_vgroups (n : Fin 16) (p : Part) (f : LePart → LePart) (b : Block) : (modLePart n p f b).vgroups = b.vgroups := rfl
@[simp] theorem modLePart_regions (n : Fin 16) (p : Part) (f : LePart → LePart) (b : Block) : (modLePart n p f b).regions = b.regions := rfl
@[simp] theorem modLePart_mirrors (n : Fin 16) (p : Part) (f : LePart → LePart) (b : Block) : (modLePart n p f b).mirrors = b.mirrors := rfl
@[simp] theorem modLePart_marks (n : Fin 16) (p : Part) (f : LePart → LePart) (b : Block) : (modLePart n p f b).marks = b.marks := rfl
@[simp] theorem modLePart_mes (n : Fin 16) (p : Part) (f : LePart → LePart) (b : Block) : (modLePart n p f b).mes = b.mes := rfl
@[simp] theorem modLePart_meparts (n : Fin 16) (p : Part) (f : LePart → LePart) (b : Block) : (modLePart n p f b).meparts = b.meparts := rfl
@[simp] theorem modLePart_memReqs (n : Fin 16) (p : Part) (f : LePart → LePart) (b : Block) : (modLePart n p f b).memReqs = b.memReqs := rfl
@[simp] theorem modLePart_bundles (n : Fin 16) (p : Part) (f : LePart → LePart) (b : Block) : (modLePart n p f b).bundles = b.bundles := rfl
@[simp] theorem modLePart_nextReq (n : Fin 16) (p : Part) (f : LePart → LePart) (b : Block) : (modLePart n p f b).nextReq = b.nextReq := rfl
@[simp] theorem modLePart_fetches (n : Fin 16) (p : Part) (f : LePart → LePart) (b : Block) : (modLePart n p f b).fetches = b.fetches := rfl
@[simp] theorem modLePart_work (n : Fin 16) (p : Part) (f : LePart → LePart) (b : Block) : (modLePart n p f b).work = b.work := rfl
@[simp] theorem modLePart_ahu (n : Fin 16) (p : Part) (f : LePart → LePart) (b : Block) : (modLePart n p f b).ahu = b.ahu := rfl
@[simp] theorem modLePart_ptu (n : Fin 16) (p : Part) (f : LePart → LePart) (b : Block) : (modLePart n p f b).ptu = b.ptu := rfl
@[simp] theorem modLePart_host (n : Fin 16) (p : Part) (f : LePart → LePart) (b : Block) : (modLePart n p f b).host = b.host := rfl
@[simp] theorem modLePart_rst (n : Fin 16) (p : Part) (f : LePart → LePart) (b : Block) : (modLePart n p f b).rst = b.rst := rfl
@[simp] theorem modLePart_sup (n : Fin 16) (p : Part) (f : LePart → LePart) (b : Block) : (modLePart n p f b).sup = b.sup := rfl
@[simp] theorem modLePart_i3c (n : Fin 16) (p : Part) (f : LePart → LePart) (b : Block) : (modLePart n p f b).i3c = b.i3c := rfl
@[simp] theorem modLePart_jtag (n : Fin 16) (p : Part) (f : LePart → LePart) (b : Block) : (modLePart n p f b).jtag = b.jtag := rfl
@[simp] theorem modLePart_tel (n : Fin 16) (p : Part) (f : LePart → LePart) (b : Block) : (modLePart n p f b).tel = b.tel := rfl
@[simp] theorem modLePart_lc (n : Fin 16) (p : Part) (f : LePart → LePart) (b : Block) : (modLePart n p f b).lc = b.lc := rfl
@[simp] theorem modLePart_ent (n : Fin 16) (p : Part) (f : LePart → LePart) (b : Block) : (modLePart n p f b).ent = b.ent := rfl
@[simp] theorem modLePart_out (n : Fin 16) (p : Part) (f : LePart → LePart) (b : Block) : (modLePart n p f b).out = b.out := rfl

@[simp] theorem modEpoch_clk (p : Part) (f : EpochSt → EpochSt) (b : Block) : (modEpoch p f b).clk = b.clk := rfl
@[simp] theorem modEpoch_islands (p : Part) (f : EpochSt → EpochSt) (b : Block) : (modEpoch p f b).islands = b.islands := rfl
@[simp] theorem modEpoch_shim (p : Part) (f : EpochSt → EpochSt) (b : Block) : (modEpoch p f b).shim = b.shim := rfl
@[simp] theorem modEpoch_log (p : Part) (f : EpochSt → EpochSt) (b : Block) : (modEpoch p f b).log = b.log := rfl
@[simp] theorem modEpoch_ic (p : Part) (f : EpochSt → EpochSt) (b : Block) : (modEpoch p f b).ic = b.ic := rfl
@[simp] theorem modEpoch_ks (p : Part) (f : EpochSt → EpochSt) (b : Block) : (modEpoch p f b).ks = b.ks := rfl
@[simp] theorem modEpoch_parts (p : Part) (f : EpochSt → EpochSt) (b : Block) : (modEpoch p f b).parts = b.parts := rfl
@[simp] theorem modEpoch_tcLoad (p : Part) (f : EpochSt → EpochSt) (b : Block) : (modEpoch p f b).tcLoad = b.tcLoad := rfl
@[simp] theorem modEpoch_tcQueue (p : Part) (f : EpochSt → EpochSt) (b : Block) : (modEpoch p f b).tcQueue = b.tcQueue := rfl
@[simp] theorem modEpoch_adm (p : Part) (f : EpochSt → EpochSt) (b : Block) : (modEpoch p f b).adm = b.adm := rfl
@[simp] theorem modEpoch_ports (p : Part) (f : EpochSt → EpochSt) (b : Block) : (modEpoch p f b).ports = b.ports := rfl
@[simp] theorem modEpoch_pports (p : Part) (f : EpochSt → EpochSt) (b : Block) : (modEpoch p f b).pports = b.pports := rfl
@[simp] theorem modEpoch_lparts (p : Part) (f : EpochSt → EpochSt) (b : Block) : (modEpoch p f b).lparts = b.lparts := rfl
@[simp] theorem modEpoch_vgroups (p : Part) (f : EpochSt → EpochSt) (b : Block) : (modEpoch p f b).vgroups = b.vgroups := rfl
@[simp] theorem modEpoch_regions (p : Part) (f : EpochSt → EpochSt) (b : Block) : (modEpoch p f b).regions = b.regions := rfl
@[simp] theorem modEpoch_mirrors (p : Part) (f : EpochSt → EpochSt) (b : Block) : (modEpoch p f b).mirrors = b.mirrors := rfl
@[simp] theorem modEpoch_marks (p : Part) (f : EpochSt → EpochSt) (b : Block) : (modEpoch p f b).marks = b.marks := rfl
@[simp] theorem modEpoch_mes (p : Part) (f : EpochSt → EpochSt) (b : Block) : (modEpoch p f b).mes = b.mes := rfl
@[simp] theorem modEpoch_meparts (p : Part) (f : EpochSt → EpochSt) (b : Block) : (modEpoch p f b).meparts = b.meparts := rfl
@[simp] theorem modEpoch_memReqs (p : Part) (f : EpochSt → EpochSt) (b : Block) : (modEpoch p f b).memReqs = b.memReqs := rfl
@[simp] theorem modEpoch_bundles (p : Part) (f : EpochSt → EpochSt) (b : Block) : (modEpoch p f b).bundles = b.bundles := rfl
@[simp] theorem modEpoch_nextReq (p : Part) (f : EpochSt → EpochSt) (b : Block) : (modEpoch p f b).nextReq = b.nextReq := rfl
@[simp] theorem modEpoch_fetches (p : Part) (f : EpochSt → EpochSt) (b : Block) : (modEpoch p f b).fetches = b.fetches := rfl
@[simp] theorem modEpoch_work (p : Part) (f : EpochSt → EpochSt) (b : Block) : (modEpoch p f b).work = b.work := rfl
@[simp] theorem modEpoch_ahu (p : Part) (f : EpochSt → EpochSt) (b : Block) : (modEpoch p f b).ahu = b.ahu := rfl
@[simp] theorem modEpoch_ptu (p : Part) (f : EpochSt → EpochSt) (b : Block) : (modEpoch p f b).ptu = b.ptu := rfl
@[simp] theorem modEpoch_host (p : Part) (f : EpochSt → EpochSt) (b : Block) : (modEpoch p f b).host = b.host := rfl
@[simp] theorem modEpoch_rst (p : Part) (f : EpochSt → EpochSt) (b : Block) : (modEpoch p f b).rst = b.rst := rfl
@[simp] theorem modEpoch_sup (p : Part) (f : EpochSt → EpochSt) (b : Block) : (modEpoch p f b).sup = b.sup := rfl
@[simp] theorem modEpoch_i3c (p : Part) (f : EpochSt → EpochSt) (b : Block) : (modEpoch p f b).i3c = b.i3c := rfl
@[simp] theorem modEpoch_jtag (p : Part) (f : EpochSt → EpochSt) (b : Block) : (modEpoch p f b).jtag = b.jtag := rfl
@[simp] theorem modEpoch_tel (p : Part) (f : EpochSt → EpochSt) (b : Block) : (modEpoch p f b).tel = b.tel := rfl
@[simp] theorem modEpoch_lc (p : Part) (f : EpochSt → EpochSt) (b : Block) : (modEpoch p f b).lc = b.lc := rfl
@[simp] theorem modEpoch_ent (p : Part) (f : EpochSt → EpochSt) (b : Block) : (modEpoch p f b).ent = b.ent := rfl
@[simp] theorem modEpoch_out (p : Part) (f : EpochSt → EpochSt) (b : Block) : (modEpoch p f b).out = b.out := rfl

@[simp] theorem modI3c_clk (f : I3c → I3c) (b : Block) : (modI3c f b).clk = b.clk := rfl
@[simp] theorem modI3c_islands (f : I3c → I3c) (b : Block) : (modI3c f b).islands = b.islands := rfl
@[simp] theorem modI3c_shim (f : I3c → I3c) (b : Block) : (modI3c f b).shim = b.shim := rfl
@[simp] theorem modI3c_log (f : I3c → I3c) (b : Block) : (modI3c f b).log = b.log := rfl
@[simp] theorem modI3c_ic (f : I3c → I3c) (b : Block) : (modI3c f b).ic = b.ic := rfl
@[simp] theorem modI3c_ks (f : I3c → I3c) (b : Block) : (modI3c f b).ks = b.ks := rfl
@[simp] theorem modI3c_parts (f : I3c → I3c) (b : Block) : (modI3c f b).parts = b.parts := rfl
@[simp] theorem modI3c_tcLoad (f : I3c → I3c) (b : Block) : (modI3c f b).tcLoad = b.tcLoad := rfl
@[simp] theorem modI3c_tcQueue (f : I3c → I3c) (b : Block) : (modI3c f b).tcQueue = b.tcQueue := rfl
@[simp] theorem modI3c_adm (f : I3c → I3c) (b : Block) : (modI3c f b).adm = b.adm := rfl
@[simp] theorem modI3c_ports (f : I3c → I3c) (b : Block) : (modI3c f b).ports = b.ports := rfl
@[simp] theorem modI3c_pports (f : I3c → I3c) (b : Block) : (modI3c f b).pports = b.pports := rfl
@[simp] theorem modI3c_lparts (f : I3c → I3c) (b : Block) : (modI3c f b).lparts = b.lparts := rfl
@[simp] theorem modI3c_epochs (f : I3c → I3c) (b : Block) : (modI3c f b).epochs = b.epochs := rfl
@[simp] theorem modI3c_vgroups (f : I3c → I3c) (b : Block) : (modI3c f b).vgroups = b.vgroups := rfl
@[simp] theorem modI3c_regions (f : I3c → I3c) (b : Block) : (modI3c f b).regions = b.regions := rfl
@[simp] theorem modI3c_mirrors (f : I3c → I3c) (b : Block) : (modI3c f b).mirrors = b.mirrors := rfl
@[simp] theorem modI3c_marks (f : I3c → I3c) (b : Block) : (modI3c f b).marks = b.marks := rfl
@[simp] theorem modI3c_mes (f : I3c → I3c) (b : Block) : (modI3c f b).mes = b.mes := rfl
@[simp] theorem modI3c_meparts (f : I3c → I3c) (b : Block) : (modI3c f b).meparts = b.meparts := rfl
@[simp] theorem modI3c_memReqs (f : I3c → I3c) (b : Block) : (modI3c f b).memReqs = b.memReqs := rfl
@[simp] theorem modI3c_bundles (f : I3c → I3c) (b : Block) : (modI3c f b).bundles = b.bundles := rfl
@[simp] theorem modI3c_nextReq (f : I3c → I3c) (b : Block) : (modI3c f b).nextReq = b.nextReq := rfl
@[simp] theorem modI3c_fetches (f : I3c → I3c) (b : Block) : (modI3c f b).fetches = b.fetches := rfl
@[simp] theorem modI3c_work (f : I3c → I3c) (b : Block) : (modI3c f b).work = b.work := rfl
@[simp] theorem modI3c_ahu (f : I3c → I3c) (b : Block) : (modI3c f b).ahu = b.ahu := rfl
@[simp] theorem modI3c_ptu (f : I3c → I3c) (b : Block) : (modI3c f b).ptu = b.ptu := rfl
@[simp] theorem modI3c_host (f : I3c → I3c) (b : Block) : (modI3c f b).host = b.host := rfl
@[simp] theorem modI3c_rst (f : I3c → I3c) (b : Block) : (modI3c f b).rst = b.rst := rfl
@[simp] theorem modI3c_sup (f : I3c → I3c) (b : Block) : (modI3c f b).sup = b.sup := rfl
@[simp] theorem modI3c_jtag (f : I3c → I3c) (b : Block) : (modI3c f b).jtag = b.jtag := rfl
@[simp] theorem modI3c_tel (f : I3c → I3c) (b : Block) : (modI3c f b).tel = b.tel := rfl
@[simp] theorem modI3c_lc (f : I3c → I3c) (b : Block) : (modI3c f b).lc = b.lc := rfl
@[simp] theorem modI3c_ent (f : I3c → I3c) (b : Block) : (modI3c f b).ent = b.ent := rfl
@[simp] theorem modI3c_out (f : I3c → I3c) (b : Block) : (modI3c f b).out = b.out := rfl

@[simp] theorem modSup_clk (f : Supply → Supply) (b : Block) : (modSup f b).clk = b.clk := rfl
@[simp] theorem modSup_islands (f : Supply → Supply) (b : Block) : (modSup f b).islands = b.islands := rfl
@[simp] theorem modSup_shim (f : Supply → Supply) (b : Block) : (modSup f b).shim = b.shim := rfl
@[simp] theorem modSup_log (f : Supply → Supply) (b : Block) : (modSup f b).log = b.log := rfl
@[simp] theorem modSup_ic (f : Supply → Supply) (b : Block) : (modSup f b).ic = b.ic := rfl
@[simp] theorem modSup_ks (f : Supply → Supply) (b : Block) : (modSup f b).ks = b.ks := rfl
@[simp] theorem modSup_parts (f : Supply → Supply) (b : Block) : (modSup f b).parts = b.parts := rfl
@[simp] theorem modSup_tcLoad (f : Supply → Supply) (b : Block) : (modSup f b).tcLoad = b.tcLoad := rfl
@[simp] theorem modSup_tcQueue (f : Supply → Supply) (b : Block) : (modSup f b).tcQueue = b.tcQueue := rfl
@[simp] theorem modSup_adm (f : Supply → Supply) (b : Block) : (modSup f b).adm = b.adm := rfl
@[simp] theorem modSup_ports (f : Supply → Supply) (b : Block) : (modSup f b).ports = b.ports := rfl
@[simp] theorem modSup_pports (f : Supply → Supply) (b : Block) : (modSup f b).pports = b.pports := rfl
@[simp] theorem modSup_lparts (f : Supply → Supply) (b : Block) : (modSup f b).lparts = b.lparts := rfl
@[simp] theorem modSup_epochs (f : Supply → Supply) (b : Block) : (modSup f b).epochs = b.epochs := rfl
@[simp] theorem modSup_vgroups (f : Supply → Supply) (b : Block) : (modSup f b).vgroups = b.vgroups := rfl
@[simp] theorem modSup_regions (f : Supply → Supply) (b : Block) : (modSup f b).regions = b.regions := rfl
@[simp] theorem modSup_mirrors (f : Supply → Supply) (b : Block) : (modSup f b).mirrors = b.mirrors := rfl
@[simp] theorem modSup_marks (f : Supply → Supply) (b : Block) : (modSup f b).marks = b.marks := rfl
@[simp] theorem modSup_mes (f : Supply → Supply) (b : Block) : (modSup f b).mes = b.mes := rfl
@[simp] theorem modSup_meparts (f : Supply → Supply) (b : Block) : (modSup f b).meparts = b.meparts := rfl
@[simp] theorem modSup_memReqs (f : Supply → Supply) (b : Block) : (modSup f b).memReqs = b.memReqs := rfl
@[simp] theorem modSup_bundles (f : Supply → Supply) (b : Block) : (modSup f b).bundles = b.bundles := rfl
@[simp] theorem modSup_nextReq (f : Supply → Supply) (b : Block) : (modSup f b).nextReq = b.nextReq := rfl
@[simp] theorem modSup_fetches (f : Supply → Supply) (b : Block) : (modSup f b).fetches = b.fetches := rfl
@[simp] theorem modSup_work (f : Supply → Supply) (b : Block) : (modSup f b).work = b.work := rfl
@[simp] theorem modSup_ahu (f : Supply → Supply) (b : Block) : (modSup f b).ahu = b.ahu := rfl
@[simp] theorem modSup_ptu (f : Supply → Supply) (b : Block) : (modSup f b).ptu = b.ptu := rfl
@[simp] theorem modSup_host (f : Supply → Supply) (b : Block) : (modSup f b).host = b.host := rfl
@[simp] theorem modSup_rst (f : Supply → Supply) (b : Block) : (modSup f b).rst = b.rst := rfl
@[simp] theorem modSup_i3c (f : Supply → Supply) (b : Block) : (modSup f b).i3c = b.i3c := rfl
@[simp] theorem modSup_jtag (f : Supply → Supply) (b : Block) : (modSup f b).jtag = b.jtag := rfl
@[simp] theorem modSup_tel (f : Supply → Supply) (b : Block) : (modSup f b).tel = b.tel := rfl
@[simp] theorem modSup_lc (f : Supply → Supply) (b : Block) : (modSup f b).lc = b.lc := rfl
@[simp] theorem modSup_ent (f : Supply → Supply) (b : Block) : (modSup f b).ent = b.ent := rfl
@[simp] theorem modSup_out (f : Supply → Supply) (b : Block) : (modSup f b).out = b.out := rfl

@[simp] theorem modAhu_clk (p : Part) (f : AhuPart → AhuPart) (b : Block) : (modAhu p f b).clk = b.clk := rfl
@[simp] theorem modAhu_islands (p : Part) (f : AhuPart → AhuPart) (b : Block) : (modAhu p f b).islands = b.islands := rfl
@[simp] theorem modAhu_shim (p : Part) (f : AhuPart → AhuPart) (b : Block) : (modAhu p f b).shim = b.shim := rfl
@[simp] theorem modAhu_log (p : Part) (f : AhuPart → AhuPart) (b : Block) : (modAhu p f b).log = b.log := rfl
@[simp] theorem modAhu_ic (p : Part) (f : AhuPart → AhuPart) (b : Block) : (modAhu p f b).ic = b.ic := rfl
@[simp] theorem modAhu_ks (p : Part) (f : AhuPart → AhuPart) (b : Block) : (modAhu p f b).ks = b.ks := rfl
@[simp] theorem modAhu_parts (p : Part) (f : AhuPart → AhuPart) (b : Block) : (modAhu p f b).parts = b.parts := rfl
@[simp] theorem modAhu_tcLoad (p : Part) (f : AhuPart → AhuPart) (b : Block) : (modAhu p f b).tcLoad = b.tcLoad := rfl
@[simp] theorem modAhu_tcQueue (p : Part) (f : AhuPart → AhuPart) (b : Block) : (modAhu p f b).tcQueue = b.tcQueue := rfl
@[simp] theorem modAhu_adm (p : Part) (f : AhuPart → AhuPart) (b : Block) : (modAhu p f b).adm = b.adm := rfl
@[simp] theorem modAhu_ports (p : Part) (f : AhuPart → AhuPart) (b : Block) : (modAhu p f b).ports = b.ports := rfl
@[simp] theorem modAhu_pports (p : Part) (f : AhuPart → AhuPart) (b : Block) : (modAhu p f b).pports = b.pports := rfl
@[simp] theorem modAhu_lparts (p : Part) (f : AhuPart → AhuPart) (b : Block) : (modAhu p f b).lparts = b.lparts := rfl
@[simp] theorem modAhu_epochs (p : Part) (f : AhuPart → AhuPart) (b : Block) : (modAhu p f b).epochs = b.epochs := rfl
@[simp] theorem modAhu_vgroups (p : Part) (f : AhuPart → AhuPart) (b : Block) : (modAhu p f b).vgroups = b.vgroups := rfl
@[simp] theorem modAhu_regions (p : Part) (f : AhuPart → AhuPart) (b : Block) : (modAhu p f b).regions = b.regions := rfl
@[simp] theorem modAhu_mirrors (p : Part) (f : AhuPart → AhuPart) (b : Block) : (modAhu p f b).mirrors = b.mirrors := rfl
@[simp] theorem modAhu_marks (p : Part) (f : AhuPart → AhuPart) (b : Block) : (modAhu p f b).marks = b.marks := rfl
@[simp] theorem modAhu_mes (p : Part) (f : AhuPart → AhuPart) (b : Block) : (modAhu p f b).mes = b.mes := rfl
@[simp] theorem modAhu_meparts (p : Part) (f : AhuPart → AhuPart) (b : Block) : (modAhu p f b).meparts = b.meparts := rfl
@[simp] theorem modAhu_memReqs (p : Part) (f : AhuPart → AhuPart) (b : Block) : (modAhu p f b).memReqs = b.memReqs := rfl
@[simp] theorem modAhu_bundles (p : Part) (f : AhuPart → AhuPart) (b : Block) : (modAhu p f b).bundles = b.bundles := rfl
@[simp] theorem modAhu_nextReq (p : Part) (f : AhuPart → AhuPart) (b : Block) : (modAhu p f b).nextReq = b.nextReq := rfl
@[simp] theorem modAhu_fetches (p : Part) (f : AhuPart → AhuPart) (b : Block) : (modAhu p f b).fetches = b.fetches := rfl
@[simp] theorem modAhu_work (p : Part) (f : AhuPart → AhuPart) (b : Block) : (modAhu p f b).work = b.work := rfl
@[simp] theorem modAhu_ptu (p : Part) (f : AhuPart → AhuPart) (b : Block) : (modAhu p f b).ptu = b.ptu := rfl
@[simp] theorem modAhu_host (p : Part) (f : AhuPart → AhuPart) (b : Block) : (modAhu p f b).host = b.host := rfl
@[simp] theorem modAhu_rst (p : Part) (f : AhuPart → AhuPart) (b : Block) : (modAhu p f b).rst = b.rst := rfl
@[simp] theorem modAhu_sup (p : Part) (f : AhuPart → AhuPart) (b : Block) : (modAhu p f b).sup = b.sup := rfl
@[simp] theorem modAhu_i3c (p : Part) (f : AhuPart → AhuPart) (b : Block) : (modAhu p f b).i3c = b.i3c := rfl
@[simp] theorem modAhu_jtag (p : Part) (f : AhuPart → AhuPart) (b : Block) : (modAhu p f b).jtag = b.jtag := rfl
@[simp] theorem modAhu_tel (p : Part) (f : AhuPart → AhuPart) (b : Block) : (modAhu p f b).tel = b.tel := rfl
@[simp] theorem modAhu_lc (p : Part) (f : AhuPart → AhuPart) (b : Block) : (modAhu p f b).lc = b.lc := rfl
@[simp] theorem modAhu_ent (p : Part) (f : AhuPart → AhuPart) (b : Block) : (modAhu p f b).ent = b.ent := rfl
@[simp] theorem modAhu_out (p : Part) (f : AhuPart → AhuPart) (b : Block) : (modAhu p f b).out = b.out := rfl

@[simp] theorem push_clk (w : Work) (b : Block) : (push w b).clk = b.clk := rfl
@[simp] theorem push_islands (w : Work) (b : Block) : (push w b).islands = b.islands := rfl
@[simp] theorem push_shim (w : Work) (b : Block) : (push w b).shim = b.shim := rfl
@[simp] theorem push_log (w : Work) (b : Block) : (push w b).log = b.log := rfl
@[simp] theorem push_ic (w : Work) (b : Block) : (push w b).ic = b.ic := rfl
@[simp] theorem push_ks (w : Work) (b : Block) : (push w b).ks = b.ks := rfl
@[simp] theorem push_parts (w : Work) (b : Block) : (push w b).parts = b.parts := rfl
@[simp] theorem push_tcLoad (w : Work) (b : Block) : (push w b).tcLoad = b.tcLoad := rfl
@[simp] theorem push_tcQueue (w : Work) (b : Block) : (push w b).tcQueue = b.tcQueue := rfl
@[simp] theorem push_adm (w : Work) (b : Block) : (push w b).adm = b.adm := rfl
@[simp] theorem push_ports (w : Work) (b : Block) : (push w b).ports = b.ports := rfl
@[simp] theorem push_pports (w : Work) (b : Block) : (push w b).pports = b.pports := rfl
@[simp] theorem push_lparts (w : Work) (b : Block) : (push w b).lparts = b.lparts := rfl
@[simp] theorem push_epochs (w : Work) (b : Block) : (push w b).epochs = b.epochs := rfl
@[simp] theorem push_vgroups (w : Work) (b : Block) : (push w b).vgroups = b.vgroups := rfl
@[simp] theorem push_regions (w : Work) (b : Block) : (push w b).regions = b.regions := rfl
@[simp] theorem push_mirrors (w : Work) (b : Block) : (push w b).mirrors = b.mirrors := rfl
@[simp] theorem push_marks (w : Work) (b : Block) : (push w b).marks = b.marks := rfl
@[simp] theorem push_mes (w : Work) (b : Block) : (push w b).mes = b.mes := rfl
@[simp] theorem push_meparts (w : Work) (b : Block) : (push w b).meparts = b.meparts := rfl
@[simp] theorem push_memReqs (w : Work) (b : Block) : (push w b).memReqs = b.memReqs := rfl
@[simp] theorem push_bundles (w : Work) (b : Block) : (push w b).bundles = b.bundles := rfl
@[simp] theorem push_nextReq (w : Work) (b : Block) : (push w b).nextReq = b.nextReq := rfl
@[simp] theorem push_fetches (w : Work) (b : Block) : (push w b).fetches = b.fetches := rfl
@[simp] theorem push_ahu (w : Work) (b : Block) : (push w b).ahu = b.ahu := rfl
@[simp] theorem push_ptu (w : Work) (b : Block) : (push w b).ptu = b.ptu := rfl
@[simp] theorem push_host (w : Work) (b : Block) : (push w b).host = b.host := rfl
@[simp] theorem push_rst (w : Work) (b : Block) : (push w b).rst = b.rst := rfl
@[simp] theorem push_sup (w : Work) (b : Block) : (push w b).sup = b.sup := rfl
@[simp] theorem push_i3c (w : Work) (b : Block) : (push w b).i3c = b.i3c := rfl
@[simp] theorem push_jtag (w : Work) (b : Block) : (push w b).jtag = b.jtag := rfl
@[simp] theorem push_tel (w : Work) (b : Block) : (push w b).tel = b.tel := rfl
@[simp] theorem push_lc (w : Work) (b : Block) : (push w b).lc = b.lc := rfl
@[simp] theorem push_ent (w : Work) (b : Block) : (push w b).ent = b.ent := rfl
@[simp] theorem push_out (w : Work) (b : Block) : (push w b).out = b.out := rfl

/-! ### What was written is read -/

@[simp] theorem modIsland_island (i : Island) (f : IslandSt → IslandSt) (b : Block) : (modIsland i f b).island i = f (b.island i) := Tab.getD_upd_same ..
@[simp] theorem modPart_part (p : Part) (f : PartSt → PartSt) (b : Block) : (modPart p f b).part p = f (b.part p) := Tab.getD_upd_same ..
@[simp] theorem modAdm_adm' (p : Part) (f : Adm → Adm) (b : Block) : (modAdm p f b).adm' p = f (b.adm' p) := Tab.getD_upd_same ..
@[simp] theorem modRstPart_rstPart (p : Part) (f : RstPart → RstPart) (b : Block) : (modRstPart p f b).rstPart p = f (b.rstPart p) := Tab.getD_upd_same ..
@[simp] theorem modPort_port (k : Port) (f : PortSt → PortSt) (b : Block) : (modPort k f b).port k = f (b.port k) := Tab.getD_upd_same ..
@[simp] theorem modPortPart_portPart (k : Port) (p : Part) (f : PortPart → PortPart) (b : Block) : (modPortPart k p f b).portPart k p = f (b.portPart k p) := Tab.getD_upd_same ..
@[simp] theorem modLePart_lePart (n : Fin 16) (p : Part) (f : LePart → LePart) (b : Block) : (modLePart n p f b).lePart n p = f (b.lePart n p) := Tab.getD_upd_same ..
@[simp] theorem modMePart_mePart (n : Fin 8) (p : Part) (f : MePart → MePart) (b : Block) : (modMePart n p f b).mePart n p = f (b.mePart n p) := Tab.getD_upd_same ..
@[simp] theorem modPtu_ptuPart (p : Part) (f : PtuPart → PtuPart) (b : Block) : (modPtu p f b).ptuPart p = f (b.ptuPart p) := Tab.getD_upd_same ..
@[simp] theorem modAhu_ahuPart (p : Part) (f : AhuPart → AhuPart) (b : Block) : (modAhu p f b).ahuPart p = f (b.ahuPart p) := Tab.getD_upd_same ..
@[simp] theorem modPeerAt_peerAt (p : Part) (k : Nat) (f : Peer → Peer) (b : Block) : (modPeerAt p k f b).peerAt p k = f (b.peerAt p k) := by
  simp [Block.peerAt, modPeerAt, Tab.getD_upd_same]
@[simp] theorem modPeer_peer (p : Part) (m : MemberRef) (f : Peer → Peer) (b : Block) : (modPeer p m f b).peer p m = f (b.peer p m) := modPeerAt_peerAt ..
@[simp] theorem setRegion_region (r : Nat) (x : Region) (b : Block) : (setRegion r x b).region r = some x := Tab.get?_set_same ..
@[simp] theorem setQueue_queue (n : BitVec 8) (q : Queue) (b : Block) : (setQueue n.toNat q b).queue n = some q := Tab.get?_set_same ..

/-! ### What is written under another key is left -/

theorem modPart_part_ne {p q : Part} (h : q ≠ p) (f : PartSt → PartSt) (b : Block) : (modPart p f b).part q = b.part q :=
  Tab.getD_upd_other _ (fun e => h (Fin.ext e)) ..
theorem modAdm_adm_ne {p q : Part} (h : q ≠ p) (f : Adm → Adm) (b : Block) : (modAdm p f b).adm' q = b.adm' q :=
  Tab.getD_upd_other _ (fun e => h (Fin.ext e)) ..
theorem modRstPart_rstPart_ne {p q : Part} (h : q ≠ p) (f : RstPart → RstPart) (b : Block) : (modRstPart p f b).rstPart q = b.rstPart q :=
  Tab.getD_upd_other _ (fun e => h (Fin.ext e)) ..
theorem modPort_port_ne {k j : Port} (h : j ≠ k) (f : PortSt → PortSt) (b : Block) : (modPort k f b).port j = b.port j :=
  Tab.getD_upd_other _ (fun e => h (Fin.ext e)) ..
theorem modPtu_ptuPart_ne {p q : Part} (h : q ≠ p) (f : PtuPart → PtuPart) (b : Block) : (modPtu p f b).ptuPart q = b.ptuPart q :=
  Tab.getD_upd_other _ (fun e => h (Fin.ext e)) ..
theorem modAhu_ahuPart_ne {p q : Part} (h : q ≠ p) (f : AhuPart → AhuPart) (b : Block) : (modAhu p f b).ahuPart q = b.ahuPart q :=
  Tab.getD_upd_other _ (fun e => h (Fin.ext e)) ..

/-! ### The gates read nothing but the clocks and the resets -/

theorem Block.live_congr {a b : Block} (hc : a.clk = b.clk) (hr : a.rst = b.rst) : a.live = b.live := by simp [Block.live, Block.up, hc, hr]
theorem Block.up_congr {a b : Block} (hc : a.clk = b.clk) (hr : a.rst = b.rst) : a.up = b.up := by simp [Block.up, hc, hr]
theorem Block.regs_congr {a b : Block} (hc : a.clk = b.clk) (hr : a.rst = b.rst) (hl : a.lc = b.lc) : a.regs = b.regs := by simp [Block.regs, Block.up, hc, hr, hl]

end Sys2Proof.Machine
end

