-- ==== Sys2Proof/Laws/Ops.lean ====
section
/-! SUPPORT. One lemma per shared operation: what each can answer, and all it can change. -/

namespace Sys2Proof.Machine

/-! ### How a command's effect becomes an outcome -/

/-- A command on the block alone always answers a next state, and changes the block alone. -/
theorem onB_next (f : Hard → Block → Block) (s : State) : onB f s = .next (s.withB (f s.hard s.b)) := rfl

/-- A command that reaches the lasting parts always answers a next state, and leaves the queue. -/
theorem onHB_next (f : Hard → Block → Hard × Block) (s : State) : onHB f s = .next { s with hard := (f s.hard s.b).1, b := (f s.hard s.b).2 } := rfl

theorem whenUp_up (f : Block → Block) {b : Block} (h : b.up = true) : whenUp f b = f b := by simp [whenUp, h]
theorem whenUp_down (f : Block → Block) {b : Block} (h : b.up = false) : whenUp f b = b := by simp [whenUp, h]
theorem whenPages_on (f : Block → Block) {b : Block} (hu : b.up = true) (hb : b.lc.bootState = 2) : whenPages f b = f b := by simp [whenPages, hu, hb]
theorem whenLive_live (f : Block → Block) {b : Block} (h : b.live = true) : whenLive f b = f b := by simp [whenLive, h]
theorem whenLive_idle (f : Block → Block) {b : Block} (h : b.live = false) : whenLive f b = b := by simp [whenLive, h]

/-- A command of the islands, while they are at work, has its effect and then the work it leaves. -/
theorem act_live (f : Hard → Block → Block) {s : State} (h : s.b.live = true) : act f s = .next (s.settled (f s.hard s.b)) := by
  simp [act, onB_next, whenLive, h, State.withB, State.settled]

/-- A command of the islands has no effect while they are not at work. -/
theorem act_idle (f : Hard → Block → Block) {s : State} (h : s.b.live = false) : act f s = .next s := by
  simp [act, onB_next, whenLive, h]

/-- A driver's write, while the registers respond. -/
theorem regAct_on (f : Hard → Block → Block) {s : State} (h : s.b.regs = true) : regAct f s = .next (s.settled (f s.hard s.b)) := by
  simp [regAct, onB_next, h, State.withB, State.settled]

theorem regAct_off (f : Hard → Block → Block) {s : State} (h : s.b.regs = false) : regAct f s = .next s := by
  simp [regAct, onB_next, h]

/-- A write of a page of `SWY_RST`. -/
theorem opAct_on (f : Hard → Block → Block) {s : State} (hu : s.b.up = true) (hb : s.b.lc.bootState = 2) : opAct f s = .next (s.settled (f s.hard s.b)) := by
  simp [opAct, onB_next, whenPages, hu, hb, State.withB, State.settled]

/-- An island's page, the island present, awake and out of reset. -/
theorem islandReg_awake {i : Island} (f : Hard → Block → Block) {h : Hard} {b : Block} (hp : islandPresent h.cfg i = true) (hr : (b.island i).inReset = false)
    (ha : (b.island i).asleep = false) : islandReg i f h b = f h b := by
  simp [islandReg, hp, hr, wakeIsland, ha]

theorem partReg_exists {p : Part} (f : Hard → Block → Block) {h : Hard} {b : Block} (hp : b.partExists p = true) : partReg p f h b = f h b := by
  simp [partReg, hp]

/-- A fetched command that passes its gates starts. -/
theorem runCmd_starts (h : Hard) {ctx : CmdCtx} {opcode otype : Nat} (k : Queue → Block → Block) {b : Block} {q : Queue} (hl : b.live = true) (ht : b.jtag.tcHalt = false) (hq : b.queue ctx.queue = some q)
    (hs : q.startable ctx opcode = true) (hr : ∀ r ∈ b.rst.running, r.scope ≠ .partition q.part) (hg : cmdGate b q opcode otype = none) :
    runCmd h ctx opcode otype k b = k q (markStarted ctx b) := by
  have : (b.rst.running.any fun r => decide (r.scope = .partition q.part)) = false := by
    simpa [List.any_eq_false] using hr
  simp [runCmd, hq, hl, ht, hs, this, hg]

/-- A fetched command that its gate refuses is completed with the gate's status. -/
theorem runCmd_gated (h : Hard) {ctx : CmdCtx} {opcode otype : Nat} (k : Queue → Block → Block) {b : Block} {q : Queue} {st : Byte} {r : Nat} (hl : b.live = true) (ht : b.jtag.tcHalt = false)
    (hq : b.queue ctx.queue = some q) (hs : q.startable ctx opcode = true) (hr : ∀ r ∈ b.rst.running, r.scope ≠ .partition q.part) (hg : cmdGate b q opcode otype = some (st, r)) :
    runCmd h ctx opcode otype k b = complete h ctx st r 0 0 (markStarted ctx b) := by
  have : (b.rst.running.any fun r => decide (r.scope = .partition q.part)) = false := by
    simpa [List.any_eq_false] using hr
  simp [runCmd, hq, hl, ht, hs, this, hg]

/-- A command that starts, as an outcome. -/
theorem actCmd_starts {ctx : CmdCtx} {opcode otype : Nat} (f : Hard → Queue → Block → Block) {s : State} {q : Queue} (h : s.starts ctx opcode otype q) :
    actCmd ctx opcode otype f s = .next (s.settled (f s.hard q (markStarted ctx s.b))) := by
  obtain ⟨hl, ht, hq, hs, hr, hg⟩ := h
  simp [actCmd, onB_next, runCmd_starts s.hard (f s.hard) hl ht hq hs hr hg, State.withB, State.settled]

/-- A secured message that is taken. -/
theorem actSec_hears {sec : Sec} (f : Hard → Block → Block) {s : State} (h : s.hears sec) : actSec sec f s = .next (s.settled (f s.hard (heard sec s.b))) := by
  obtain ⟨hl, hs, ha⟩ := h
  have hs : (s.b.peerAt sec.part sec.peer.toNat).hasSession = true := hs
  simp [actSec, onB_next, secIn, secInAt, hl, hs, ha, State.withB, State.settled, heard, modPeer]

/-- A message of the session a member joins in that is taken. -/
theorem actJoin_hears {sec : Sec} (f : Hard → Nat → Block → Block) {s : State} (h : s.hearsJoin sec) :
    actJoin sec f s = .next (s.settled (f s.hard (joinKey s.b sec.part sec.peer) (heardJoin sec s.b))) := by
  obtain ⟨hl, hs, ha⟩ := h
  simp [actJoin, onB_next, secInAt, hl, hs, ha, State.withB, State.settled, heardJoin]

/-! ### The work a command leaves -/

/-- A block that waits for nothing stays as it is. -/
theorem settle_quiet (h : Hard) {b : Block} (hw : b.work = []) (hd : anyDying b = false) : settle h b = b := by
  simp [settle, settleBound, settleFuel, hw, hd]

/-- The work of a halted block is dropped. -/
theorem settle_halted (h : Hard) {b : Block} (hh : b.rst.halted = true) : settle h b = { b with work := [] } := by
  cases hw : b.work with
  | nil => simp [settle, settleBound, settleFuel, hw, hh]; rw [← hw]
  | cons w t => simp [settle, settleBound, settleFuel, hw, hh]

theorem State.settled_quiet {s : State} (h : s.quiet) : s.settled s.b = s := by
  simp [State.settled, settle_quiet s.hard h.1 h.2]

/-! ### Sources and the trouble log -/

/-- A firing changes the interrupt controller alone. -/
theorem fire_frame (h : Hard) (x : Nat) (b : Block) : fire h x b = { b with ic := (fire h x b).ic } := by
  simp only [fire]; split <;> rfl

/-- A level changes the interrupt controller and the stub of its island. -/
theorem setLevel_frame (h : Hard) (x : Nat) (c : Bool) (b : Block) : setLevel h x c b = { b with ic := (setLevel h x c b).ic, islands := (setLevel h x c b).islands } := by
  unfold setLevel
  cases srcStub x <;> dsimp only <;> split <;> first | rfl | (rw [fire_frame]; rfl)

theorem viewsTake_frame (h : Hard) (vs : List Nat) (b : Block) : viewsTake h vs b = { b with log := (viewsTake h vs b).log, ic := (viewsTake h vs b).ic } := by
  induction vs generalizing b with
  | nil => rfl
  | cons v t ih => 
    simp only [viewsTake, List.foldl_cons] at ih ⊢
    rw [ih, fire_frame]

theorem viewsLose_frame (ns : Tab Nat) (b : Block) : viewsLose ns b = { b with log := (viewsLose ns b).log } := by
  induction ns generalizing b with
  | nil => rfl
  | cons v t ih =>
    simp only [viewsLose, List.foldl_cons] at ih ⊢
    rw [ih]

/-- An entry of the log changes the log and the interrupt controller alone. -/
theorem logEv_frame (h : Hard) (code isl : Nat) (p : Option Part) (view sev : Nat) (args : List (Nat × Nat)) (b : Block) :
    logEv h code isl p view sev args b = { b with log := (logEv h code isl p view sev args b).log, ic := (logEv h code isl p view sev args b).ic } := by
  unfold logEv
  dsimp only
  rw [viewsTake_frame]
  split <;> split <;> first | rfl | rw [viewsLose_frame]

theorem note_frame (h : Hard) (code isl : Nat) (p : Option Part) (args : List (Nat × Nat)) (b : Block) :
    note h code isl p args b = { b with log := (note h code isl p args b).log, ic := (note h code isl p args b).ic } := logEv_frame ..

/-- A limited event changes the log and the interrupt controller alone. -/
theorem noteLimited_frame (h : Hard) (code isl : Nat) (p : Option Part) (obj : Nat) (args : Nat → List (Nat × Nat)) (b : Block) :
    noteLimited h code isl p obj args b = { b with log := (noteLimited h code isl p obj args b).log, ic := (noteLimited h code isl p obj args b).ic } := by
  unfold noteLimited
  dsimp only
  split
  · rw [note_frame]
  · split
    · rw [note_frame]
    · rfl

/-- A completion record changes its queue, the log, the interrupt controller and what the block sent. -/
theorem pushRec_frame (h : Hard) (n : Nat) (r : Rec) (b : Block) :
    pushRec h n r b = { b with host := (pushRec h n r b).host, ic := (pushRec h n r b).ic, out := (pushRec h n r b).out } := by
  unfold pushRec
  split
  · rfl
  · dsimp only
    split
    · rw [fire_frame]; rfl
    · rfl

theorem writeRec_frame (h : Hard) (n : Nat) (r : Rec) (b : Block) :
    writeRec h n r b = { b with host := (writeRec h n r b).host, log := (writeRec h n r b).log, ic := (writeRec h n r b).ic, out := (writeRec h n r b).out } := by
  unfold writeRec
  split
  · rfl
  · split
    · rfl
    · split
      · rw [pushRec_frame]
      · dsimp only
        split
        · rw [note_frame]; rfl
        · rfl

theorem unflight_frame (h : Hard) (ctx : CmdCtx) (b : Block) :
    unflight h ctx b = { b with host := (unflight h ctx b).host, ic := (unflight h ctx b).ic, ent := (unflight h ctx b).ent } := by
  unfold unflight
  dsimp only
  split
  · rfl
  · unfold queueSettle
    split
    · rfl
    · split <;> rfl

/-- A command's completion changes the host's queues, the log, the interrupt controller, the list of commands that wait for random values, and what the block sent. -/
theorem complete_frame (h : Hard) (ctx : CmdCtx) (st : Byte) (reason r1 r2 : Nat) (b : Block) :
    complete h ctx st reason r1 r2 b = { b with host := (complete h ctx st reason r1 r2 b).host, log := (complete h ctx st reason r1 r2 b).log, ic := (complete h ctx st reason r1 r2 b).ic, ent := (complete h ctx st reason r1 r2 b).ent, out := (complete h ctx st reason r1 r2 b).out } := by
  unfold complete
  rw [writeRec_frame, unflight_frame]

/-! ### What these leave, field by field -/

@[simp] theorem fire_clk (h : Hard) (x : Nat) (b : Block) : (fire h x b).clk = b.clk := by rw [fire_frame]
@[simp] theorem fire_islands (h : Hard) (x : Nat) (b : Block) : (fire h x b).islands = b.islands := by rw [fire_frame]
@[simp] theorem fire_shim (h : Hard) (x : Nat) (b : Block) : (fire h x b).shim = b.shim := by rw [fire_frame]
@[simp] theorem fire_log (h : Hard) (x : Nat) (b : Block) : (fire h x b).log = b.log := by rw [fire_frame]
@[simp] theorem fire_ks (h : Hard) (x : Nat) (b : Block) : (fire h x b).ks = b.ks := by rw [fire_frame]
@[simp] theorem fire_parts (h : Hard) (x : Nat) (b : Block) : (fire h x b).parts = b.parts := by rw [fire_frame]
@[simp] theorem fire_tcLoad (h : Hard) (x : Nat) (b : Block) : (fire h x b).tcLoad = b.tcLoad := by rw [fire_frame]
@[simp] theorem fire_tcQueue (h : Hard) (x : Nat) (b : Block) : (fire h x b).tcQueue = b.tcQueue := by rw [fire_frame]
@[simp] theorem fire_adm (h : Hard) (x : Nat) (b : Block) : (fire h x b).adm = b.adm := by rw [fire_frame]
@[simp] theorem fire_ports (h : Hard) (x : Nat) (b : Block) : (fire h x b).ports = b.ports := by rw [fire_frame]
@[simp] theorem fire_pports (h : Hard) (x : Nat) (b : Block) : (fire h x b).pports = b.pports := by rw [fire_frame]
@[simp] theorem fire_lparts (h : Hard) (x : Nat) (b : Block) : (fire h x b).lparts = b.lparts := by rw [fire_frame]
@[simp] theorem fire_epochs (h : Hard) (x : Nat) (b : Block) : (fire h x b).epochs = b.epochs := by rw [fire_frame]
@[simp] theorem fire_vgroups (h : Hard) (x : Nat) (b : Block) : (fire h x b).vgroups = b.vgroups := by rw [fire_frame]
@[simp] theorem fire_regions (h : Hard) (x : Nat) (b : Block) : (fire h x b).regions = b.regions := by rw [fire_frame]
@[simp] theorem fire_mirrors (h : Hard) (x : Nat) (b : Block) : (fire h x b).mirrors = b.mirrors := by rw [fire_frame]
@[simp] theorem fire_marks (h : Hard) (x : Nat) (b : Block) : (fire h x b).marks = b.marks := by rw [fire_frame]
@[simp] theorem fire_mes (h : Hard) (x : Nat) (b : Block) : (fire h x b).mes = b.mes := by rw [fire_frame]
@[simp] theorem fire_meparts (h : Hard) (x : Nat) (b : Block) : (fire h x b).meparts = b.meparts := by rw [fire_frame]
@[simp] theorem fire_memReqs (h : Hard) (x : Nat) (b : Block) : (fire h x b).memReqs = b.memReqs := by rw [fire_frame]
@[simp] theorem fire_bundles (h : Hard) (x : Nat) (b : Block) : (fire h x b).bundles = b.bundles := by rw [fire_frame]
@[simp] theorem fire_nextReq (h : Hard) (x : Nat) (b : Block) : (fire h x b).nextReq = b.nextReq := by rw [fire_frame]
@[simp] theorem fire_fetches (h : Hard) (x : Nat) (b : Block) : (fire h x b).fetches = b.fetches := by rw [fire_frame]
@[simp] theorem fire_work (h : Hard) (x : Nat) (b : Block) : (fire h x b).work = b.work := by rw [fire_frame]
@[simp] theorem fire_ahu (h : Hard) (x : Nat) (b : Block) : (fire h x b).ahu = b.ahu := by rw [fire_frame]
@[simp] theorem fire_ptu (h : Hard) (x : Nat) (b : Block) : (fire h x b).ptu = b.ptu := by rw [fire_frame]
@[simp] theorem fire_host (h : Hard) (x : Nat) (b : Block) : (fire h x b).host = b.host := by rw [fire_frame]
@[simp] theorem fire_rst (h : Hard) (x : Nat) (b : Block) : (fire h x b).rst = b.rst := by rw [fire_frame]
@[simp] theorem fire_sup (h : Hard) (x : Nat) (b : Block) : (fire h x b).sup = b.sup := by rw [fire_frame]
@[simp] theorem fire_i3c (h : Hard) (x : Nat) (b : Block) : (fire h x b).i3c = b.i3c := by rw [fire_frame]
@[simp] theorem fire_jtag (h : Hard) (x : Nat) (b : Block) : (fire h x b).jtag = b.jtag := by rw [fire_frame]
@[simp] theorem fire_tel (h : Hard) (x : Nat) (b : Block) : (fire h x b).tel = b.tel := by rw [fire_frame]
@[simp] theorem fire_lc (h : Hard) (x : Nat) (b : Block) : (fire h x b).lc = b.lc := by rw [fire_frame]
@[simp] theorem fire_ent (h : Hard) (x : Nat) (b : Block) : (fire h x b).ent = b.ent := by rw [fire_frame]
@[simp] theorem fire_out (h : Hard) (x : Nat) (b : Block) : (fire h x b).out = b.out := by rw [fire_frame]

@[simp] theorem setLevel_clk (h : Hard) (x : Nat) (c : Bool) (b : Block) : (setLevel h x c b).clk = b.clk := by rw [setLevel_frame]
@[simp] theorem setLevel_shim (h : Hard) (x : Nat) (c : Bool) (b : Block) : (setLevel h x c b).shim = b.shim := by rw [setLevel_frame]
@[simp] theorem setLevel_log (h : Hard) (x : Nat) (c : Bool) (b : Block) : (setLevel h x c b).log = b.log := by rw [setLevel_frame]
@[simp] theorem setLevel_ks (h : Hard) (x : Nat) (c : Bool) (b : Block) : (setLevel h x c b).ks = b.ks := by rw [setLevel_frame]
@[simp] theorem setLevel_parts (h : Hard) (x : Nat) (c : Bool) (b : Block) : (setLevel h x c b).parts = b.parts := by rw [setLevel_frame]
@[simp] theorem setLevel_tcLoad (h : Hard) (x : Nat) (c : Bool) (b : Block) : (setLevel h x c b).tcLoad = b.tcLoad := by rw [setLevel_frame]
@[simp] theorem setLevel_tcQueue (h : Hard) (x : Nat) (c : Bool) (b : Block) : (setLevel h x c b).tcQueue = b.tcQueue := by rw [setLevel_frame]
@[simp] theorem setLevel_adm (h : Hard) (x : Nat) (c : Bool) (b : Block) : (setLevel h x c b).adm = b.adm := by rw [setLevel_frame]
@[simp] theorem setLevel_ports (h : Hard) (x : Nat) (c : Bool) (b : Block) : (setLevel h x c b).ports = b.ports := by rw [setLevel_frame]
@[simp] theorem setLevel_pports (h : Hard) (x : Nat) (c : Bool) (b : Block) : (setLevel h x c b).pports = b.pports := by rw [setLevel_frame]
@[simp] theorem setLevel_lparts (h : Hard) (x : Nat) (c : Bool) (b : Block) : (setLevel h x c b).lparts = b.lparts := by rw [setLevel_frame]
@[simp] theorem setLevel_epochs (h : Hard) (x : Nat) (c : Bool) (b : Block) : (setLevel h x c b).epochs = b.epochs := by rw [setLevel_frame]
@[simp] theorem setLevel_vgroups (h : Hard) (x : Nat) (c : Bool) (b : Block) : (setLevel h x c b).vgroups = b.vgroups := by rw [setLevel_frame]
@[simp] theorem setLevel_regions (h : Hard) (x : Nat) (c : Bool) (b : Block) : (setLevel h x c b).regions = b.regions := by rw [setLevel_frame]
@[simp] theorem setLevel_mirrors (h : Hard) (x : Nat) (c : Bool) (b : Block) : (setLevel h x c b).mirrors = b.mirrors := by rw [setLevel_frame]
@[simp] theorem setLevel_marks (h : Hard) (x : Nat) (c : Bool) (b : Block) : (setLevel h x c b).marks = b.marks := by rw [setLevel_frame]
@[simp] theorem setLevel_mes (h : Hard) (x : Nat) (c : Bool) (b : Block) : (setLevel h x c b).mes = b.mes := by rw [setLevel_frame]
@[simp] theorem setLevel_meparts (h : Hard) (x : Nat) (c : Bool) (b : Block) : (setLevel h x c b).meparts = b.meparts := by rw [setLevel_frame]
@[simp] theorem setLevel_memReqs (h : Hard) (x : Nat) (c : Bool) (b : Block) : (setLevel h x c b).memReqs = b.memReqs := by rw [setLevel_frame]
@[simp] theorem setLevel_bundles (h : Hard) (x : Nat) (c : Bool) (b : Block) : (setLevel h x c b).bundles = b.bundles := by rw [setLevel_frame]
@[simp] theorem setLevel_nextReq (h : Hard) (x : Nat) (c : Bool) (b : Block) : (setLevel h x c b).nextReq = b.nextReq := by rw [setLevel_frame]
@[simp] theorem setLevel_fetches (h : Hard) (x : Nat) (c : Bool) (b : Block) : (setLevel h x c b).fetches = b.fetches := by rw [setLevel_frame]
@[simp] theorem setLevel_work (h : Hard) (x : Nat) (c : Bool) (b : Block) : (setLevel h x c b).work = b.work := by rw [setLevel_frame]
@[simp] theorem setLevel_ahu (h : Hard) (x : Nat) (c : Bool) (b : Block) : (setLevel h x c b).ahu = b.ahu := by rw [setLevel_frame]
@[simp] theorem setLevel_ptu (h : Hard) (x : Nat) (c : Bool) (b : Block) : (setLevel h x c b).ptu = b.ptu := by rw [setLevel_frame]
@[simp] theorem setLevel_host (h : Hard) (x : Nat) (c : Bool) (b : Block) : (setLevel h x c b).host = b.host := by rw [setLevel_frame]
@[simp] theorem setLevel_rst (h : Hard) (x : Nat) (c : Bool) (b : Block) : (setLevel h x c b).rst = b.rst := by rw [setLevel_frame]
@[simp] theorem setLevel_sup (h : Hard) (x : Nat) (c : Bool) (b : Block) : (setLevel h x c b).sup = b.sup := by rw [setLevel_frame]
@[simp] theorem setLevel_i3c (h : Hard) (x : Nat) (c : Bool) (b : Block) : (setLevel h x c b).i3c = b.i3c := by rw [setLevel_frame]
@[simp] theorem setLevel_jtag (h : Hard) (x : Nat) (c : Bool) (b : Block) : (setLevel h x c b).jtag = b.jtag := by rw [setLevel_frame]
@[simp] theorem setLevel_tel (h : Hard) (x : Nat) (c : Bool) (b : Block) : (setLevel h x c b).tel = b.tel := by rw [setLevel_frame]
@[simp] theorem setLevel_lc (h : Hard) (x : Nat) (c : Bool) (b : Block) : (setLevel h x c b).lc = b.lc := by rw [setLevel_frame]
@[simp] theorem setLevel_ent (h : Hard) (x : Nat) (c : Bool) (b : Block) : (setLevel h x c b).ent = b.ent := by rw [setLevel_frame]
@[simp] theorem setLevel_out (h : Hard) (x : Nat) (c : Bool) (b : Block) : (setLevel h x c b).out = b.out := by rw [setLevel_frame]

@[simp] theorem logEv_clk (h : Hard) (code isl : Nat) (p : Option Part) (view sev : Nat) (args : List (Nat × Nat)) (b : Block) : (logEv h code isl p view sev args b).clk = b.clk := by rw [logEv_frame]
@[simp] theorem logEv_islands (h : Hard) (code isl : Nat) (p : Option Part) (view sev : Nat) (args : List (Nat × Nat)) (b : Block) : (logEv h code isl p view sev args b).islands = b.islands := by rw [logEv_frame]
@[simp] theorem logEv_shim (h : Hard) (code isl : Nat) (p : Option Part) (view sev : Nat) (args : List (Nat × Nat)) (b : Block) : (logEv h code isl p view sev args b).shim = b.shim := by rw [logEv_frame]
@[simp] theorem logEv_ks (h : Hard) (code isl : Nat) (p : Option Part) (view sev : Nat) (args : List (Nat × Nat)) (b : Block) : (logEv h code isl p view sev args b).ks = b.ks := by rw [logEv_frame]
@[simp] theorem logEv_parts (h : Hard) (code isl : Nat) (p : Option Part) (view sev : Nat) (args : List (Nat × Nat)) (b : Block) : (logEv h code isl p view sev args b).parts = b.parts := by rw [logEv_frame]
@[simp] theorem logEv_tcLoad (h : Hard) (code isl : Nat) (p : Option Part) (view sev : Nat) (args : List (Nat × Nat)) (b : Block) : (logEv h code isl p view sev args b).tcLoad = b.tcLoad := by rw [logEv_frame]
@[simp] theorem logEv_tcQueue (h : Hard) (code isl : Nat) (p : Option Part) (view sev : Nat) (args : List (Nat × Nat)) (b : Block) : (logEv h code isl p view sev args b).tcQueue = b.tcQueue := by rw [logEv_frame]
@[simp] theorem logEv_adm (h : Hard) (code isl : Nat) (p : Option Part) (view sev : Nat) (args : List (Nat × Nat)) (b : Block) : (logEv h code isl p view sev args b).adm = b.adm := by rw [logEv_frame]
@[simp] theorem logEv_ports (h : Hard) (code isl : Nat) (p : Option Part) (view sev : Nat) (args : List (Nat × Nat)) (b : Block) : (logEv h code isl p view sev args b).ports = b.ports := by rw [logEv_frame]
@[simp] theorem logEv_pports (h : Hard) (code isl : Nat) (p : Option Part) (view sev : Nat) (args : List (Nat × Nat)) (b : Block) : (logEv h code isl p view sev args b).pports = b.pports := by rw [logEv_frame]
@[simp] theorem logEv_lparts (h : Hard) (code isl : Nat) (p : Option Part) (view sev : Nat) (args : List (Nat × Nat)) (b : Block) : (logEv h code isl p view sev args b).lparts = b.lparts := by rw [logEv_frame]
@[simp] theorem logEv_epochs (h : Hard) (code isl : Nat) (p : Option Part) (view sev : Nat) (args : List (Nat × Nat)) (b : Block) : (logEv h code isl p view sev args b).epochs = b.epochs := by rw [logEv_frame]
@[simp] theorem logEv_vgroups (h : Hard) (code isl : Nat) (p : Option Part) (view sev : Nat) (args : List (Nat × Nat)) (b : Block) : (logEv h code isl p view sev args b).vgroups = b.vgroups := by rw [logEv_frame]
@[simp] theorem logEv_regions (h : Hard) (code isl : Nat) (p : Option Part) (view sev : Nat) (args : List (Nat × Nat)) (b : Block) : (logEv h code isl p view sev args b).regions = b.regions := by rw [logEv_frame]
@[simp] theorem logEv_mirrors (h : Hard) (code isl : Nat) (p : Option Part) (view sev : Nat) (args : List (Nat × Nat)) (b : Block) : (logEv h code isl p view sev args b).mirrors = b.mirrors := by rw [logEv_frame]
@[simp] theorem logEv_marks (h : Hard) (code isl : Nat) (p : Option Part) (view sev : Nat) (args : List (Nat × Nat)) (b : Block) : (logEv h code isl p view sev args b).marks = b.marks := by rw [logEv_frame]
@[simp] theorem logEv_mes (h : Hard) (code isl : Nat) (p : Option Part) (view sev : Nat) (args : List (Nat × Nat)) (b : Block) : (logEv h code isl p view sev args b).mes = b.mes := by rw [logEv_frame]
@[simp] theorem logEv_meparts (h : Hard) (code isl : Nat) (p : Option Part) (view sev : Nat) (args : List (Nat × Nat)) (b : Block) : (logEv h code isl p view sev args b).meparts = b.meparts := by rw [logEv_frame]
@[simp] theorem logEv_memReqs (h : Hard) (code isl : Nat) (p : Option Part) (view sev : Nat) (args : List (Nat × Nat)) (b : Block) : (logEv h code isl p view sev args b).memReqs = b.memReqs := by rw [logEv_frame]
@[simp] theorem logEv_bundles (h : Hard) (code isl : Nat) (p : Option Part) (view sev : Nat) (args : List (Nat × Nat)) (b : Block) : (logEv h code isl p view sev args b).bundles = b.bundles := by rw [logEv_frame]
@[simp] theorem logEv_nextReq (h : Hard) (code isl : Nat) (p : Option Part) (view sev : Nat) (args : List (Nat × Nat)) (b : Block) : (logEv h code isl p view sev args b).nextReq = b.nextReq := by rw [logEv_frame]
@[simp] theorem logEv_fetches (h : Hard) (code isl : Nat) (p : Option Part) (view sev : Nat) (args : List (Nat × Nat)) (b : Block) : (logEv h code isl p view sev args b).fetches = b.fetches := by rw [logEv_frame]
@[simp] theorem logEv_work (h : Hard) (code isl : Nat) (p : Option Part) (view sev : Nat) (args : List (Nat × Nat)) (b : Block) : (logEv h code isl p view sev args b).work = b.work := by rw [logEv_frame]
@[simp] theorem logEv_ahu (h : Hard) (code isl : Nat) (p : Option Part) (view sev : Nat) (args : List (Nat × Nat)) (b : Block) : (logEv h code isl p view sev args b).ahu = b.ahu := by rw [logEv_frame]
@[simp] theorem logEv_ptu (h : Hard) (code isl : Nat) (p : Option Part) (view sev : Nat) (args : List (Nat × Nat)) (b : Block) : (logEv h code isl p view sev args b).ptu = b.ptu := by rw [logEv_frame]
@[simp] theorem logEv_host (h : Hard) (code isl : Nat) (p : Option Part) (view sev : Nat) (args : List (Nat × Nat)) (b : Block) : (logEv h code isl p view sev args b).host = b.host := by rw [logEv_frame]
@[simp] theorem logEv_rst (h : Hard) (code isl : Nat) (p : Option Part) (view sev : Nat) (args : List (Nat × Nat)) (b : Block) : (logEv h code isl p view sev args b).rst = b.rst := by rw [logEv_frame]
@[simp] theorem logEv_sup (h : Hard) (code isl : Nat) (p : Option Part) (view sev : Nat) (args : List (Nat × Nat)) (b : Block) : (logEv h code isl p view sev args b).sup = b.sup := by rw [logEv_frame]
@[simp] theorem logEv_i3c (h : Hard) (code isl : Nat) (p : Option Part) (view sev : Nat) (args : List (Nat × Nat)) (b : Block) : (logEv h code isl p view sev args b).i3c = b.i3c := by rw [logEv_frame]
@[simp] theorem logEv_jtag (h : Hard) (code isl : Nat) (p : Option Part) (view sev : Nat) (args : List (Nat × Nat)) (b : Block) : (logEv h code isl p view sev args b).jtag = b.jtag := by rw [logEv_frame]
@[simp] theorem logEv_tel (h : Hard) (code isl : Nat) (p : Option Part) (view sev : Nat) (args : List (Nat × Nat)) (b : Block) : (logEv h code isl p view sev args b).tel = b.tel := by rw [logEv_frame]
@[simp] theorem logEv_lc (h : Hard) (code isl : Nat) (p : Option Part) (view sev : Nat) (args : List (Nat × Nat)) (b : Block) : (logEv h code isl p view sev args b).lc = b.lc := by rw [logEv_frame]
@[simp] theorem logEv_ent (h : Hard) (code isl : Nat) (p : Option Part) (view sev : Nat) (args : List (Nat × Nat)) (b : Block) : (logEv h code isl p view sev args b).ent = b.ent := by rw [logEv_frame]
@[simp] theorem logEv_out (h : Hard) (code isl : Nat) (p : Option Part) (view sev : Nat) (args : List (Nat × Nat)) (b : Block) : (logEv h code isl p view sev args b).out = b.out := by rw [logEv_frame]

@[simp] theorem note_clk (h : Hard) (code isl : Nat) (p : Option Part) (args : List (Nat × Nat)) (b : Block) : (note h code isl p args b).clk = b.clk := by rw [note_frame]
@[simp] theorem note_islands (h : Hard) (code isl : Nat) (p : Option Part) (args : List (Nat × Nat)) (b : Block) : (note h code isl p args b).islands = b.islands := by rw [note_frame]
@[simp] theorem note_shim (h : Hard) (code isl : Nat) (p : Option Part) (args : List (Nat × Nat)) (b : Block) : (note h code isl p args b).shim = b.shim := by rw [note_frame]
@[simp] theorem note_ks (h : Hard) (code isl : Nat) (p : Option Part) (args : List (Nat × Nat)) (b : Block) : (note h code isl p args b).ks = b.ks := by rw [note_frame]
@[simp] theorem note_parts (h : Hard) (code isl : Nat) (p : Option Part) (args : List (Nat × Nat)) (b : Block) : (note h code isl p args b).parts = b.parts := by rw [note_frame]
@[simp] theorem note_tcLoad (h : Hard) (code isl : Nat) (p : Option Part) (args : List (Nat × Nat)) (b : Block) : (note h code isl p args b).tcLoad = b.tcLoad := by rw [note_frame]
@[simp] theorem note_tcQueue (h : Hard) (code isl : Nat) (p : Option Part) (args : List (Nat × Nat)) (b : Block) : (note h code isl p args b).tcQueue = b.tcQueue := by rw [note_frame]
@[simp] theorem note_adm (h : Hard) (code isl : Nat) (p : Option Part) (args : List (Nat × Nat)) (b : Block) : (note h code isl p args b).adm = b.adm := by rw [note_frame]
@[simp] theorem note_ports (h : Hard) (code isl : Nat) (p : Option Part) (args : List (Nat × Nat)) (b : Block) : (note h code isl p args b).ports = b.ports := by rw [note_frame]
@[simp] theorem note_pports (h : Hard) (code isl : Nat) (p : Option Part) (args : List (Nat × Nat)) (b : Block) : (note h code isl p args b).pports = b.pports := by rw [note_frame]
@[simp] theorem note_lparts (h : Hard) (code isl : Nat) (p : Option Part) (args : List (Nat × Nat)) (b : Block) : (note h code isl p args b).lparts = b.lparts := by rw [note_frame]
@[simp] theorem note_epochs (h : Hard) (code isl : Nat) (p : Option Part) (args : List (Nat × Nat)) (b : Block) : (note h code isl p args b).epochs = b.epochs := by rw [note_frame]
@[simp] theorem note_vgroups (h : Hard) (code isl : Nat) (p : Option Part) (args : List (Nat × Nat)) (b : Block) : (note h code isl p args b).vgroups = b.vgroups := by rw [note_frame]
@[simp] theorem note_regions (h : Hard) (code isl : Nat) (p : Option Part) (args : List (Nat × Nat)) (b : Block) : (note h code isl p args b).regions = b.regions := by rw [note_frame]
@[simp] theorem note_mirrors (h : Hard) (code isl : Nat) (p : Option Part) (args : List (Nat × Nat)) (b : Block) : (note h code isl p args b).mirrors = b.mirrors := by rw [note_frame]
@[simp] theorem note_marks (h : Hard) (code isl : Nat) (p : Option Part) (args : List (Nat × Nat)) (b : Block) : (note h code isl p args b).marks = b.marks := by rw [note_frame]
@[simp] theorem note_mes (h : Hard) (code isl : Nat) (p : Option Part) (args : List (Nat × Nat)) (b : Block) : (note h code isl p args b).mes = b.mes := by rw [note_frame]
@[simp] theorem note_meparts (h : Hard) (code isl : Nat) (p : Option Part) (args : List (Nat × Nat)) (b : Block) : (note h code isl p args b).meparts = b.meparts := by rw [note_frame]
@[simp] theorem note_memReqs (h : Hard) (code isl : Nat) (p : Option Part) (args : List (Nat × Nat)) (b : Block) : (note h code isl p args b).memReqs = b.memReqs := by rw [note_frame]
@[simp] theorem note_bundles (h : Hard) (code isl : Nat) (p : Option Part) (args : List (Nat × Nat)) (b : Block) : (note h code isl p args b).bundles = b.bundles := by rw [note_frame]
@[simp] theorem note_nextReq (h : Hard) (code isl : Nat) (p : Option Part) (args : List (Nat × Nat)) (b : Block) : (note h code isl p args b).nextReq = b.nextReq := by rw [note_frame]
@[simp] theorem note_fetches (h : Hard) (code isl : Nat) (p : Option Part) (args : List (Nat × Nat)) (b : Block) : (note h code isl p args b).fetches = b.fetches := by rw [note_frame]
@[simp] theorem note_work (h : Hard) (code isl : Nat) (p : Option Part) (args : List (Nat × Nat)) (b : Block) : (note h code isl p args b).work = b.work := by rw [note_frame]
@[simp] theorem note_ahu (h : Hard) (code isl : Nat) (p : Option Part) (args : List (Nat × Nat)) (b : Block) : (note h code isl p args b).ahu = b.ahu := by rw [note_frame]
@[simp] theorem note_ptu (h : Hard) (code isl : Nat) (p : Option Part) (args : List (Nat × Nat)) (b : Block) : (note h code isl p args b).ptu = b.ptu := by rw [note_frame]
@[simp] theorem note_host (h : Hard) (code isl : Nat) (p : Option Part) (args : List (Nat × Nat)) (b : Block) : (note h code isl p args b).host = b.host := by rw [note_frame]
@[simp] theorem note_rst (h : Hard) (code isl : Nat) (p : Option Part) (args : List (Nat × Nat)) (b : Block) : (note h code isl p args b).rst = b.rst := by rw [note_frame]
@[simp] theorem note_sup (h : Hard) (code isl : Nat) (p : Option Part) (args : List (Nat × Nat)) (b : Block) : (note h code isl p args b).sup = b.sup := by rw [note_frame]
@[simp] theorem note_i3c (h : Hard) (code isl : Nat) (p : Option Part) (args : List (Nat × Nat)) (b : Block) : (note h code isl p args b).i3c = b.i3c := by rw [note_frame]
@[simp] theorem note_jtag (h : Hard) (code isl : Nat) (p : Option Part) (args : List (Nat × Nat)) (b : Block) : (note h code isl p args b).jtag = b.jtag := by rw [note_frame]
@[simp] theorem note_tel (h : Hard) (code isl : Nat) (p : Option Part) (args : List (Nat × Nat)) (b : Block) : (note h code isl p args b).tel = b.tel := by rw [note_frame]
@[simp] theorem note_lc (h : Hard) (code isl : Nat) (p : Option Part) (args : List (Nat × Nat)) (b : Block) : (note h code isl p args b).lc = b.lc := by rw [note_frame]
@[simp] theorem note_ent (h : Hard) (code isl : Nat) (p : Option Part) (args : List (Nat × Nat)) (b : Block) : (note h code isl p args b).ent = b.ent := by rw [note_frame]
@[simp] theorem note_out (h : Hard) (code isl : Nat) (p : Option Part) (args : List (Nat × Nat)) (b : Block) : (note h code isl p args b).out = b.out := by rw [note_frame]

@[simp] theorem noteLimited_clk (h : Hard) (code isl : Nat) (p : Option Part) (obj : Nat) (args : Nat → List (Nat × Nat)) (b : Block) : (noteLimited h code isl p obj args b).clk = b.clk := by rw [noteLimited_frame]
@[simp] theorem noteLimited_islands (h : Hard) (code isl : Nat) (p : Option Part) (obj : Nat) (args : Nat → List (Nat × Nat)) (b : Block) : (noteLimited h code isl p obj args b).islands = b.islands := by rw [noteLimited_frame]
@[simp] theorem noteLimited_shim (h : Hard) (code isl : Nat) (p : Option Part) (obj : Nat) (args : Nat → List (Nat × Nat)) (b : Block) : (noteLimited h code isl p obj args b).shim = b.shim := by rw [noteLimited_frame]
@[simp] theorem noteLimited_ks (h : Hard) (code isl : Nat) (p : Option Part) (obj : Nat) (args : Nat → List (Nat × Nat)) (b : Block) : (noteLimited h code isl p obj args b).ks = b.ks := by rw [noteLimited_frame]
@[simp] theorem noteLimited_parts (h : Hard) (code isl : Nat) (p : Option Part) (obj : Nat) (args : Nat → List (Nat × Nat)) (b : Block) : (noteLimited h code isl p obj args b).parts = b.parts := by rw [noteLimited_frame]
@[simp] theorem noteLimited_tcLoad (h : Hard) (code isl : Nat) (p : Option Part) (obj : Nat) (args : Nat → List (Nat × Nat)) (b : Block) : (noteLimited h code isl p obj args b).tcLoad = b.tcLoad := by rw [noteLimited_frame]
@[simp] theorem noteLimited_tcQueue (h : Hard) (code isl : Nat) (p : Option Part) (obj : Nat) (args : Nat → List (Nat × Nat)) (b : Block) : (noteLimited h code isl p obj args b).tcQueue = b.tcQueue := by rw [noteLimited_frame]
@[simp] theorem noteLimited_adm (h : Hard) (code isl : Nat) (p : Option Part) (obj : Nat) (args : Nat → List (Nat × Nat)) (b : Block) : (noteLimited h code isl p obj args b).adm = b.adm := by rw [noteLimited_frame]
@[simp] theorem noteLimited_ports (h : Hard) (code isl : Nat) (p : Option Part) (obj : Nat) (args : Nat → List (Nat × Nat)) (b : Block) : (noteLimited h code isl p obj args b).ports = b.ports := by rw [noteLimited_frame]
@[simp] theorem noteLimited_pports (h : Hard) (code isl : Nat) (p : Option Part) (obj : Nat) (args : Nat → List (Nat × Nat)) (b : Block) : (noteLimited h code isl p obj args b).pports = b.pports := by rw [noteLimited_frame]
@[simp] theorem noteLimited_lparts (h : Hard) (code isl : Nat) (p : Option Part) (obj : Nat) (args : Nat → List (Nat × Nat)) (b : Block) : (noteLimited h code isl p obj args b).lparts = b.lparts := by rw [noteLimited_frame]
@[simp] theorem noteLimited_epochs (h : Hard) (code isl : Nat) (p : Option Part) (obj : Nat) (args : Nat → List (Nat × Nat)) (b : Block) : (noteLimited h code isl p obj args b).epochs = b.epochs := by rw [noteLimited_frame]
@[simp] theorem noteLimited_vgroups (h : Hard) (code isl : Nat) (p : Option Part) (obj : Nat) (args : Nat → List (Nat × Nat)) (b : Block) : (noteLimited h code isl p obj args b).vgroups = b.vgroups := by rw [noteLimited_frame]
@[simp] theorem noteLimited_regions (h : Hard) (code isl : Nat) (p : Option Part) (obj : Nat) (args : Nat → List (Nat × Nat)) (b : Block) : (noteLimited h code isl p obj args b).regions = b.regions := by rw [noteLimited_frame]
@[simp] theorem noteLimited_mirrors (h : Hard) (code isl : Nat) (p : Option Part) (obj : Nat) (args : Nat → List (Nat × Nat)) (b : Block) : (noteLimited h code isl p obj args b).mirrors = b.mirrors := by rw [noteLimited_frame]
@[simp] theorem noteLimited_marks (h : Hard) (code isl : Nat) (p : Option Part) (obj : Nat) (args : Nat → List (Nat × Nat)) (b : Block) : (noteLimited h code isl p obj args b).marks = b.marks := by rw [noteLimited_frame]
@[simp] theorem noteLimited_mes (h : Hard) (code isl : Nat) (p : Option Part) (obj : Nat) (args : Nat → List (Nat × Nat)) (b : Block) : (noteLimited h code isl p obj args b).mes = b.mes := by rw [noteLimited_frame]
@[simp] theorem noteLimited_meparts (h : Hard) (code isl : Nat) (p : Option Part) (obj : Nat) (args : Nat → List (Nat × Nat)) (b : Block) : (noteLimited h code isl p obj args b).meparts = b.meparts := by rw [noteLimited_frame]
@[simp] theorem noteLimited_memReqs (h : Hard) (code isl : Nat) (p : Option Part) (obj : Nat) (args : Nat → List (Nat × Nat)) (b : Block) : (noteLimited h code isl p obj args b).memReqs = b.memReqs := by rw [noteLimited_frame]
@[simp] theorem noteLimited_bundles (h : Hard) (code isl : Nat) (p : Option Part) (obj : Nat) (args : Nat → List (Nat × Nat)) (b : Block) : (noteLimited h code isl p obj args b).bundles = b.bundles := by rw [noteLimited_frame]
@[simp] theorem noteLimited_nextReq (h : Hard) (code isl : Nat) (p : Option Part) (obj : Nat) (args : Nat → List (Nat × Nat)) (b : Block) : (noteLimited h code isl p obj args b).nextReq = b.nextReq := by rw [noteLimited_frame]
@[simp] theorem noteLimited_fetches (h : Hard) (code isl : Nat) (p : Option Part) (obj : Nat) (args : Nat → List (Nat × Nat)) (b : Block) : (noteLimited h code isl p obj args b).fetches = b.fetches := by rw [noteLimited_frame]
@[simp] theorem noteLimited_work (h : Hard) (code isl : Nat) (p : Option Part) (obj : Nat) (args : Nat → List (Nat × Nat)) (b : Block) : (noteLimited h code isl p obj args b).work = b.work := by rw [noteLimited_frame]
@[simp] theorem noteLimited_ahu (h : Hard) (code isl : Nat) (p : Option Part) (obj : Nat) (args : Nat → List (Nat × Nat)) (b : Block) : (noteLimited h code isl p obj args b).ahu = b.ahu := by rw [noteLimited_frame]
@[simp] theorem noteLimited_ptu (h : Hard) (code isl : Nat) (p : Option Part) (obj : Nat) (args : Nat → List (Nat × Nat)) (b : Block) : (noteLimited h code isl p obj args b).ptu = b.ptu := by rw [noteLimited_frame]
@[simp] theorem noteLimited_host (h : Hard) (code isl : Nat) (p : Option Part) (obj : Nat) (args : Nat → List (Nat × Nat)) (b : Block) : (noteLimited h code isl p obj args b).host = b.host := by rw [noteLimited_frame]
@[simp] theorem noteLimited_rst (h : Hard) (code isl : Nat) (p : Option Part) (obj : Nat) (args : Nat → List (Nat × Nat)) (b : Block) : (noteLimited h code isl p obj args b).rst = b.rst := by rw [noteLimited_frame]
@[simp] theorem noteLimited_sup (h : Hard) (code isl : Nat) (p : Option Part) (obj : Nat) (args : Nat → List (Nat × Nat)) (b : Block) : (noteLimited h code isl p obj args b).sup = b.sup := by rw [noteLimited_frame]
@[simp] theorem noteLimited_i3c (h : Hard) (code isl : Nat) (p : Option Part) (obj : Nat) (args : Nat → List (Nat × Nat)) (b : Block) : (noteLimited h code isl p obj args b).i3c = b.i3c := by rw [noteLimited_frame]
@[simp] theorem noteLimited_jtag (h : Hard) (code isl : Nat) (p : Option Part) (obj : Nat) (args : Nat → List (Nat × Nat)) (b : Block) : (noteLimited h code isl p obj args b).jtag = b.jtag := by rw [noteLimited_frame]
@[simp] theorem noteLimited_tel (h : Hard) (code isl : Nat) (p : Option Part) (obj : Nat) (args : Nat → List (Nat × Nat)) (b : Block) : (noteLimited h code isl p obj args b).tel = b.tel := by rw [noteLimited_frame]
@[simp] theorem noteLimited_lc (h : Hard) (code isl : Nat) (p : Option Part) (obj : Nat) (args : Nat → List (Nat × Nat)) (b : Block) : (noteLimited h code isl p obj args b).lc = b.lc := by rw [noteLimited_frame]
@[simp] theorem noteLimited_ent (h : Hard) (code isl : Nat) (p : Option Part) (obj : Nat) (args : Nat → List (Nat × Nat)) (b : Block) : (noteLimited h code isl p obj args b).ent = b.ent := by rw [noteLimited_frame]
@[simp] theorem noteLimited_out (h : Hard) (code isl : Nat) (p : Option Part) (obj : Nat) (args : Nat → List (Nat × Nat)) (b : Block) : (noteLimited h code isl p obj args b).out = b.out := by rw [noteLimited_frame]

@[simp] theorem complete_clk (h : Hard) (ctx : CmdCtx) (st : Byte) (reason r1 r2 : Nat) (b : Block) : (complete h ctx st reason r1 r2 b).clk = b.clk := by rw [complete_frame]
@[simp] theorem complete_islands (h : Hard) (ctx : CmdCtx) (st : Byte) (reason r1 r2 : Nat) (b : Block) : (complete h ctx st reason r1 r2 b).islands = b.islands := by rw [complete_frame]
@[simp] theorem complete_shim (h : Hard) (ctx : CmdCtx) (st : Byte) (reason r1 r2 : Nat) (b : Block) : (complete h ctx st reason r1 r2 b).shim = b.shim := by rw [complete_frame]
@[simp] theorem complete_ks (h : Hard) (ctx : CmdCtx) (st : Byte) (reason r1 r2 : Nat) (b : Block) : (complete h ctx st reason r1 r2 b).ks = b.ks := by rw [complete_frame]
@[simp] theorem complete_parts (h : Hard) (ctx : CmdCtx) (st : Byte) (reason r1 r2 : Nat) (b : Block) : (complete h ctx st reason r1 r2 b).parts = b.parts := by rw [complete_frame]
@[simp] theorem complete_tcLoad (h : Hard) (ctx : CmdCtx) (st : Byte) (reason r1 r2 : Nat) (b : Block) : (complete h ctx st reason r1 r2 b).tcLoad = b.tcLoad := by rw [complete_frame]
@[simp] theorem complete_tcQueue (h : Hard) (ctx : CmdCtx) (st : Byte) (reason r1 r2 : Nat) (b : Block) : (complete h ctx st reason r1 r2 b).tcQueue = b.tcQueue := by rw [complete_frame]
@[simp] theorem complete_adm (h : Hard) (ctx : CmdCtx) (st : Byte) (reason r1 r2 : Nat) (b : Block) : (complete h ctx st reason r1 r2 b).adm = b.adm := by rw [complete_frame]
@[simp] theorem complete_ports (h : Hard) (ctx : CmdCtx) (st : Byte) (reason r1 r2 : Nat) (b : Block) : (complete h ctx st reason r1 r2 b).ports = b.ports := by rw [complete_frame]
@[simp] theorem complete_pports (h : Hard) (ctx : CmdCtx) (st : Byte) (reason r1 r2 : Nat) (b : Block) : (complete h ctx st reason r1 r2 b).pports = b.pports := by rw [complete_frame]
@[simp] theorem complete_lparts (h : Hard) (ctx : CmdCtx) (st : Byte) (reason r1 r2 : Nat) (b : Block) : (complete h ctx st reason r1 r2 b).lparts = b.lparts := by rw [complete_frame]
@[simp] theorem complete_epochs (h : Hard) (ctx : CmdCtx) (st : Byte) (reason r1 r2 : Nat) (b : Block) : (complete h ctx st reason r1 r2 b).epochs = b.epochs := by rw [complete_frame]
@[simp] theorem complete_vgroups (h : Hard) (ctx : CmdCtx) (st : Byte) (reason r1 r2 : Nat) (b : Block) : (complete h ctx st reason r1 r2 b).vgroups = b.vgroups := by rw [complete_frame]
@[simp] theorem complete_regions (h : Hard) (ctx : CmdCtx) (st : Byte) (reason r1 r2 : Nat) (b : Block) : (complete h ctx st reason r1 r2 b).regions = b.regions := by rw [complete_frame]
@[simp] theorem complete_mirrors (h : Hard) (ctx : CmdCtx) (st : Byte) (reason r1 r2 : Nat) (b : Block) : (complete h ctx st reason r1 r2 b).mirrors = b.mirrors := by rw [complete_frame]
@[simp] theorem complete_marks (h : Hard) (ctx : CmdCtx) (st : Byte) (reason r1 r2 : Nat) (b : Block) : (complete h ctx st reason r1 r2 b).marks = b.marks := by rw [complete_frame]
@[simp] theorem complete_mes (h : Hard) (ctx : CmdCtx) (st : Byte) (reason r1 r2 : Nat) (b : Block) : (complete h ctx st reason r1 r2 b).mes = b.mes := by rw [complete_frame]
@[simp] theorem complete_meparts (h : Hard) (ctx : CmdCtx) (st : Byte) (reason r1 r2 : Nat) (b : Block) : (complete h ctx st reason r1 r2 b).meparts = b.meparts := by rw [complete_frame]
@[simp] theorem complete_memReqs (h : Hard) (ctx : CmdCtx) (st : Byte) (reason r1 r2 : Nat) (b : Block) : (complete h ctx st reason r1 r2 b).memReqs = b.memReqs := by rw [complete_frame]
@[simp] theorem complete_bundles (h : Hard) (ctx : CmdCtx) (st : Byte) (reason r1 r2 : Nat) (b : Block) : (complete h ctx st reason r1 r2 b).bundles = b.bundles := by rw [complete_frame]
@[simp] theorem complete_nextReq (h : Hard) (ctx : CmdCtx) (st : Byte) (reason r1 r2 : Nat) (b : Block) : (complete h ctx st reason r1 r2 b).nextReq = b.nextReq := by rw [complete_frame]
@[simp] theorem complete_fetches (h : Hard) (ctx : CmdCtx) (st : Byte) (reason r1 r2 : Nat) (b : Block) : (complete h ctx st reason r1 r2 b).fetches = b.fetches := by rw [complete_frame]
@[simp] theorem complete_work (h : Hard) (ctx : CmdCtx) (st : Byte) (reason r1 r2 : Nat) (b : Block) : (complete h ctx st reason r1 r2 b).work = b.work := by rw [complete_frame]
@[simp] theorem complete_ahu (h : Hard) (ctx : CmdCtx) (st : Byte) (reason r1 r2 : Nat) (b : Block) : (complete h ctx st reason r1 r2 b).ahu = b.ahu := by rw [complete_frame]
@[simp] theorem complete_ptu (h : Hard) (ctx : CmdCtx) (st : Byte) (reason r1 r2 : Nat) (b : Block) : (complete h ctx st reason r1 r2 b).ptu = b.ptu := by rw [complete_frame]
@[simp] theorem complete_rst (h : Hard) (ctx : CmdCtx) (st : Byte) (reason r1 r2 : Nat) (b : Block) : (complete h ctx st reason r1 r2 b).rst = b.rst := by rw [complete_frame]
@[simp] theorem complete_sup (h : Hard) (ctx : CmdCtx) (st : Byte) (reason r1 r2 : Nat) (b : Block) : (complete h ctx st reason r1 r2 b).sup = b.sup := by rw [complete_frame]
@[simp] theorem complete_i3c (h : Hard) (ctx : CmdCtx) (st : Byte) (reason r1 r2 : Nat) (b : Block) : (complete h ctx st reason r1 r2 b).i3c = b.i3c := by rw [complete_frame]
@[simp] theorem complete_jtag (h : Hard) (ctx : CmdCtx) (st : Byte) (reason r1 r2 : Nat) (b : Block) : (complete h ctx st reason r1 r2 b).jtag = b.jtag := by rw [complete_frame]
@[simp] theorem complete_tel (h : Hard) (ctx : CmdCtx) (st : Byte) (reason r1 r2 : Nat) (b : Block) : (complete h ctx st reason r1 r2 b).tel = b.tel := by rw [complete_frame]
@[simp] theorem complete_lc (h : Hard) (ctx : CmdCtx) (st : Byte) (reason r1 r2 : Nat) (b : Block) : (complete h ctx st reason r1 r2 b).lc = b.lc := by rw [complete_frame]

end Sys2Proof.Machine
end

