-- ==== Sys2Proof/Tests/Slice0.lean ====
section
/-! SUPPORT. Tests: the ill-formed commands that the checks refuse; one step on small states, with results worked out from the spec; and for every statement with hypotheses, states and operands that meet them. -/

set_option Elab.async false

open Sys2Proof Sys2Proof.Machine

namespace Sys2Proof.Tests

/-! ### States -/

def onBlk (f : Block → Block) (s : State) : State := { s with b := f s.b }

/-- Out of chip reset, the clocks locked. -/
def upS : State := onBlk (fun b => { b with rst := { b.rst with chipRstN := false }, clk := { b.clk with locked := true } }) State.reset

/-- TC in its patch, the islands at work, a little after tick 2^38. -/
def liveS : State :=
  onBlk (fun b => { b with clk := { b.clk with loaded := true, tick := 0x4000000000 }, lc := { b.lc with bootState := 2, romRun := true } }) upS

def haltS : State := onBlk (modRst fun r => { r with halted := true, clampCause := 3 }) liveS

/-- TC in mask ROM, the tick counter loaded. -/
def romS : State := onBlk (fun b => { b with lc := { b.lc with romRun := true }, clk := { b.clk with loaded := true, tick := 0x4000000000 } }) upS

/-- An operation of the lifecycle unit runs. -/
def goS (op : Byte) (s : State) : State := onBlk (setLc fun l => { l with go := true, op := op }) s

/-- A Jig of domain 5, member 1, that gives its partition 16 of 64 units of every island. -/
def jig0 : Jig :=
  { header := [], cfg := 4, lc := false, domainId := 5, memberIndex := 1, serial := 1, activateTick := 0, ownerDigest := 0, deviceDigest := 0, ownerKeys := [], dumpBody := [],
    imageDigest := 0, commonDigest := 0, addrNode := true, memberCount := 4, epochZero := 0, rekeyPeriod := 1000000000, anchors := [1, 2, 3], allow := [], shares := List.replicate 25 16,
    keepAwake := 0, placement := none, windows := [{ window := 0, kind := 0, regionId := 9, base := 0x40000000, size := 0x200000, generation := 0 }],
    regions := [{ regionId := 9, keeper := 1, mirror := 2, kind := 0, node := 0, offset := 0, size := 0x200000 }], schedule := none, groups := [], scales := [], trees := [],
    policy := { compatEn := false, escalateMax := 3, compatCount := 3, compatWindow := 600 }, telemetry := TelemetryRec.finest }

/-- Partition 0 loaded with it. -/
def jigS : State := onBlk (modPart 0 fun p => { p with state := 2, jig := some jig0 }) liveS

def ctx0 : CmdCtx := { queue := 3, cmdId := 7, cookie := 0, intr := false }

/-- Queue 3, of partition 0 and PASID 5, with one fetched command. -/
def queue0 (opcode : Byte) : Queue :=
  { part := 0, pasid := 5, sqBase := 0, cqBase := 0, sqLog := 4, cqLog := 4, sqTail := 0, cqHead := 0, sqHead := 0, cqTail := 0, state := 1, tailErr := false, held := [],
    flight := [{ ctx := ctx0, opcode := opcode, ordered := false, started := false, names := [] }], aborted := [] }

/-- A loaded partition 0 whose queue 3 has fetched a command. -/
def cmdS (opcode : Byte) (s : State) : State :=
  onBlk (fun b => { b with host := { b.host with slices := [(0, { Slice.reset with valid := true, part := 0, pasid := 5, q := 4, rgn := 4, fence := 4, bw := 4 })], queues := [(3, queue0 opcode)] } }) s

/-- The checks of a starting command, as one decidable truth value. -/
def startsB (s : State) (ctx : CmdCtx) (opcode otype : Nat) (q : Queue) : Bool :=
  s.b.live && !s.b.jtag.tcHalt && decide (s.b.queue ctx.queue = some q) && q.startable ctx opcode && s.b.rst.running.all (fun r => decide (r.scope ≠ .partition q.part)) && decide (cmdGate s.b q opcode otype = none)

theorem startsB_starts {s : State} {ctx : CmdCtx} {opcode otype : Nat} {q : Queue} (h : startsB s ctx opcode otype q = true) : s.starts ctx opcode otype q := by
  simp only [startsB, Bool.and_eq_true, Bool.not_eq_true', decide_eq_true_eq, List.all_eq_true] at h
  exact ⟨h.1.1.1.1.1, h.1.1.1.1.2, h.1.1.1.2, h.1.1.2, fun r hr => h.1.2 r hr, h.2⟩

/-- Peer member 2, an accelerator, in session with partition 0. -/
def peer2 : MemberRef := accel 2
def sec2 : Sec := { part := 0, peer := peer2, auth := true }
def sessS : State := onBlk (modPeer 0 peer2 fun q => { q with state := 7, secret := 70 }) jigS

theorem sessS_hears : sessS.hears sec2 := by refine ⟨?_, ?_, ?_⟩ <;> decide

/-! ### Ill-formed commands -/

theorem test_wf_register : (Instr.registerWrite 0x9 0).wf = false ∧ (Instr.registerWrite 0x8 0).wf = true := by decide
theorem test_wf_tickSync : (Instr.tickSync .kdr 0 true).wf = false ∧ (Instr.tickSync .ptu 0 true).wf = true := by decide
theorem test_wf_sleep : (Instr.islandSleep .ahu).wf = false ∧ (Instr.islandWake .tc).wf = false ∧ (Instr.islandSleep .hbe).wf = true := by decide
theorem test_wf_telemetry : (Instr.telemetryPosting 0 0 0 0 [0, 0, 0, 0, 0]).wf = false := by decide
theorem test_wf_bypass : (Instr.jtagBypass 0x01).wf = false ∧ (Instr.jtagBypass 0xFF).wf = true := by decide
theorem test_wf_keys : (Instr.kdrKill .tc 9 true).wf = false ∧ (Instr.kdrAcknowledge .ptu 9 true).wf = false ∧ (Instr.kdrKeyLoad .ahu 9 true).wf = false ∧ (Instr.keyCacheMiss .kdr 0 9 true).wf = false ∧
    (Instr.keyLimitNear .tc 9 true).wf = false ∧ (Instr.keyLimitReached .tc 9 true).wf = false ∧ (Instr.keyCountReport .tc 9 true).wf = false ∧
    (Instr.knownAnswerCheck 9 true .ahu).wf = false := by decide
def cipher0 : CipherReq := { part := 0, slot := 64, gen := 0, use := 2, ctr := 0, groups := 1, pinned := false, ret := 0, tag := false, seals := 0 }
theorem test_wf_cipher : (Instr.cipherRequest .hbe { cipher0 with groups := 65 }).wf = true ∧ (Instr.cipherRequest .hbe { cipher0 with groups := 0 }).wf = false ∧
    (Instr.cipherRequest .ptu cipher0).wf = false ∧ (Instr.cipherRequest .hbe cipher0).wf = true := by decide
theorem test_wf_cores : (Instr.cipherGroupCompare .hbe 24 true).wf = false ∧ (Instr.periodicCoreTest .hbe 24 .pass false).wf = false ∧ (Instr.coreWindowStart .ahu).wf = false ∧
    (Instr.gridSwitch .tc).wf = false := by decide
def xact0 : Xact := { status := 0, tag := 0, regionId := 9, dseq := 1, aux := 0, offset := 0, count := 0, acquire := false, abandon := false }
theorem test_wf_write : (Instr.write 0 2 xact0 []).wf = false ∧ (Instr.write 0 2 xact0 [0]).wf = true := by decide
theorem test_wf_fence : (Instr.cmdFence ctx0 0 false 0 0 [0, 0, 0, 0, 0]).wf = false := by decide
theorem test_wf_repair : (Instr.repairDone 0 9 1 0 [0, 0, 0, 0, 0, 0, 0, 0, 0]).wf = false := by decide
def bounceRec0 : BounceRec := { rtype := 1, status := 0, reqId := 0, length := 8, psize := false, resv := false, seq := 0, addr := 0, payload := [0, 0, 0, 0, 0, 0, 0, 0], tag := 0 }
theorem test_wf_bounce : (Instr.bounceWrite 0 { bounceRec0 with payload := List.replicate 4097 0 }).wf = false ∧ (Instr.readReq 0 { bounceRec0 with payload := List.replicate 4097 0 }).wf = false ∧
    (Instr.pageData 0 { bounceRec0 with payload := List.replicate 4097 0 }).wf = false ∧ (Instr.flush 0 { bounceRec0 with payload := List.replicate 4097 0 }).wf = false := by decide +kernel
def notice0 : ClampNotice := { tick := 0x4000000000, domainId := 5, clamping := peer2, cause := 1, suspects := [], mac := 0 }
theorem test_wf_notice : (Instr.clampNotice sec2 { notice0 with suspects := List.replicate 257 (0, 0) }).wf = false := by decide +kernel
theorem test_wf_scope : (Instr.resetComplete (.engine .tc)).wf = false ∧ (Instr.resetBoundExpire (.engine .kdr)).wf = false ∧ (Instr.resetComplete .chip).wf = true := by decide

/-! ### The clocks, the sideband, the supplies -/

theorem wit_StepRunsTheFrontCommand : ({ liveS with pending := [.clockLock] } : State).pending = .clockLock :: [] := rfl

theorem wit_IdleStepIsOneTick : (liveS.pending = [] ∧ liveS.b.up = true ∧ liveS.b.clk.loaded = true ∧ liveS.b.clk.lost = false) ∧
    (State.reset.pending = [] ∧ (State.reset.b.up && State.reset.b.clk.loaded && !State.reset.b.clk.lost) = false) := by decide

theorem wit_FusesOnlyGainCells : step liveS = .next (liveS.withB (clockTick liveS.b)) := rfl
theorem wit_BatteryDomainKeepsItsPromises : exec .rootFlip liveS = .next { liveS with hard := { liveS.hard with bat := { liveS.hard.bat with inverted := true } } } ∧ Instr.rootFlip ≠ .batteryPowerLoss := by
  refine ⟨rfl, ?_⟩; decide

/-- Latched copies of strobe 8 on the PTU. -/
def copyS : State := onBlk (modIsland .ptu fun st => { st with latched := [(8, 8)] }) liveS

/-- Released before the clocks lock: the start waits for the lock. -/
def waitS : State := onBlk (fun b => { b with rst := { b.rst with chipRstN := false }, clk := { b.clk with waits := some (false, true, false) } }) State.reset

theorem wit_TimebaseLoadsSyncsAndIsLost : (State.reset.b.rst.chipRstN = true ∧ waitS.b.clk.locked = false ∧ waitS.b.rst.chipRstN = false ∧ waitS.b.clk.waits = some (false, true, false)) ∧
    (upS.b.up = true ∧ upS.hard.bat.unreported = false ∧ upS.b.clk.loaded = false ∧ upS.hard.bat.tickFloor.toNat + 2 ^ 20 ≤ (0x100000 : Word).toNat) ∧
    (let s : State := { upS with hard := { upS.hard with bat := { upS.hard.bat with unreported := true } } }
     s.b.up = true ∧ s.hard.bat.unreported = true ∧ s.b.clk.loaded = false ∧ s.hard.bat.tickFloor.toNat + 2 ^ 20 ≤ (0x100000 : Word).toNat) ∧
    (within 0x4000000001 liveS.b.clk.tick 2 = true ∧ within 0x4000000003 liveS.b.clk.tick 2 = false) ∧
    (upS.b.clk.loaded = false ∧ (0xFFFFF : Word).toNat < upS.hard.bat.tickFloor.toNat + 2 ^ 20) ∧
    (liveS.b.up = true ∧ liveS.b.clk.loaded = true ∧ liveS.b.clk.lost = false ∧ liveS.hard.bat.tickFloor.toNat / 2 ^ 20 < liveS.b.clk.tick.toNat / 2 ^ 20) ∧
    (liveS.b.clk.tick.toNat % 1024 = 0 ∧ liveS.b.clk.strobes.head? ≠ some liveS.b.clk.tick) ∧
    (copyS.b.live = true ∧ resettable copyS.hard .ptu = true ∧ (copyS.b.island .ptu).inReset = false ∧ latchedCopy (copyS.b.island .ptu) 8 = some 8) ∧
    (latchedCopy (copyS.b.island .ptu) 9 = some 8 ∧ (8 : Word) ≠ 9) ∧ liveS.b.rst.halted = false := by decide

def pinned0 : Pinned :=
  { part := 0, cls := 2, seq := 0, start := 0, pin := 100, ready := true, readyAt := 90, slipped := false, sealed' := false, epoch := 0, stream := 1, outs := [], req := none, use := none, job := none, veneer := none, region := none }
def shimS : State := onBlk (fun b => { b with shim := [(.egress 0, pinned0)] }) liveS
def asleepS : State := onBlk (modIsland (.me 0) fun st => { st with asleep := true }) liveS

theorem wit_ShimReleasesAndIslandSleep :
    (shimS.b.live = true ∧ shimS.b.shim = [(.egress 0, pinned0)] ∧ pinned0.pin.toNat ≤ shimS.b.clk.tick.toNat ∧ heldBack shimS.b (.egress 0) pinned0 = false ∧ pinned0.ready = true ∧
      pinned0.slipped = false ∧ pinned0.readyAt.toNat ≤ pinned0.pin.toNat ∧ tooLate shimS.b (.egress 0) pinned0 100 = none ∧ pinned0.job = none ∧ pinned0.use = none ∧ pinned0.veneer = none) ∧
    (let x : Pinned := { pinned0 with readyAt := 200 }
     let s : State := onBlk (fun b => { b with shim := [(.egress 0, x)] }) liveS
     heldBack s.b (.egress 0) x = false ∧ x.pin.toNat < x.readyAt.toNat ∧ s.b.schedule x.part = none ∧ max x.readyAt.toNat x.pin.toNat ≤ s.b.clk.tick.toNat ∧ tooLate s.b (.egress 0) x 200 = none) ∧
    (let x : Pinned := { pinned0 with ready := false }
     let s : State := onBlk (fun b => { b with shim := [(.egress 0, x)] }) liveS
     heldBack s.b (.egress 0) x = false ∧ x.ready = false ∧ tooLate s.b (.egress 0) x s.b.clk.tick.toNat = none) ∧
    (maySleep liveS.hard liveS.b (.me 7) = true ∧ (readyToSleep (.me 7) liveS.b).1 = true) ∧
    (liveS.b.live = true ∧ maySleep liveS.hard liveS.b (.le 15) = true ∧ (∀ n, Island.le 15 ≠ .me n)) ∧
    (asleepS.b.live = true ∧ (asleepS.b.island (.me 0)).asleep = true ∧ (asleepS.b.island (.me 0)).stubLatch = []) := by
  refine ⟨?_, ?_, ?_, ?_, ?_, ?_⟩ <;> decide

def i3cS : State := onBlk (modI3c fun x => { x with addr := some 9, cycleWant := true, lastIbi := 5 }) liveS

theorem wit_SidebandCommandsAndRequests : (upS.b.up = true ∧ upS.b.i3c.addr = none) ∧ (i3cS.b.up = true ∧ i3cS.b.i3c.addr = some 9) ∧
    (i3cS.b.i3c.cycleWant = true ∧ i3cS.b.rst.halted = false ∧ i3cS.b.rst.compat.oos = false) ∧ i3cS.b.i3c.lastIbi.toNat + 1000000000 ≤ i3cS.b.clk.tick.toNat := by decide

def warnS : State := onBlk (modSup fun x => { x with warn := 1, period := 3, released := [(1, 0x3FFFFFD8F0)], checking := 4 }) liveS
/-- The operator's windows run, with one reading of 40 °C held. -/
def telS (win : Word) : State := onBlk (setTel .operator { TelOwner.reset with winStart := win, perStart := 0x3FF0000000, num := 1, sum := 10000, hot := some 640 }) liveS

theorem wit_SupplyTripsAndTelemetry : ((1 : BitVec 5) ≠ 0 ∧ upS.b.sup.period = 0) ∧ (warnS.b.up = true ∧ warnS.b.sup.warn.getLsbD 0 = true) ∧
    (warnS.b.sup.period.getLsbD 1 = true ∧ warnS.b.sup.warn.getLsbD 1 = false ∧ Tab.get? warnS.b.sup.released 1 = some 0x3FFFFFD8F0 ∧ (0x3FFFFFD8F0 : Word).toNat + 10000 ≤ warnS.b.clk.tick.toNat) ∧
    warnS.b.sup.checking ≠ 0 ∧
    (let s := telS 0x3FFFFFFFFF
     s.b.up = true ∧ s.b.clk.loaded = true ∧ s.b.telOn .operator = true ∧ powerDue s.b (s.b.telOf .operator) = false ∧ throttleDue s.b (s.b.telOf .operator) = false ∧
      (s.b.telOf .operator).winStart.toNat ≤ s.b.clk.tick.toNat ∧ (s.b.telOf .operator).perStart.toNat ≤ s.b.clk.tick.toNat ∧ ([0, 0, 0, 0] : List (BitVec 16)).length ≤ 4) ∧
    (let s := telS (0x4000000000 - 100000000)
     (s.b.telOf .operator).hot = some 640 ∧ (s.b.telOf .operator).num = 0 + 1 ∧ (s.b.telOf .operator).winStart.toNat + powerWindow (s.b.telOf .operator) ≤ s.b.clk.tick.toNat ∧
      s.b.clk.tick.toNat < (s.b.telOf .operator).winStart.toNat + 2 * powerWindow (s.b.telOf .operator)) ∧
    (let s := onBlk (setTel .operator { TelOwner.reset with perStart := 0x4000000000 - 1999999999 }) liveS
     (s.b.telOf .operator).perStart.toNat + throttleWindow (s.b.telOf .operator) ≤ s.b.clk.tick.toNat ∧
      s.b.clk.tick.toNat < (s.b.telOf .operator).perStart.toNat + 2 * throttleWindow (s.b.telOf .operator)) := by
  refine ⟨?_, ?_, ?_, ?_, ?_, ?_, ?_⟩ <;> decide

/-! ### Root, lifecycle, interrupts, the sealing fabric -/

def zeroisedS : State := { liveS with hard := { liveS.hard with bat := { liveS.hard.bat with zeroised := true } } }
def armedS : State := { liveS with hard := { liveS.hard with bat := { liveS.hard.bat with armMask := 0x81 } } }

theorem wit_TamperBatteryAndZeroisation : (armedS.hard.bat.armMask.getLsbD 7 = true ∧ armedS.hard.bat.zeroised = false ∧ armedS.hard.bat.armMask.getLsbD 6 = false) ∧ liveS.b.up = true ∧
    (let s : State := { armedS with hard := { armedS.hard with bat := { armedS.hard.bat with zeroised := true } } }
     s.hard.bat.armMask.getLsbD 7 = true ∧ s.hard.bat.zeroised = true) ∧
    (let s := onBlk (modPart 7 fun p => { p with state := 1 }) zeroisedS
     s.hard.bat.zeroised = true ∧ s.b.up = true ∧ s.b.partExists 7 = true) ∧
    (zeroisedS.hard.bat.zeroised = true ∧ (∀ p : Part, zeroisedS.b.partExists p = false) ∧ zeroisedS.b.ks.repls = [] ∧ zeroisedS.b.ks.invals = []) := by decide

def rootHard (f : Fuses) : Hard := { State.reset.hard with fuse := f, bat := { Battery.blank with entropy := 1#32512, check := rootCheck 1#32512, armMask := 0xFF } }
/-- The close record 0 complete: an even record with M0 to M3. -/
def closedFuse : Fuses := { Fuses.blank with records := [(0, 0xFF)] }
def token0 : Bytes := leBytes 4 0x314E504F ++ leBytes 2 1 ++ leBytes 1 1 ++ leBytes 1 0 ++ leBytes 8 0 ++ leBytes 6 5 ++ List.replicate 4738 0
def closedS : State := goS 0x04 { onBlk (setLc fun l => { l with phase := 4, rootSel := true, len := 4760 }) romS with hard := rootHard closedFuse }
def certS : State := goS 0x06 { onBlk (setLc fun l => { l with phase := 2, len := 1 }) romS with hard := rootHard { Fuses.blank with records := [(0, 0x0F)] } }

theorem rootPresent_rootHard (f : Fuses) : rootPresent (rootHard f).bat = true := by
  have h : 1#32512 ≠ 0#32512 := fun h => by
    have h' : (1#32512).getLsbD 0 = (0#32512).getLsbD 0 := congrArg (fun x => x.getLsbD 0) h
    rw [BitVec.getLsbD_one, BitVec.getLsbD_zero] at h'
    exact absurd h' (by decide)
  have h' : decide ((rootHard f).bat.entropy ≠ 0) = true := decide_eq_true h
  have h'' : (rootHard f).bat.check = rootCheck (rootHard f).bat.entropy := rfl
  unfold rootPresent
  rw [h', ← h'']
  simp

theorem wit_RootsIdentityAndCertificate : (lcRuns 0x01 (goS 0x01 romS).b = true ∧ (goS 0x01 romS).b.noRandom = false ∧ (goS 0x01 romS).b.lc.phase = 0 ∧ (∀ p : Part, (goS 0x01 romS).b.partExists p = false)) ∧
    (lcReady romS.b = true ∧ closeErr romS.hard romS.b ≠ 0) ∧
    (lcRuns 0x04 closedS.b = true ∧ reopenErr closedS.hard closedS.b none ≠ 0 ∧ lcRuns 0x06 certS.b = true ∧ burnCertErr { certS.hard with bat := Battery.blank } certS.b none ≠ 0) ∧
    (let s := onBlk (setLc fun l => { l with len := 4256 }) (goS 0x05 romS)
     lcRuns 0x05 s.b = true ∧ s.b.lc.rootSel = false ∧ s.b.lc.len = 4256 ∧ s.b.lc.addr.toNat % 8 = 0) ∧
    (let s := onBlk (setLc fun l => { l with len := 4256 }) (goS 0x07 romS)
     lcRuns 0x07 s.b = true ∧ s.b.lc.cert.length ≤ s.b.lc.len.toNat ∧ s.b.lc.addr.toNat % 8 = 0) := by
  refine ⟨?_, ?_, ?_, ?_, ?_⟩ <;> decide +kernel
theorem wit_Roots_close : closeErr (rootHard Fuses.blank) romS.b = 0 := by
  unfold closeErr
  rw [rootPresent_rootHard]
  decide
/-- The clause holds something where the public-key checks, which the spec takes from their standards, pass. -/
theorem wit_Roots_reopen (h : sigsOk Config.lifecycleKeys (Config.sha384 (token0.take 32)) "swiwyn-rma" (bytesAt token0 32 96) (bytesAt token0 128 4627) = true) :
    reopenErr closedS.hard closedS.b (some token0) = 0 := by
  unfold reopenErr
  rw [if_neg (by decide)]
  dsimp only
  rw [if_neg (by decide +kernel), if_neg (by decide +kernel), h]
  decide +kernel
theorem wit_Roots_burnCert (h : Config.certKeys [0] = some (identityKeys (deviceRoot certS.hard))) : burnCertErr certS.hard certS.b (some [0]) = 0 := by
  unfold burnCertErr
  rw [if_neg (by decide), show certS.hard.bat = (rootHard Fuses.blank).bat from rfl, rootPresent_rootHard]
  dsimp only
  rw [if_neg (by decide), if_neg (by decide), h]
  simp

def bundle0 : Bytes := leBytes 4 0x31425753 ++ leBytes 2 1 ++ leBytes 2 0 ++ leBytes 4 4800 ++ leBytes 4 8 ++ leBytes 4 0 ++ [1, 0] ++ List.replicate 4778 0
/-- No tick counter yet. -/
def unloaded (s : State) : State := onBlk (fun b => { b with clk := { b.clk with loaded := false } }) s
def fetchS : State := onBlk (setLc fun l => { l with bootState := 1 }) romS

theorem wit_StartsResetsAndTheClampEnd : (romS.b.up = true ∧ romS.b.lc.romRun = true ∧ romS.b.lc.bootState = 0 ∧ romS.b.clk.loaded = true ∧ (unloaded romS).b.clk.loaded = false) ∧
    (fetchS.b.up = true ∧ fetchS.b.clk.loaded = true ∧ fetchS.b.lc.bootState = 1 ∧ bundleErr fetchS.hard fetchS.b none ≠ 0) ∧ (State.reset.b.rst.chipRstN = true ∧ State.reset.b.clk.locked = false) ∧
    (let s := onBlk (fun b => { b with clk := { b.clk with locked := true } }) State.reset; s.b.rst.chipRstN = true ∧ s.b.clk.locked = true) ∧ (haltS.b.up = true ∧ haltS.b.rst.halted = true) := by decide
theorem wit_Starts_bundle (h : sigsOk Config.firmwareKeys (Config.sha384 (bundle0.take 72)) "swiwyn-patch" (bytesAt bundle0 72 96) (bytesAt bundle0 168 4627) = true) :
    bundleErr fetchS.hard fetchS.b (some bundle0) = 0 := by
  have h1 : fieldAt bundle0 12 4 = 8 := by decide +kernel
  have h2 : sigOff bundle0 = 72 := by decide +kernel
  unfold bundleErr
  dsimp only
  rw [show bundleHeadOk bundle0 = true by decide +kernel, h1, h2, h]
  rw [if_neg (by decide), if_neg (by decide), if_neg (by decide +kernel), show lcClosed fetchS.b = false by decide]
  simp
  decide

theorem wit_TestAccessPort : romS.hard.fuse.open' = true ∧ closedS.hard.fuse.open' = false := by decide

def srcS : State := onBlk (fun b => { b with ic := { b.ic with srcs := [(272, { srcDefault .x 272 with state := 1 })] } }) liveS
def activeS : State := onBlk (fun b => { b with ic := { b.ic with srcs := [(272, { srcDefault .x 272 with state := 2 })] } }) liveS

theorem wit_SourcesAreDeliveredAndFire : (srcS.b.up = true ∧ srcS.b.nextOwner srcS.b.ic.turn 9 = some (0, 272, { srcDefault .x 272 with state := 1 })) ∧
    ({ srcDefault .x 272 with state := 0 } : Src).state = 0 ∧ ({ srcDefault .x 272 with state := 1 } : Src).state = 1 ∧ ({ srcDefault .x 272 with state := 2 } : Src).state = 2 ∧
    ({ srcDefault .x 272 with state := 3 } : Src).state = 3 := by decide

theorem wit_CompletionsAndSetpend : (activeS.b.up = true ∧ activeS.b.lc.bootState = 2) ∧
    ((272 : BitVec 10).toNat ≤ 420 ∧ (activeS.b.src activeS.hard.cfg 272).owner = some (.part 0) ∧ ((activeS.b.src activeS.hard.cfg 272).state = 2 ∨ (activeS.b.src activeS.hard.cfg 272).state = 3)) ∧
    ¬ ((421 : BitVec 10).toNat ≤ 420) ∧ activeS.b.rst.halted = false ∧ (activeS.b.src activeS.hard.cfg 420).owner ≠ some (.part 0) ∧ (haltS.b.rst.halted = true ∧ srcFiresHalted 271 = false) := by decide

theorem wit_LogDataReadAdvances : liveS.b.up = true ∧ liveS.b.lc.bootState = 2 ∧ liveS.b.logEntry 8 0 = none := by decide
theorem wit_LogRingsKeepTheirCapacity : ∀ r, (liveS.b.ring r).length ≤ ringCap r := fun _ => Nat.zero_le _

/-- HBE: a grid that gives partition 0 every cell, one about to be switched to, and one group in flight. -/
def group0 : Group := { core := 3, part := some 0, slot := 64, ret := 9, ctr := 0, key := 0, tag := false, recomp := 0, first := 0, warned := false }
def slot64 : KeySlot := { KeySlot.free with attr := { Attr.zero with st := 1, owner := 0, type := 13, uses := 0x3F } }
def userSlot (o : BitVec 4) : KeySlot := { slot64 with attr := { slot64.attr with owner := o } }
def slot0 : KeySlot := { KeySlot.free with attr := { Attr.zero with st := 1, owner := 8 } }
def keyS (s : State) : State := onBlk (fun b => { b with ks := { b.ks with slots := [(0, slot0), (64, { slot64 with pasid := 5 })] } }) s
def gridS : State := onBlk (modIsland .hbe fun st => { st with grid := { st.grid with next := [{ basis := [], cells := [], due := 0x4000000000 }] }, groups := [group0] }) (keyS jigS)

theorem wit_GridsAndCipherRequests :
    (gridS.b.live = true ∧ (gridS.b.island .hbe).grid.next = [{ basis := [], cells := [], due := 0x4000000000 }] ∧ (gridS.b.island .hbe).held = [] ∧ (gridS.b.island .hbe).grid.column = 0 ∧ (0x4000000000 : Word).toNat ≤ gridS.b.clk.tick.toNat ∧
      (∀ q ∈ (gridS.b.island .hbe).reqs, (gridS.b.jigOf q.req.part).isSome = true ∧ (gridS.b.part q.req.part).state ≠ 3)) ∧
    (islandPresent gridS.hard.cfg .hbe = true ∧ (gridS.b.island .hbe).asleep = false ∧ (gridS.b.island .hbe).inReset = false ∧ gridS.b.jigOf cipher0.part = some jig0 ∧ jig0.share .hbe ≠ 0 ∧
      ((gridS.b.island .hbe).reqs.filter fun q => decide (q.req.part = cipher0.part)).length < 32 ∧ 1 ≤ cipher0.groups ∧ cipher0.groups ≤ 64 ∧ gridS.b.genLive cipher0.slot cipher0.gen = true ∧ gridS.b.genLive cipher0.slot 7 = false ∧ 64 < ({ cipher0 with groups := 65 } : CipherReq).groups ∧
      (gridS.b.slot cipher0.slot.toNat).attr.uses.getLsbD (useBit cipher0.use) = true ∧ cipher0.use.getLsbD 0 = false) ∧
    (coresOf gridS.hard.cfg .hbe ≠ 0 ∧ (∀ q ∈ (gridS.b.island .hbe).reqs, gridS.b.genLive q.req.slot q.req.gen = true) ∧ (gridS.b.island .hbe).grid.waiting = [] ∧ (gridS.b.island .hbe).grid.moved = []) ∧
    (let s := onBlk (modIsland .hbe fun st => { st with reqs := List.replicate 32 { req := cipher0, issued := 0 } }) gridS
     32 ≤ ((s.b.island .hbe).reqs.filter fun q => decide (q.req.part = cipher0.part)).length ∧ ((s.b.island .hbe).held.any fun q => decide (q.part = cipher0.part)) = false) := by
  refine ⟨?_, ?_, ?_, ?_⟩ <;> decide +kernel

def groupS (n : Nat) (s : State) : State := onBlk (modIsland .hbe fun st => { st with groups := [{ group0 with recomp := n }] }) s

theorem wit_ComparedGroupsAndCoreTests :
    ((groupS 0 liveS).b.live = true ∧ (((groupS 0 liveS).b.island .hbe).groups.find? fun x => decide (x.core = 3)) = some group0 ∧ group0.recomp = 0 ∧ group0.part = some 0) ∧
    ((groupS 1 liveS).b.live = true ∧ (((groupS 1 liveS).b.island .hbe).groups.find? fun x => decide (x.core = 3)) = some { group0 with recomp := 1 } ∧ (groupS 1 liveS).b.inWarning .hbe = false) ∧
    ((groupS 3 liveS).b.live = true ∧ (((groupS 3 liveS).b.island .hbe).groups.find? fun x => decide (x.core = 3)) = some { group0 with recomp := 3 }) ∧
    (let s := groupS 2 (onBlk (modSup fun x => { x with period := 31 }) liveS)
     s.b.live = true ∧ ((s.b.island .hbe).groups.find? fun x => decide (x.core = 3)) = some { group0 with recomp := 2 } ∧ s.b.inWarning .hbe = true) ∧
    (islandPresent liveS.hard.cfg .hbe = true ∧ 3 < coresOf liveS.hard.cfg .hbe ∧ (liveS.b.island .hbe).asleep = false ∧ (liveS.b.island .hbe).inReset = false ∧
      Tab.get? (liveS.b.island .hbe).tests 3 = none ∧ freeCycle liveS.hard.cfg .hbe (liveS.b.island .hbe).grid none 3 = true) ∧
    (let g : GridSt := { (liveS.b.island .hbe).grid with cells := List.replicate 64 2, issued := [(3, 16)] }
     freeCycle liveS.hard.cfg .hbe g (some 0) 3 = false ∧ g.foreign.contains 3 = false ∧ freeCycle liveS.hard.cfg .hbe g none 3 = false ∧ ({ g with foreign := [3] } : GridSt).foreign.contains 3 = true) := by decide

theorem wit_RandomValuesAreTested : (let s := onBlk (fun b => { b with ent := { b.ent with gens := 2 ^ 20 } }) liveS; s.b.up = true ∧ 2 ^ 20 ≤ s.b.ent.gens ∧ s.b.ent.withheld = false) ∧
    (let s := onBlk (fun b => { b with ent := { b.ent with waiting := [(ctx0, 0, 0x4000000000 - 1000000001)] } }) liveS
     s.b.live = true ∧ s.b.ent.waiting = [(ctx0, 0, 0x4000000000 - 1000000001)] ∧ (0x4000000000 - 1000000001 : Word).toNat + 1000000000 < s.b.clk.tick.toNat) := by decide

/-! ### Keys and links -/

def cmdKeyS (opcode : Byte) : State := cmdS opcode (keyS jigS)
theorem starts_key (opcode : Byte) (h : startsB (cmdKeyS opcode) ctx0 opcode.toNat 0 (queue0 opcode) = true) : (cmdKeyS opcode).starts ctx0 opcode.toNat 0 (queue0 opcode) := startsB_starts h

theorem wit_KeyCommandsTakeEffect : (startsB (cmdKeyS 0x08) ctx0 0x08 0 (queue0 0x08) = true ∧ (cmdKeyS 0x08).b.keysPaused = false ∧ keyRefusal (cmdKeyS 0x08).b (queue0 0x08) 64 = none ∧
      ((cmdKeyS 0x08).b.slot 64).attr.uses.getLsbD useDerive = true ∧ depthOf (cmdKeyS 0x08).b 8 64 < 7 ∧ targetSlot (cmdKeyS 0x08).b 0 = some 65) ∧
    (startsB (cmdKeyS 0x09) ctx0 0x09 0 (queue0 0x09) = true ∧ ((cmdKeyS 0x09).b.slot 64).attr.type = 13 ∧ (cmdKeyS 0x09).b.repl 64 = none ∧ ((cmdKeyS 0x09).b.slot 64).attr.generation ≠ 0xFFFF ∧
      (cmdKeyS 0x09).b.lowestFreeSlot = some 65) ∧
    startsB (cmdKeyS 0x0A) ctx0 0x0A 0 (queue0 0x0A) = true ∧
    (let s := onBlk (modSlot 64 fun k => { k with attr := { k.attr with exportable := true } }) (cmdKeyS 0x0B)
     startsB s ctx0 0x0B 0 (queue0 0x0B) = true ∧ keyRefusal s.b (queue0 0x0B) 64 = none ∧ s.b.jigOf 0 = some jig0 ∧ (8 : Word).toNat % 8 = 0 ∧ (s.b.slot 64).attr.exportable = true ∧ s.b.noRandom = false) := by
  refine ⟨?_, ?_, ?_, ?_⟩ <;> decide +kernel

/-- Slot 65 below slot 64. -/
def treeS : State := onBlk (setSlot 65 { slot64 with attr := { slot64.attr with parent := 64 } }) (keyS jigS)
theorem wit_InvalidationReachesTheWholeTree : (64 < 4096 ∧ 1 ≤ 7) ∧ ((fun x => (treeS.b.slot x).attr.parent.toNat)^[1]) 65 = 64 ∧
    (∀ i, i < 1 → ((fun x => (treeS.b.slot x).attr.parent.toNat)^[i]) 65 ≠ 0) ∧ (0 < 8 ∧ 0 ≠ 64 ∧ Tab.has treeS.b.ks.slots 0 = true ∧ treeS.b.ks.repls = []) := by
  refine ⟨by decide, by decide, fun i hi => ?_, by decide⟩
  obtain rfl : i = 0 := by omega
  decide

def cacheEnt0 : CacheEnt := { slot := 64, home := 64, gen := 0, previous := false, value := 0, count := 256, reported := 0, commit := 0, part := 0, what := .own, alpha := 0 }
/-- Island HBE holds slot 64, whose limit is 2^8 uses. -/
def cacheS : State := onBlk (fun b => modIsland .hbe (fun st => { st with cache := [cacheEnt0] }) (modSlot 64 (fun k => { k with attr := { k.attr with limitExp := 8 } }) b)) (keyS jigS)
def killS : State := onBlk (modIsland .hbe fun st => { st with kdrIn := [.kill 64] }) cacheS
def ackS : State := onBlk (fun b => { b with ks := { b.ks with invals := [{ root := 64, count := 1, waits := [(.hbe, 64)], ctx := none, part := 0, gen := 0 }] } }) liveS
def loadS (gen : BitVec 16) : State := onBlk (modIsland (.me 0) fun st => { st with kdrIn := [.load 64 64 gen false 1 0 0 0 .own 0] }) (keyS liveS)

theorem wit_KillsLoadsMissesAndLimits : (killS.b.live = true ∧ takeKill 64 (killS.b.island .hbe).kdrIn = some []) ∧
    (ackS.b.live = true ∧ (ackS.b.ks.invals.any fun v => v.waits.contains (.hbe, 64)) = true ∧ killDone (ackS.b.island .hbe) 64 = true) ∧
    (let s := onBlk (setSlot 64 { slot64 with attr := { slot64.attr with st := 3 } }) liveS
     s.b.live = true ∧ (s.b.slot 64).attr.st = 3 ∧ (∀ v ∈ s.b.ks.invals, ∀ w ∈ v.waits, w.2 ≠ 64)) ∧
    ((loadS 0).b.live = true ∧ ((loadS 0).b.island (.me 0)).asleep = false ∧ ((loadS 0).b.island (.me 0)).inReset = false ∧ ((loadS 0).b.island (.me 0)).kdrIn = [.load 64 64 0 false 1 0 0 0 .own 0] ∧
      ((loadS 0).b.slot 64).attr.generation = 0) ∧
    (((loadS 3).b.island (.me 0)).kdrIn = [.load 64 64 3 false 1 0 0 0 .own 0] ∧ ((loadS 3).b.slot 64).attr.generation ≠ 3 ∧ (loadS 3).b.repl 64 = none) ∧
    (let r : Repl := { shadow := 66, ctx := none, stage := .confirmed, commitTick := 9, notBefore := 0, await := [], failedKat := false, retireTick := none, link := none }
     let s := onBlk (setRepl 64 r) (keyS jigS)
     s.b.slotLive 64 = true ∧ s.b.groupOfSlot 0 64 = none ∧ s.b.repl 64 = some r ∧ r.stage = .confirmed) ∧
    (let s := onBlk (modAdm 0 fun a => { a with groupSlots := [(7, 64)] }) (keyS jigS)
     s.b.slotLive 64 = true ∧ s.b.cached .hbe 64 = none ∧ s.b.groupOfSlot 0 64 = some 7) ∧
    (let s := keyS jigS
     s.b.live = true ∧ (cipherIslands s.hard.cfg).contains .hbe = true ∧ (s.b.island .hbe).asleep = false ∧ (s.b.island .hbe).inReset = false ∧ (s.b.slot 64).attr.owner = BitVec.ofNat 4 (0 : Part).val ∧
      s.b.slotLive 64 = true ∧ s.b.cached .hbe 64 = none ∧ loadPending s.b .hbe 64 false .own = false ∧ s.b.groupOfSlot 0 64 = none ∧ s.b.repl 64 = none) ∧
    (cacheS.b.live = true ∧ cacheS.b.cached .hbe 64 = some cacheEnt0 ∧ (cacheS.b.slot 64).attr.limitExp ≠ 0) ∧
    ((cacheS.b.slot 64).attr.st = 1 ∧ (cacheS.b.slot 64).attr.type = 13 ∧ nearPoint (cacheS.b.slot 64).attr.limitExp.toNat ≤ cacheS.b.useCount .hbe 64 ∧ (cacheS.b.slot 64).told.getLsbD 0 = false ∧
      2 ^ (cacheS.b.slot 64).attr.limitExp.toNat ≤ cacheS.b.useCount .hbe 64 ∧ (cacheS.b.slot 64).told.getLsbD 1 = false) := by
  refine ⟨?_, ?_, ?_, ?_, ?_, ?_, ?_, ?_, ?_, ?_⟩ <;> decide +kernel

def repl0 : Repl := { shadow := 66, ctx := none, stage := .staged, commitTick := 0, notBefore := 0, await := [], failedKat := false, retireTick := none, link := none }
def replS (r : Repl) (s : State) : State := onBlk (setRepl 64 r) s
def link0 : LinkRef := { sender := 1, port := 0, epoch := 1, egress := true }
/-- A link key of port 0 that awaits member 2's confirmation, and a session with it. -/
def linkRepl : Repl := { repl0 with stage := .checked, await := [peer2], commitTick := 0x4000002710, link := some link0 }
def confirmS : State := replS linkRepl (onBlk (fun b => { b with ks := { b.ks with slots := [(0, slot0), (64, slot64)] } }) sessS)

theorem wit_ReplacementsAreCheckedConfirmedAndCommitted :
    (let s := replS repl0 (onBlk (modSlot 64 fun k => { k with heldBy := [.hbe] }) (keyS jigS)); s.b.live = true ∧ s.b.repl 64 = some repl0 ∧ repl0.stage = .staged ∧ s.b.keysPaused = false ∧ (s.b.slot 64).attr.type = 13 ∧ repl0.link = none ∧ repl0.await = [] ∧ repl0.commitTick = 0 ∧ repl0.failedKat = false ∧ (replIslands s.b 64).contains .hbe = true) ∧
    (let r := { repl0 with commitTick := 9 }; let s := replS r (keyS jigS); s.b.repl 64 = some r ∧ r.stage = .staged ∧ r.commitTick ≠ 0 ∧ r.commitTick.toNat < s.b.clk.tick.toNat) ∧
    (let s := replS { repl0 with failedKat := true } (keyS jigS); s.b.repl 64 = some { repl0 with failedKat := true } ∧ ({ repl0 with failedKat := true } : Repl).failedKat = true) ∧
    (let s := confirmS; ((heard sec2 s.b).ks.repls.find? fun e => decide (((heard sec2 s.b).slot e.1).attr.owner = BitVec.ofNat 4 sec2.part.val) &&
        (match e.2.link with | some l => l.egress && decide (linkContext l = (0x1000001 : Word).toNat) | none => false)) = some (64, linkRepl) ∧ 64 < 4096 ∧ linkRepl.await.contains sec2.peer = true ∧
      s.b.clk.tick.toNat + 10000 ≤ linkRepl.commitTick.toNat) ∧
    (let r := { linkRepl with commitTick := 0x400000270F }
     let s := replS r confirmS
     s.b.live = true ∧ s.b.repl 64 = some r ∧ ownerPart (s.b.slot 64).attr.owner = some 0 ∧ r.await ≠ [] ∧ r.stage ≠ .committed ∧ (∀ m ∈ r.await, (s.b.peer 0 m).inSession = true) ∧ r.commitTick ≠ 0 ∧
      r.commitTick.toNat < s.b.clk.tick.toNat + 10000) ∧
    (let r := { repl0 with stage := .confirmed, commitTick := 1 }
     let s := replS r (keyS jigS); s.b.repl 64 = some r ∧ r.stage = .confirmed ∧ r.commitTick ≠ 0 ∧ r.commitTick.toNat ≤ s.b.clk.tick.toNat) ∧
    (let r := { repl0 with stage := .committed, retireTick := some 0x4000000000 }
     let s := replS r (keyS jigS); s.b.repl 64 = some r ∧ r.stage = .committed ∧ r.retireTick = some 0x4000000000 ∧ (0x4000000000 : Word).toNat ≤ s.b.clk.tick.toNat) := by
  refine ⟨?_, ?_, ?_, ?_, ?_, ?_, ?_⟩
  · decide
  · exact ⟨rfl, rfl, by decide, by decide⟩
  · decide
  · decide
  · exact ⟨by decide, rfl, by decide, by decide, by decide, fun m hm => List.mem_singleton.mp hm ▸ (by decide : (confirmS.b.peer 0 peer2).inSession = true), by decide, by decide⟩
  · exact ⟨rfl, rfl, by decide, by decide⟩
  · exact ⟨rfl, rfl, rfl, by decide⟩
theorem wit_Replacements_confirm : confirmS.hears sec2 := by refine ⟨?_, ?_, ?_⟩ <;> decide

theorem wit_CommitSwapsInTheNewValue : (replS repl0 (keyS jigS)).b.repl (64 : Slot).toNat = some repl0 ∧ repl0.shadow ≠ 64 := by decide

theorem wit_NoSequenceNumberIsDeliveredTwice : (((Window.fresh 0).mark 0).bind fun w' => [4095].foldlM (fun (x : Window) n => x.mark n) w').isSome = true := by decide +kernel
theorem wit_ReplayWindowsCheckAndMark : ((Window.fresh 0).mark 0).isSome = true := by decide +kernel

def frame0 (t : BitVec 4) : Frame :=
  { ftype := t, cls := 0, cmark := false, skind := false, hops := 0, sender := 2, stream := 0, epoch := 0, seq := 1, sport := 0, payload := [1, 2, 3, 4, 5, 6, 7, 8], tag := 0 }
theorem wit_FramesParseAsTheyAreWritten : (frame0 1).payload.length % 8 = 0 ∧ (frame0 1).payload.length ≤ 512 ∧ 1 ≤ (frame0 1).ftype.toNat ∧ (frame0 8).ftype.toNat ≤ 8 ∧ ((frame0 5).skind = true → (frame0 5).ftype = 5) := by decide

def sched0 : Schedule :=
  { slotTicks := 1000, cycleSlots := 4, cycleZero := 0, extEgress := 0, extIngress := 0, extRead := 0, entries := [{ slot := 0, port := 0, stream := 1, egress := true, cls := 1, peer := 2 }] }
def entry0 : SchedEntry := { slot := 0, port := 0, stream := 1, egress := true, cls := 1, peer := 2 }
def schedJig : Jig := { jig0 with schedule := some sched0 }
/-- A keyed partition with a schedule, at the start of slot 0. -/
def schedS : State :=
  onBlk (fun b => modAdm 0 (fun a => { a with keyed := true }) (modPart 0 (fun p => { p with jig := some schedJig }) { b with clk := { b.clk with tick := 0x4000000000 - 0x4000000000 % 4000 } })) jigS

theorem wit_FramesAreCheckedScheduledAndDropped :
    (liveS.b.live = true ∧ portPresent liveS.hard.cfg 63 = true ∧ (liveS.b.island (portIsland 63)).inReset = false ∧ (liveS.b.island (portIsland 63)).asleep = false ∧ parseFrame [] = none ∧ (liveS.b.port 63).mode = 0) ∧
    (parseFrame (plainFrame (frame0 4) 0) = some (frame0 4) ∧ (frame0 4).ftype = 4) ∧ (parseFrame (plainFrame (frame0 1) 0) = some (frame0 1) ∧ liveS.b.jigOf 0 = none) ∧
    (parseFrame (plainFrame (frame0 8) 0) = some (frame0 8) ∧ schedS.b.jigOf 0 = some schedJig ∧ schedS.b.keyed 0 = true ∧ (frame0 8).hops.toNat ≤ 5) ∧
    (let t : Word := 0x4000000000 - 0x4000000000 % 4000
     schedS.b.live = true ∧ schedS.b.schedule 0 = some sched0 ∧ egressEntry sched0 0 t.toNat = some entry0 ∧ t.toNat ≤ schedS.b.clk.tick.toNat ∧ schedS.b.clk.tick.toNat < t.toNat + sched0.slotTicks ∧
      schedS.b.gone 0 entry0.peer = false ∧ entry0.cls = 1 ∧ egressStopped schedS.b 0 0 = false) ∧
    (let s := onBlk (modIsland (.le 0) fun st => { st with asleep := true }) liveS
     s.b.live = true ∧ portPresent s.hard.cfg 0 = true ∧ (s.b.island (portIsland 0)).inReset = false ∧ (s.b.island (portIsland 0)).asleep = true) ∧
    (let x : Pinned := { pinned0 with sealed' := true }
     let s := onBlk (fun b => { b with shim := [(.egress 0, x)] }) schedS
     s.b.live = true ∧ s.b.jigOf 0 = some schedJig ∧ s.b.shim = [(.egress 0, x)] ∧ x.part = 0 ∧ x.sealed' = true ∧ epochStart schedJig (x.epoch + 1) + 1250 ≤ s.b.clk.tick.toNat) := by
  refine ⟨?_, ?_, ?_, ?_, ?_, ?_, ?_⟩ <;> decide +kernel

def rec0 : StreamRec :=
  { port := 0, skind := false, sender := 2, stream := 1, st := 0, floor := 0, prevFloor := none, challenge := 11, tries := 1, asked := 0x4000000000 - 20000, scheduled := false, created := 0, sport := 0, used := true, usedPrev := false }
def recS (r : StreamRec) : State := onBlk (modLePart 0 0 fun l => { l with records := [r] }) schedS

theorem wit_StreamsSynchronise :
    (schedS.b.live = true ∧ schedS.b.keyed 0 = true ∧ portPresent schedS.hard.cfg 0 = true ∧ (schedS.b.epochSt 0).start.toNat ≤ schedS.b.clk.tick.toNat ∧
      (∀ q : Port, schedS.b.seqOf 0 q (schedS.b.epochSt 0).epoch 1 ≤ 4 * (schedS.b.clk.tick.toNat - (schedS.b.epochSt 0).start.toNat + 1))) ∧
    ((recS rec0).b.live = true ∧ 0 < leCount (recS rec0).hard.cfg ∧ (∀ m : Fin 16, m ≠ 0 → ((recS rec0).b.lePart m 0).pendingRec 2 1 (fun y => decide (y.challenge = rec0.challenge)) = none) ∧
      ((recS rec0).b.lePart (Fin.ofNat 16 0) 0).pendingRec 2 1 (fun y => decide (y.challenge = rec0.challenge)) = some rec0 ∧ rec0.scheduled = false) ∧
    (let r := { rec0 with asked := 0x4000000000 - 0x4000000000 % 4000 - 20000 }
     ((recS r).b.lePart (portLe 0) 0).pendingRec 2 1 (fun y => decide (20000 ≤ since (recS r).b y.asked)) = some r ∧ r.tries < 3) ∧
    (let r := { rec0 with asked := 0, tries := 3 }
     ((recS r).b.lePart (portLe 0) 0).pendingRec 2 1 (fun y => decide (20000 ≤ since (recS r).b y.asked)) = some r ∧ 3 ≤ r.tries) := by
  refine ⟨?_, ?_, ?_, ?_⟩ <;> decide +kernel

/-- Epoch 1 of a schedule's partition begins at tick 10^9: a millisecond before it, and at it. -/
def epochS (t : Word) : State := onBlk (fun b => { b with clk := { b.clk with tick := t } }) schedS

theorem wit_LinkKeysChangeWithTheEpoch :
    (let s := epochS 999000000
     s.b.live = true ∧ s.b.jigOf 0 = some schedJig ∧ s.b.keyed 0 = true ∧ epochStart schedJig ((s.b.epochSt 0).epoch + 1) ≤ s.b.clk.tick.toNat + 1000000 ∧
      s.b.clk.tick.toNat < epochStart schedJig ((s.b.epochSt 0).epoch + 1) ∧ changingPorts s.hard s.b 0 = [0] ∧ (s.b.epochSt 0).keys = []) ∧
    (let s := epochS 1000000000; epochStart schedJig ((s.b.epochSt 0).epoch + 1) ≤ s.b.clk.tick.toNat ∧ s.b.lparts = []) ∧
    (let s := onBlk (modPortPart 0 0 fun x => { x with failed := some (1, 1), egressKey := some (70, 0) }) (epochS 999000000)
     (s.b.portPart 0 0).failed = some (1, 1) ∧ ((1 : BitVec 24) = (s.b.epochSt 0).epoch ∨ (1 : BitVec 24) = (s.b.epochSt 0).epoch + 1) ∧ (s.b.portPart 0 0).tried = none ∧ (s.b.portPart 0 0).egressKey.isSome = true) ∧
    (let s := onBlk (modEpoch 0 fun e => { e with kerf := true, start := 999998000 }) (epochS 1000000000)
     s.b.live = true ∧ (s.b.epochSt 0).kerf = true ∧ (s.b.epochSt 0).start.toNat + 2000 ≤ s.b.clk.tick.toNat ∧ (s.b.epochSt 0).keys = [] ∧ (∀ n, ∀ c ∈ (s.b.island (.le n)).cache, c.what = .own) ∧ (∀ n, (s.b.lePart n 0).inbuf = [])) ∧
    (let x : LinkKey := { ref := link0, slot := 70 }
     let s := onBlk (modEpoch 0 fun e => { e with keys := [x] }) schedS
     s.b.live = true ∧ s.b.keyed 0 = true ∧ (s.b.epochSt 0).keys = [x] ∧ x.ref.egress = true ∧ s.b.vgroups = []) := by
  refine ⟨?_, ?_, ?_, ?_, ?_⟩ <;> decide +kernel

def qframe0 : QFrame := { part := 0, ftype := 1, stream := 0, dest := 2, switch := false, node := 0, payload := [0, 0, 0, 0, 0, 0, 0, 0], tick := 0, notice := false, tag := none }
/-- Port 0 of partition 0 holds its egress key of epoch 0, slot 64, and one class 0 frame. -/
def egressS : State :=
  onBlk (fun b => modIsland (.le 0) (fun st => { st with cache := [cacheEnt0] }) (modPortPart 0 0 (fun x => { x with egressKey := some (64, 0) }) (modPort 0 (fun x => { x with queue0 := [qframe0] }) b))) (keyS (epochS 1000))

theorem wit_EgressChoosesAndShapes :
    (egressS.b.live = true ∧ portPresent egressS.hard.cfg 0 = true ∧ (egressS.b.port 0).mode = 0 ∧ (egressS.b.island (portIsland 0)).asleep = false ∧ (egressS.b.island (portIsland 0)).inReset = false ∧
      (egressS.b.port 0).queue0 = [qframe0] ∧ (egressS.b.port 0).wait0 = [] ∧ (∀ p : Part, (egressS.b.portPart 0 p).queue3 = []) ∧ 0 ≤ (egressS.b.port 0).tokens ∧ qframe0.ftype ≠ 8 ∧ egressS.b.egressSlot 0 0 = some 64 ∧
      guardOk egressS.b 0 (qBytes qframe0) = true) ∧
    (liveS.b.live = true ∧ (liveS.b.port 0).queue0 = [] ∧ (∀ p : Part, (liveS.b.portPart 0 p).queue3 = []) ∧ (liveS.b.port 0).genEn = false ∧ (liveS.b.port 0).chkEn = false) ∧
    (let q : QFrame := { qframe0 with ftype := 4, notice := true }
     let s := onBlk (fun b => modRst (fun r => { r with halted := true }) (modPort 0 (fun x => { x with queue0 := [q] }) b)) schedS
     s.b.up = true ∧ s.b.clk.loaded = true ∧ s.b.rst.halted = true ∧ portPresent s.hard.cfg 0 = true ∧ (s.b.island (portIsland 0)).inReset = false ∧ (s.b.port 0).queue0 = [q] ∧ (s.b.port 0).wait0 = [] ∧
      q.ftype = 4 ∧ q.tag = none ∧ s.b.jigOf q.part = some schedJig) := by
  refine ⟨?_, ?_, ?_⟩ <;> decide +kernel


/-! ### Ports and transactions -/

theorem wit_PortModesPatternsAndSamples :
    (liveS.b.regs = true ∧ islandPresent liveS.hard.cfg (portIsland 0) = true ∧ (liveS.b.island (portIsland 0)).inReset = false ∧ (liveS.b.island (portIsland 0)).asleep = false ∧
      portPresent liveS.hard.cfg 0 = true ∧ (liveS.b.port 0).mode ≠ 2 ∧ (∀ p : Part, ∀ e ∈ liveS.b.entries p, e.port ≠ (0 : Port).val)) ∧
    (schedS.b.regs = true ∧ (schedS.b.island (portIsland 0)).inReset = false ∧ (schedS.b.island (portIsland 0)).asleep = false ∧ (schedS.b.port 0).mode ≠ 2 ∧
      ∃ p : Part, ∃ e ∈ schedS.b.entries p, e.port = (0 : Port).val) ∧
    (let s := onBlk (modPort 0 fun x => { x with drain := some (1, 0) }) liveS
     s.b.up = true ∧ s.b.rst.halted = false ∧ (s.b.port 0).drain = some (1, 0) ∧ portQueues s.b 0 = []) ∧
    (liveS.b.port 0).chkEn = false ∧ liveS.b.rst.halted = false ∧
    (let s := epochS 1000; s.b.live = true ∧ s.b.clk.tick.toNat % 1000 = 0 ∧ (0 : Fin 16).val < leCount s.hard.cfg) ∧ (sampleOf (egressS).b 0 0 0 0).depth ≠ 0 ∧
    (jigS.b.regs = true ∧ islandPresent jigS.hard.cfg (.le 0) = true ∧ (jigS.b.island (.le 0)).inReset = false ∧ (jigS.b.island (.le 0)).asleep = false ∧ jigS.b.partExists 0 = true) := by
  refine ⟨?_, ?_, ?_, ?_, ?_, ?_, ?_, ?_⟩ <;> decide +kernel

def token9 : Token :=
  { regionId := 9, keeper := 1, mirror := 2, tokenSeq := 5, domainId := 5, generation := 0, levels := 1, unreadable := false, sweep := false, noMirror := false, audit := false,
    pages := 1, sweepPtr := 0, majorHwm := 0, root := 0, mac := 0 }
/-- Region 9, of one page, kept here. -/
def region9 : Region :=
  { part := 0, pasid := some 5, window := some 0, regionId := 9, kind := 1, state := 2, role := 0, me := 0, base := 0, node := 0, pages := 1, levels := 1, keySlot := 64, gen := 0, prevKey := none,
    token := token9, shown := token9, readers := [], pub := none, again := false, published := 5, lost := [], sweeping := false, handing := false, audit := none, repair := none, reverifies := [],
    repairs := [], ctx := none, openTick := 0, dying := false, deferral := none, closing := false, backs := [], tookOver := none }
def regS (r : Region) (s : State) : State := onBlk (fun b => { b with regions := [(3, r)] }) s
def keepS : State := regS region9 sessS
def xact1 : Xact := { xact0 with count := 1 }
def held (mt aop : Byte) (ls : List Line) : Held := { dseq := 1, mtype := mt, x := xact1, lines := ls, aop := aop, opA := 0, opB := 0 }
def pairS (f : PairKeep → PairKeep) : State := onBlk (modKeep 0 2 f) keepS

theorem wit_KeepersApplyMessagesInOrder :
    (keepS.b.live = true ∧ keepS.b.session 0 2 = true ∧ (keepS.b.island .ahu).inReset = false ∧ xact1.dseq.toNat = (keepS.b.pairKeep 0 2).accepted + 1 ∧ (keepS.b.pairKeep 0 2).busy = false ∧
      xact1.abandon = false ∧ keepS.b.regionById 0 xact1.regionId = some (3, region9)) ∧
    ((held mRead 0 []).wellFormed = true ∧ keepRefusal keepS.b 0 (held mRead 0 []) = none) ∧ ((held mWrite 0 [7]).wellFormed = true ∧ keepRefusal keepS.b 0 (held mWrite 0 [7]) = none) ∧
    ((held mAtomic 2 []).wellFormed = true ∧ keepRefusal keepS.b 0 (held mAtomic 2 []) = none) ∧
    (let s := pairS fun k => { k with accepted := 1, floor := 0 }
     s.b.live = true ∧ s.b.session 0 2 = true ∧ (s.b.island .ahu).inReset = false ∧ 1 ≤ xact1.count.toNat ∧ ([7] : List Line).length = xact1.count.toNat ∧ xact1.dseq.toNat ≤ (s.b.pairKeep 0 2).accepted ∧
      (s.b.pairKeep 0 2).floor ≤ xact1.dseq.toNat ∧ xact1.aux.toNat ≤ xact1.dseq.toNat) ∧
    ((keepS.b.pairKeep 0 2).accepted + 1 < ({ xact1 with dseq := 2 } : Xact).dseq.toNat ∧ (keepS.b.pairKeep 0 2).reorder = []) := by
  and_intros <;> first | rfl | decide

/-- A message of the requester's pair with member 2. -/
def tag0 : TagSt :=
  { kind := 1, region := 3, regionId := 9, peer := 2, mtype := mRead, dseq := some 1, offset := 0, node := 0, obj := .dataLine 0, line := 0, aop := 0, opA := 0, opB := 0,
    by' := { src := .port 0, engine := 4, pasid := 5, use := none }, first := some 0, last := 0, abandon := false, silent := false, quarEnd := 0 }
def tagS (x : TagSt) (s : State) : State := onBlk (modAhu 0 fun a => { a with tags := [(0, x)] }) s
def trayRsp0 : TrayRsp := { op := 4, count := 1, reqPart := 0, tag := 0, node := 0, offset := 0, mstat := 0, lines := [] }

theorem wit_MessagesEndOrAreSentAgain :
    (sessS.b.live = true ∧ sessS.b.session 0 2 = true ∧ (sessS.b.island .ahu).inReset = false ∧ matchTag sessS.b 0 2 mWrite xact1 = none) ∧
    (matchTag (tagS tag0 sessS).b 0 2 mRead xact1 = some (0, tag0) ∧ xact1.status ≠ 0x07 ∧ tag0.silent = false) ∧
    (let x := { tag0 with mtype := mWrite }; matchTag (tagS x sessS).b 0 2 mWrite xact1 = some (0, x)) ∧ (let x := { tag0 with mtype := mAtomic }; matchTag (tagS x sessS).b 0 2 mAtomic xact1 = some (0, x)) ∧
    (let x := { tag0 with kind := 0, mtype := mWrite }
     let s := tagS x sessS
     s.b.live = true ∧ (s.b.island .ahu).inReset = false ∧ s.b.tagSt 0 (bitsOf trayRsp0.tag.toNat 0 11) = some x ∧ x.mtype = mWrite ∧ trayMatches s.b 0 trayRsp0 x = true) ∧
    (let x := { tag0 with kind := 2 }
     let s := tagS x sessS; s.b.live = true ∧ s.b.tagSt 0 (0 : Fin 2048).val = some x ∧ x.kind = 2 ∧ x.quarEnd.toNat ≤ s.b.clk.tick.toNat) ∧
    (let x := { tag0 with kind := 0 }
     let s := tagS x sessS; s.b.tagSt 0 (0 : Fin 2048).val = some x ∧ x.kind = 0 ∧ resendDue s.b 0 0 x = true) ∧
    (let x := { tag0 with mtype := mWrite, silent := true }
     let s := tagS x sessS; s.b.tagSt 0 (0 : Fin 2048).val = some x ∧ x.kind = 1 ∧ x.dseq.isSome = true ∧ x.abandon = false ∧ (x.mtype = mWrite ∨ x.mtype = mAtomic) ∧ x.silent = true) := by
  and_intros <;> first | rfl | decide

def fence0 : FenceRun :=
  { ctx := none, die := none, object := 0, slot := none, pasid := 5, targets := [], self := [], pubs := [], acquire := [{ regionId := 9, tag := none, want := some 6, answered := 0 }], flush := none, status := 0 }

theorem wit_FencesAreAskedAndAnswered :
    (sessS.b.live = true ∧ sessS.b.session 0 2 = true ∧ (sessS.b.island .ahu).inReset = false ∧ xact1.acquire = false ∧ (sessS.b.pairKeep 0 2).unseen = []) ∧
    (let x := { tag0 with mtype := mFence }
     let s := tagS x sessS; matchTag s.b 0 2 mFence xact1 = some (0, x) ∧ x.aop ≠ 1 ∧ (s.b.pairReq 0 2).target ≤ xact1.aux.toNat ∧ (s.b.pairReq 0 2).visible ≤ xact1.aux.toNat) ∧
    (jigS.b.live = true ∧ jigS.b.partExists 0 = true) ∧
    (let s := onBlk (modAhu 0 fun a => { a with req := [(2, { next := 4, accepted := 0, visible := 0, port := none, target := 3, fenceTag := some 0, asked := 0, atoms := [] })] }) sessS
     ((2, { next := 4, accepted := 0, visible := 0, port := none, target := 3, fenceTag := some 0, asked := 0, atoms := [] }) ∈ (s.b.ahuPart 0).req ∧ 0 + 1 < 4) ∧
     s.b.live = true ∧ (s.b.pairReq 0 2).fenceTag = some 0 ∧ (s.b.pairReq 0 2).visible < (s.b.pairReq 0 2).target ∧ (s.b.pairReq 0 2).asked.toNat + 100000 ≤ s.b.clk.tick.toNat ∧ (s.b.ahuPart 0).fences = []) ∧
    (let r := { region9 with role := 2, token := { token9 with keeper := 2 } }
     let s := regS r (onBlk (modAhu 0 fun a => { a with fences := [fence0] }) sessS)
     s.b.live = true ∧ s.b.regionById 0 9 = some (3, r) ∧ r.role ≠ 0 ∧ (∃ f ∈ (s.b.ahuPart 0).fences, ∃ a ∈ f.acquire, acquireLate s.b r a = true) ∧ s.b.session 0 r.token.keeper = true) := by
  and_intros <;> first | rfl | decide

/-! ### Jigs, Veneer, admission -/

def load0 (rep : Bool) (len : BitVec 32) : JigLoad := { ctx := ctx0, part := 0, replace := rep, addr := 0, length := len, begun := 0 }
/-- TC serves a load of a fetched command, into a partition that holds no Jig, or one. -/
def servedS (j : Option Jig) (rep : Bool) (len : BitVec 32) : State :=
  onBlk (fun b => modPart 0 (fun p => { p with state := if j.isSome then 2 else 1, jig := j }) { b with tcLoad := some (load0 rep len) }) (cmdS 0x02 liveS)

def recordOf (type : Nat) (body : Bytes) : Bytes := leBytes 2 type ++ leBytes 4 body.length ++ leBytes 2 0 ++ body
/-- An image of the required records and no others, for domain 5 and member 1, with `JIG_SERIAL` 2; its digests are zero. -/
def imageAt (tick : Nat) : Bytes :=
  recordOf 1 (leBytes 4 0x3147494A ++ leBytes 2 1 ++ leBytes 2 4 ++ leBytes 4 5 ++ leBytes 2 1 ++ leBytes 2 0 ++ leBytes 8 2 ++ leBytes 8 tick ++ List.replicate 96 0) ++
    recordOf 2 (List.replicate 4256 0) ++ recordOf 3 (List.replicate 1616 0) ++
    recordOf 4 (leBytes 4 1 ++ leBytes 4 4 ++ leBytes 8 0 ++ leBytes 4 1000000000 ++ List.replicate 12 0) ++ recordOf 5 (leBytes 2 1 ++ leBytes 2 2 ++ leBytes 2 3 ++ leBytes 2 0) ++
    recordOf 0x10 (List.replicate 25 16 ++ List.replicate 7 0) ++ recordOf 0xFFFF (List.replicate 4728 0)
/-- `ACTIVATE_TICK` is 0 for a first load, and the start of epoch 275 for a replacement. -/
def tickFor (rep : Bool) : Nat := if rep then 275000000000 else 0
def image (rep : Bool) : Bytes := imageAt (tickFor rep)

theorem test_image_step1 : ∀ rep, step1 (image rep) = none := by decide +kernel
theorem test_image_step8 : (∀ rep, step8 .x rep (image rep) = none) ∧ step8 .x false (image true) = some { reason := 0x21, type := 1, off := 0 } := by decide +kernel
theorem test_image_fields : ∀ rep, let j := jigOfImage (image rep)
    j.cfg = 4 ∧ j.lc = false ∧ j.domainId = 5 ∧ j.memberIndex = 1 ∧ j.serial = 2 ∧ j.activateTick = BitVec.ofNat 64 (tickFor rep) ∧ fieldAt j.header 0 4 = 0x3147494A ∧ fieldAt j.header 4 2 = 1 ∧ j.ownerDigest = 0 ∧
      j.deviceDigest = 0 ∧ j.memberCount = 4 ∧ j.epochZero = 0 ∧ j.rekeyPeriod = 1000000000 ∧ j.anchors = [1, 2, 3] ∧ j.addrNode = true ∧ j.shares = List.replicate 25 16 := by decide +kernel

/-- Where the signatures, the digests and the dump secret of the image are right, its records pass every check of steps 1 to 8. -/
theorem wit_Jig_steps1to8 (rep : Bool) (s : State) (hs : s.hard = liveS.hard) (hb : s.b.lc = liveS.b.lc) (hj : ∀ q : Part, q ≠ 0 → s.b.jigOf q = none)
    (h1 : Config.sha384 ((jigOfImage (image rep)).ownerKeys.take 2688) = 0) (h2 : ∀ k d sg, Config.ecdsaVerify k d sg = true) (h3 : ∀ k d t sg, Config.mldsaVerify k d t sg = true) (h4 : Config.sha384 [] = 0)
    (h5 : (dumpSecret s.hard s.b (image rep)).isSome = true) : steps1to8 s.hard s.b 0 rep (image rep) = none := by
  obtain ⟨f1, f2, f3, -, -, -, f4, f5, f6, f7, -⟩ := test_image_fields rep
  have x : cfgCode s.hard.cfg = 4 := by rw [hs]; rfl
  have y : lcClosed s.b = false := by unfold lcClosed; rw [hb]; decide
  have z : s.b.lc.cert = [] := by rw [hb]; rfl
  have c : steps2to5 s.hard s.b (image rep) = none := by simp [steps2to5, f1, f2, f4, f5, f6, f7, h1, h2, h3, h4, x, y, z]
  have d : steps6to7 s.hard s.b 0 rep (image rep) = none := by
    unfold steps6to7
    dsimp only
    rw [if_neg (by simp [Option.isNone_eq_false_iff.mpr h5]), if_neg (by rw [f3]; decide), if_neg]
    intro h
    rw [Bool.and_eq_true, List.any_eq_true] at h
    obtain ⟨-, q, -, hq⟩ := h
    rw [Bool.and_eq_true, decide_eq_true_eq] at hq
    rw [hj q hq.1] at hq
    exact absurd hq.2 (by simp)
  have e : step8 s.hard.cfg rep (image rep) = none := by rw [hs]; exact test_image_step8.1 rep
  simp only [steps1to8, test_image_step1, c, d, e]
  rfl
def oldJig : Jig := { jigOfImage (image true) with serial := 1 }
theorem step9_of_later (b : Block) (p : Part) (j : Jig) (n : Word) (img : Bytes) (h1 : (b.part p).pending.isSome = false) (h2 : n.toNat < j.serial.toNat) (h3 : activateOk j b.now = true) :
    step9 b p { j with serial := n } j img = none := by
  unfold step9
  dsimp only [keptHeader, keptParams]
  rw [h1, h3]
  simp [Nat.not_le.mpr h2]
theorem wit_Jig_step9 : step9 (servedS (some oldJig) true 10856).b 0 oldJig (jigOfImage (image true)) (image true) = none := by
  obtain ⟨-, -, -, -, f1, f2, -, -, -, -, -, f3, f4, -⟩ := test_image_fields true
  refine step9_of_later _ _ _ _ _ rfl (by rw [f1]; decide) ?_
  unfold activateOk
  rw [f2, f3, f4]
  decide
theorem wit_Jig_step10 : step10 liveS.hard (servedS none false 10856).b 0 (jigOfImage (image false)) (servedS none false 10856).b.clk.tick.toNat (offOf (records (image false))) = none ∧ ∀ rep, (image rep).length = 10856 := by decide +kernel

def pend0 (c : Bool) (t : Word) : PendingJig := { jig := { jig0 with activateTick := t }, offs := [(0x10, 400)], ctx := ctx0, committed := c }
/-- The smallest configuration. -/
def smallS (s : State) : State := { s with hard := { s.hard with cfg := .s } }
def pendS (x : PendingJig) : State := smallS (onBlk (modPart 0 fun p => { p with pending := some x }) jigS)
/-- The step 10 of a pending replacement at its commit point. -/
def tenth (s : State) (x : PendingJig) : Option (Byte × Rej) := step10 s.hard s.b 0 x.jig x.jig.activateTick.toNat (Tab.getD x.offs · 0)
/-- A close record whose M0 is burned and whose M3 is not. -/
def transitS (s : State) : State := { s with hard := { s.hard with fuse := { s.hard.fuse with records := [(0, 3)] } } }

theorem wit_JigLoadsAreStagedAndCommitted :
    (startsB (cmdS 0x02 jigS) ctx0 0x02 0 (queue0 0x02) = true ∧ (0 : Part) = (queue0 0x02).part ∧ (1 : Part) ≠ (queue0 0x02).part ∧ transitionOpen (cmdS 0x02 jigS).hard.fuse = false) ∧
    (startsB (transitS (cmdS 0x02 jigS)) ctx0 0x02 0 (queue0 0x02) = true ∧ transitionOpen (transitS (cmdS 0x02 jigS)).hard.fuse = true) ∧
    (let s := servedS none false 0
     s.b.live = true ∧ s.b.tcLoad = some (load0 false 0) ∧ loadLives s.b (load0 false 0) = true ∧ s.b.noRandom = false ∧ transitionOpen s.hard.fuse = false ∧ transitionOpen (transitS s).hard.fuse = true ∧
      s.b.jigOf 0 = none ∧ steps1to8 s.hard s.b 0 false [] = some { reason := 0x05, type := 0, off := 0 }) ∧
    (let s := servedS none true 0; s.b.live = true ∧ s.b.tcLoad = some (load0 true 0) ∧ loadLives s.b (load0 true 0) = true ∧ s.b.jigOf 0 = none) ∧
    (let s := servedS (some jig0) false 0; s.b.live = true ∧ s.b.tcLoad = some (load0 false 0) ∧ loadLives s.b (load0 false 0) = true ∧ s.b.jigOf 0 = some jig0) ∧ 16777216 < (load0 false 16777217).length.toNat ∧
    (let s := onBlk (fun b => { b with ent := { b.ent with withheld := true } }) (servedS none false 0)
     s.b.live = true ∧ s.b.tcLoad = some (load0 false 0) ∧ loadLives s.b (load0 false 0) = true ∧ s.b.noRandom = true ∧ (s.b.ent.waiting.any fun w => decide (w.1 = (load0 false 0).ctx)) = false) ∧
    (let s := onBlk (fun b => { b with tcLoad := some (load0 false 0) }) liveS; s.b.live = true ∧ s.b.tcLoad = some (load0 false 0) ∧ loadLives s.b (load0 false 0) = false) ∧
    (let s := pendS (pend0 false 0x4000000000)
     s.b.live = true ∧ (s.b.part 0).pending = some (pend0 false 0x4000000000) ∧ s.b.jigOf 0 = some jig0 ∧ (0x4000000000 : Word).toNat ≤ s.b.clk.tick.toNat + 100000 ∧
      tenth s (pend0 false 0x4000000000) = none ∧ inUse s.b 0 jig0 (pend0 false 0x4000000000).jig = false) ∧
    (let s := onBlk (modPart 1 fun p => { p with state := 2, jig := some { jig0 with shares := List.replicate 25 60 } }) (pendS (pend0 false 0))
     tenth s (pend0 false 0) = some (stNoSlot, { reason := 0x40, type := 0x10, off := 400 })) ∧
    (let x := { pend0 false 0 with jig := { jig0 with regions := [] } }
     let s := regS region9 (pendS x); tenth s x = none ∧ inUse s.b 0 jig0 x.jig = true) ∧
    (let s := pendS (pend0 false 0x4000100000); s.b.clk.tick.toNat + 100000 < (pend0 false 0x4000100000).jig.activateTick.toNat) ∧ (pend0 true 0).committed = true := by
  refine ⟨?_, ?_, ?_, ?_, ?_, ?_, ?_, ?_, ?_, ?_, ?_, ?_, ?_⟩ <;> decide +kernel

theorem wit_MailboxReportsTheJig :
    (jigS.b.live = true ∧ jigS.b.partExists 0 = true ∧ (jigS.b.part 0).mbox.go = false ∧ jigS.b.jigOf 0 = some jig0 ∧ (decisionWords jigS.hard.cfg jigS.b 0 jig0 0).isSome = true ∧ liveS.b.jigOf 0 = none) ∧
    (let s := onBlk (modPart 0 fun p => { p with mbox := { p.mbox with go := true, op := 2 } }) jigS; (s.b.part 0).mbox.go = true ∧ (s.b.part 0).mbox.op ≠ 1) := by decide

theorem wit_MaskedContributionsSumAndVerify : 1 ≤ 1 ∧ ∀ r, r < 1 → ∀ j, j < 32 → ((([] : List Int)).getD j 0).natAbs ≤ qMax 1 := ⟨Nat.le_refl 1, fun _ _ _ _ => Nat.zero_le _⟩

def vgrp : VGroupRec := { groupId := 7, members := 2, position := 0, admitted := false, format := 0x11, switch := 0, stochastic := false }
def vscale : ScaleRec := { groupId := 7, blocks := 3, init := 0, target := 1, exps := none }
def vtree : TreeRec := { groupId := 7, op := 0, stepCycles := 1, zeroCycle := 0, filterArg := 0, lanes := [{ port := 0, stream := 1, frames := 1, upNode := 0 }], runs := [{ firstPos := 0, firstMember := 1, count := 2 }] }
def vjig : Jig := { schedJig with groups := [vgrp], scales := [vscale], trees := [vtree] }
def vgeo0 : VGeo := { jig := vjig, grp := vgrp, tree := vtree, scale := some vscale, sched := sched0 }
/-- Group 7 of the partition, its key in slot 64. -/
def vS : State := onBlk (fun b => modAdm 0 (fun a => { a with keyed := true, groupSlots := [(7, 64)] }) (modPart 0 (fun p => { p with jig := some vjig }) b)) (keyS jigS)
def vgroup0 (first : Nat) (halt : Bool) : VGroup :=
  { part := 0, groupId := 7, state := 2, cause := 0, ctx := none, firstStep := first, newest := none, haltReq := halt, haltStep := none, haltSt := 0, final := false, steps := [], masks := [], table := [], tableAt := 0, chosen := false,
    admEpoch := 0, admCount := 0, admTold := 0, sat := 0, tagFail := 0, discard := 0, late := 0 }
def armedVS (first : Nat) (halt : Bool) : State := onBlk (putGroup (vgroup0 first halt)) vS

theorem wit_VeneerGroupsArmStepAndHalt :
    startsB (cmdS 0x0C vS) ctx0 0x0C 0 (queue0 0x0C) = true ∧ (cmdS 0x0C vS).b.vgeo 0 6 = none ∧
    ((cmdS 0x0C vS).b.vgeo 0 7 = some vgeo0 ∧ vgeo0.grp.groupId = 7 ∧ (cmdS 0x0C vS).b.vgroup 0 7 = none ∧ (cmdS 0x0C vS).b.groupKey 0 7 = some 64 ∧ vgeo0.scale = some vscale) ∧
    (cmdS 0x0C (onBlk (modAdm 0 fun a => { a with groupSlots := [] }) vS)).b.groupKey 0 7 = none ∧
    ((cmdS 0x0C (onBlk (putGroup { vgroup0 1 false with state := 3 }) vS)).b.vgroup 0 7 = some { vgroup0 1 false with state := 3 } ∧ (vgroup0 1 false).final = false ∧ (vgroup0 1 false).steps = []) ∧
    ((cmdS 0x0C (armedVS 1 false)).b.vgroup 0 7 = some (vgroup0 1 false) ∧ startsB (cmdS 0x0C (armedVS 1 false)) ctx0 0x0C 0 (queue0 0x0C) = true) ∧
    (vgeo0.stepTick (1 : Word).toNat < vS.b.clk.tick.toNat + 1000000 ∧ vS.b.clk.tick.toNat + 1000000 ≤ vgeo0.stepTick (70000000 : Word).toNat) ∧
    ((armedVS 1 true).b.live = true ∧ (armedVS 1 true).b.vgeo 0 7 = some vgeo0 ∧ (armedVS 1 true).b.vgroup 0 7 = some (vgroup0 1 true) ∧ (armedVS 1 true).b.shim = [] ∧
      (vgroup0 1 true).steps = [] ∧ (vgroup0 1 true).newest = none ∧ vgeo0.stepTick (vgroup0 1 true).firstStep ≤ (armedVS 1 true).b.clk.tick.toNat ∧
      (armedVS 70000000 false).b.clk.tick.toNat < vgeo0.stepTick (vgroup0 70000000 false).firstStep ∧ stepBoundary vgeo0 (armedVS 70000000 true).b.clk.tick.toNat = false) ∧
    (let s := onBlk (fun b => { b with clk := { b.clk with tick := 0x4000000000 - 2944 } }) (armedVS 70000000 true)
     s.b.live = true ∧ s.b.vgeo 0 7 = some vgeo0 ∧ s.b.vgroup 0 7 = some (vgroup0 70000000 true) ∧ s.b.shim = [] ∧ stepBoundary vgeo0 s.b.clk.tick.toNat = true) ∧
    ((armedVS 1 true).b.groupKey 0 vgeo0.grp.groupId = some 64 ∧ (vgroup0 1 true).mask 1 = none ∧ vgeo0.grp.admitted = false ∧ vgeo0.les = [.le 0]) := by
  refine ⟨?_, ?_, ?_, ?_, ?_, ?_, ?_, ?_, ?_, ?_⟩ <;> decide +kernel

def reasm0 : Reasm := { src := peer2, msgId := 4, totalLen := 64, started := 0, frags := [(0, [1, 2, 3, 4])] }
def reasmS : State := onBlk (modAdm 0 fun a => { a with reasm := [reasm0] }) jigS
def announce0 : Announce := { sender := peer2, domainId := 5, ownerDigest := 0, serial := 1, term := 0, lc := false, keyed := false, anchor := false }
/-- Ports 0 (pinned to member 2, and down) and 1. -/
def portsS (up : Bool) : State := onBlk (fun b => modPtu 0 (fun x => { x with pins := [{ dkind := 0, dest := 2, port := 0 }] }) (modPort 0 (fun x => { x with linkUp := up }) (modPort 1 (fun x => { x with linkUp := true }) b))) jigS

/-- The header of a fragment of 4 B of a message of `total` B from member 2. -/
def head0 (total off : BitVec 16) : EnvHead :=
  { version := 1, kind := 3, msgId := 4, domainId := 5, src := peer2, dst := accel 1, totalLen := total, fragOffset := off, fragLen := 4, spdmLen := total, resv := 0 }
def heldOf (s : State) : Option Reasm := (s.b.adm' 0).reasm.find? fun r => decide (r.src = peer2 ∧ r.msgId = 4)

theorem wit_EnvelopesAndAnnouncements :
    ((List.replicate 481 7 : Bytes).length ≤ 61440) ∧
    (jigS.b.live = true ∧ jigS.b.jigOf 0 = some jig0 ∧ fragmentOk jigS.b 0 (head0 64 0) [1, 2, 3, 4] = true ∧ heldOf jigS = none ∧ ([1, 2, 3, 4] : Bytes).length ≠ (head0 64 0).totalLen.toNat) ∧
    (fragmentOk jigS.b 0 { head0 64 0 with kind := 2, spdmLen := 60 } [1, 2, 3, 4] = true ∧ fragmentOk jigS.b 0 { head0 64 0 with src := 0x10001 } [1, 2, 3, 4] = false ∧ fragmentOk jigS.b 0 { head0 64 0 with version := 2 } [1, 2, 3, 4] = false ∧
      fragmentOk jigS.b 0 { head0 64 0 with dst := accel 3 } [1, 2, 3, 4] = false ∧ fragmentOk jigS.b 0 (head0 64 61) [1, 2, 3, 4] = false ∧ fragmentOk jigS.b 0 (head0 64 60) [1, 2, 3, 4] = true) ∧
    (fragmentOk jigS.b 0 (head0 4 0) [1, 2, 3, 4] = true ∧ ([1, 2, 3, 4] : Bytes).length = (head0 4 0).totalLen.toNat) ∧
    (heldOf reasmS = some reasm0 ∧ fragmentOk reasmS.b 0 (head0 64 2) [1, 2, 3, 4] = true ∧ reasm0.overlaps (head0 64 2).fragOffset.toNat 4 = true ∧ fragmentOk reasmS.b 0 (head0 65 8) [1, 2, 3, 4] = true ∧ reasm0.totalLen ≠ (head0 65 8).totalLen) ∧
    (let hd := { head0 64 4 with fragLen := 60 }
     let data : Bytes := List.replicate 60 0
     fragmentOk reasmS.b 0 hd data = true ∧ reasm0.totalLen = hd.totalLen ∧ reasm0.overlaps hd.fragOffset.toNat data.length = false ∧ reasm0.got + data.length = hd.totalLen.toNat) ∧
    (jigS.b.jigOf 0 = some jig0 ∧ (jigS.b.adm' 0).selfOff = false ∧ (jigS.b.adm' 0).announceAt.toNat ≤ jigS.b.clk.tick.toNat) ∧
    (let s := onBlk (modAdm 0 fun a => { a with announceAt := 0x4000000001 }) jigS; s.b.clk.tick.toNat < (s.b.adm' 0).announceAt.toNat) ∧
    (let s := onBlk (modAdm 0 fun a => { a with anchor := 1 }) jigS
     s.b.live = true ∧ s.b.jigOf 0 = some jig0 ∧ announce0.domainId = jig0.domainId ∧ announce0.ownerDigest = jig0.ownerDigest ∧ memberKind announce0.sender ≠ 1 ∧ (s.b.adm' 0).manual = false ∧ (s.b.adm' 0).selfOff = false ∧
      pairNeeded s.b 0 jig0 announce0.sender = true ∧ (s.b.peer 0 announce0.sender).state = 0 ∧ ({ announce0 with domainId := 6 } : Announce).domainId ≠ jig0.domainId) ∧
    ((portsS false).b.live = true ∧ envPorts (portsS false).hard.cfg (portsS false).b 0 peer2 = [0, 1] ∧ ((portsS false).b.peer 0 peer2).port = none ∧ ((portsS false).b.port 0).linkUp = false ∧
      ((portsS false).b.port 0).downSince.toNat + 1000000 ≤ (portsS false).b.clk.tick.toNat ∧ ((portsS false).b.port 1).linkUp = true) ∧
    (envPorts (portsS true).hard.cfg (portsS true).b 0 peer2 = [0, 1] ∧ ((portsS true).b.port 0).linkUp = true) := by
  refine ⟨?_, ?_, ?_, ?_, ?_, ?_, ?_, ?_, ?_, ?_, ?_⟩ <;> decide +kernel

/-- An attempt with member 2. -/
def attS (f : Peer → Peer) : State := onBlk (modAtt 0 peer2 f) jigS

def sent0 (code : Byte) : Sent := { msgId := 0, num := 0, env := .spdm code .none [] }

theorem wit_SpdmExchangesRunInOrder :
    (∀ n ∈ [1, 3, 4], (let s := attS fun q => { q with state := 2, step := n }; s.b.live = true ∧ s.b.jigOf 0 = some jig0 ∧ (s.b.att 0 peer2).answers = true ∧ (s.b.att 0 peer2).step = n) ∧
      (let s := attS fun q => { q with state := 2, step := n + 1, answered := some (sent0 (rspCode n)) }
       (s.b.att 0 peer2).answers = true ∧ (s.b.att 0 peer2).step ≠ n ∧ (s.b.att 0 peer2).answeredWith (rspCode n) = some (sent0 (rspCode n))) ∧
      (let s := attS fun q => { q with state := 2, step := n + 1 }; (s.b.att 0 peer2).answers = true ∧ (s.b.att 0 peer2).step ≠ n ∧ (s.b.att 0 peer2).answeredWith (rspCode n) = none)) ∧
    (∀ n ∈ [2, 5, 6], let s := attS fun q => { q with state := 3, step := n }; s.b.live = true ∧ s.b.jigOf 0 = some jig0 ∧ (s.b.att 0 peer2).answers = true ∧ (s.b.att 0 peer2).step = n) ∧
    ((jigS.b.adm' 0).selfOff = false ∧ memberKind peer2 ≠ 3 ∧ memberKind peer2 ≠ 1 ∧ (jigS.b.att 0 peer2).state = 0 ∧ jigS.b.contexts < contextCount jigS.hard.cfg) ∧
    (let s := onBlk (modAdm 1 fun a => { a with peers := (List.range 16).map fun i => (i, { Peer.reset with state := 2 }) }) jigS; contextCount s.hard.cfg ≤ s.b.contexts ∧ (s.b.att 0 peer2).state = 0) ∧
    (let s := attS fun q => { q with state := 2, requester := true }; (s.b.att 0 peer2).requester = true ∧ (s.b.att 0 peer2).state = 2 ∧ (s.b.att 0 peer2).step = 0) ∧
    (∀ n < 2, ∀ r : Bool, let s := attS fun q => { q with state := 5, step := n, requester := r }
      s.b.live = true ∧ s.b.jigOf 0 = some jig0 ∧ (s.b.att 0 peer2).state = 5 ∧ (s.b.att 0 peer2).requester = r ∧ (s.b.att 0 peer2).step = n) ∧
    (∀ n < 7, let s := attS fun q => { q with state := 3, requester := true, step := n }
      s.b.live = true ∧ s.b.jigOf 0 = some jig0 ∧ (s.b.att 0 peer2).asks = true ∧ (s.b.att 0 peer2).state ≠ 5 ∧ (s.b.att 0 peer2).step = n ∧ lcClosed s.b = false ∧ memberKind peer2 = 0) ∧
    (∀ r : Bool, let s := attS fun q => { q with state := 3, requester := true, asking := some (sent0 0x81), resent := r }
      (s.b.att 0 peer2).asks = true ∧ (s.b.att 0 peer2).asking = some (sent0 0x81) ∧ (s.b.att 0 peer2).asked.toNat + 100000000 ≤ s.b.clk.tick.toNat ∧ (s.b.att 0 peer2).resent = r) ∧
    (let s := attS fun q => { q with state := 1, requester := true }; (s.b.att 0 peer2).state = 1 ∧ (s.b.att 0 peer2).requester = true ∧ (s.b.att 0 peer2).asked.toNat ≤ s.b.clk.tick.toNat ∧ s.b.contexts < contextCount s.hard.cfg) ∧
    (let s := attS fun q => { q with state := 10 }; (s.b.att 0 peer2).state = 10 ∧ (s.b.att 0 peer2).refusedAt.toNat + 1000000000 ≤ s.b.clk.tick.toNat) ∧
    (let s := attS fun q => { q with state := 10, refusedAt := 0x4000000000 }; (s.b.att 0 peer2).state = 10 ∧ s.b.clk.tick.toNat < (s.b.att 0 peer2).refusedAt.toNat + 1000000000) := by
  refine ⟨?_, ?_, ?_, ?_, ?_, ?_, ?_, ?_, ?_, ?_, ?_⟩ <;> decide +kernel

def join0 : Join := { member := peer2, domainId := 5, ownerDigest := 0, commonDigest := 0, serial := 1, term := 0, isAnchor := false, isStandby := false, isDelegate := false, keyed := true, proof := 0 }
/-- A session in which this member is the anchor and has the domain key. -/
def anchorS (f : Adm → Adm) : State := onBlk (modAdm 0 fun a => f { a with anchor := 1, keyed := true }) sessS
def entry2 : RosterEntry := { index := 2, state := 1, tag := 77 }

theorem wit_anchorS_hears (f : Adm → Adm) (h : (f { (sessS.b.adm' 0) with anchor := 1, keyed := true }).peers = (sessS.b.adm' 0).peers) : (anchorS f).hears sec2 := by
  refine ⟨rfl, ?_, rfl⟩
  have e : (anchorS f).b.peer 0 peer2 = sessS.b.peer 0 peer2 := by
    simp only [Block.peer, anchorS, onBlk, modAdm]
    exact congrArg (fun t => Tab.getD t peer2.toNat Peer.reset) h
  show ((anchorS f).b.peer 0 peer2).hasSession = true
  rw [e]
  decide

/-- The session with member 2 is keyed and its `JOIN`s are not through. -/
def keyedS (f : Adm → Adm) (g : Peer → Peer) : State := onBlk (modPeer 0 peer2 fun q => g { q with state := 6 }) (anchorS f)
/-- What `joinReason` says of a body in that session. -/
def joinSays (s : State) (body : Join) : Nat := joinReason (heardJoin sec2 s.b) 0 jig0 peer2 ((heardJoin sec2 s.b).peerAt 0 (joinKey s.b 0 peer2)) body

theorem wit_JoiningRosterAndKeys :
    (let s := keyedS (fun a => { a with keyed := false }) id
     s.b.live = true ∧ (s.b.peerAt 0 (joinKey s.b 0 peer2)).hasSession = true ∧ s.b.jigOf 0 = some jig0 ∧ (s.b.peerAt 0 (joinKey s.b 0 peer2)).joinIn = false ∧ (s.b.peerAt 0 (joinKey s.b 0 peer2)).ackIn = false ∧
      (s.b.peerAt 0 (joinKey s.b 0 peer2)).state = 6 ∧ (s.b.peerAt 0 (joinKey s.b 0 peer2)).ackOut = false ∧ ((heardJoin sec2 s.b).peerAt 0 (joinKey s.b 0 peer2)).jig jig0 = jig0 ∧
      joinSays s { join0 with domainId := 6 } = 7 ∧ joinSays s { join0 with isAnchor := true } = 0) ∧
    (let s := keyedS (fun a => { a with keyed := false }) fun q => { q with ackOut := true }
     (s.b.peerAt 0 (joinKey s.b 0 peer2)).hasSession = true ∧ (s.b.peerAt 0 (joinKey s.b 0 peer2)).ackOut = true ∧ (s.b.peerAt 0 (joinKey s.b 0 peer2)).ackIn = false ∧ (s.b.peerAt 0 (joinKey s.b 0 peer2)).state = 6) ∧
    ((sessS.b.adm' 0).keyed = false ∧ memberKind peer2 = 0) ∧
    (let s := anchorS fun a => { a with groupSlots := [(7, 64)] }
     (s.b.adm' 0).keyed = true ∧ (s.b.adm' 0).anchor = s.b.selfIndex 0 ∧ Tab.get? (s.b.adm' 0).groupSlots (7 : BitVec 32).toNat = some 64 ∧ (s.b.adm' 0).drawn = []) ∧
    (let s := onBlk (modPeer 0 peer2 fun q => { q with anchor := true }) (anchorS fun a => { a with term := 1 })
     s.b.jigOf 0 = some jig0 ∧ (0 : BitVec 32).toNat < (s.b.adm' 0).term.toNat ∧ (s.b.adm' 0).term.toNat ≤ (1 : BitVec 32).toNat ∧ (s.b.peer 0 peer2).anchor = true ∧ (s.b.adm' 0).term = 1 ∧ (s.b.adm' 0).wantGroups = [] ∧
      (s.b.adm' 0).keyed = true ∧ (s.b.peer 0 peer2).hasSession = true) ∧
    (let s := onBlk (modPeer 0 peer2 fun q => { q with tag := 77 }) (anchorS fun a => { a with roster := [(2, entry2), (3, { index := 3, state := 2, tag := 78 })] })
     (s.b.peer 0 peer2).hasSession = true ∧ (s.b.adm' 0).anchor = jig0.memberIndex ∧ s.b.rosterNow 0 2 = some entry2 ∧ entry2.state ≠ 0 ∧ entry2.tag ≠ 78 ∧ indexTaken (heard sec2 s.b) 0 (accel 2) 77 = false ∧ rosterLive (heard sec2 s.b) 0 2 77 = true ∧
      s.b.rosterNow 0 3 = some { index := 3, state := 2, tag := 78 } ∧ indexTaken (heard sec2 s.b) 0 (accel 3) 78 = false ∧ rosterLive (heard sec2 s.b) 0 3 78 = false ∧ (3 : BitVec 16).toNat < jig0.memberCount ∧
      jig0.memberCount ≤ (4 : BitVec 16).toNat) ∧
    (let s := onBlk (modPeer 0 (accel 3) fun q => { q with ackHeld := true }) (anchorS fun a => { a with anchor := 2 })
     (s.b.adm' 0).term.toNat ≤ (0 : BitVec 32).toNat ∧ peer2 = accel (s.b.adm' 0).anchor ∧ (s.b.peer 0 (accel 3)).ackHeld = true ∧ (s.b.peer 0 peer2).hasSession = true) ∧
    (peer2 ≠ accel ((anchorS id).b.adm' 0).anchor ∧ ((anchorS id).b.peer 0 peer2).anchor = false) := by
  refine ⟨?_, ?_, ?_, ?_, ?_, ?_, ?_, ?_⟩ <;> decide +kernel
theorem wit_Joining_refusedBlob : ∃ g, openBlobs (heard sec2 sessS.b) 0 peer2 jig0 none [(1, [])] = .inr g := by
  unfold openBlobs openBlob
  dsimp only
  split <;> rename_i h
  · exact ⟨_, rfl⟩
  · split at h
    · cases h
    · rw [if_pos (by decide +kernel)] at h; cases h
/-- A blob of domain 5 from member 1 to member 2 opens where its tag is the one AES-GCM gives. -/
def blob0 : Bytes := leBytes 2 1 ++ leBytes 1 1 ++ leBytes 1 0 ++ leBytes 4 5 ++ leBytes 8 0 ++ leBytes 4 2 ++ leBytes 4 1 ++ leBytes 8 6 ++ List.replicate 48 0
theorem wit_Joining_blob (k : Key) (h : gcmTag (kdf k [] "SWY-KEY-WRAP") (wrapIv true 6) (blob0.take 32) (bytesAt blob0 32 32) = tagOf (bytesAt blob0 64 16))
    (hk : sessS.b.keyVal 70 = k) : ∃ a v seq, openBlob (heard sec2 sessS.b) 0 peer2 jig0 none blob0 = .inl (a, v, seq) := by
  have e : (heard sec2 sessS.b).keyVal ((heard sec2 sessS.b).peer 0 peer2).secret = k := by rw [← hk]; rfl
  unfold openBlob gcmOpen
  dsimp only
  rw [e, show ((heard sec2 sessS.b).peer 0 peer2).requester = false by decide, show BitVec.ofNat 64 (fieldAt blob0 24 8) = 6 by decide +kernel]
  simp only [Bool.not_false, h, if_true]
  rw [if_neg (by decide +kernel)]
  exact ⟨_, _, _, rfl⟩

/-- Switch 3, in session with partition 0. -/
def sw3 : MemberRef := 0x20003
def swSec (a : Bool) : Sec := { part := 0, peer := sw3, auth := a }
def swS (f : Peer → Peer) : State := onBlk (modPeer 0 sw3 fun q => f { q with state := 7, secret := 71 }) (anchorS id)
/-- Member 2 of the same domain, a standby of member 1. -/
def standbyS (f : Adm → Adm) : State := onBlk (fun b => modAdm 0 f (modPart 0 (fun p => { p with state := 2, jig := some { jig0 with memberIndex := 2 } }) b)) liveS
def depart3 : Departing := { member := sw3, cause := 2, epoch := 1, told := true }

theorem wit_SessionsHeartbeatsAndDepartures :
    ((swS id).b.live = true ∧ ((swS id).b.peer 0 sw3).hasSession = true ∧ (swSec false).auth = false ∧ ((swS id).b.peer 0 sw3).authFails + 1 < 3) ∧
    (((swS id).b.peer 0 sw3).state = 7 ∧ memberKind sw3 ≠ 0 ∧ memberKind peer2 = 0 ∧ ((swS id).b.peer 0 sw3).inSession = true ∧ ((swS id).b.peer 0 sw3).probes = 0 ∧ ((swS id).b.peer 0 sw3).requester = false) ∧
    (let s := swS fun q => { q with probes := 3, requester := true, sent := 2 ^ 24 }
     (s.b.peer 0 sw3).inSession = true ∧ 3 ≤ (s.b.peer 0 sw3).probes ∧ (s.b.peer 0 sw3).probeTick.toNat + 10000000 ≤ s.b.clk.tick.toNat ∧ (s.b.peer 0 sw3).requester = true ∧ 2 ^ 24 ≤ (s.b.peer 0 sw3).sent) ∧
    (((swS id).b.peerAt 0 (joinKey (swS id).b 0 sw3)).hasSession = true ∧ ((swS id).b.peerAt 0 (joinKey (swS id).b 0 sw3)).state ≠ 6 ∧
      (let s := keyedS id id; s.b.live = true ∧ (s.b.peerAt 0 (joinKey s.b 0 peer2)).hasSession = true ∧ (s.b.peerAt 0 (joinKey s.b 0 peer2)).state = 6)) ∧
    ((sessS.b.adm' 0).term.toNat ≤ (0 : BitVec 32).toNat ∧ (0 : BitVec 32).toNat < ((anchorS fun a => { a with term := 1 }).b.adm' 0).term.toNat) ∧
    ((anchorS id).b.live = true ∧ (anchorS id).b.jigOf 0 = some jig0 ∧ ((anchorS id).b.adm' 0).anchor = jig0.memberIndex ∧ ((anchorS id).b.adm' 0).formStart.toNat + 12000000000 ≤ (anchorS id).b.clk.tick.toNat ∧
      (sessS.b.adm' 0).byAnchor = false ∧ (sessS.b.adm' 0).keyed = false ∧ ((anchorS id).b.adm' 0).formStart.toNat + 1000000000 ≤ (anchorS id).b.clk.tick.toNat) ∧
    (let s := standbyS fun a => { a with keyed := true, byAnchor := true, anchor := 1, heard := [(1, 0)] }
     let j := { jig0 with memberIndex := 2 }
     s.b.live = true ∧ s.b.jigOf 0 = some j ∧ (s.b.adm' 0).byAnchor = true ∧ (standbys j (s.b.adm' 0)).contains j.memberIndex = true ∧ (s.b.adm' 0).lost.contains j.memberIndex = false ∧
      (((j.anchors.take (anchorRank j j.memberIndex)).drop (anchorRank j (s.b.adm' 0).anchor)).all (watchLost s.b 0)) = true ∧ (s.b.adm' 0).peers = [] ∧ (s.b.adm' 0).departed = [] ∧ (s.b.adm' 0).departing = []) ∧
    (((anchorS id).b.adm' 0).term.toNat < (1 : BitVec 32).toNat ∧ peer2 = accel 2 ∧ nextAnchor (heard sec2 (anchorS id).b) 0 jig0 2 = true) ∧
    (((anchorS id).b.adm' 0).anchor = (anchorS id).b.selfIndex 0 ∧ ((anchorS fun a => { a with anchor := 2 }).b.adm' 0).anchor ≠ (anchorS id).b.selfIndex 0 ∧ peer2 = accel ((anchorS fun a => { a with anchor := 2 }).b.adm' 0).anchor) ∧
    (let s := onBlk (modAdm 0 fun a => { a with departing := [depart3] }) jigS
     s.b.live = true ∧ s.b.jigOf 0 = some jig0 ∧ ((s.b.adm' 0).departing.find? fun x => decide (x.member = depart3.member)) = some depart3 ∧ epochStart jig0 depart3.epoch ≤ s.b.clk.tick.toNat ∧
      s.b.clk.tick.toNat < epochStart jig0 275) := by
  refine ⟨?_, ?_, ?_, ?_, ?_, ?_, ?_, ?_, ?_, ?_⟩ <;> decide +kernel
theorem wit_swS_hears : (swS id).hears (swSec true) := ⟨by decide, by decide +kernel, rfl⟩

def relay0 : Relay := { ctx := none, outq := [], addr := 4096, outProd := 0, outCons := 0, inProd := 0, inCons := 0 }
def host1 : MemberRef := 0x10001
def hostS : State := onBlk (modPeer 0 host1 fun q => { q with state := 7, secret := 71, relay := some relay0 }) jigS
def hostJig : Jig := { jig0 with allow := [{ kind := 1, measIndex := 1, index := 1, measurement := 0, identity := 0 }] }

theorem wit_PeerCommandsAndRelay :
    (let s := cmdS 0x03 (onBlk (modPart 0 fun p => { p with jig := some hostJig }) sessS)
     startsB s ctx0 0x03 0 (queue0 0x03) = true ∧ s.b.jigOf 0 = some hostJig ∧ accel 1 = accel hostJig.memberIndex ∧ peer2 ≠ accel hostJig.memberIndex ∧ peerKnown hostJig (accel 9) = false ∧ peerKnown hostJig peer2 = true ∧
      memberKind peer2 = 0 ∧ s.b.gone 0 (memberIndex peer2) = false ∧ (s.b.peer 0 peer2).state = 7 ∧ peerKnown hostJig (accel 3) = true ∧ memberKind (accel 3) = 0 ∧ (s.b.peer 0 (accel 3)).state = 0 ∧
      (s.b.peer 0 (accel 3)).admitCtx = none ∧ peerKnown hostJig host1 = true ∧ memberKind host1 = 1) ∧
    (let s := cmdS 0x04 (swS id)
     startsB s ctx0 0x04 0 (queue0 0x04) = true ∧ peer2 ≠ s.b.selfRef 0 ∧ memberKind peer2 = 0 ∧ sw3 ≠ s.b.selfRef 0 ∧ memberKind sw3 ≠ 0 ∧ (s.b.peer 0 sw3).inSession = true ∧ (s.b.peer 0 host1).inSession = false) ∧
    (hostS.b.regs = true ∧ hostS.b.partExists 0 = true ∧ (hostS.b.peer 0 (0x10000 ||| (1 : BitVec 16).setWidth 32)).relay = some relay0 ∧ (0 : BitVec 32) = relay0.inCons ∧ (0 : BitVec 32) = relay0.outCons ∧ relay0.outq = [] ∧
      8 < ((9 : BitVec 32) - relay0.inCons).toNat ∧ (hostS.b.peer 0 (0x10000 ||| (1 : BitVec 16).setWidth 32)).inSession = true) := by
  refine ⟨?_, ?_, ?_⟩ <;> decide +kernel

/-! ### Protected memory -/

def meTree (e : List TreeEnt) (s : State) : State := onBlk (modMePart 0 0 fun m => { m with cache := e }) s
def treeEnt0 : TreeEnt := { region := 3, obj := .node 0 0, line := cbNew 0, dirty := false, pinned := false, leaving := false, corr := false, pubd := none }
/-- Region 9 is kept here, its page never written: the ME holds its key. -/
def freshRegion : Region := { region9 with token := { token9 with root := nodeNew } }
def meKeyS (r : Region) (s : State) : State := regS r (onBlk (modIsland (.me 0) fun st => { st with cache := [cacheEnt0] }) s)
def reenc0 : Reenc := { region := 3, page := 0, major := 1, gen := 0, lines := [], await := [], lost := false }
def foot0 : Footprint := { regionId := 9, part := 0, base := 0, size := 4608, clearing := true, pool := false }

theorem wit_LinesCountersAndNodesRoundTrip : 63 < 64 ∧ 127 < 128 ∧ 62 < 64 ∧ (62 : Nat) ≠ 63 ∧ 7 < 8 ∧ 0 < 8 ∧ (0 : Nat) ≠ 7 := by decide

theorem wit_MemoryEngineCommands :
    (jigS.b.live = true ∧ jigS.b.partExists 0 = true ∧ (jigS.b.island .ptu).inReset = false ∧ domOpDefined .read = true ∧ domOpDefined (.atomic 0 0 0) = false) ∧
    (let s := onBlk (fun b => { b with fetches := [(3, .dataLine 0)] }) (regS region9 jigS)
     s.b.live = true ∧ s.b.region (3 : BitVec 10).toNat = some region9 ∧ region9.me = 0 ∧ region9.kind ≠ 2 ∧ s.b.fetches.contains ((3 : BitVec 10).toNat, MemObj.dataLine 0) = true ∧ 2 ≤ (3 : BitVec 2).toNat ∧ s.b.memReqs = [] ∧
      s.b.fetches.contains ((3 : BitVec 10).toNat, MemObj.dataLine 1) = false) ∧
    (let s := onBlk (modMePart 0 0 fun m => { m with slots := [(0, reenc0)], cache := [treeEnt0] }) (meKeyS freshRegion jigS)
     s.b.live = true ∧ Tab.get? (s.b.mePart 0 0).slots (1 : Fin 2).val = none ∧ Tab.get? (s.b.mePart 0 0).slots (0 : Fin 2).val = some reenc0 ∧ s.b.region reenc0.region = some freshRegion ∧ reenc0.await = [] ∧
      (s.b.island (.me 0)).inReset = false ∧ (s.b.island (.me 0)).asleep = false ∧ pageReading s.b reenc0.region reenc0.page = false ∧ regionKeysReady s.b (.me 0) freshRegion = true ∧
      walk s.b reenc0.region freshRegion reenc0.page = .cb (cbNew 0) nodeNew) ∧
    ({ reenc0 with await := [4] } : Reenc).await ≠ [] ∧
    (let s := regS region9 jigS
     s.b.live = true ∧ s.b.region (3 : BitVec 10).toNat = some region9 ∧ region9.part = 0 ∧ region9.kind ≠ 2 ∧ region9.role = 0 ∧ 0 < region9.pages ∧ 63 < 64 ∧ (s.b.mePart region9.me 0).staging = [] ∧ region9.pages ≤ 1) ∧
    (let s := regS region9 jigS
     (s.b.island (.me 0)).inReset = false ∧ (s.b.island (.me 0)).asleep = false ∧ (s.b.mePart 0 0).scrubPeriod ≠ 0 ∧ scrubRegions s.b 0 0 = [(3, region9)] ∧ region9.pub = none) ∧
    (let s := onBlk (modMePart 0 0 fun m => { m with scrubRegion := 3 }) (regS region9 jigS)
     planeBusy s.b 0 0 true = false ∧ planeMay s.b 0 0 false = true ∧ (s.b.mePart 0 0).scrubRegion = 3 ∧ scrubRegions s.b 0 0 = [(3, region9)]) ∧
    (let s := onBlk (modMePart 0 0 fun m => { m with scrubPeriod := 0 }) jigS; (s.b.mePart 0 0).scrubPeriod = 0) ∧
    (let s := onBlk (modMePart 0 0 fun m => { m with slots := [(0, reenc0)] }) (meKeyS freshRegion jigS); (s.b.mePart 0 0).scrubPeriod ≠ 0 ∧ planeBusy s.b 0 0 true = true ∧ planeBusy s.b freshRegion.me 0 false = true) ∧
    (let r := { freshRegion with sweeping := true }
     let s := meKeyS r jigS
     s.b.live = true ∧ s.b.region (3 : BitVec 10).toNat = some r ∧ r.part = 0 ∧ r.role = 0 ∧ r.state = 2 ∧ (s.b.island (.me r.me)).inReset = false ∧ (s.b.island (.me r.me)).asleep = false ∧ regionKeysReady s.b (.me r.me) r = true ∧
      r.sweeping = true ∧ r.token.sweepPtr.toNat < r.pages ∧ walk s.b (3 : BitVec 10).toNat r r.token.sweepPtr.toNat = .fresh 0 ∧ freshRegion.sweeping = false ∧ planeBusy s.b r.me 0 false = false ∧
      planeMay s.b r.me 0 (decide (2 ^ 39 < s.b.useCount (.me r.me) r.keySlot)) = true) ∧
    (let s := onBlk (modMe 0 fun m => { m with placed := [foot0] }) jigS; s.b.live = true ∧ (s.b.me 0).placed = [foot0] ∧ foot0.clearing = true ∧ foot0.regionId = 9) ∧
    (upS.b.up = true ∧ (0 : Fin 8).val < meCount upS.hard.cfg) ∧
    (let r := { region9 with repair := some (0, 0) }; (regS r jigS).b.region (3 : BitVec 10).toNat = some r ∧ r.part = 0 ∧ r.role = 0 ∧ 1 ≤ r.levels ∧ r.repair = some (0, 0) ∧ ∀ k : Nat, r.repair ≠ some (k, 1)) := by
  refine ⟨?_, ?_, ?_, ?_, ?_, ?_, ?_, ?_, ?_, ?_, ?_, ?_, ?_⟩
  all_goals first | decide +kernel | skip
  refine ⟨rfl, rfl, rfl, by decide, rfl, fun k h => ?_⟩
  cases h

/-- Tokens that member 2 has signed for a region of which this member holds the mirror. -/
def tokenFrom2 (seq : Word) : Token := { token9 with keeper := 2, mirror := 1, tokenSeq := seq }
def mirror0 (t : Option Token) : MirrorEnt := { part := 0, regionId := 9, token := t, intent := none, heard := 0 }
def mirrorS (t : Option Token) (s : State) : State := onBlk (fun b => { b with mirrors := [mirror0 t] }) s
theorem tokenMac_mac (b : Block) (t : Token) (x : BitVec 128) : tokenMac b 0 { t with mac := x } = tokenMac b 0 t := by
  have e : tokenBytes { t with mac := x } = tokenBytes t := by unfold tokenBytes; simp only
  unfold tokenMac
  rw [e]
theorem wit_Tokens_signed (b : Block) (j : Jig) (t : Token) (h : b.jigOf 0 = some j) (hd : t.domainId = j.domainId) : tokenOk b 0 (signToken b 0 t) = true := by
  have e : signToken b 0 t = { t with mac := tokenMac b 0 t } := rfl
  unfold tokenOk
  rw [h, e, tokenMac_mac]
  simp only [Bool.and_eq_true, decide_eq_true_eq]
  exact ⟨hd, (tokenMac_mac b t _).symm⟩
theorem wit_Tokens_unsigned (b : Block) : tokenOk b 0 { token9 with domainId := 6 } = false ∨ b.jigOf 0 = none ∨ ∃ j, b.jigOf 0 = some j ∧ j.domainId = 6 := by
  unfold tokenOk
  cases h : b.jigOf 0 with
  | none => exact .inr (.inl rfl)
  | some j =>
    by_cases e : j.domainId = 6
    · exact .inr (.inr ⟨j, rfl, e⟩)
    · refine .inl ?_
      dsimp only
      rw [decide_eq_false fun x => e x.symm, Bool.false_and]

def pub0 (phase : Nat) : Publication := { phase := phase, await := [2], tags := [], covers := [], lines := [], writes := [], bad := [], takeover := none }
def pubR (phase : Nat) : Region := { region9 with kind := 2, pub := some (pub0 phase) }
def poolR : Region := { region9 with kind := 2, pages := 64, levels := 2 }

theorem wit_TokensIntentsAndReaders :
    (memberKind sec2.peer = 0 ∧ (sessS.b.adm' 0).keyed = false ∧ token9.keeper = sessS.b.selfIndex 0) ∧
    (let s := mirrorS (some (tokenFrom2 5)) (anchorS id)
     (s.b.adm' 0).keyed = true ∧ (tokenFrom2 5).keeper ≠ s.b.selfIndex 0 ∧ s.b.regionById 0 9 = none ∧ lastSeq s.b 0 9 = some 5 ∧ (tokenFrom2 5).tokenSeq.toNat ≤ 5 ∧ s.b.jigOf 0 = some jig0 ∧ (tokenFrom2 5).domainId = jig0.domainId) ∧
    (let s := mirrorS none (anchorS id)
     s.b.mirrorEnt 0 9 = some (mirror0 none) ∧ (mirror0 none).token = none ∧ (tokenFrom2 5).mirror = s.b.selfIndex 0 ∧ (tokenFrom2 5).noMirror = false ∧ s.b.session 0 (tokenFrom2 5).keeper = true ∧ s.b.regionById 0 9 = none) ∧
    (let s := regS (pubR 3) sessS; keptById s.b 0 9 = some (3, pubR 3) ∧ (pubR 3).state ≠ 7 ∧ (pubR 3).pub = some (pub0 3) ∧ (4 : Word) ≠ (pubR 3).token.tokenSeq ∧ (5 : Word) = (pubR 3).token.tokenSeq ∧ memberIndex sec2.peer = (pubR 3).token.mirror ∧
      (pub0 3).phase ≠ 1) ∧
    (keptById (regS (pubR 4) sessS).b 0 9 = some (3, pubR 4) ∧ (pub0 4).phase = 4) ∧
    (keptById (regS (pubR 1) sessS).b 0 9 = some (3, pubR 1) ∧ (pub0 1).phase = 1 ∧ sec2.peer = accel (pubR 1).token.mirror ∧ (6 : Word) = (pubR 1).token.tokenSeq + 1) ∧
    (let s := mirrorS (some (tokenFrom2 5)) sessS; s.b.mirrorEnt 0 9 = some (mirror0 (some (tokenFrom2 5))) ∧ accel (tokenFrom2 5).keeper = sec2.peer ∧ accel ({ tokenFrom2 5 with keeper := 3 } : Token).keeper ≠ sec2.peer) ∧
    keptById sessS.b 0 9 = none ∧
    (let s := regS poolR sessS
     keptById s.b 0 9 = some (3, poolR) ∧ poolR.pub = none ∧ poolR.kind = 2 ∧ poolR.state ≠ 7 ∧ poolR.state ≠ 8 ∧ poolR.dying = false ∧ poolR.readers.contains (memberIndex sec2.peer) = false ∧ poolR.readers.length < 65535 ∧
      (63 : Word).toNat < poolR.pages ∧ 1 ≤ (1 : Byte).toNat ∧ (1 : Byte).toNat < poolR.levels ∧ (7 : Word).toNat < nodesAt poolR.pages (1 : Byte).toNat) ∧
    ((sessS.b.adm' 0).anchor ≠ sessS.b.selfIndex 0 ∧ ((anchorS id).b.adm' 0).anchor = (anchorS id).b.selfIndex 0 ∧ (2 : BitVec 16) ≠ (anchorS id).b.selfIndex 0 ∧ (anchorS id).b.session 0 2 = true) := by
  refine ⟨?_, ?_, ?_, ?_, ?_, ?_, ?_, ?_, ?_, ?_⟩ <;> decide +kernel
/-- As many readers as R264 lets a region have. -/
theorem wit_Tokens_fullReaders : (List.replicate 65535 (3 : BitVec 16)).length = 65535 ∧ (List.replicate 65535 (3 : BitVec 16)).contains 2 = false := by
  refine ⟨List.length_replicate, Bool.eq_false_iff.mpr fun h => ?_⟩
  exact absurd (List.eq_of_mem_replicate (List.contains_iff_mem.mp h)) (by decide)

/-- Partition 0 with window 0 local, and no object yet. -/
def openS (opcode : Byte) (s : State) : State := cmdS opcode (onBlk (fun b => modMe 0 (fun m => { m with ready := true }) b) s)
def handR (st : BitVec 4) : Region := { region9 with kind := 2, state := st }

theorem wit_RegionsOpenMoveAndClear :
    (startsB (openS 0x05 (keyS jigS)) ctx0 0x05 0 (queue0 0x05) = true ∧ (openS 0x05 (keyS jigS)).b.jigOf 0 = some jig0 ∧ (∀ v ∈ jig0.windows, v.window ≠ (1 : Fin 16).val)) ∧
    (let s := regS region9 (openS 0x05 (keyS jigS))
     startsB s ctx0 0x05 0 (queue0 0x05) = true ∧ (jig0.windows.find? fun x => decide (x.window = (0 : Fin 16).val)).isSome = true ∧ windowObject s.b 0 0 = some (3, region9) ∧ region9.dying = false ∧ region9.closing = false ∧
      region9.pasid = some 5 ∧ ({ region9 with pasid := some 6 } : Region).pasid = some 6) ∧
    (let s := openS 0x05 (keyS jigS)
     let b := markStarted ctx0 s.b
     windowObject s.b 0 0 = none ∧ meCount s.hard.cfg ≤ (14 : BitVec 4).toNat ∧ (s.b.sliceOf 5).isSome = true ∧ regionsHeld s.b 5 < 4 ∧ b.freeRegion = some 0 ∧
      (jig0.windows.find? fun x => decide (x.window = 0)) = some { window := 0, kind := 0, regionId := 9, base := 0x40000000, size := 0x200000, generation := 0 } ∧
      (chooseStack s.hard.cfg b 0 none (footprintOf (pagesOf 0x200000))).isSome = true ∧ (openKey 0 0 0 9 0 b).isSome = true ∧ rootEntries b b.jigs < 1024 ∧
      (let t := onBlk (fun b => { b with host := { b.host with slices := [(0, { Slice.reset with valid := true, part := 0, pasid := 5 })] } }) s
       startsB t ctx0 0x05 0 (queue0 0x05) = true ∧ windowObject t.b 0 0 = none ∧ ∃ sl, t.b.sliceOf 5 = some sl ∧ sl.rgn.toNat ≤ regionsHeld t.b 5)) ∧
    (let s := cmdS 0x06 (regS (handR 2) sessS)
     startsB s ctx0 0x06 0 (queue0 0x06) = true ∧ s.b.region (4 : BitVec 10).toNat = none ∧ s.b.region (3 : BitVec 10).toNat = some (handR 2) ∧ (handR 2).pasid = some (queue0 0x06).pasid ∧ (handR 2).dying = false ∧ (handR 2).role = 0 ∧ (handR 2).kind = 2 ∧
      (handR 2).ctx = none ∧ s.b.session (handR 2).part (handR 2).token.mirror = true ∧ (handR 2).token.mirror ≠ s.b.selfIndex (handR 2).part) ∧
    ((handR 5).state = 5 ∧ region9.kind ≠ 2 ∧ jigS.b.session 0 2 = false ∧ ({ region9 with pasid := none } : Region).pasid ≠ some (queue0 0x06).pasid) ∧
    (let r := { region9 with kind := 0 }
     let s := cmdS 0x07 (regS r jigS); startsB s ctx0 0x07 0 (queue0 0x07) = true ∧ s.b.region (3 : BitVec 10).toNat = some r ∧ r.pasid = some (queue0 0x07).pasid ∧ r.dying = false ∧ r.role = 0 ∧ r.state = 2 ∧ r.ctx = none ∧ r.kind = 0) ∧
    (({ region9 with role := 1 } : Region).role ≠ 0 ∧ (handR 8).state = 8) ∧
    (let s := mirrorS (some (tokenFrom2 5)) jigS; s.b.live = true ∧ s.b.mirrorEnt 0 9 = some (mirror0 (some (tokenFrom2 5))) ∧ (mirror0 (some (tokenFrom2 5))).token = some (tokenFrom2 5) ∧ s.b.session 0 2 = false ∧
      (mirrorS (some (tokenFrom2 5)) sessS).b.session 0 2 = true ∧ (mirrorS (some (tokenFrom2 5)) sessS).b.gone 0 2 = false) ∧
    (let s := mirrorS (some (tokenFrom2 5)) (keyS sessS)
     s.b.mirrorEnt 0 token9.regionId = some (mirror0 (some (tokenFrom2 5))) ∧ token9.keeper = s.b.selfIndex 0 ∧ (tokenFrom2 5).keeper = memberIndex sec2.peer ∧ (tokenFrom2 5).tokenSeq.toNat < ({ token9 with tokenSeq := 6 } : Token).tokenSeq.toNat ∧
      token9.tokenSeq.toNat ≤ (tokenFrom2 5).tokenSeq.toNat) ∧
    (let r := { region9 with role := 2, state := 1, token := tokenFrom2 5 }
     let s := regS r sessS; s.b.regionById 0 9 = some (3, r) ∧ r.role ≠ 0 ∧ sec2.peer = accel r.token.keeper ∧ r.state = 1 ∧ r.part = 0 ∧ s.b.region (3 : BitVec 10).toNat = some r ∧ r.openTick.toNat + 1000000000 ≤ s.b.clk.tick.toNat ∧ region9.role = 0 ∧
      ({ r with openTick := 0x4000000000 } : Region).openTick.toNat + 1000000000 > s.b.clk.tick.toNat ∧ ({ r with state := 2 } : Region).state ≠ 1) := by
  refine ⟨?_, ?_, ?_, ?_, ?_, ?_, ?_, ?_, ?_, ?_⟩ <;> decide +kernel
theorem wit_Regions_becomeKeeper : let s := mirrorS (some (tokenFrom2 5)) (keyS sessS)
    (becomeKeeper s.hard 0 (signToken (heard sec2 s.b) 0 { token9 with tokenSeq := 6 }) (heard sec2 s.b)).isSome = true ∧ s.hears sec2 := ⟨by decide +kernel, by refine ⟨?_, ?_, ?_⟩ <;> decide⟩

/-! ### Translation, the host interface -/

def stalled0 (a : BitVec 57) : Stalled := { pasid := 5, engine := 4, src := .port 0, op := .write 0, addr := a, since := 0, fault := none, scheduled := false }
def window0 : KeyWindow := { window := 0, kind := 0, regionId := 9, base := 0x40000000, size := 0x200000, generation := 0 }
def localR : Region := { region9 with kind := 0 }
def pteS (e : Pte) : State := onBlk (modPtu 0 fun x => { x with ptes := [(0, e)] }) (regS localR jigS)

theorem wit_AddressesTranslateByWindowAndEntry :
    (jigS.b.jigOf 0 = some jig0 ∧ windowAt jig0 (stalled0 0).addr.toNat = none ∧ windowAt jig0 (stalled0 0x401FFFFF).addr.toNat = some window0 ∧ windowAt jig0 (stalled0 0x40200000).addr.toNat = none ∧
      jigS.b.windowRegion 0 0 = none ∧ (regS localR jigS).b.windowRegion 0 0 = some (3, localR) ∧ ((regS localR jigS).b.ptuPart 0).table = none) ∧
    (let s := onBlk (modPart 0 fun p => { p with jig := some { jig0 with windows := [{ window0 with kind := 2 }] } }) (regS localR jigS)
     (windowAt { jig0 with windows := [{ window0 with kind := 2 }] } 0x40000000) = some { window0 with kind := 2 } ∧ s.b.windowRegion 0 0 = some (3, localR)) ∧
    (∀ e ∈ [{ Pte.home with busy := true }, { Pte.home with wd := true }, { Pte.home with res := 2 }, { Pte.home with ro := true }, Pte.home, { Pte.home with res := 1 }],
      ((pteS e).b.ptuPart 0).pte (0 * 2 ^ 40 + (0x40000000 - 0x40000000) / 2097152) = e ∧ e.res ≠ 3 ∧ (stalled0 0x40000000).op ≠ .read) := by
  refine ⟨?_, ?_, ?_⟩ <;> decide +kernel

def xfault0 (w : Bool) : XFault := { id := 1, page := 0, addr := 0x40000000, pasid := 5, cause := 3, access := 0, engine := 4, tick := 0, window := 0, written := w }
def change0 (stage : Nat) : XChange := { XChange.blank 0 none with todo := [0], stage := stage, arg := 1, bounce := 3, began := some 0 }
def changeS (c : XChange) (s : State) : State := onBlk (modPtu 0 fun x => { x with changes := [c] }) s
def pin2 : PinEnt := { dkind := 0, dest := 2, port := 0 }

theorem wit_TranslationCommands :
    (jigS.b.regs = true ∧ islandPresent jigS.hard.cfg .ptu = true ∧ (jigS.b.island .ptu).inReset = false ∧ (jigS.b.island .ptu).asleep = false ∧ jigS.b.partExists 0 = true ∧
      ((jigS.b.ptuPart 0).faults.find? fun f => decide (f.id = 1)) = none ∧ (jigS.b.ptuPart 0).faults = []) ∧
    (∀ w, (((onBlk (modPtu 0 fun x => { x with faults := [xfault0 w] }) jigS).b.ptuPart 0).faults.find? fun f => decide (f.id = 1)) = some (xfault0 w) ∧ (xfault0 w).written = w) ∧
    (let x := (onBlk (modPtu 0 fun x => { x with wr := 4, rd := 2 }) jigS).b.ptuPart 0
     x.wr.toNat - x.rd.toNat < ((5 : BitVec 10) - x.rd).toNat ∧ x.rd.toNat ≤ x.wr.toNat ∧ ((4 : BitVec 10) - x.rd).toNat ≤ (x.wr - x.rd).toNat) ∧
    (let s := cmdS 0x0F jigS
     let b := markStarted ctx0 s.b
     startsB s ctx0 0x0F 0 (queue0 0x0F) = true ∧ moveKeys b 0 0x40000000 0 false = none ∧ moveKeys b 0 0x40000000 1 false = some [0] ∧ b.bounce 3 = none) ∧
    (let s := cmdS 0x10 jigS; startsB s ctx0 0x10 0 (queue0 0x10) = true ∧ moveKeys (markStarted ctx0 s.b) 0 0x40000000 1 false = some [0]) ∧
    (let s := cmdS 0x0E jigS; startsB s ctx0 0x0E 0 (queue0 0x0E) = true ∧ invalKeys (markStarted ctx0 s.b) 0 0x10000 1 false true = none ∧ (invalKeys (markStarted ctx0 s.b) 0 0x40000000 1 false true).isSome = true) ∧
    (let s := changeS (change0 1) jigS; s.b.live = true ∧ (s.b.ptuPart 0).changes = [change0 1] ∧ (change0 1).stage = 1 ∧ (s.b.ptuPart 0).drained (change0 1).epoch = true ∧ (change0 4).stage = 4 ∧ (change0 4).todo = 0 :: []) ∧
    (let s := onBlk (modPtu 0 fun x => { x with epoch := 1, uses := [(1, 0), (0, 2)] }) (changeS { change0 1 with epoch := 1 } jigS); (s.b.ptuPart 0).changes = [{ change0 1 with epoch := 1 }] ∧ (s.b.ptuPart 0).drained ({ change0 1 with epoch := 1 } : XChange).epoch = false) ∧
    (evictNext (pteS { Pte.home with res := 1, evict := true }).b 0 = some 0 ∧ evictNext jigS.b 0 = none) ∧
    (let s := onBlk (fun b => modPtu 0 (fun x => { x with chosen := [pin2] }) (modPort 1 (fun x => { x with linkUp := true }) b)) jigS
     s.b.live = true ∧ portPresent s.hard.cfg 0 = true ∧ (s.b.port 0).linkUp = false ∧ (s.b.port 0).downSince.toNat + 1000000 ≤ s.b.clk.tick.toNat ∧ (s.b.ptuPart 0).chosen = [pin2] ∧ pin2.port = 0 ∧ (s.b.ptuPart 0).pins = [] ∧
      (s.b.portPart 0 0).queue3 = [] ∧ (s.b.portPart 0 0).wait3 = [] ∧ fewestDests { s.b.ptuPart 0 with chosen := [] } (((allPorts.filter (portOpen s.hard.cfg s.b 0)).filter fun x => decide (x ≠ 0))) = some 1 ∧ (s.b.port 1).linkUp = true) := by
  refine ⟨?_, ?_, ?_, ?_, ?_, ?_, ?_, ?_, ?_, ?_⟩ <;> decide +kernel

def queue1 : Queue := { queue0 0 with sqTail := 1, flight := [] }
def queueS (q : Queue) : State := onBlk (fun b => { b with host := { b.host with queues := [(3, q)] } }) (cmdS 0 jigS)

theorem wit_SlicesQueuesAndDescriptors :
    (let s := cmdS 0 jigS
     s.b.regs = true ∧ islandPresent s.hard.cfg .hbe = true ∧ (s.b.island .hbe).inReset = false ∧ (s.b.island .hbe).asleep = false ∧ ((s.b.slice (1 : Fin 64).val).written false (0x8000000000000005)).valid = true ∧
      sliceTaken s.b 1 ((s.b.slice (1 : Fin 64).val).written false 0x8000000000000005).pasid = true ∧ (s.b.slice (1 : Fin 64).val).valid = false ∧ sliceTaken s.b 1 ((s.b.slice (1 : Fin 64).val).written false 0x8000000000000006).pasid = false ∧
      wbit 0x8000000000000000 63 = true ∧ wbit 0 63 = false ∧ queueStatus s.b 0 5 4 4 = (stOk, 0) ∧ (queueStatus s.b 0 5 3 4).1 ≠ stOk) ∧
    (let s := queueS queue1
     s.b.regs = true ∧ s.b.queue 3 = some queue1 ∧ queue1.state = 1 ∧ ((16 : BitVec 32) - queue1.sqHead).toNat ≤ 2 ^ queue1.sqLog ∧ 2 ^ queue1.sqLog < ((17 : BitVec 32) - queue1.sqHead).toNat ∧
      ((0 : BitVec 32) - queue1.cqHead).toNat ≤ (queue1.cqTail - queue1.cqHead).toNat ∧ queue1.held = [] ∧ (queue1.cqTail - queue1.cqHead).toNat < ((1 : BitVec 32) - queue1.cqHead).toNat ∧ s.b.live = true ∧ queue1.sqHead ≠ queue1.sqTail ∧ s.b.jtag.tcHalt = false ∧
      queue1.aborted = [] ∧ (let t := onBlk (fun b => { b with jtag := { b.jtag with tcHalt := true } }) s; t.b.live = true ∧ t.b.queue 3 = some queue1 ∧ t.b.jtag.tcHalt = true)) ∧
    (descReason 0 = some 0x0100 ∧ descReason (BitVec.ofNat 512 0x0A) = none ∧ ({ queue1 with sqTail := 0 } : Queue).sqHead = ({ queue1 with sqTail := 0 } : Queue).sqTail ∧ ({ queue1 with state := 3 } : Queue).state ≠ 1) ∧
    (1 ≤ (BitVec.ofNat 512 (0x0A + 2 ^ 10)).toNat % 256 ∧ (BitVec.ofNat 512 (0x0A + 2 ^ 10)).toNat % 256 ≤ 0x14 ∧ (BitVec.ofNat 512 (0x0A + 2 ^ 10)).getLsbD 10 = true) := by
  refine ⟨?_, ?_, ?_, ?_⟩ <;> decide +kernel

def fenceObj0 (st : Option Byte) : FenceObj := { pasid := 5, part := 0, shared := false, status := st, claimed := false, waits := [], freed := false, kind := 0, deferral := none }
def fenceS (o : FenceObj) (s : State) : State := onBlk (fun b => { b with host := { b.host with fences := [(2, o)] } }) s
def queue2 : Queue := { queue0 0 with sqTail := 4, flight := [] }

theorem wit_HostCommandsComplete :
    (let s := cmdS 0x01 liveS
     startsB s ctx0 0x01 0 (queue0 0x01) = true ∧ (1 : Part) ≠ (queue0 0x01).part ∧ s.b.partExists 0 = false ∧ createBarred s.hard s.b = false ∧ s.b.noRandom = false ∧
      startsB (cmdS 0x01 jigS) ctx0 0x01 0 (queue0 0x01) = true ∧ (cmdS 0x01 jigS).b.partExists 0 = true) ∧
    (let s := onBlk (fun b => { b with ent := { b.ent with withheld := true } }) (cmdS 0x01 liveS); startsB s ctx0 0x01 0 (queue0 0x01) = true ∧ s.b.partExists 0 = false ∧ createBarred s.hard s.b = false ∧ s.b.noRandom = true) ∧
    (let s := cmdS 0x0D jigS
     startsB s ctx0 0x0D 0 (queue0 0x0D) = true ∧ (quotaFence (queue0 0x0D) true 0 (markStarted ctx0 s.b)).isSome = true ∧ s.b.fenceSlot 2 = none ∧ ((quotaFence (queue0 0x0D) false 1 (markStarted ctx0 s.b)).any fun x => (x.2.fenceSlot 1).isNone) = true) ∧
    (let s := fenceS (fenceObj0 none) (onBlk (fun b => { b with host := { b.host with slices := [(0, { Slice.reset with valid := true, part := 0, pasid := 5 })] } }) (cmdS 0x0D jigS)); quotaFence (queue0 0x0D) true 0 (markStarted ctx0 s.b) = none) ∧
    (∀ st ∈ [none, some (0x04 : Byte)], (fenceS (fenceObj0 st) (cmdS 0x0D jigS)).b.fenceSlot 2 = some (2, fenceObj0 st) ∧ (fenceObj0 st).kind = 0 ∧ (fenceObj0 st).freed = false ∧ (fenceObj0 st).pasid = 5 ∧ (fenceObj0 st).shared = false ∧
      ({ fenceObj0 st with pasid := 6 } : FenceObj).pasid ≠ 5) ∧
    (let s := onBlk (fun b => { b with host := { b.host with queues := b.host.queues ++ [(4, queue2)] } }) (cmdS 0x11 jigS)
     startsB s ctx0 0x11 0 (queue0 0x11) = true ∧ s.b.queue 5 = none ∧ (4 : BitVec 8) ≠ ctx0.queue ∧ s.b.queue 4 = some queue2 ∧ queue2.pasid = (queue0 0x11).pasid ∧ (4 : BitVec 32) = queue2.sqTail ∧
      1 ≤ (queue2.sqTail - 2).toNat ∧ (queue2.sqTail - 2).toNat ≤ 2 ^ 32 - 2 ^ queue2.sqLog ∧ ((2 : BitVec 32) - queue2.sqHead).toNat < (queue2.sqTail - queue2.sqHead).toNat ∧ ({ queue2 with pasid := 6 } : Queue).pasid ≠ (queue0 0x11).pasid) ∧
    (let s := cmdS 0x12 (regS { region9 with pasid := none } jigS)
     (∀ ot ∈ [(0 : Byte), 1, 2, 4, 5, 6], startsB s ctx0 0x12 ot.toNat (queue0 0x12) = true) ∧ s.b.region (4 : BitVec 32).toNat = none ∧ (s.b.region (3 : BitVec 32).toNat).map (fun r => r.pasid) = some none ∧
      (1 : BitVec 32).toNat < 8 ∧ (1 : BitVec 32).toNat ≠ (queue0 0x12).part.val ∧ (0 : BitVec 32).toNat = (queue0 0x12).part.val) ∧
    (let s := cmdS 0x13 jigS
     startsB s ctx0 0x13 0 (queue0 0x13) = true ∧ queryEntries s.hard (markStarted ctx0 s.b) (queue0 0x13) 0 0 = none ∧ ((queryEntries s.hard (markStarted ctx0 s.b) (queue0 0x13) 4 0).any fun es => decide (fitting 4096 es ≠ [])) = true) := by
  refine ⟨?_, ?_, ?_, ?_, ?_, ?_, ?_, ?_⟩ <;> decide +kernel

def bounce0 : Bounce :=
  { part := 0, pasid := 5, host := 1, state := 1, cause := 0, slotsLog := 4, h2dBase := 0, d2hBase := 0, h2dHead := 0, h2dTail := 1, d2hHead := 0, d2hTail := 0, seqIn := 0, seqOut := 0, keySlot := 64, outq := [], dying := none }
/-- Window 3 of host 1, with one record in the ring, its key at the HBE. -/
def bounceS : State := onBlk (fun b => modIsland .hbe (fun st => { st with cache := [cacheEnt0] }) { b with host := { b.host with bounces := [(3, bounce0)] } }) jigS

theorem wit_BounceWindowsMoveRecords :
    (let s := cmdS 0x14 hostS
     startsB s ctx0 0x14 0 (queue0 0x14) = true ∧ (4 : BitVec 4).toNat = 4 ∧ (s.b.peer 0 (0x10000 ||| (2 : BitVec 16).setWidth 32)).inSession = false ∧ (s.b.peer 0 (0x10000 ||| (1 : BitVec 16).setWidth 32)).inSession = true ∧
      ((s.b.sliceOf 5).any fun e => decide (bouncesHeld s.b 5 < e.bw.toNat)) = true ∧ Tab.has s.b.host.bounces (3 : Byte).toNat = false ∧ Tab.getD s.b.host.bwGen (3 : Byte).toNat 0 ≠ 0xFFFF ∧
      (deriveKey 10 0 (s.b.peer 0 host1).secret 1 (leBytes 1 3 ++ leBytes 2 1) "SWY-BOUNCE" (markStarted ctx0 s.b)).isSome = true) ∧
    (let s := onBlk (fun b => { b with host := { b.host with slices := [(0, { Slice.reset with valid := true, part := 0, pasid := 5 })] } }) (cmdS 0x14 hostS)
     startsB s ctx0 0x14 0 (queue0 0x14) = true ∧ ((s.b.sliceOf 5).any fun e => decide (e.bw.toNat ≤ bouncesHeld s.b 5)) = true) ∧
    (bounceS.b.regs = true ∧ islandPresent bounceS.hard.cfg .hbe = true ∧ (bounceS.b.island .hbe).inReset = false ∧ (bounceS.b.island .hbe).asleep = false ∧ bounceS.b.bounce 3 = some bounce0 ∧
      ((16 : BitVec 32) - bounce0.h2dHead).toNat ≤ 2 ^ bounce0.slotsLog ∧ 2 ^ bounce0.slotsLog < ((17 : BitVec 32) - bounce0.h2dHead).toNat ∧ bounce0.outq = [] ∧ (bounceS.b.ptuPart bounce0.part).changes = [] ∧
      bounceS.b.live = true ∧ bounce0.state = 1 ∧ bounce0.h2dHead ≠ bounce0.h2dTail ∧ bounceBusy bounceS.b 3 = false ∧ pageBusyIn bounceS.b 3 bounce0.part = false ∧ bounceKey bounceS.b bounce0 = some 0) ∧
    (headerGood { bounceRec0 with length := 64, payload := List.replicate 64 0 } = true ∧ headerGood bounceRec0 = false ∧ bounceRec0.seq = bounce0.seqIn ∧ ({ bounceRec0 with seq := 1 } : BounceRec).seq ≠ bounce0.seqIn ∧
      ({ bounceRec0 with length := 0 } : BounceRec).length = 0) ∧
    (let s := changeS (change0 3) bounceS; s.b.live = true ∧ s.b.bounce 3 = some bounce0 ∧ (s.b.ptuPart bounce0.part).changes = [change0 3] ∧ (change0 3).kind = 0 ∧ (change0 3).bounce = 3 ∧ (change0 3).began = some 0 ∧
      (0 : Word).toNat + 1000000000 ≤ s.b.clk.tick.toNat ∧ s.b.clk.tick.toNat < (0x4000000000 : Word).toNat + 1000000000) := by
  refine ⟨?_, ?_, ?_, ?_, ?_⟩ <;> decide +kernel
/-- Whatever tag a record carries, it opens or it does not; with the tag that AES-GCM gives it opens. -/
theorem wit_Bounce_opens (r : BounceRec) (h : gcmTag 0 (bounceIv false r.seq) (recordHeader r) r.payload = r.tag) : (gcmOpen 0 (bounceIv false r.seq) (recordHeader r) r.payload r.tag).isSome = true := by
  unfold gcmOpen
  rw [if_pos h]
  rfl
theorem wit_Bounce_fails (r : BounceRec) (h : gcmTag 0 (bounceIv false r.seq) (recordHeader r) r.payload ≠ r.tag) : gcmOpen 0 (bounceIv false r.seq) (recordHeader r) r.payload r.tag = none := by
  unfold gcmOpen
  rw [if_neg h]

/-! ### Resets and registers -/

def rstS (f : Rst → Rst) (s : State) : State := onBlk (modRst f) s
def running0 (sc : ResetScope) : Running := { scope := sc, taken := 0, requester := 0, origin := none }
/-- Engine 4 of partition 0 has a request stalled in the PTU. -/
def stallS : State := onBlk (modPtu 0 fun x => { x with stalls := [stalled0 0x40000000] }) jigS
def twice (sc : ResetScope) (s : State) : State := rstS (fun r => { r with history := [(sc, 0x4000000000), (sc, 0x3FFFFFFFFF)] }) s
def capJig (n : Nat) (s : State) : State := onBlk (modPart 0 fun p => { p with jig := some { jig0 with policy := { jig0.policy with escalateMax := n } } }) s

theorem wit_ResetsAreAskedAndEscalated :
    (jigS.b.up = true ∧ jigS.b.lc.bootState = 2 ∧ jigS.b.partExists 0 = true ∧ (jigS.b.rstPart 0).go = false ∧ jigS.b.rst.halted = false ∧ islandOfCode (24 : Byte).toNat = some .hbe ∧ haltS.b.rst.halted = true ∧ haltS.b.up = true ∧
      haltS.b.lc.bootState = 2) ∧
    ((jigS.b.part 0).held = false ∧ jigS.b.runs (.context 0 4) = false ∧ jigS.b.taken (.context 0 4) 1000000000 < 2 ∧ resettable jigS.hard .hbe = true ∧ jigS.b.runs (.engine .hbe) = false ∧ jigS.b.taken (.engine .hbe) 10000000000 < 2 ∧
      (jigS.b.part 0).state = 2 ∧ jigS.b.runs (.partition 0) = false ∧ jigS.b.taken (.partition 0) 60000000000 < 2 ∧ (jigS.b.rstPart 0).dumpEn = false ∧ (jigS.b.rstPart 0).sampling = none) ∧
    (let s := twice (.context 0 4) stallS; 2 ≤ s.b.taken (.context 0 4) 1000000000 ∧ holders s.b 0 4 = [.ptu] ∧ 1 ≤ escalateMax s.b 0 ∧ escalateMax (capJig 0 s).b 0 < 1) ∧
    (let s := twice (.engine .hbe) jigS; 2 ≤ s.b.taken (.engine .hbe) 10000000000 ∧ escalateMax (capJig 1 s).b 0 < 2 ∧ 2 ≤ escalateMax s.b 0) ∧
    (let s := twice (.partition 0) jigS; 2 ≤ s.b.taken (.partition 0) 60000000000 ∧ escalateMax (capJig 2 s).b 0 < 3 ∧ 3 ≤ escalateMax s.b 0) ∧
    (stallS.b.live = true ∧ (stallS.b.ptuPart 0).stalls = [stalled0 0x40000000] ∧ (stalled0 0x40000000).engine = 4 ∧ 2000000000 ≤ stallS.b.clk.tick.toNat - (stalled0 0x40000000).since.toNat) := by
  refine ⟨?_, ?_, ?_, ?_, ?_, ?_⟩ <;> decide +kernel

def runS (sc : ResetScope) (s : State) : State := rstS (fun r => { r with running := [running0 sc] }) s
def sampS (s : State) : State := onBlk (modRstPart 0 fun r => { r with sampling := some (2, 0, 0) }) s

theorem wit_ResetsEndSamplesAndNotices :
    ((runS (.context 0 4) jigS).b.live = true ∧ (runS (.context 0 4) jigS).b.runs (.context 0 4) = true ∧ holders (runS (.context 0 4) jigS).b 0 4 = [] ∧ holders stallS.b 0 4 ≠ []) ∧
    (onBlk (modIsland .hbe fun st => { st with inReset := true }) jigS).b.live = true ∧ ((onBlk (modIsland .hbe fun st => { st with inReset := true }) jigS).b.island .hbe).inReset = true ∧
    (let s := runS (.partition 0) jigS; s.b.runs (.partition 0) = true ∧ (s.b.rstPart 0).sampling = none ∧ ((sampS s).b.rstPart 0).sampling = some (2, 0, 0) ∧ (sampS s).b.runs (.partition 0) = true) ∧
    (let s := onBlk (fun b => { b with clk := { b.clk with loadTick := 1 } }) (runS .chip jigS); s.b.live = true ∧ s.b.runs .chip = true ∧ s.b.chipPending = false ∧ s.b.jigs ≠ [] ∧ readmitted s.b = false) ∧
    (let s := onBlk (fun b => modPart 0 (fun p => { p with jig := some { jig0 with anchors := [1, 1, 1] } }) (modAdm 0 (fun a => { a with anchor := 1 }) { b with clk := { b.clk with loadTick := 1 } })) (runS .chip jigS)
     s.b.runs .chip = true ∧ s.b.chipPending = false ∧ s.b.jigs ≠ [] ∧ readmitted s.b = true) ∧
    ((runS .chip jigS).b.up = true ∧ (runS .chip jigS).b.rst.halted = false ∧ (runS .chip jigS).b.rst.running = [running0 .chip] ∧ (runS .chip jigS).b.rst.compat.oos = false ∧
      6000000000 ≤ (runS .chip jigS).b.clk.tick.toNat - (running0 .chip).taken.toNat ∧ jigS.b.clk.tick.toNat - ({ running0 .chip with taken := 0x4000000000 } : Running).taken.toNat < 2000000) ∧
    ((sampS jigS).b.up = true ∧ (sampS jigS).b.noRandom = false ∧ (sampS jigS).b.jigOf 0 = some jig0 ∧ ((sampS jigS).b.rstPart 0).sampling = some (2, 0, 0) ∧ (sampS jigS).b.runs (.partition 0) = false) ∧
    (sessS.b.jigOf 0 = some jig0 ∧ notice0.domainId = jig0.domainId ∧ (sessS.b.adm' 0).notices.contains (notice0.clamping, notice0.tick) = false ∧ within notice0.tick sessS.b.clk.tick 1000000000 = true ∧
      ({ notice0 with domainId := 6 } : ClampNotice).domainId ≠ jig0.domainId) := by
  refine ⟨?_, ?_, ?_, ?_, ?_, ?_, ?_, ?_, ?_⟩ <;> decide +kernel
/-- A notice whose MAC is the one the domain's key gives. -/
theorem wit_Notice_mac : ∃ n : ClampNotice, n.domainId = jig0.domainId ∧ (sessS.b.adm' 0).notices.contains (n.clamping, n.tick) = false ∧ within n.tick sessS.b.clk.tick 1000000000 = true ∧
    kmac128 (sessS.b.keyVal (sessS.b.adm' 0).domainSlot) (noticeHead n.tick n.domainId n.clamping n.cause.toNat n.suspects) "SWY-CLAMP" = n.mac :=
  ⟨{ notice0 with mac := kmac128 (sessS.b.keyVal (sessS.b.adm' 0).domainSlot) (noticeHead notice0.tick notice0.domainId notice0.clamping notice0.cause.toNat notice0.suspects) "SWY-CLAMP" }, rfl, by decide, by decide, rfl⟩

theorem wit_RegistersKeepWhatIsWritten :
    (jigS.b.work = [] ∧ anyDying jigS.b = false) ∧
    (∀ r ∈ [Reg.ksSel 0, .leShape 0 0, .mePlane 0 0, .icSel .operator, .icPctl .operator, .pinSel 0, .gridSel .hbe, .vnSel 0 0, .partQsqb 0, .partQcqb 0],
      answers jigS.hard jigS.b r = true ∧ (∀ i, regIsland r = some i → (jigS.b.island i).asleep = false) ∧ (∀ p, regPartition r = some p → jigS.b.partExists p = true)) ∧
    (answers jigS.hard jigS.b .glbConfig = true ∧ regIsland .glbConfig = none ∧ (0x8 : BitVec 24).toNat % 8 = 0 ∧ regAt (0x8 : BitVec 24).toNat = some .glbConfig ∧ jigS.hard.cfg = .x) := by
  refine ⟨by decide, ?_, by decide⟩
  intro r hr
  simp only [List.mem_cons, List.not_mem_nil, or_false] at hr
  rcases hr with rfl | rfl | rfl | rfl | rfl | rfl | rfl | rfl | rfl | rfl
  all_goals refine ⟨by decide +kernel, fun i h => ?_, fun p h => ?_⟩
  all_goals first | (injection h with h; subst h; decide +kernel) | cases h

theorem wit_AccessesThatReachNoRegister : upS.b.up = true ∧ (4 : Nat) ≠ 8 ∧ (0x900000 : BitVec 24).toNat % 8 = 0 ∧ regAt (0x900000 : BitVec 24).toNat = none ∧ regAt (0x200000 : BitVec 24).toNat = some (.meStat 0) ∧
    answers haltS.hard haltS.b (.meStat 0) = false := by decide +kernel
theorem wit_HaltedBlockTakesNoWork : haltS.halted ∧ haltS.quiet ∧ regAt (0x200000 : BitVec 24).toNat = some (.meStat 0) ∧ haltedReg (.meStat 0) = false ∧ (∀ q ∈ (haltS.b.port 0).queue0 ++ (haltS.b.port 0).wait0, q.notice = false) :=
  ⟨⟨rfl, rfl⟩, ⟨rfl, by decide⟩, by decide +kernel, rfl, by decide⟩


/-! ### The spec's worked examples -/

/-- The five registers of the example of the address map: 0x15_30C8, 0x29_9018, 0x81_1008, 0x06_3028, 0x00_6850. -/
theorem test_addresses : regAt 0x1530C8 = some (.lePstat 23 2) ∧ regAt 0x299018 = some (.bwState 9) ∧ regAt 0x811008 = some (.qCqHead 17) ∧ regAt 0x63028 = some (.rstRange 3 2) ∧ regAt 0x6850 = some (.mboxData 4 10) := by
  decide +kernel
/-- "On a configuration M block, SWY_LE_PSTAT_5_2_3 names no register, because LE_COUNT is 2." -/
theorem test_leCount : leCount .m = 2 ∧ portPresent .m 23 = false := by decide
/-- R252's example: 2 MiB has P = 512 and L = 3, and a footprint of 2,363,904 B. -/
theorem test_footprint : treeLevels 512 = 3 ∧ footprintOf 512 = 2363904 := by decide
/-- Epoch 50 of `EPOCH_ZERO_TICK` 1,000,000,000 and `REKEY_PERIOD` 4,000,000,000 begins at 201,000,000,000. -/
theorem test_epochStart : epochStart { jig0 with epochZero := 1000000000, rekeyPeriod := 4000000000 } 50 = 201000000000 := by decide
/-- `RD` 700 and `WR` 186 leave 510 entries not consumed. -/
theorem test_ringIndices : ((186 : BitVec 10) - 700).toNat = 510 := by decide
/-- The pin of a frame presented at tick 10,000 is 10,096 (R41). -/
theorem test_pin : egressPin .x sched0 = 96 := by decide
/-- The four-member sum: n = 4 gives Q_max 268,435,455; 0.1 at k = 20 gives 104,858, −3.0 gives −3,145,728. -/
theorem test_sum_in : qMax 4 = 268435455 ∧ convIn (qMax 4) 20 none (elemOf 1 0x3DCCCCCD) = (104858, false) ∧ convIn (qMax 4) 20 none (elemOf 1 0xC0400000) = (-3145728, false) ∧
    convIn (qMax 4) 20 none (elemOf 1 0x3A800000) = (1024, false) := by decide +kernel
/-- Its contributions on the wire, their sum less R, and the output: 1.625 is 0x3FD0_0000. -/
theorem test_sum_out : (toField (-1310720) + 1444444446) % vp = 1443133726 ∧ (1382575824 + 1443133726 + 515228465 + 1655733215) % vp = 701703936 ∧ ofField 2145492377 = -1991270 ∧
    convOut 1 1703936 20 = (0x3FD00000, false) := by decide +kernel
/-- LE5 with P1, P2, P4 and P6 at shares 3, 12, 20 and 25: 9, 36, 60 and 75 cells of 192, P1 in each of the 8 columns. -/
theorem test_grid : let g := islandGrid .x (.le 5) [] (gridBasis .x (.le 5) ([(1, 3), (2, 12), (4, 20), (6, 25)].map fun x => (x.1, { jig0 with shares := List.replicate 25 x.2 })))
    g.length = 192 ∧ ([1, 2, 4, 6, noOwner].map fun p => (g.filter (· = p)).length) = [9, 36, 60, 75, 12] ∧
      ((List.range 8).all fun c => decide (1 ≤ ((List.range 24).filter fun k => g.getD (8 * k + c) 99 = 1).length)) = true := by decide +kernel
/-- A replacement raises P2 to 16: it has 48 cells, no cell is unowned, and P1, P4 and P6 keep what they had in each column. -/
theorem test_regrid : let four (n : Nat) := gridBasis .x (.le 5) ([(1, 3), (2, n), (4, 20), (6, 25)].map fun x => (x.1, { jig0 with shares := List.replicate 25 x.2 }))
    let g := islandGrid .x (.le 5) [] (four 12)
    let g' := islandGrid .x (.le 5) g (four 16)
    let inCol (x : List Nat) (c p : Nat) : Nat := ((List.range 24).filter fun k => x.getD (8 * k + c) 99 = p).length
    ([2, noOwner].map fun p => (g'.filter (· = p)).length) = [48, 0] ∧ ((List.range 8).all fun c => [1, 4, 6].all fun p => decide (inCol g c p = inCol g' c p)) = true := by decide +kernel
/-- P5's power window: a mean of 1,873.6 W with `POWER_STEP` 2 is reported as 374, 73.9 °C with `TEMP_STEP` 4 as 72. -/
theorem test_telemetry : let t := endPower 0 { TelOwner.reset with cfg := { powerStep := 2, powerAvg := 5, tempStep := 4, throttlePeriod := 10 }, num := 500, sum := 500 * 1873600, hot := some 1182 }
    t.power = 374 ∧ t.temp = 72 := by decide +kernel

/-- R333: a command starts only once every earlier one of its queue has; an `ORDERED` one only once they have completed. -/
theorem test_ringOrder : let f (n : Nat) (o st : Bool) : InFlight := { ctx := { ctx0 with cmdId := BitVec.ofNat 32 n }, opcode := 0x12, ordered := o, started := st, names := [] }
    let q (o st : Bool) : Queue := { queue0 0x12 with flight := [f 6 false st, f 7 o false] }
    (q false false).startable ctx0 0x12 = false ∧ (q false true).startable ctx0 0x12 = true ∧ (q true true).startable ctx0 0x12 = false := by decide
/-- R268: a suspended region stays so under a token with `AUDIT`, and goes to 4 or 2 under one without. -/
theorem test_suspendedToken : let st (a u : Bool) : Option (BitVec 4) := let r : Region := { region9 with kind := 2, role := 2, state := 5 }
      ((acceptToken liveS.hard 3 r { token9 with audit := a, unreadable := u } (regS r sessS).b).region 3).map fun x => x.state
    [st true true, st true false, st false true, st false false] = [some 5, some 5, some 4, some 2] := by decide +kernel
end Sys2Proof.Tests
end

section
/-! Accesses of the host that reach no register (R6, R404). -/

namespace Sys2Proof.Machine

theorem exec_registerWrite (off : BitVec 24) (v : Word) (s : State) : exec (.registerWrite off v) s = execRegisterWrite off v s := rfl
theorem exec_hostAccessSize (off : BitVec 24) (size : Byte) (isWrite : Bool) (s : State) :
    exec (.hostAccessSize off size isWrite) s = execHostAccessSize off size isWrite s := rfl

/-- R6: out of chip reset, an access that is not one aligned 64-bit word is recorded and completed; a read returns zero. -/
theorem exec_hostAccessSize_of_not_aligned_word {s : State} {off : BitVec 24} {size : Byte} (isWrite : Bool) (hup : s.b.up = true)
    (hbad : size ≠ 8 ∨ off.toNat % 8 ≠ 0) :
    exec (.hostAccessSize off size isWrite) s =
      .next (s.withB (let b := note s.hard 0x0801 27 none [aW3 off.toNat] s.b; if isWrite then b else emit (.regRead 0) b)) := by
  have hword : ¬(size = 8 ∧ off.toNat % 8 = 0) := fun ⟨hsize, hoff⟩ => hbad.elim (· hsize) (· hoff)
  simp only [exec_hostAccessSize, execHostAccessSize, onB_next, whenUp_up _ hup, if_neg hword]

/-- R404: HOST_ACCESS_SIZE with an aligned word to write changes nothing by itself; the write is the command REGISTER_WRITE. -/
theorem exec_hostAccessSize_aligned_write {s : State} {off : BitVec 24} (hoff : off.toNat % 8 = 0) :
    exec (.hostAccessSize off 8 true) s = .next s := by
  simp [exec_hostAccessSize, execHostAccessSize, onB_next, whenUp, hoff]

/-- R404: out of chip reset, an aligned read of one word is the read of its offset. -/
theorem exec_hostAccessSize_aligned_read {s : State} {off : BitVec 24} (hup : s.b.up = true) (hoff : off.toNat % 8 = 0) :
    exec (.hostAccessSize off 8 false) s = .next (s.settled (readOff s.hard off.toNat s.b)) := by
  simp [exec_hostAccessSize, execHostAccessSize, onB_next, whenUp_up _ hup, hoff, State.withB, State.settled]

/-- R404, R407: no register answers at a block offset, because it holds none or because the one it holds does not answer. -/
def NoneAnswers (h : Hard) (b : Block) (off : Nat) : Prop :=
  regAt off = none ∨ ∃ r, regAt off = some r ∧ answers h b r = false

/-- R404: a read that no register answers returns zero and changes nothing else. -/
theorem readOff_of_noneAnswers {h : Hard} {b : Block} {off : Nat} (hnone : NoneAnswers h b off) : readOff h off b = emit (.regRead 0) b := by
  obtain hat | ⟨r, hat, hans⟩ := hnone
  · simp [readOff, hat]
  · simp [readOff, hat, hans]

/-- R404, R407: an aligned write that no register answers is ignored. -/
theorem exec_registerWrite_of_noneAnswers {s : State} {off : BitVec 24} (v : Word) (hoff : off.toNat % 8 = 0)
    (hnone : NoneAnswers s.hard s.b off.toNat) : exec (.registerWrite off v) s = .next s := by
  obtain hat | ⟨r, hat, hans⟩ := hnone
  · simp [exec_registerWrite, execRegisterWrite, hoff, hat]
  · simp [exec_registerWrite, execRegisterWrite, hoff, hat, hans]

/-- Settles O58: an access that is no aligned word is recorded and completed, and where no register answers a write is ignored and a read returns zero. -/
theorem accessesThatReachNoRegister : Obligations.AccessesThatReachNoRegister := by
  intro s off hup
  refine ⟨fun size hbad => ⟨?_, ?_⟩, fun hoff hnone => ⟨fun v => ?_, ?_, ?_⟩⟩
  · exact exec_hostAccessSize_of_not_aligned_word true hup hbad
  · exact exec_hostAccessSize_of_not_aligned_word false hup hbad
  · exact exec_registerWrite_of_noneAnswers v hoff hnone
  · exact exec_hostAccessSize_aligned_write hoff
  · rw [exec_hostAccessSize_aligned_read hup hoff, readOff_of_noneAnswers hnone]

end Sys2Proof.Machine
end

section
/-! The pre-check and the mark of a replay window (R197). -/

namespace Sys2Proof.Machine

/-- R197: below the floor nothing passes, above T everything does, and in between what the bitmap still covers and has not marked. -/
theorem Window.pre_eq_true_iff (w : Window) (floor q : Nat) :
    w.pre floor q = true ↔ floor ≤ q ∧ (w.top ≤ q ∨ w.top ≤ q + 4096 ∧ w.bits.getLsbD (w.top - 1 - q) = false) := by
  obtain hlow | hfloor := lt_or_ge q floor
  · simp [Window.pre, hlow, Nat.not_le.mpr hlow]
  · obtain habove | hbelow := le_or_gt w.top q
    · simp [Window.pre, Nat.not_lt.mpr hfloor, Nat.lt_succ_of_le habove, hfloor, habove]
    · have hstay : ¬ w.top < q + 1 := by omega
      have hold : q + 4097 ≤ w.top ↔ ¬ w.top ≤ q + 4096 := by omega
      simp [Window.pre, Nat.not_lt.mpr hfloor, hstay, hold, hfloor, Nat.not_le.mpr hbelow]

/-- R197: a sequence number above T raises T to it; the bitmap moves up by q − T and its lowest bit, which the shift clears, is set. -/
theorem Window.mark_of_top_le {w : Window} {q : Nat} (habove : w.top ≤ q) :
    w.mark q = some { top := q + 1, bits := w.bits <<< (q + 1 - w.top) ||| 1#4096 <<< 0 } := by
  have hlt : w.top < q + 1 := Nat.lt_succ_of_le habove
  have hcleared : (w.bits <<< (q + 1 - w.top)).getLsbD 0 = false := by simp [hlt]
  simp only [Window.mark, hlt, if_true, Nat.add_sub_cancel, Nat.sub_self, hcleared]
  simp

/-- R197: a sequence number up to T is refused when it is too old or marked; otherwise its bit is set and T stays. -/
theorem Window.mark_of_lt_top {w : Window} {q : Nat} (hbelow : q < w.top) :
    w.mark q = if q + 4096 < w.top ∨ w.bits.getLsbD (w.top - 1 - q) = true then none
      else some { w with bits := w.bits ||| 1#4096 <<< (w.top - 1 - q) } := by
  have hstay : ¬ w.top < q + 1 := by omega
  have hold : 4096 ≤ w.top - 1 - q ↔ q + 4096 < w.top := by omega
  simp only [Window.mark, hstay, if_false, hold, ← ite_or]

/-- R197: the mark discards what is too old and what is marked, and nothing else. -/
theorem Window.mark_eq_none_iff (w : Window) (q : Nat) :
    w.mark q = none ↔ q < w.top ∧ (q + 4096 < w.top ∨ w.bits.getLsbD (w.top - 1 - q) = true) := by
  obtain habove | hbelow := le_or_gt w.top q
  · simp [Window.mark_of_top_le habove, Nat.not_lt.mpr habove]
  · simp only [Window.mark_of_lt_top hbelow, ite_eq_left_iff, reduceCtorEq, imp_false, not_not, hbelow, true_and]

/-- Setting bit n of a window's bitmap sets that bit and no other. -/
theorem getLsbD_or_one_shiftLeft (bits : BitVec 4096) (n : Nat) {i : Nat} (hi : i < 4096) :
    (bits ||| 1#4096 <<< n).getLsbD i = (decide (i = n) || bits.getLsbD i) := by
  have hone : (1#4096 <<< n).getLsbD i = decide (i = n) := by
    rw [← BitVec.twoPow_eq, BitVec.getLsbD_twoPow]
    rcases eq_or_ne i n with rfl | hne
    · simp [hi]
    · simp [hne, hne.symm]
  rw [BitVec.getLsbD_or, hone, Bool.or_comm]

/-- Once T has risen to q, the shifted bitmap still says of each sequence number what the old one said, and nothing of those above the old T. -/
theorem getLsbD_shiftLeft_raised (bits : BitVec 4096) {top q x : Nat} (habove : top ≤ q) (hx : x ≤ q) (hcovered : q < x + 4096) :
    (bits <<< (q + 1 - top)).getLsbD (q - x) = (decide (x < top) && bits.getLsbD (top - 1 - x)) := by
  have hin : q - x < 4096 := by omega
  rw [BitVec.getLsbD_shiftLeft]
  obtain hnew | hknown := le_or_gt top x
  · have hlow : q - x < q + 1 - top := by omega
    simp [hlow, Nat.not_lt.mpr hnew]
  · have hhigh : ¬ q - x < q + 1 - top := by omega
    have hplace : q - x - (q + 1 - top) = top - 1 - x := by omega
    simp [hin, hhigh, hplace, hknown]

/-- R197: a mark that succeeds leaves T at the larger of T and q. -/
theorem Window.top_of_mark {w w' : Window} {q : Nat} (hmark : w.mark q = some w') : w'.top = max w.top (q + 1) := by
  obtain habove | hbelow := le_or_gt w.top q
  · obtain rfl := Option.some.inj ((Window.mark_of_top_le habove).symm.trans hmark)
    simp; omega
  · rw [Window.mark_of_lt_top hbelow] at hmark
    split at hmark
    · cases hmark
    · cases hmark
      simp; omega

/-- R197: of the sequence numbers the bitmap covers after a mark of q, q and those marked before are marked. -/
theorem Window.getLsbD_of_mark {w w' : Window} {q x : Nat} (hmark : w.mark q = some w') (hx : x < w'.top) (hcovered : w'.top ≤ x + 4096) :
    w'.bits.getLsbD (w'.top - 1 - x) = (decide (x = q) || decide (x < w.top) && w.bits.getLsbD (w.top - 1 - x)) := by
  have hin : w'.top - 1 - x < 4096 := by omega
  obtain habove | hbelow := le_or_gt w.top q
  · obtain rfl := Option.some.inj ((Window.mark_of_top_le habove).symm.trans hmark)
    have hplace : q - x = 0 ↔ x = q := by simp at hx; omega
    rw [getLsbD_or_one_shiftLeft _ _ hin]
    simp only [Nat.add_sub_cancel, hplace]
    rw [getLsbD_shiftLeft_raised w.bits habove (Nat.le_of_lt_succ hx) hcovered]
  · rw [Window.mark_of_lt_top hbelow] at hmark
    split at hmark
    · cases hmark
    · cases hmark
      have hplace : w.top - 1 - x = w.top - 1 - q ↔ x = q := by simp at hx; omega
      simp only [getLsbD_or_one_shiftLeft _ _ hin, hplace, show x < w.top from hx, decide_true, Bool.true_and]

/-- Settles O27: a new window starts at the floor with an empty bitmap, and the pre-check, the refusals of the mark and the window it leaves are those of R197. -/
theorem replayWindowsCheckAndMark : Obligations.ReplayWindowsCheckAndMark := by
  refine ⟨fun f => ⟨rfl, rfl⟩, Window.pre_eq_true_iff, Window.mark_eq_none_iff, fun w w' q hmark => ⟨?_, fun x hx hcovered => ?_⟩⟩
  · exact Window.top_of_mark hmark
  · exact Window.getLsbD_of_mark hmark hx hcovered

end Sys2Proof.Machine
end

section
/-! Completions and SETPEND of interrupt sources (R363 to R365). -/

namespace Sys2Proof.Machine

/-! ### A write of DONE -/

/-- R363: the sources a completion of page `o` has its effect on. -/
def Block.completable (b : Block) (c : Cfg) (o : Owner) (x : Nat) : Prop :=
  x ≤ 420 ∧ (b.src c x).owner = some o ∧ ((b.src c x).state = 2 ∨ (b.src c x).state = 3)

/-- An ignored completion: counted in the owner's `STRAY` and in the total (R363). -/
def countStray (o : Owner) (b : Block) : Block :=
  let b := modIcPage (ownerKey o) (fun p => { p with stray := p.stray + 1 }) b
  { b with ic := { b.ic with strayTotal := b.ic.strayTotal + 1 } }

@[simp] theorem modIcPage_icPage (k : Nat) (f : IcPage → IcPage) (b : Block) : (modIcPage k f b).icPage k = f (b.icPage k) := Tab.getD_upd_same ..

@[simp] theorem countStray_stray (o : Owner) (b : Block) : ((countStray o b).icPage (ownerKey o)).stray = (b.icPage (ownerKey o)).stray + 1 :=
  congrArg IcPage.stray (modIcPage_icPage (ownerKey o) (fun p => { p with stray := p.stray + 1 }) b)
@[simp] theorem countStray_strayTotal (o : Owner) (b : Block) : (countStray o b).ic.strayTotal = b.ic.strayTotal + 1 := rfl
@[simp] theorem countStray_srcs (o : Owner) (b : Block) : (countStray o b).ic.srcs = b.ic.srcs := rfl
theorem countStray_frame (o : Owner) (b : Block) : countStray o b = { b with ic := (countStray o b).ic } := rfl

theorem icDone_of_completable {h : Hard} {o : Owner} {x : Nat} {b : Block} (hx : b.completable h.cfg o x) :
    icDone h o x b = setSrc x ((b.src h.cfg x).completed (icPap h.cfg)) b := if_pos hx

theorem icDone_of_not_completable {h : Hard} {o : Owner} {x : Nat} {b : Block} (hx : ¬ b.completable h.cfg o x) :
    icDone h o x b = countStray o b := if_neg hx

/-- INTERRUPT_DONE, out of chip reset and once the pages respond, is a write of DONE. -/
theorem exec_interruptDone {s : State} (o : Owner) (x : BitVec 10) (hup : s.b.up = true) (hboot : s.b.lc.bootState = 2) :
    exec (.interruptDone o x) s = .next (s.withB (icDone s.hard o x.toNat s.b)) := by
  show onB (fun h => whenPages (icDone h o x.toNat)) s = _
  rw [onB_next, whenPages_on _ hup hboot]

/-! ### A write of SETPEND -/

/-- R361, R365: an owned source fires, while halted only if it is one of those that still do. -/
theorem fire_of_owned {h : Hard} {x : Nat} {b : Block} {o : Owner} (howner : (b.src h.cfg x).owner = some o)
    (hfires : b.rst.halted = false ∨ srcFiresHalted x = true) :
    fire h x b = setSrc x ((b.src h.cfg x).fired (icPap h.cfg) (srcIsLevel x)) b := by
  have hopen : (b.rst.halted && !srcFiresHalted x) = false := by
    obtain hrun | hstill := hfires
    · simp [hrun]
    · simp [hstill]
  simp [fire, howner, hopen]

/-- R365: from the assertion of `HALT` no other source fires. -/
theorem fire_of_halted {h : Hard} {x : Nat} {b : Block} (hhalt : b.rst.halted = true) (hstill : srcFiresHalted x = false) : fire h x b = b := by
  simp [fire, hhalt, hstill]

theorem icSetpend_of_owned {h : Hard} {o : Owner} {x : Nat} {b : Block} (howner : (b.src h.cfg x).owner = some o) :
    icSetpend h o x b = fire h x b := if_pos howner

theorem icSetpend_of_not_owned {h : Hard} {o : Owner} {x : Nat} {b : Block} (howner : (b.src h.cfg x).owner ≠ some o) :
    icSetpend h o x b = b := if_neg howner

/-- While halted, a source outside R365 stays as it is whoever writes SETPEND. -/
theorem icSetpend_of_halted {h : Hard} {o : Owner} {x : Nat} {b : Block} (hhalt : b.rst.halted = true) (hstill : srcFiresHalted x = false) :
    icSetpend h o x b = b := by
  rw [icSetpend, fire_of_halted hhalt hstill, ite_self]

/-- INTERRUPT_SETPEND, out of chip reset and once the pages respond, is a write of SETPEND. -/
theorem exec_interruptSetpend {s : State} (o : Owner) (x : BitVec 10) (hup : s.b.up = true) (hboot : s.b.lc.bootState = 2) :
    exec (.interruptSetpend o x) s = .next (s.withB (icSetpend s.hard o x.toNat s.b)) := by
  show onB (fun h => whenPages (icSetpend h o x.toNat)) s = _
  rw [onB_next, whenPages_on _ hup hboot]

/-- Settles O15: by R363 a completion completes an active source of its owner or is counted, and by R364 and R365 SETPEND fires an owned source or does nothing. -/
theorem completionsAndSetpend : Obligations.CompletionsAndSetpend := by
  intro s o x hup hboot
  refine ⟨fun htaken => ?_, fun hstray => ⟨countStray o s.b, ?_, ?_⟩, fun howner hfires => ?_, fun hnone => ?_⟩
  · rw [exec_interruptDone o x hup hboot, icDone_of_completable htaken]
  · rw [exec_interruptDone o x hup hboot, icDone_of_not_completable hstray]
  · exact ⟨countStray_stray o s.b, countStray_strayTotal o s.b, countStray_srcs o s.b, countStray_frame o s.b⟩
  · rw [exec_interruptSetpend o x hup hboot, icSetpend_of_owned howner, fire_of_owned howner hfires]
  · rw [exec_interruptSetpend o x hup hboot]
    obtain hother | ⟨hhalt, hstill⟩ := hnone
    · rw [icSetpend_of_not_owned hother, State.withB_self]
    · rw [icSetpend_of_halted hhalt hstill, State.withB_self]

end Sys2Proof.Machine
end

section
/-! What every command keeps of the parts no reset reaches: configuration, fuses and battery domain (R34, R89, R90, R96, R99). -/

namespace Sys2Proof.Machine

/-! ### Burning fuses (R96, R99) -/

theorem Fuses.within_refl (f : Fuses) : f.within f := by simp [Fuses.within]

/-- A word burned twice keeps what was burned first. -/
theorem and_eq_left_trans {n : Nat} {x y z : BitVec n} (hxy : x &&& y = x) (hyz : y &&& z = y) : x &&& z = x := by
  rw [← hxy, BitVec.and_assoc, hyz]

theorem Fuses.within_trans {f g k : Fuses} (hfg : f.within g) (hgk : g.within k) : f.within k := by
  obtain ⟨hrec, hcert, hserial, hfloor⟩ := hfg
  obtain ⟨hrec', hcert', hserial', hfloor'⟩ := hgk
  exact ⟨fun n => and_eq_left_trans (hrec n) (hrec' n), fun n => and_eq_left_trans (hcert n) (hcert' n), hserial.trans hserial', and_eq_left_trans hfloor hfloor'⟩

theorem and_or_self_left {n : Nat} (x y : BitVec n) : x &&& (x ||| y) = x := by
  ext i hi; simp; intro h; exact .inl h

/-- A table whose value at `k` has been or-ed with `w` keeps every bit it held. -/
theorem getD_and_set_or {n : Nat} (t : Tab (BitVec n)) (k i : Nat) (w : BitVec n) :
    Tab.getD t i 0 &&& Tab.getD (Tab.set t k (Tab.getD t k 0 ||| w)) i 0 = Tab.getD t i 0 := by
  obtain rfl | hne := eq_or_ne i k
  · have hget : Tab.getD (Tab.set t i (Tab.getD t i 0 ||| w)) i 0 = Tab.getD t i 0 ||| w := by simp [Tab.getD, Tab.get?_set_same]
    rw [hget, and_or_self_left]
  · have hget : Tab.getD (Tab.set t k (Tab.getD t k 0 ||| w)) i 0 = Tab.getD t i 0 := by simp [Tab.getD, Tab.get?_set_other t hne]
    rw [hget, BitVec.and_self]

theorem Fuses.within_burn (f : Fuses) (k : Nat) (w : Word) : f.within (f.burn k w) :=
  ⟨fun i => getD_and_set_or f.records k i w, fun _ => BitVec.and_self, rfl, BitVec.and_self⟩

theorem Fuses.within_burnSlot (f : Fuses) (j : Nat) (d : Digest) : f.within (f.burnSlot j d) :=
  ⟨fun _ => BitVec.and_self, fun i => getD_and_set_or f.certSlots j i d, rfl, BitVec.and_self⟩

theorem Fuses.within.burn {f g : Fuses} (h : f.within g) (k : Nat) (w : Word) : f.within (g.burn k w) := Fuses.within_trans h (g.within_burn k w)
theorem Fuses.within.burnSlot {f g : Fuses} (h : f.within g) (j : Nat) (d : Digest) : f.within (g.burnSlot j d) := Fuses.within_trans h (g.within_burnSlot j d)

/-- R107: raising the firmware floor sets bits only. -/
theorem and_floorBurn (w : Word) (n fuel : Nat) : w &&& floorBurn w n fuel = w := by
  induction fuel with
  | zero => exact BitVec.and_self
  | succ fuel ih =>
    simp only [floorBurn]
    split
    · exact and_eq_left_trans ih (and_or_self_left ..)
    · exact ih

/-- R99: what a start finds half burned it burns on. -/
theorem Fuses.within_resume (f : Fuses) (ba : Battery) : f.within (resume f ba).fuse := by
  unfold resume
  cases f.highest 16 with
  | none => exact f.within_refl
  | some k =>
    have hmark : f.within (f.burn k (markCells (f.topMark k))) := f.within_burn ..
    dsimp only
    split
    · exact f.within_refl
    · split
      · dsimp only
        refine Fuses.within.burn ?_ ..
        split
        · refine Fuses.within.burn (Fuses.within.burnSlot ?_ ..) ..
          split
          · exact hmark.burn ..
          · exact hmark
        · split
          · exact hmark.burn ..
          · exact hmark
      · split
        · exact hmark
        · split
          · exact hmark.burn ..
          · split
            · exact hmark
            · exact hmark.burn ..

/-! ### The battery domain (R34, R89, R90) -/

/-- No arm bit is cleared, the floor does not fall, and the root array is kept or zeroed. -/
structure Battery.Lasts (a b : Battery) : Prop where
  arm : a.armMask &&& b.armMask = a.armMask
  floor : a.tickFloor.toNat ≤ b.tickFloor.toNat
  root : b.entropy = a.entropy ∨ b.entropy = 0

theorem Battery.lasts_refl (a : Battery) : a.Lasts a := ⟨BitVec.and_self, le_rfl, .inl rfl⟩

/-- R99: a start keeps the root array or, on the way to a reopen, zeroes it. -/
theorem Battery.lasts_resume (f : Fuses) (ba : Battery) : ba.Lasts (resume f ba).bat := by
  unfold resume
  cases f.highest 16 with
  | none => exact ba.lasts_refl
  | some k =>
    dsimp only
    split
    · exact ba.lasts_refl
    · split
      · dsimp only
        split
        · exact ⟨BitVec.and_self, le_rfl, .inr rfl⟩
        · exact ba.lasts_refl
      · split
        · exact ba.lasts_refl
        · split
          · exact ba.lasts_refl
          · split <;> exact ba.lasts_refl

/-- R90: a trip zeroes the root array or only latches. -/
theorem Battery.lasts_tripBat (k : Nat) (overwriting : Bool) (ba : Battery) : ba.Lasts (tripBat k overwriting ba) := by
  unfold tripBat
  split
  · exact ⟨BitVec.and_self, le_rfl, .inl rfl⟩
  · exact ⟨BitVec.and_self, le_rfl, .inr rfl⟩

/-! ### The lasting parts together -/

/-- All that a command other than `GEN_ROOT` and the loss of battery power can do to the lasting parts. -/
structure Hard.Lasts (h h' : Hard) : Prop where
  cfg : h'.cfg = h.cfg
  fuse : h.fuse.within h'.fuse
  bat : h.bat.Lasts h'.bat

theorem Hard.lasts_refl (h : Hard) : h.Lasts h := ⟨rfl, h.fuse.within_refl, h.bat.lasts_refl⟩
theorem Hard.lasts_fuse {h : Hard} {f : Fuses} (hf : h.fuse.within f) : h.Lasts { h with fuse := f } := ⟨rfl, hf, h.bat.lasts_refl⟩
theorem Hard.lasts_bat {h : Hard} {ba : Battery} (hb : h.bat.Lasts ba) : h.Lasts { h with bat := ba } := ⟨rfl, h.fuse.within_refl, hb⟩

/-- Fields of the battery domain outside R34, R89 and R90 may take any value. -/
theorem Hard.lasts_bat_of_eq {h : Hard} {ba : Battery} (ha : ba.armMask = h.bat.armMask) (hf : ba.tickFloor = h.bat.tickFloor) (he : ba.entropy = h.bat.entropy) :
    h.Lasts { h with bat := ba } := Hard.lasts_bat ⟨by rw [ha, BitVec.and_self], by rw [hf], .inl he⟩

theorem romStart_lasts (h : Hard) (b : Block) : h.Lasts (romStart h b).1 := ⟨rfl, h.fuse.within_resume h.bat, Battery.lasts_resume h.fuse h.bat⟩

theorem leaveReset_lasts (h : Hard) (kind testsOk logOk : Bool) (b : Block) : h.Lasts (leaveReset h kind testsOk logOk b).1 := by
  simp only [leaveReset]
  split
  · exact romStart_lasts ..
  · exact h.lasts_refl

theorem reportUnpowered_lasts (h : Hard) (b : Block) : h.Lasts (reportUnpowered h b).1 := by
  unfold reportUnpowered
  split
  · exact Hard.lasts_bat_of_eq rfl rfl rfl
  · exact h.lasts_refl

/-! ### Every command -/

/-- `o` is a next state that keeps the queue and lets the lasting parts move as `P` allows. -/
def MovesHard (P : Hard → Prop) (s : State) (o : Host.Outcome State Fault Refusal) : Prop :=
  ∃ h b, o = .next { s with hard := h, b := b } ∧ P h

theorem onHB_moves {P : Hard → Prop} {f : Hard → Block → Hard × Block} {s : State} (h : P (f s.hard s.b).1) : MovesHard P s (onHB f s) := ⟨_, _, rfl, h⟩

/-- The commands that can reach the lasting parts; a register write can through the page of the lifecycle. -/
def reachesHard : Instr → Bool
  | .registerWrite .. | .clockLock | .tbLoadFrame .. | .tickFloorWrite | .batterySupplySwitch .. | .chipRstRelease .. | .tamperTrip .. | .tamperZeroised | .rootFlip
  | .genRoot .. | .arm .. | .close | .reopen .. | .burnCert .. | .lcBootWrite .. | .bootBundleFetched .. | .tamperLatchClear .. | .batteryPowerLoss => true
  | _ => false

/-- Every other command answers a next state and changes the block alone. -/
theorem exec_block_only {c : Instr} (hc : reachesHard c = false) (s : State) : ∃ b, exec c s = .next (s.withB b) := by
  cases c
  case registerWrite | clockLock | tbLoadFrame | tickFloorWrite | batterySupplySwitch | chipRstRelease | tamperTrip | tamperZeroised | rootFlip | genRoot | arm | close
      | reopen | burnCert | lcBootWrite | bootBundleFetched | tamperLatchClear | batteryPowerLoss => cases hc
  all_goals exact ⟨_, rfl⟩

theorem moves_block {P : Hard → Prop} {s : State} {b : Block} (hP : P s.hard) : MovesHard P s (.next (s.withB b)) := ⟨s.hard, b, rfl, hP⟩

theorem execClockLock_lasts (s : State) : MovesHard s.hard.Lasts s (execClockLock s) := by
  refine onHB_moves ?_
  dsimp only
  split
  · exact leaveReset_lasts ..
  · exact Hard.lasts_refl _

theorem execTbLoadFrame_lasts (count : Word) (crcOk : Bool) (s : State) : MovesHard s.hard.Lasts s (execTbLoadFrame count crcOk s) := by
  refine onHB_moves ?_
  split_ifs
  · exact Hard.lasts_refl _
  · exact Hard.lasts_refl _
  · exact Hard.lasts_refl _
  · exact Hard.lasts_refl _
  · exact Hard.lasts_refl _
  · exact reportUnpowered_lasts ..

/-- R34: the floor is written once the count has passed it by a multiple of 2^20. -/
theorem execTickFloorWrite_lasts (s : State) : MovesHard s.hard.Lasts s (execTickFloorWrite s) := by
  refine onHB_moves ?_
  split_ifs with hpast
  · have hdiv : s.hard.bat.tickFloor.toNat / 2 ^ 20 < s.b.now.toNat / 2 ^ 20 := by
      simpa using (Bool.and_eq_true_iff.mp hpast).2
    exact Hard.lasts_bat ⟨BitVec.and_self, (Nat.lt_of_div_lt_div hdiv).le, .inl rfl⟩
  · exact Hard.lasts_refl _

theorem execChipRstRelease_lasts (kind testsOk logOk : Bool) (s : State) : MovesHard s.hard.Lasts s (execChipRstRelease kind testsOk logOk s) := by
  refine onHB_moves ?_
  dsimp only
  split_ifs
  · exact Hard.lasts_refl _
  · exact leaveReset_lasts ..
  · exact Hard.lasts_refl _

theorem execTamperTrip_lasts (sensor : Fin 8) (overwriting : Bool) (s : State) : MovesHard s.hard.Lasts s (execTamperTrip sensor overwriting s) := by
  refine onHB_moves ?_
  split_ifs
  · exact Hard.lasts_bat (Battery.lasts_tripBat ..)
  · exact Hard.lasts_refl _

theorem execBatterySupplySwitch_lasts (toVbat : Bool) (s : State) : MovesHard s.hard.Lasts s (execBatterySupplySwitch toVbat s) :=
  onHB_moves (Hard.lasts_bat_of_eq rfl rfl rfl)

theorem execRootFlip_lasts (s : State) : MovesHard s.hard.Lasts s (execRootFlip s) := onHB_moves (Hard.lasts_bat_of_eq rfl rfl rfl)

theorem execTamperZeroised_lasts (s : State) : MovesHard s.hard.Lasts s (execTamperZeroised s) := by
  refine onHB_moves ?_
  dsimp only
  split_ifs
  · exact Hard.lasts_refl _
  all_goals exact Hard.lasts_bat_of_eq rfl rfl rfl

theorem execTamperLatchClear_lasts (mask : Byte) (s : State) : MovesHard s.hard.Lasts s (execTamperLatchClear mask s) := by
  refine onHB_moves ?_
  dsimp only
  split_ifs
  · exact Hard.lasts_refl _
  all_goals exact Hard.lasts_bat_of_eq rfl rfl rfl

/-- R89: arming sets bits of the mask only. -/
theorem execArm_lasts (mask : Byte) (s : State) : MovesHard s.hard.Lasts s (execArm mask s) := by
  refine onHB_moves ?_
  dsimp only
  split_ifs
  · exact Hard.lasts_refl _
  · exact Hard.lasts_bat ⟨and_or_self_left .., le_rfl, .inl rfl⟩

theorem execClose_lasts (s : State) : MovesHard s.hard.Lasts s (execClose s) := by
  refine onHB_moves ?_
  dsimp only
  split_ifs
  case neg => exact Hard.lasts_fuse (Fuses.within_burn ..)
  all_goals exact Hard.lasts_refl _

theorem execReopen_lasts (token : Option Bytes) (s : State) : MovesHard s.hard.Lasts s (execReopen token s) := by
  refine onHB_moves ?_
  dsimp only
  split_ifs
  case neg => exact Hard.lasts_fuse (Fuses.within_burn ..)
  all_goals exact Hard.lasts_refl _

theorem execBurnCert_lasts (cert : Option Bytes) (s : State) : MovesHard s.hard.Lasts s (execBurnCert cert s) := by
  refine onHB_moves ?_
  dsimp only
  split_ifs
  case neg => exact Hard.lasts_fuse (((Fuses.within_burnSlot ..).burn ..).burn ..)
  all_goals exact Hard.lasts_refl _

theorem execLcBootWrite_lasts (val : Word) (s : State) : MovesHard s.hard.Lasts s (execLcBootWrite val s) := by
  refine onHB_moves ?_
  dsimp only
  split_ifs
  · exact Hard.lasts_refl _
  · exact Hard.lasts_refl _
  · exact romStart_lasts s.hard s.b
  · exact Hard.lasts_refl _

theorem Hard.lasts_floorBurn (h : Hard) (n fuel : Nat) : h.Lasts { h with fuse := { h.fuse with floor := floorBurn h.fuse.floor n fuel } } :=
  Hard.lasts_fuse ⟨fun _ => BitVec.and_self, fun _ => BitVec.and_self, rfl, and_floorBurn ..⟩

/-- R107: a bundle that passes may raise the firmware floor. -/
theorem execBootBundleFetched_lasts (bundle : Option Bytes) (s : State) : MovesHard s.hard.Lasts s (execBootBundleFetched bundle s) := by
  refine onHB_moves ?_
  dsimp only
  split_ifs
  · exact Hard.lasts_refl _
  · exact Hard.lasts_refl _
  · exact Hard.lasts_floorBurn ..
  · exact Hard.lasts_refl _

/-- Of the operations a write of `SWY_LC_REQ` runs by itself, `ARM` and `CLOSE` reach the lasting parts. -/
theorem lcGo_lasts (op : Nat) (arg : Byte) (s : State) : MovesHard s.hard.Lasts s (lcGo op arg s) := by
  unfold lcGo
  split
  · exact execArm_lasts ..
  · exact execClose_lasts ..
  all_goals exact moves_block s.hard.lasts_refl

theorem lcGo_withB_lasts (op : Nat) (arg : Byte) (s : State) (b : Block) : MovesHard s.hard.Lasts s (lcGo op arg (s.withB b)) := lcGo_lasts op arg (s.withB b)

theorem lcReqWritten_lasts (val : Word) (s : State) : MovesHard s.hard.Lasts s (lcReqWritten val s) := by
  simp only [lcReqWritten]
  split_ifs
  · exact moves_block s.hard.lasts_refl
  · exact moves_block s.hard.lasts_refl
  · exact lcGo_withB_lasts ..
  · exact moves_block s.hard.lasts_refl

theorem execRegisterWrite_lasts (off : BitVec 24) (val : Word) (s : State) : MovesHard s.hard.Lasts s (execRegisterWrite off val s) := by
  unfold execRegisterWrite
  split
  · exact moves_block s.hard.lasts_refl
  · split
    · exact moves_block s.hard.lasts_refl
    · split
      · exact execTamperLatchClear_lasts ..
      · exact lcReqWritten_lasts ..
      · exact moves_block s.hard.lasts_refl
      · exact moves_block s.hard.lasts_refl
      · exact execLcBootWrite_lasts ..
      · exact moves_block s.hard.lasts_refl

/-- Every command but the loss of battery power and `GEN_ROOT` answers a next state with the same queue, and lets the lasting parts move only as R34, R89, R90, R96 and R99 say. -/
theorem exec_lasts {c : Instr} (hloss : c ≠ .batteryPowerLoss) (hgen : ∀ v, c ≠ .genRoot v) (s : State) : MovesHard s.hard.Lasts s (exec c s) := by
  cases hc : reachesHard c with
  | false =>
    obtain ⟨b, hb⟩ := exec_block_only hc s
    exact hb ▸ moves_block s.hard.lasts_refl
  | true =>
    cases c
    case registerWrite off val => exact execRegisterWrite_lasts off val s
    case clockLock => exact execClockLock_lasts s
    case tbLoadFrame count crcOk => exact execTbLoadFrame_lasts count crcOk s
    case tickFloorWrite => exact execTickFloorWrite_lasts s
    case batterySupplySwitch toVbat => exact execBatterySupplySwitch_lasts toVbat s
    case chipRstRelease kind testsOk logOk => exact execChipRstRelease_lasts kind testsOk logOk s
    case tamperTrip sensor overwriting => exact execTamperTrip_lasts sensor overwriting s
    case tamperZeroised => exact execTamperZeroised_lasts s
    case rootFlip => exact execRootFlip_lasts s
    case genRoot v => exact absurd rfl (hgen v)
    case arm mask => exact execArm_lasts mask s
    case close => exact execClose_lasts s
    case reopen token => exact execReopen_lasts token s
    case burnCert cert => exact execBurnCert_lasts cert s
    case lcBootWrite val => exact execLcBootWrite_lasts val s
    case bootBundleFetched bundle => exact execBootBundleFetched_lasts bundle s
    case tamperLatchClear mask => exact execTamperLatchClear_lasts mask s
    case batteryPowerLoss => exact absurd rfl hloss
    all_goals cases hc

/-- What `GEN_ROOT` keeps: configuration, fuses, arm mask and floor. -/
structure Hard.LastsButRoot (h h' : Hard) : Prop where
  cfg : h'.cfg = h.cfg
  fuse : h.fuse.within h'.fuse
  arm : h.bat.armMask &&& h'.bat.armMask = h.bat.armMask
  floor : h.bat.tickFloor.toNat ≤ h'.bat.tickFloor.toNat

theorem Hard.lastsButRoot_refl (h : Hard) : h.LastsButRoot h := ⟨rfl, h.fuse.within_refl, BitVec.and_self, le_rfl⟩
theorem Hard.lastsButRoot_root (h : Hard) (e : BitVec 32512) (c : BitVec 256) (i : Bool) :
    h.LastsButRoot { h with bat := { h.bat with entropy := e, check := c, inverted := i } } := ⟨rfl, h.fuse.within_refl, BitVec.and_self, le_rfl⟩

theorem execGenRoot_moves (v : Bool) (s : State) : MovesHard s.hard.LastsButRoot s (execGenRoot v s) := by
  refine onHB_moves ?_
  split_ifs
  · exact Hard.lastsButRoot_refl _
  · exact Hard.lastsButRoot_refl _
  · exact Hard.lastsButRoot_refl _
  · exact Hard.lastsButRoot_refl _
  · exact Hard.lastsButRoot_root ..

theorem exec_batteryPowerLoss (s : State) :
    exec .batteryPowerLoss s = .next { s with hard := { s.hard with bat := Battery.blank }, b := whenUp (setLevel s.hard 417 false) s.b } := rfl

/-- Any command answers a next state with the same queue and configuration, and clears no fuse cell. -/
theorem exec_moves (c : Instr) (s : State) : MovesHard (fun h => h.cfg = s.hard.cfg ∧ s.hard.fuse.within h.fuse) s (exec c s) := by
  by_cases hloss : c = .batteryPowerLoss
  · subst hloss
    exact ⟨_, _, exec_batteryPowerLoss s, rfl, Fuses.within_refl _⟩
  · by_cases hgen : ∃ v, c = .genRoot v
    · obtain ⟨v, rfl⟩ := hgen
      obtain ⟨h, b, heq, hkeep⟩ := execGenRoot_moves v s
      exact ⟨h, b, heq, hkeep.cfg, hkeep.fuse⟩
    · obtain ⟨h, b, heq, hkeep⟩ := exec_lasts hloss (fun v hv => hgen ⟨v, hv⟩) s
      exact ⟨h, b, heq, hkeep.cfg, hkeep.fuse⟩

/-- Settles O4: a step is an edge of the clock, which leaves the fuses, or a command, which only burns cells. -/
theorem fusesOnlyGainCells : Obligations.FusesOnlyGainCells := by
  intro s t hstep
  unfold step at hstep
  cases hq : s.pending with
  | nil =>
    rw [hq] at hstep
    obtain rfl := Host.Outcome.next.inj hstep
    exact Fuses.within_refl _
  | cons c rest =>
    rw [hq] at hstep
    obtain ⟨h, b, heq, -, hfuse⟩ := exec_moves c (s.withPending rest)
    obtain rfl := Host.Outcome.next.inj (heq.symm.trans hstep)
    exact hfuse

/-- Settles O3: no command faults or refuses, and none changes the queue or the configuration. -/
theorem everyCommandAnswersANextState : Obligations.EveryCommandAnswersANextState := by
  intro c s
  obtain ⟨h, b, heq, hcfg, -⟩ := exec_moves c s
  exact ⟨_, heq, rfl, hcfg⟩

/-- Settles O5: what every command keeps of the battery domain, with `GEN_ROOT` as the one that writes the root array. -/
theorem batteryDomainKeepsItsPromises : Obligations.BatteryDomainKeepsItsPromises := by
  intro c s t hexec hloss
  by_cases hgen : ∃ v, c = .genRoot v
  · obtain ⟨v, rfl⟩ := hgen
    obtain ⟨h, b, heq, hkeep⟩ := execGenRoot_moves v s
    obtain rfl := Host.Outcome.next.inj (heq.symm.trans hexec)
    exact ⟨hkeep.arm, hkeep.floor, .inr (.inr ⟨v, rfl⟩)⟩
  · obtain ⟨h, b, heq, hkeep⟩ := exec_lasts hloss (fun v hv => hgen ⟨v, hv⟩) s
    obtain rfl := Host.Outcome.next.inj (heq.symm.trans hexec)
    exact ⟨hkeep.bat.arm, hkeep.bat.floor, hkeep.bat.root.imp_right .inl⟩

end Sys2Proof.Machine
end

section
/-! No duplicate passes a replay window (R197). -/

namespace Sys2Proof.Machine

/-- R197: once marked, a sequence number is refused. -/
theorem Window.mark_self_eq_none {w w' : Window} {q : Nat} (hmark : w.mark q = some w') : w'.mark q = none := by
  have htop := Window.top_of_mark hmark
  have hbelow : q < w'.top := by omega
  obtain hcovered | hold := le_or_gt w'.top (q + 4096)
  · refine (Window.mark_eq_none_iff w' q).mpr ⟨hbelow, .inr ?_⟩
    simp [Window.getLsbD_of_mark hmark hbelow hcovered]
  · exact (Window.mark_eq_none_iff w' q).mpr ⟨hbelow, .inl hold⟩

/-- R197: a refused sequence number stays refused whatever is marked next. -/
theorem Window.mark_eq_none_of_mark {w w' : Window} {q n : Nat} (hnone : w.mark q = none) (hmark : w.mark n = some w') : w'.mark q = none := by
  obtain ⟨hbelow, hwhy⟩ := (Window.mark_eq_none_iff w q).mp hnone
  have htop := Window.top_of_mark hmark
  have hbelow' : q < w'.top := by omega
  obtain hcovered | hold := le_or_gt w'.top (q + 4096)
  · have hbit : w.bits.getLsbD (w.top - 1 - q) = true := hwhy.resolve_left (by omega)
    refine (Window.mark_eq_none_iff w' q).mpr ⟨hbelow', .inr ?_⟩
    simp [Window.getLsbD_of_mark hmark hbelow' hcovered, hbelow, hbit]
  · exact (Window.mark_eq_none_iff w' q).mpr ⟨hbelow', .inl hold⟩

theorem Window.mark_eq_none_of_marks {w w' : Window} {q : Nat} (hnone : w.mark q = none) {ns : List Nat}
    (hmarks : ns.foldlM (fun (x : Window) n => x.mark n) w = some w') : w'.mark q = none := by
  induction ns generalizing w with
  | nil => cases hmarks; exact hnone
  | cons n ns ih =>
    rw [List.foldlM_cons] at hmarks
    obtain ⟨x, hx, hrest⟩ := Option.bind_eq_some_iff.mp hmarks
    exact ih (Window.mark_eq_none_of_mark hnone hx) hrest

/-- Settles O26: a marked number is refused, and stays refused through every later mark. -/
theorem noSequenceNumberIsDeliveredTwice : Obligations.NoSequenceNumberIsDeliveredTwice :=
  fun _ _ _ _ _ _ hmark hmarks => .inr (Window.mark_eq_none_of_marks (Window.mark_self_eq_none hmark) hmarks)

end Sys2Proof.Machine
end

section
/-! Masked contributions verify and sum (R215, R224, R225, R229): all of it is arithmetic modulo p. -/

namespace Sys2Proof.Machine

/-! ### Field words and integers as residues -/

theorem fieldWord_lt (w : Nat) : fieldWord w < vp := by
  unfold fieldWord vp
  split <;> omega

theorem streamWord_lt (key : Key) (kind role w : Nat) : streamWord key kind role w < vp := fieldWord_lt _

theorem cast_toField (q : Int) : (toField q : ZMod vp) = (q : ZMod vp) := by
  have hpos : 0 ≤ q % (vp : Int) := Int.emod_nonneg _ (by decide)
  calc (toField q : ZMod vp) = (((q % (vp : Int)).toNat : Int) : ZMod vp) := by rw [Int.cast_natCast, toField]
    _ = ((q % (vp : Int) : Int) : ZMod vp) := by rw [Int.toNat_of_nonneg hpos]
    _ = (q : ZMod vp) := ZMod.intCast_mod q vp

/-- R215: a field value decodes to the one integer of its residue within ±(p − 1)/2. -/
theorem ofField_of_cast_eq {x : Nat} {q : Int} (hx : x < vp) (hq : q.natAbs ≤ 1073741823) (hcast : (x : ZMod vp) = (q : ZMod vp)) : ofField x = q := by
  have hdvd : (vp : Int) ∣ q - x := (ZMod.intCast_eq_intCast_iff_dvd_sub _ _ _).mp (by simpa using hcast)
  obtain ⟨k, hk⟩ := hdvd
  unfold ofField
  simp only [vp] at *
  split <;> omega

/-! ### Masks cancel over the ring of roles (R224) -/

/-- The form of both masks of a role: its own word less that of the next, and the group's on the last. -/
def ringMask (f : Nat → Nat) (t n r : Nat) : Nat := (f r + vp - f (if r + 1 = n then 0 else r + 1) + if r + 1 = n then t else 0) % vp

theorem dataMask_eq_ringMask (key : Key) (n r b j : Nat) :
    dataMask key n r b j = ringMask (fun i => streamWord key 0 i (32 * b + j)) (streamWord key 2 0 (32 * b + j)) n r := rfl
theorem tagMask_eq_ringMask (key : Key) (n r b c : Nat) :
    tagMask key n r b c = ringMask (fun i => streamWord key 1 i (4 * b + c - 1)) (streamWord key 3 0 (4 * b + c - 1)) n r := rfl

theorem cast_ringMask {f : Nat → Nat} (hf : ∀ i, f i < vp) (t n r : Nat) :
    (ringMask f t n r : ZMod vp) = (f r : ZMod vp) - f (if r + 1 = n then 0 else r + 1) + if r + 1 = n then (t : ZMod vp) else 0 := by
  have hle : f (if r + 1 = n then 0 else r + 1) ≤ f r + vp := (hf _).le.trans (Nat.le_add_left ..)
  simp only [ringMask, ZMod.natCast_mod, Nat.cast_add, Nat.cast_sub hle, CharP.cast_eq_zero, add_zero, Nat.cast_ite, Nat.cast_zero]

theorem sum_telescope (f : Nat → ZMod vp) (k : Nat) : ((List.range k).map fun r => f r - f (r + 1)).sum = f 0 - f k := by
  induction k with
  | zero => simp
  | succ k ih => simp [List.range_succ, ih]

/-- R224: over all roles every word but the group's cancels. -/
theorem sum_ringMask {f : Nat → Nat} (hf : ∀ i, f i < vp) (t : Nat) {n : Nat} (hn : 1 ≤ n) :
    ((List.range n).map fun r => (ringMask f t n r : ZMod vp)).sum = t := by
  obtain ⟨k, rfl⟩ : ∃ k, n = k + 1 := ⟨n - 1, by omega⟩
  have hinner : ((List.range k).map fun r => (ringMask f t (k + 1) r : ZMod vp)) = (List.range k).map fun r => (f r : ZMod vp) - f (r + 1) := by
    refine List.map_congr_left fun r hr => ?_
    have hlt : r ≠ k := (List.mem_range.mp hr).ne
    simp [cast_ringMask hf, hlt]
  have hlast : (ringMask f t (k + 1) k : ZMod vp) = f k - f 0 + t := by simp [cast_ringMask hf]
  rw [List.range_succ, List.map_append, List.sum_append, hinner, sum_telescope (fun r => (f r : ZMod vp)), List.map_singleton, List.sum_singleton, hlast]
  ring

theorem sum_dataMask (key : Key) (b j : Nat) {n : Nat} (hn : 1 ≤ n) :
    ((List.range n).map fun r => (dataMask key n r b j : ZMod vp)).sum = streamWord key 2 0 (32 * b + j) := by
  simp only [dataMask_eq_ringMask]
  exact sum_ringMask (fun _ => streamWord_lt ..) _ hn

theorem sum_tagMask (key : Key) (b c : Nat) {n : Nat} (hn : 1 ≤ n) :
    ((List.range n).map fun r => (tagMask key n r b c : ZMod vp)).sum = streamWord key 3 0 (4 * b + c - 1) := by
  simp only [tagMask_eq_ringMask]
  exact sum_ringMask (fun _ => streamWord_lt ..) _ hn

/-! ### Sums of lists as residues -/

theorem cast_sum_map (l : List Nat) (f : Nat → Nat) : (((l.map f).sum : Nat) : ZMod vp) = (l.map fun r => (f r : ZMod vp)).sum := by
  induction l with
  | nil => simp
  | cons r l ih => simp [ih]

/-- R225: the tag's sum over α is linear, so that of the summed words is the sum of the members'. -/
theorem cast_alphaSum_sum (m : VMask) (c k : Nat) (rs : List Nat) (v : Nat → Nat → Nat) (js : List Nat) :
    (alphaSum m c k (js.map fun j => ((rs.map fun r => v r j).sum) % vp) : ZMod vp) = (rs.map fun r => (alphaSum m c k (js.map (v r)) : ZMod vp)).sum := by
  induction js generalizing k with
  | nil => simp [alphaSum]
  | cons j js ih =>
    simp only [List.map_cons, alphaSum, ZMod.natCast_mod, Nat.cast_add, Nat.cast_mul, ih, cast_sum_map, List.sum_map_add, List.sum_map_mul_left]

/-! ### The summed block -/

/-- The words of a contributed block before its tags. -/
def maskedWord (m : VMask) (n r b : Nat) (qs : List Int) (j : Nat) : Nat := (toField (qs.getD j 0) + dataMask m.key n r b j) % vp

/-- Tag `c` of a contributed block. -/
def blockTag (m : VMask) (n r b : Nat) (qs : List Int) (c : Nat) : Nat :=
  (alphaSum m c 0 ((List.range 32).map (maskedWord m n r b qs)) + tagMask m.key n r b c) % vp

theorem getD_map_range (f : Nat → Nat) {k j : Nat} (hj : j < k) : ((List.range k).map f).getD j 0 = f j := by simp [List.getD, hj]

theorem getD_words (f : Nat → Nat) (x y : Nat) {j : Nat} (hj : j < 32) : ((List.range 32).map f ++ [x, y]).getD j 0 = f j := by
  rw [List.getD_append _ _ _ _ (by simpa using hj), getD_map_range f hj]

theorem getD_tags (f t : Nat → Nat) {c : Nat} (hc : c = 1 ∨ c = 2) : ((List.range 32).map f ++ [t 1, t 2]).getD (31 + c) 0 = t c := by
  rw [List.getD_append_right _ _ _ _ (by simp; omega)]
  obtain rfl | rfl := hc <;> simp

theorem blockWords_getD_data (m : VMask) (n r b : Nat) (qs : List Int) {j : Nat} (hj : j < 32) : (blockWords m n r b qs).getD j 0 = maskedWord m n r b qs j :=
  getD_words _ _ _ hj

theorem blockWords_getD_tag (m : VMask) (n r b : Nat) (qs : List Int) {c : Nat} (hc : c = 1 ∨ c = 2) : (blockWords m n r b qs).getD (31 + c) 0 = blockTag m n r b qs c :=
  getD_tags (maskedWord m n r b qs) (blockTag m n r b qs) hc

/-- Word `w` of a block added over all members, modulo p. -/
def summedWord (m : VMask) (n b : Nat) (qs : Nat → List Int) (w : Nat) : Nat := (((List.range n).map fun r => (blockWords m n r b (qs r)).getD w 0).sum) % vp

theorem cast_summedWord_data (m : VMask) {n : Nat} (hn : 1 ≤ n) (b : Nat) (qs : Nat → List Int) {j : Nat} (hj : j < 32) :
    (summedWord m n b qs j : ZMod vp) = (((List.range n).map fun r => (qs r).getD j 0).sum : Int) + streamWord m.key 2 0 (32 * b + j) := by
  simp only [summedWord, ZMod.natCast_mod, cast_sum_map, blockWords_getD_data m n _ b _ hj, maskedWord, Nat.cast_add, cast_toField, List.sum_map_add,
    sum_dataMask m.key b j hn, Int.cast_list_sum, List.map_map]
  rfl

theorem cast_summedWord_tag (m : VMask) {n : Nat} (hn : 1 ≤ n) (b : Nat) (qs : Nat → List Int) {c : Nat} (hc : c = 1 ∨ c = 2) :
    (summedWord m n b qs (31 + c) : ZMod vp) =
      ((List.range n).map fun r => (alphaSum m c 0 ((List.range 32).map (maskedWord m n r b (qs r))) : ZMod vp)).sum + streamWord m.key 3 0 (4 * b + c - 1) := by
  simp only [summedWord, ZMod.natCast_mod, cast_sum_map, blockWords_getD_tag m n _ b _ hc, blockTag, Nat.cast_add, List.sum_map_add, sum_tagMask m.key b c hn]

theorem eq_mod_of_cast_eq {x y : Nat} (hy : y < vp) (hcast : (x : ZMod vp) = (y : ZMod vp)) : x % vp = y := by
  have := (ZMod.natCast_eq_natCast_iff x y vp).mp hcast
  rwa [Nat.ModEq, Nat.mod_eq_of_lt hy] at this

/-- R225: the tags of the summed words are the sums of the tags. -/
theorem summed_tag_verifies (m : VMask) {n : Nat} (hn : 1 ≤ n) (b : Nat) (qs : Nat → List Int) {c : Nat} (hc : c = 1 ∨ c = 2) :
    (alphaSum m c 0 ((List.range 32).map (summedWord m n b qs)) + streamWord m.key 3 0 (4 * b + c - 1)) % vp = summedWord m n b qs (31 + c) := by
  refine eq_mod_of_cast_eq (Nat.mod_lt _ (by decide)) ?_
  have hdata : (List.range 32).map (summedWord m n b qs) = (List.range 32).map fun j => ((List.range n).map fun r => maskedWord m n r b (qs r) j).sum % vp := by
    refine List.map_congr_left fun j hj => ?_
    simp only [summedWord, blockWords_getD_data m n _ b _ (List.mem_range.mp hj)]
  rw [cast_summedWord_tag m hn b qs hc, Nat.cast_add, hdata, cast_alphaSum_sum m c 0 (List.range n) (fun r j => maskedWord m n r b (qs r) j)]

/-! ### No sum leaves the field's range (R215) -/

theorem le_two_pow_ceilLog2 (n : Nat) : n ≤ 2 ^ ceilLog2 n := by
  unfold ceilLog2
  split
  · simpa using ‹n ≤ 1›
  · have : n - 1 < 2 ^ (Nat.log2 (n - 1) + 1) := Nat.lt_log2_self
    omega

theorem mul_qMax_le (n : Nat) : n * qMax n ≤ 1073741823 := by
  unfold qMax
  obtain hlarge | hsmall := lt_or_ge 30 (ceilLog2 n)
  · simp [Nat.sub_eq_zero_of_le hlarge.le]
  · have hpow : 2 ^ ceilLog2 n * 2 ^ (30 - ceilLog2 n) = 2 ^ 30 := by rw [← pow_add, Nat.add_sub_cancel' hsmall]
    have hpos : 1 ≤ 2 ^ ceilLog2 n := Nat.one_le_two_pow
    calc n * (2 ^ (30 - ceilLog2 n) - 1) ≤ 2 ^ ceilLog2 n * (2 ^ (30 - ceilLog2 n) - 1) := Nat.mul_le_mul_right _ (le_two_pow_ceilLog2 n)
      _ = 2 ^ 30 - 2 ^ ceilLog2 n := by rw [Nat.mul_sub, hpow, Nat.mul_one]
      _ ≤ 1073741823 := by omega

theorem natAbs_sum_le (q : Nat) (f : Nat → Int) (n : Nat) (hf : ∀ r, r < n → (f r).natAbs ≤ q) : ((List.range n).map f).sum.natAbs ≤ n * q := by
  induction n with
  | zero => simp
  | succ n ih =>
    have hprev := ih fun r hr => hf r (by omega)
    have hlast := hf n (by omega)
    rw [List.range_succ, List.map_append, List.sum_append, Nat.succ_mul]
    simp only [List.map_singleton, List.sum_singleton]
    omega

/-- R229: an unmasked word decodes to the sum of the members' integers. -/
theorem ofField_summedWord (m : VMask) {n : Nat} (hn : 1 ≤ n) (b : Nat) (qs : Nat → List Int) {j : Nat} (hj : j < 32)
    (hq : ∀ r, r < n → ((qs r).getD j 0).natAbs ≤ qMax n) :
    ofField ((summedWord m n b qs j + vp - streamWord m.key 2 0 (32 * b + j)) % vp) = ((List.range n).map fun r => (qs r).getD j 0).sum := by
  have hle : streamWord m.key 2 0 (32 * b + j) ≤ summedWord m n b qs j + vp := (streamWord_lt ..).le.trans (Nat.le_add_left ..)
  refine ofField_of_cast_eq (Nat.mod_lt _ (by decide)) ((natAbs_sum_le _ _ n hq).trans (mul_qMax_le n)) ?_
  rw [ZMod.natCast_mod, Nat.cast_sub hle, Nat.cast_add, CharP.cast_eq_zero (ZMod vp) vp, add_zero, cast_summedWord_data m hn b qs hj, add_sub_cancel_right]

/-- Settles O39: the masks cancel over the ring of roles, both tags are linear, and no sum passes half of p. -/
theorem maskedContributionsSumAndVerify : Obligations.MaskedContributionsSumAndVerify := by
  intro m b n qs hn hq sums
  have hsums : sums = (List.range 34).map (summedWord m n b qs) := rfl
  have hgetD {w : Nat} (hw : w < 34) : sums.getD w 0 = summedWord m n b qs w := hsums ▸ getD_map_range _ hw
  have htake : sums.take 32 = (List.range 32).map (summedWord m n b qs) := by rw [hsums, ← List.map_take, List.take_range]; rfl
  refine ⟨?_, List.map_congr_left fun j hj => ?_⟩
  · have htag {c : Nat} (hc : c = 1 ∨ c = 2) := summed_tag_verifies m hn b qs hc
    have h1 := htag (.inl rfl)
    have h2 := htag (.inr rfl)
    simp only [badTags, htake, hgetD (show 31 + 1 < 34 by decide), hgetD (show 31 + 2 < 34 by decide), h1, h2, ne_eq, not_true_eq_false, decide_false, bit]
    rfl
  · have hj : j < 32 := List.mem_range.mp hj
    rw [hgetD (by omega)]
    exact ofField_summedWord m hn b qs hj fun r hr => hq r hr j hj

end Sys2Proof.Machine
end

section
/-! Orphaning in the key tree (R117, R118) and the swap of a commit (R124): the operations of an invalidation change nothing of a slot but its state. -/

namespace Sys2Proof.Machine

/-! ### The slots through the key store's operations -/

/-- The slots depend on the key store alone. -/
theorem slot_congr {a b : Block} (h : a.ks.slots = b.ks.slots) (x : Nat) : a.slot x = b.slot x := by simp [Block.slot, h]

theorem setSlot_slot_same (n : Nat) (k : KeySlot) (b : Block) : (setSlot n k b).slot n = k := by simp [Block.slot, setSlot, Tab.getD, Tab.get?_set_same]
theorem setSlot_slot_ne {n x : Nat} (h : x ≠ n) (k : KeySlot) (b : Block) : (setSlot n k b).slot x = b.slot x := by
  simp [Block.slot, setSlot, Tab.getD, Tab.get?_set_other _ h]

/-- A slot once orphaned (R117). -/
def KeySlot.orphaned (k : KeySlot) : KeySlot := { k with attr := { k.attr with st := 3 } }

theorem markOrphan_slot_same (n : Nat) (b : Block) : (markOrphan n b).slot n = (b.slot n).orphaned := setSlot_slot_same ..
theorem markOrphan_slot_ne {n x : Nat} (h : x ≠ n) (b : Block) : (markOrphan n b).slot x = b.slot x := setSlot_slot_ne h ..

/-- What one pass of the scan does to a slot it lists. -/
def orphanStep (b : Block) (x : Nat) (k : KeySlot) : KeySlot :=
  let ps := (b.slot k.attr.parent.toNat).attr.st
  if 8 ≤ x ∧ (k.attr.st = 1 ∨ k.attr.st = 2) ∧ (ps = 3 ∨ ps = 0) then k.orphaned else k

theorem orphanPass_get? (b : Block) (x : Nat) : Tab.get? (orphanPass b).ks.slots x = (Tab.get? b.ks.slots x).map (orphanStep b x) :=
  Tab.get?_mapV b.ks.slots (orphanStep b) x

theorem orphanPass_slot_low {b : Block} {x : Nat} (hx : x < 8) : (orphanPass b).slot x = b.slot x := by
  have hstay : orphanStep b x = id := by funext k; simp [orphanStep, Nat.not_le.mpr hx]
  simp [Block.slot, Tab.getD, orphanPass_get?, hstay]

/-! ### Orphaning only -/

/-- From `a` to `b` slots are orphaned and nothing else of any slot changes. -/
structure OrphansOnly (a b : Block) : Prop where
  slot : ∀ x, b.slot x = a.slot x ∨ b.slot x = (a.slot x).orphaned

theorem OrphansOnly.of_slots {a b : Block} (h : b.ks.slots = a.ks.slots) : OrphansOnly a b := ⟨fun x => .inl (slot_congr h x)⟩
theorem OrphansOnly.refl (a : Block) : OrphansOnly a a := ⟨fun _ => .inl rfl⟩

theorem OrphansOnly.trans {a b c : Block} (hab : OrphansOnly a b) (hbc : OrphansOnly b c) : OrphansOnly a c := by
  refine ⟨fun x => ?_⟩
  obtain hc | hc := hbc.slot x
  · exact hc ▸ hab.slot x
  · obtain hb | hb := hab.slot x
    · exact .inr (by rw [hc, hb])
    · exact .inr (by rw [hc, hb]; rfl)

theorem OrphansOnly.foldl {α : Type} {f : Block → α → Block} (hf : ∀ b e, OrphansOnly b (f b e)) (l : List α) (b : Block) : OrphansOnly b (l.foldl f b) := by
  induction l generalizing b with
  | nil => exact .refl b
  | cons e l ih => exact (hf b e).trans (ih _)

theorem OrphansOnly.parent {a b : Block} (h : OrphansOnly a b) (x : Nat) : (b.slot x).attr.parent = (a.slot x).attr.parent := by
  obtain hx | hx := h.slot x <;> rw [hx]; rfl
theorem OrphansOnly.st {a b : Block} (h : OrphansOnly a b) {x : Nat} (hx : (a.slot x).attr.st = 3) : (b.slot x).attr.st = 3 := by
  obtain hb | hb := h.slot x <;> rw [hb]
  · exact hx
  · rfl
theorem OrphansOnly.value {a b : Block} (h : OrphansOnly a b) (x : Nat) : (b.slot x).value = (a.slot x).value := by
  obtain hx | hx := h.slot x <;> rw [hx]; rfl
theorem OrphansOnly.generation {a b : Block} (h : OrphansOnly a b) (x : Nat) : (b.slot x).attr.generation = (a.slot x).attr.generation := by
  obtain hx | hx := h.slot x <;> rw [hx]; rfl
theorem OrphansOnly.count {a b : Block} (h : OrphansOnly a b) (x : Nat) : (b.slot x).count = (a.slot x).count := by
  obtain hx | hx := h.slot x <;> rw [hx]; rfl

/-! ### The operations of an invalidation -/

theorem markOrphan_orphansOnly (n : Nat) (b : Block) : OrphansOnly b (markOrphan n b) := by
  refine ⟨fun x => ?_⟩
  obtain rfl | hne := eq_or_ne x n
  · exact .inr (markOrphan_slot_same ..)
  · exact .inl (markOrphan_slot_ne hne b)

theorem orphanPass_orphansOnly (b : Block) : OrphansOnly b (orphanPass b) := by
  refine ⟨fun x => ?_⟩
  simp only [Block.slot, Tab.getD, orphanPass_get?]
  cases Tab.get? b.ks.slots x with
  | none => exact .inl rfl
  | some k =>
    simp only [Option.map_some, Option.getD_some, orphanStep]
    split
    · exact .inr rfl
    · exact .inl rfl

theorem orphanPasses_orphansOnly (n : Nat) (b : Block) : OrphansOnly b (orphanPasses n b) := by
  induction n generalizing b with
  | zero => exact .refl b
  | succ n ih => exact (orphanPass_orphansOnly b).trans (ih _)

theorem orphanPasses_slot_low {x : Nat} (hx : x < 8) (n : Nat) (b : Block) : (orphanPasses n b).slot x = b.slot x := by
  induction n generalizing b with
  | zero => rfl
  | succ n ih => exact (ih _).trans (orphanPass_slot_low hx)

theorem orphanPasses_repls (n : Nat) (b : Block) : (orphanPasses n b).ks.repls = b.ks.repls := by
  induction n generalizing b with
  | zero => rfl
  | succ n ih => exact ih _

@[simp] theorem completeOpt_ks (h : Hard) (ctx : Option CmdCtx) (st : Byte) (reason r1 r2 : Nat) (b : Block) : (completeOpt h ctx st reason r1 r2 b).ks = b.ks := by
  cases ctx with
  | none => rfl
  | some c => exact complete_ks ..

@[simp] theorem keyNote_ks (h : Hard) (code isl s : Nat) (args : List (Nat × Nat)) (b : Block) : (keyNote h code isl s args b).ks = b.ks := note_ks ..

@[simp] theorem noteLinkFail_ks (owner : BitVec 4) (l : Option LinkRef) (cause : Nat) (b : Block) : (noteLinkFail owner l cause b).ks = b.ks := by
  unfold noteLinkFail
  split
  · rfl
  · split <;> rfl

@[simp] theorem sendKdr_ks (i : Island) (m : KdrMsg) (b : Block) : (sendKdr i m b).ks = b.ks := rfl

theorem foldl_ks {α : Type} {f : Block → α → Block} (hf : ∀ b e, (f b e).ks = b.ks) (l : List α) (b : Block) : (l.foldl f b).ks = b.ks := by
  induction l generalizing b with
  | nil => rfl
  | cons e l ih => exact (ih _).trans (hf b e)

@[simp] theorem sendKills_ks (ss : List Nat) (b : Block) : (sendKills ss b).1.ks = b.ks := by
  unfold sendKills
  generalize ([] : List (Island × Slot)) = out
  induction ss generalizing b out with
  | nil => rfl
  | cons s ss ih => exact (ih ..).trans (foldl_ks (fun _ _ => sendKdr_ks ..) ..)

@[simp] theorem invalDone_ks (h : Hard) (v : Inval) (b : Block) : (invalDone h v b).ks = b.ks := by simp [invalDone]

/-- R119: a replacement of an orphaned slot fails, and its shadow is orphaned. -/
theorem orphanRepls_orphansOnly (h : Hard) (b : Block) : OrphansOnly b (orphanRepls h b) := by
  refine OrphansOnly.foldl (fun b e => ?_) _ b
  have hdrop (a : Block) (ha : a.ks.slots = b.ks.slots) : OrphansOnly b (markOrphan e.2.shadow.toNat a) :=
    (OrphansOnly.of_slots ha).trans (markOrphan_orphansOnly _ a)
  split
  · refine (hdrop (dropRepl e.1 (noteLinkFail (b.slot e.1).attr.owner e.2.link 6 b)) ?_).trans (.of_slots ?_)
    · simp [dropRepl]
    · simp
  · split
    · exact hdrop (dropRepl e.1 b) rfl
    · exact .refl b

theorem orphanRepls_nil (h : Hard) {b : Block} (hnone : b.ks.repls = []) : orphanRepls h b = b := by simp [orphanRepls, hnone]

/-- What an invalidation makes of the slots: the root is orphaned, seven passes go down the tree, replacements fail. -/
theorem invalidate_slots (h : Hard) (root : Nat) (ctx : Option CmdCtx) (b : Block) :
    (invalidate h root ctx b).ks.slots = (orphanRepls h (orphanPasses 7 (markOrphan root b))).ks.slots := by
  unfold invalidate
  dsimp only
  split <;> simp

theorem invalidate_orphansOnly (h : Hard) (root : Nat) (ctx : Option CmdCtx) (b : Block) : OrphansOnly b (invalidate h root ctx b) :=
  (((markOrphan_orphansOnly root b).trans (orphanPasses_orphansOnly 7 _)).trans (orphanRepls_orphansOnly h _)).trans
    (.of_slots (invalidate_slots h root ctx b))

theorem invalidate_root (h : Hard) (root : Nat) (ctx : Option CmdCtx) (b : Block) : ((invalidate h root ctx b).slot root).attr.st = 3 := by
  rw [slot_congr (invalidate_slots h root ctx b)]
  refine (orphanRepls_orphansOnly h _).st ((orphanPasses_orphansOnly 7 _).st ?_)
  rw [markOrphan_slot_same]; rfl

/-- R118: of slots 0 to 7 an invalidation changes its root alone. -/
theorem invalidate_low (h : Hard) {root x : Nat} (ctx : Option CmdCtx) {b : Block} (hx : x < 8) (hne : x ≠ root) (hnone : b.ks.repls = []) :
    (invalidate h root ctx b).slot x = b.slot x := by
  have hrepls : (orphanPasses 7 (markOrphan root b)).ks.repls = [] := (orphanPasses_repls ..).trans hnone
  rw [slot_congr (invalidate_slots h root ctx b), orphanRepls_nil h hrepls, orphanPasses_slot_low hx, markOrphan_slot_ne hne]

/-- The parent of a slot (R115). -/
def Block.parentOf (b : Block) (x : Nat) : Nat := (b.slot x).attr.parent.toNat

theorem OrphansOnly.parentOf {a b : Block} (h : OrphansOnly a b) : b.parentOf = a.parentOf := by
  funext x; simp [Block.parentOf, h.parent x]

/-- R117: the walk up from a slot finds an orphaned slot at any distance it reaches. -/
theorem chainOrphaned_of_orphaned {b : Block} {root fuel k n : Nat} (hroot : (b.slot root).attr.st = 3) (hk : k < fuel) (hup : b.parentOf^[k] n = root)
    (hpath : ∀ i, i < k → b.parentOf^[i] n ≠ 0) : chainOrphaned b fuel n = true := by
  induction k generalizing fuel n with
  | zero =>
    obtain ⟨fuel, rfl⟩ : ∃ m, fuel = m + 1 := ⟨fuel - 1, by omega⟩
    obtain rfl : n = root := hup
    simp [chainOrphaned, hroot]
  | succ k ih =>
    obtain ⟨fuel, rfl⟩ : ∃ m, fuel = m + 1 := ⟨fuel - 1, by omega⟩
    have hn : n ≠ 0 := hpath 0 (by omega)
    have hrest : chainOrphaned b fuel (b.parentOf n) = true := ih (by omega) hup fun i hi => hpath (i + 1) (by omega)
    simp only [chainOrphaned, Bool.or_eq_true, Bool.and_eq_true]
    exact .inr ⟨decide_eq_true hn, hrest⟩

/-- Settles O22: the root is orphaned, parents stay, so the walk from any slot below it within seven levels meets an orphaned slot. -/
theorem invalidationReachesTheWholeTree : Obligations.InvalidationReachesTheWholeTree := by
  intro h root n k ctx b _ hk hup hpath
  have hparent := (invalidate_orphansOnly h root ctx b).parentOf
  refine ⟨?_, invalidate_root h root ctx b, fun x hx hne _ hnone => by rw [invalidate_low h ctx hx hne hnone]⟩
  have hchain : chainOrphaned (invalidate h root ctx b) 8 n = true :=
    chainOrphaned_of_orphaned (k := k) (invalidate_root h root ctx b) (by omega) (by rw [hparent]; exact hup) (by rw [hparent]; exact hpath)
  simp [Block.slotLive, hchain]

/-! ### The swap of a commit (R124) -/

theorem linkCommit_ks (p : Part) (s : Slot) (l : LinkRef) (b : Block) : (linkCommit p s l b).ks = b.ks := by
  simp only [linkCommit]
  split <;> rfl

theorem regionCommit_ks (h : Hard) (s shadow : Slot) (gen : BitVec 16) (b : Block) : (regionCommit h s shadow gen b).ks = b.ks := by
  refine foldl_ks (fun b e => ?_) _ b
  dsimp only
  split_ifs <;> simp [keepMark]

theorem retireRepl_orphansOnly (h : Hard) (s : Slot) (b : Block) : OrphansOnly b (retireRepl h s b) := by
  unfold retireRepl
  split
  · exact .refl b
  · split
    · exact (OrphansOnly.of_slots (a := b) (b := dropRepl s.toNat b) rfl).trans (invalidate_orphansOnly ..)
    · exact .refl b

/-- The slots as a commit of `s` with shadow `sh` swaps them. -/
def swapped (s sh : Slot) (b : Block) : Block :=
  let k := b.slot s.toNat
  let x := b.slot sh.toNat
  setSlot sh.toNat { x with value := k.value, attr := { k.attr with st := 2 }, count := k.count, heldBy := k.heldBy }
    (setSlot s.toNat { k with value := x.value, attr := { x.attr with st := 1 }, count := 0, told := 0 } b)

theorem swapped_slot {s sh : Slot} (hne : sh ≠ s) (b : Block) :
    (swapped s sh b).slot s.toNat = { b.slot s.toNat with value := (b.slot sh.toNat).value, attr := { (b.slot sh.toNat).attr with st := 1 }, count := 0, told := 0 } := by
  have hne : s.toNat ≠ sh.toNat := fun h => hne (BitVec.eq_of_toNat_eq h.symm)
  simp only [swapped]
  rw [setSlot_slot_ne hne, setSlot_slot_same]

theorem retired_or_kept (h : Hard) (s : Slot) {c : Prop} [Decidable c] {b a : Block} (ha : a.ks.slots = b.ks.slots) :
    OrphansOnly b (if c then a else retireRepl h s a) := by
  split
  · exact .of_slots ha
  · exact (OrphansOnly.of_slots ha).trans (retireRepl_orphansOnly h s a)

/-- R124: all that a commit does to the slots beyond the swap is to orphan the old value's tree. -/
theorem commitRepl_orphansOnly (h : Hard) (s : Slot) {r : Repl} {b : Block} (hr : b.repl s.toNat = some r) : OrphansOnly (swapped s r.shadow b) (commitRepl h s b) := by
  simp only [commitRepl, hr]
  refine retired_or_kept h s ?_
  rw [completeOpt_ks]
  split
  · rw [regionCommit_ks]
    split
    · rw [linkCommit_ks, keyNote_ks]; rfl
    · rw [keyNote_ks]; rfl
  · split
    · rw [linkCommit_ks, keyNote_ks]; rfl
    · rw [keyNote_ks]; rfl

/-- Settles O25: a commit swaps slot and shadow, and no later part of it changes the slot's value, generation or count. -/
theorem commitSwapsInTheNewValue : Obligations.CommitSwapsInTheNewValue := by
  intro h s r b hr hne
  have hafter := commitRepl_orphansOnly h s hr
  rw [hafter.value, hafter.generation, hafter.count, swapped_slot hne]
  exact ⟨rfl, rfl, rfl⟩

end Sys2Proof.Machine
end

section
/-! The rings of the trouble log (R386). -/

namespace Sys2Proof.Machine

theorem viewsTake_rings (h : Hard) (vs : List Nat) (b : Block) : (viewsTake h vs b).log.rings = b.log.rings := by
  induction vs generalizing b with
  | nil => rfl
  | cons v vs ih =>
    refine (ih _).trans ?_
    simp only [fire_log]

theorem viewsLose_rings (ns : Tab Nat) (b : Block) : (viewsLose ns b).log.rings = b.log.rings := by
  induction ns generalizing b with
  | nil => rfl
  | cons n ns ih => exact ih _

/-- The ring an entry enters (R386): a partition's own entries the partition's, all others the global one. -/
def ringOf (view : Nat) (p : Option Part) : Nat := match view, p with | 0, some p => p.val | _, _ => 8

/-- R386: an entry is added to one ring, which when full loses its oldest; the other rings stay. -/
theorem logEv_rings (h : Hard) (code isl : Nat) (p : Option Part) (view sev : Nat) (args : List (Nat × Nat)) (b : Block) :
    ∃ e, (logEv h code isl p view sev args b).log.rings =
      Tab.set b.log.rings (ringOf view p) ((if ringCap (ringOf view p) ≤ (b.ring (ringOf view p)).length then (b.ring (ringOf view p)).drop 1 else b.ring (ringOf view p)) ++ [e]) := by
  unfold logEv
  dsimp only
  rw [viewsTake_rings]
  simp only [apply_ite (fun x : Block => x.log.rings), viewsLose_rings, ite_self, decide_eq_true_eq]
  exact ⟨_, rfl⟩

theorem ringCap_pos (r : Nat) : 1 ≤ ringCap r := by unfold ringCap; split <;> decide

/-- Settles O17: the ring an entry enters has room for it, a full one by losing its oldest; no other ring changes. -/
theorem logRingsKeepTheirCapacity : Obligations.LogRingsKeepTheirCapacity := by
  intro h code isl p view sev args b hcap r
  obtain ⟨e, hrings⟩ := logEv_rings h code isl p view sev args b
  unfold Block.ring
  rw [hrings]
  obtain rfl | hne := eq_or_ne r (ringOf view p)
  · have hold := hcap (ringOf view p)
    have hpos := ringCap_pos (ringOf view p)
    simp only [Tab.getD, Tab.get?_set_same, Option.getD_some, List.length_append, List.length_singleton]
    split
    · rw [List.length_drop]; omega
    · omega
  · simp only [Tab.getD, Tab.get?_set_other _ hne]
    exact hcap r

end Sys2Proof.Machine
end

section
/-! Fields of byte strings (R5), and frames as they are written and read (R187, R194). -/

namespace Sys2Proof.Machine

/-! ### Little-endian fields (R5) -/

@[simp] theorem leBytes_length (n v : Nat) : (leBytes n v).length = n := by
  induction n generalizing v with
  | zero => rfl
  | succ n ih => simp [leBytes, ih]

theorem leVal_leBytes (n v : Nat) : leVal (leBytes n v) = v % 256 ^ n := by
  induction n generalizing v with
  | zero => simp [leBytes, leVal, Nat.mod_one]
  | succ n ih => rw [leBytes, leVal, ih, pow_succ', Nat.mod_mul, BitVec.toNat_ofNat]

theorem bytesAt_zero_append {xs : Bytes} {n : Nat} (h : xs.length = n) (ys : Bytes) : bytesAt (xs ++ ys) 0 n = xs := by
  simp [bytesAt, ← h]

theorem bytesAt_append_skip {xs : Bytes} {off : Nat} (h : xs.length ≤ off) (ys : Bytes) (len : Nat) : bytesAt (xs ++ ys) off len = bytesAt ys (off - xs.length) len := by
  simp [bytesAt, List.drop_append, List.drop_eq_nil_of_le h]

/-- The field a byte string begins with. -/
theorem fieldAt_leBytes_append (n v : Nat) (ys : Bytes) : fieldAt (leBytes n v ++ ys) 0 n = v % 256 ^ n := by
  rw [fieldAt, bytesAt_zero_append (leBytes_length n v), leVal_leBytes]

/-- A field behind the first. -/
theorem fieldAt_append_skip {xs : Bytes} {off : Nat} (h : xs.length ≤ off) (ys : Bytes) (len : Nat) : fieldAt (xs ++ ys) off len = fieldAt ys (off - xs.length) len := by
  rw [fieldAt, bytesAt_append_skip h, fieldAt]

theorem fieldAt_leBytes_append_skip {n off : Nat} (h : n ≤ off) (v : Nat) (ys : Bytes) (len : Nat) : fieldAt (leBytes n v ++ ys) off len = fieldAt ys (off - n) len := by
  rw [fieldAt_append_skip (by simpa using h), leBytes_length]

/-! ### Tags -/

@[simp] theorem blockBytes_length (v : BitVec 128) : (blockBytes v).length = 16 := by simp [blockBytes]

theorem blockOf_blockBytes (v : BitVec 128) : blockOf (blockBytes v) = v := by
  have htake : (blockBytes v).take 16 = blockBytes v := List.take_of_length_le (blockBytes_length v).le
  have hrev : (blockBytes v).reverse = leBytes 16 v.toNat := List.reverse_reverse _
  have hpad : padTo 16 (blockBytes v) = blockBytes v := by simp [padTo]
  rw [blockOf, htake, hpad, hrev, leVal_leBytes]
  exact BitVec.eq_of_toNat_eq (by simp only [BitVec.toNat_ofNat]; omega)

/-! ### Frames (R187) -/

theorem headerBytes_length (f : Frame) (cmark : Bool) (hops : BitVec 4) : (headerBytes f cmark hops).length = 16 := by simp [headerBytes]

/-- The first byte of a header, its type, class and kind of sender. -/
def headByte (f : Frame) : Nat := f.ftype.toNat + 16 * f.cls.toNat + 128 * bit f.skind

/-- A frame on the wire, its header's fields in order. -/
theorem plainFrame_fields (f : Frame) (tag : BitVec 128) : plainFrame f tag =
    leBytes 1 (headByte f) ++ (leBytes 1 0 ++ (leBytes 2 f.sender.toNat ++ (leBytes 1 f.stream.toNat ++ (leBytes 3 f.epoch.toNat ++ (leBytes 6 f.seq.toNat ++
      (leBytes 2 (f.payload.length + 1024 * f.sport.toNat) ++ (f.payload ++ tagBytes tag))))))) := by
  simp [plainFrame, headerBytes, headByte, bit]

theorem plainFrame_length (f : Frame) (tag : BitVec 128) : (plainFrame f tag).length = f.payload.length + 32 := by
  simp [plainFrame, headerBytes_length, tagBytes]; omega

theorem bit_le_one (c : Bool) : bit c ≤ 1 := by cases c <;> decide

section fields
variable (f : Frame) (tag : BitVec 128)

theorem plainFrame_byte0 : fieldAt (plainFrame f tag) 0 1 = headByte f := by
  have := f.ftype.isLt; have := f.cls.isLt; have := bit_le_one f.skind
  rw [plainFrame_fields, fieldAt_leBytes_append, Nat.mod_eq_of_lt]
  simp only [headByte]; omega

theorem plainFrame_byte1 : fieldAt (plainFrame f tag) 1 1 = 0 := by
  simp (disch := decide) only [plainFrame_fields, fieldAt_leBytes_append_skip, Nat.reduceSub, fieldAt_leBytes_append, Nat.zero_mod]

theorem plainFrame_sender : fieldAt (plainFrame f tag) 2 2 = f.sender.toNat := by
  simp (disch := decide) only [plainFrame_fields, fieldAt_leBytes_append_skip, Nat.reduceSub, fieldAt_leBytes_append]
  exact Nat.mod_eq_of_lt f.sender.isLt

theorem plainFrame_stream : fieldAt (plainFrame f tag) 4 1 = f.stream.toNat := by
  simp (disch := decide) only [plainFrame_fields, fieldAt_leBytes_append_skip, Nat.reduceSub, fieldAt_leBytes_append]
  exact Nat.mod_eq_of_lt f.stream.isLt

theorem plainFrame_epoch : fieldAt (plainFrame f tag) 5 3 = f.epoch.toNat := by
  simp (disch := decide) only [plainFrame_fields, fieldAt_leBytes_append_skip, Nat.reduceSub, fieldAt_leBytes_append]
  exact Nat.mod_eq_of_lt f.epoch.isLt

theorem plainFrame_seq : fieldAt (plainFrame f tag) 8 6 = f.seq.toNat := by
  simp (disch := decide) only [plainFrame_fields, fieldAt_leBytes_append_skip, Nat.reduceSub, fieldAt_leBytes_append]
  exact Nat.mod_eq_of_lt f.seq.isLt

theorem plainFrame_lengthWord (hlen : f.payload.length ≤ 512) : fieldAt (plainFrame f tag) 14 2 = f.payload.length + 1024 * f.sport.toNat := by
  simp (disch := decide) only [plainFrame_fields, fieldAt_leBytes_append_skip, Nat.reduceSub, fieldAt_leBytes_append]
  exact Nat.mod_eq_of_lt (by have := f.sport.isLt; omega)

/-- The header and the rest of a frame. -/
theorem plainFrame_payload : bytesAt (plainFrame f tag) 16 f.payload.length = f.payload := by
  rw [plainFrame, List.append_assoc, bytesAt_append_skip (headerBytes_length ..).le, headerBytes_length, bytesAt_zero_append rfl]

theorem plainFrame_tag : bytesAt (plainFrame f tag) (16 + f.payload.length) 16 = tagBytes tag := by
  have hhead : (headerBytes f false 0 ++ f.payload).length = 16 + f.payload.length := by simp [headerBytes_length]
  rw [plainFrame, bytesAt_append_skip hhead.le, hhead, Nat.sub_self]
  exact List.take_of_length_le (blockBytes_length tag).le

end fields

/-- The fields of the first byte. -/
theorem headByte_bits (f : Frame) : bitsOf (headByte f) 0 4 = f.ftype.toNat ∧ bitsOf (headByte f) 4 2 = f.cls.toNat ∧ bitsOf (headByte f) 6 1 = 0 ∧ bitsOf (headByte f) 7 1 = bit f.skind := by
  have := f.ftype.isLt; have := f.cls.isLt; have := bit_le_one f.skind
  simp only [headByte, bitsOf]
  omega

/-- Settles O28: every field of the header, the payload and the tag stand where step 1 of R194 looks for them. -/
theorem framesParseAsTheyAreWritten : Obligations.FramesParseAsTheyAreWritten := by
  intro f tag hmod hlen hlo hhi hkind
  refine ⟨?_, plainFrame_length f tag⟩
  obtain ⟨hft, hcls, hcm, hsk⟩ := headByte_bits f
  have hlow : bitsOf (f.payload.length + 1024 * f.sport.toNat) 0 10 = f.payload.length := by simp only [bitsOf]; omega
  have hhigh : bitsOf (f.payload.length + 1024 * f.sport.toNat) 10 6 = f.sport.toNat := by have := f.sport.isLt; simp only [bitsOf]; omega
  have hskind : decide (bit f.skind = 1) = f.skind := by cases f.skind <;> rfl
  have hfour : f.skind = true → f.ftype.toNat = 5 := fun h => by rw [hkind h]; rfl
  simp only [parseFrame, plainFrame_byte0, plainFrame_byte1, plainFrame_sender, plainFrame_stream, plainFrame_epoch, plainFrame_seq, plainFrame_lengthWord f tag hlen,
    hft, hcls, hcm, hsk, hlow, hhigh, hskind, plainFrame_payload, plainFrame_tag, plainFrame_length]
  rw [if_pos ⟨by omega, hmod, hlen, trivial, hlo, hhi, rfl, hfour⟩]
  simp [tagOf, tagBytes, blockOf_blockBytes, bitsOf]

end Sys2Proof.Machine
end

section
/-! Sealed lines, and the fields of counter blocks and nodes (R247, R249, R253, R276). -/

namespace Sys2Proof.Machine

/-! ### A sealed line opens (R247) -/

theorem leBytes_leVal {bs : Bytes} {n : Nat} (h : bs.length = n) : leBytes n (leVal bs) = bs := by
  subst h
  induction bs with
  | nil => rfl
  | cons x t ih =>
    have hx := x.isLt
    have hlow : (x.toNat + 256 * leVal t) / 256 = leVal t := by omega
    have hhead : BitVec.ofNat 8 (x.toNat + 256 * leVal t) = x := BitVec.eq_of_toNat_eq (by simp only [BitVec.toNat_ofNat]; omega)
    simp only [List.length_cons, leBytes, leVal, hlow, hhead, ih]

theorem leVal_lt (bs : Bytes) : leVal bs < 256 ^ bs.length := by
  induction bs with
  | nil => decide
  | cons x t ih => have := x.isLt; simp only [leVal, List.length_cons, pow_succ]; omega

theorem lineOf_lineBytes (l : Line) : lineOf (lineBytes l) = l := by
  have htake : (lineBytes l).take 64 = lineBytes l := List.take_of_length_le (leBytes_length ..).le
  rw [lineOf, htake, lineBytes, leVal_leBytes]
  exact BitVec.eq_of_toNat_eq (by have := l.isLt; simp only [BitVec.toNat_ofNat]; omega)

theorem lineBytes_lineOf {bs : Bytes} (h : bs.length = 64) : lineBytes (lineOf bs) = bs := by
  have hlt := leVal_lt bs
  rw [h] at hlt
  have hval : (lineOf bs).toNat = leVal bs := by
    rw [lineOf, List.take_of_length_le h.le, BitVec.toNat_ofNat]
    exact Nat.mod_eq_of_lt (by omega)
  rw [lineBytes, hval, leBytes_leVal h]

theorem keystream_length (k : Key) (n : Nat) (c : BitVec 128) : (keystream k n c).length = 16 * n := by
  induction n generalizing c with
  | zero => rfl
  | succ n ih => simp [keystream, ih]; omega

theorem xorBytes_xorBytes {a k : Bytes} (h : a.length ≤ k.length) : xorBytes (xorBytes a k) k = a := by
  induction a generalizing k with
  | nil => simp [xorBytes]
  | cons x a ih =>
    cases k with
    | nil => simp at h
    | cons y k =>
      have hrest : xorBytes (xorBytes a k) k = a := ih (by simpa using h)
      have hbyte : x ^^^ y ^^^ y = x := by rw [BitVec.xor_assoc, BitVec.xor_self, BitVec.xor_zero]
      simp only [xorBytes, List.zipWith_cons_cons] at hrest ⊢
      rw [hbyte, hrest]

theorem ctrMode_length (k : Key) (c : BitVec 128) (bs : Bytes) : (ctrMode k c bs).length = bs.length := by
  simp only [ctrMode, xorBytes, List.length_zipWith, keystream_length]; omega

/-- Counter mode undoes itself. -/
theorem ctrMode_ctrMode (k : Key) (c : BitVec 128) (bs : Bytes) : ctrMode k c (ctrMode k c bs) = bs := by
  rw [ctrMode, ctrMode_length, ctrMode]
  exact xorBytes_xorBytes (by rw [keystream_length]; omega)

theorem openLine_sealLine (key : Key) (line : Nat) (major : Word) (minor : Nat) (pt : Line) :
    openLine key line major minor (sealLine key line major minor pt).1 (sealLine key line major minor pt).2 = some pt := by
  have hbytes (c : BitVec 128) : lineBytes (lineOf (ctrMode key c (lineBytes pt))) = ctrMode key c (lineBytes pt) :=
    lineBytes_lineOf ((ctrMode_length ..).trans (leBytes_length ..))
  simp only [openLine, sealLine, gcmSeal, hbytes, if_true, ctrMode_ctrMode, lineOf_lineBytes]

/-! ### Fields of a line -/

theorem testBit_lineBits (l : Line) (lo w i : Nat) : (lineBits l lo w).testBit i = (decide (i < w) && l.getLsbD (lo + i)) := by
  rw [lineBits, bitsOf, Nat.testBit_mod_two_pow, Nat.testBit_div_two_pow, Nat.add_comm]
  rfl

/-- A write of a field sets its bits and leaves the others. -/
theorem getLsbD_putBits (l : Line) {lo w : Nat} (v : Nat) {i : Nat} (hi : i < 512) :
    (putBits l lo w v).getLsbD i = if lo ≤ i ∧ i < lo + w then v.testBit (i - lo) else l.getLsbD i := by
  simp only [putBits, BitVec.getLsbD_or, BitVec.getLsbD_and, BitVec.getLsbD_not, BitVec.getLsbD_shiftLeft, BitVec.getLsbD_ofNat, hi, decide_true, Bool.true_and,
    Nat.testBit_two_pow_sub_one, Nat.testBit_mod_two_pow]
  obtain hlow | hin := lt_or_ge i lo
  · simp [hlow, Nat.not_le.mpr hlow]
  · have hlt : i - lo < 512 := by omega
    obtain hw | hout := lt_or_ge i (lo + w)
    · simp [Nat.not_lt.mpr hin, hin, hlt, hw, show i - lo < w by omega]
    · simp [Nat.not_lt.mpr hin, hin, hlt, Nat.not_lt.mpr hout, show ¬ i - lo < w by omega]

theorem lineBits_putBits_same (l : Line) {lo w : Nat} (v : Nat) (hfit : lo + w ≤ 512) : lineBits (putBits l lo w v) lo w = v % 2 ^ w := by
  refine Nat.eq_of_testBit_eq fun i => ?_
  rw [testBit_lineBits, Nat.testBit_mod_two_pow]
  by_cases hi : i < w
  · simp [hi, getLsbD_putBits l v (show lo + i < 512 by omega)]
  · simp [hi]

theorem lineBits_putBits_other (l : Line) {lo w lo' w' : Nat} (v : Nat) (hfit : lo' + w' ≤ 512) (hapart : lo' + w' ≤ lo ∨ lo + w ≤ lo') :
    lineBits (putBits l lo w v) lo' w' = lineBits l lo' w' := by
  refine Nat.eq_of_testBit_eq fun i => ?_
  rw [testBit_lineBits, testBit_lineBits]
  by_cases hi : i < w'
  · have hout : ¬(lo ≤ lo' + i ∧ lo' + i < lo + w) := by omega
    rw [getLsbD_putBits l v (by omega), if_neg hout]
  · simp [hi]

theorem getLsbD_putBits_same (l : Line) {i : Nat} (c : Bool) (hi : i < 512) : (putBits l i 1 (bit c)).getLsbD i = c := by
  rw [getLsbD_putBits l _ hi, if_pos (by omega), Nat.sub_self]
  cases c <;> rfl

theorem getLsbD_putBits_other (l : Line) {lo w i : Nat} (v : Nat) (hi : i < 512) (hout : i < lo ∨ lo + w ≤ i) : (putBits l lo w v).getLsbD i = l.getLsbD i := by
  rw [getLsbD_putBits l v hi, if_neg (by omega)]

/-! ### Counter blocks (R249, R250) -/

theorem cbSetMinor_keeps (c : Line) {j v : Nat} (hj : j < 64) (hv : v < 128) :
    cbMinor (cbSetMinor c j v) j = v ∧ cbMajor (cbSetMinor c j v) = cbMajor c ∧ ∀ i, i < 64 → i ≠ j → cbMinor (cbSetMinor c j v) i = cbMinor c i := by
  refine ⟨?_, ?_, fun i hi hne => lineBits_putBits_other c v (by omega) (by omega)⟩
  · rw [cbMinor, cbSetMinor, lineBits_putBits_same c v (by omega)]
    exact Nat.mod_eq_of_lt hv
  · rw [cbMajor, cbSetMinor, lineBits_putBits_other c v (by omega) (by omega), cbMajor]

theorem cbNew_fields (major : Word) (j : Nat) : cbMajor (cbNew major) = major ∧ cbMinor (cbNew major) j = 0 := by
  have hmajor := major.isLt
  have hval : (cbNew major).toNat = major.toNat := by simp only [cbNew, BitVec.toNat_setWidth]; exact Nat.mod_eq_of_lt (by omega)
  refine ⟨?_, ?_⟩
  · refine BitVec.eq_of_toNat_eq ?_
    simpa [cbMajor, lineBits, bitsOf, hval] using hmajor
  · have hpow : major.toNat < 2 ^ (64 + 7 * j) := hmajor.trans_le (Nat.pow_le_pow_right (by decide) (by omega))
    simp [cbMinor, lineBits, bitsOf, hval, Nat.div_eq_of_lt hpow]

/-! ### Nodes (R253) -/

theorem nodeSetChild_child (n : Line) {j : Nat} (mac : BitVec 56) (g : Bool) (hj : j < 8) :
    nodeMac (nodeSetChild n j mac g) j = mac ∧ nodeFresh (nodeSetChild n j mac g) j = false ∧ nodeGen (nodeSetChild n j mac g) j = g ∧
      nodeLost (nodeSetChild n j mac g) j = nodeLost n j := by
  refine ⟨?_, ?_, getLsbD_putBits_same _ g (by omega), ?_⟩
  · rw [nodeMac, nodeSetChild, lineBits_putBits_other _ _ (by omega) (by omega), lineBits_putBits_other _ _ (by omega) (by omega), lineBits_putBits_same _ _ (by omega),
      Nat.mod_eq_of_lt mac.isLt, BitVec.ofNat_toNat, BitVec.setWidth_eq]
  · rw [nodeFresh, nodeSetChild, getLsbD_putBits_other _ _ (by omega) (by omega)]
    exact getLsbD_putBits_same _ false (by omega)
  · rw [nodeLost, nodeSetChild, getLsbD_putBits_other _ _ (by omega) (by omega), getLsbD_putBits_other _ _ (by omega) (by omega),
      getLsbD_putBits_other _ _ (by omega) (by omega), nodeLost]

theorem nodeSetChild_others (n : Line) {i j : Nat} (mac : BitVec 56) (g : Bool) (hj : j < 8) (hi : i < 8) (hne : i ≠ j) :
    nodeMac (nodeSetChild n j mac g) i = nodeMac n i ∧ nodeFresh (nodeSetChild n j mac g) i = nodeFresh n i ∧ nodeGen (nodeSetChild n j mac g) i = nodeGen n i ∧
      nodeLost (nodeSetChild n j mac g) i = nodeLost n i := by
  have hbit {k : Nat} (hk : k < 512) (h1 : k < 56 * j ∨ 56 * j + 56 ≤ k) (h2 : k ≠ 456 + j) (h3 : k ≠ 464 + j) : (nodeSetChild n j mac g).getLsbD k = n.getLsbD k := by
    rw [nodeSetChild, getLsbD_putBits_other _ _ hk (by omega), getLsbD_putBits_other _ _ hk (by omega), getLsbD_putBits_other _ _ hk h1]
  refine ⟨?_, hbit (by omega) (by omega) (by omega) (by omega), hbit (by omega) (by omega) (by omega) (by omega), hbit (by omega) (by omega) (by omega) (by omega)⟩
  rw [nodeMac, nodeSetChild, lineBits_putBits_other _ _ (by omega) (by omega), lineBits_putBits_other _ _ (by omega) (by omega),
    lineBits_putBits_other _ _ (by omega) (by omega), nodeMac]

theorem lineBits_zero (lo w : Nat) : lineBits 0 lo w = 0 :=
  Nat.eq_of_testBit_eq fun i => by rw [testBit_lineBits, Nat.zero_testBit, BitVec.ofNat_eq_ofNat, BitVec.getLsbD_zero, Bool.and_false]

theorem nodeNew_child {j : Nat} (hj : j < 8) : nodeFresh nodeNew j = true ∧ nodeMac nodeNew j = 0 ∧ nodeLost nodeNew j = false ∧ nodeGen nodeNew j = false := by
  have hfresh : ∀ i : Nat, i < 8 → (0xFF : Nat).testBit i = true := by decide
  refine ⟨?_, ?_, ?_, ?_⟩
  · rw [nodeFresh, nodeNew, getLsbD_putBits _ _ (by omega), if_pos (by omega), Nat.add_sub_cancel_left, hfresh j hj]
  · rw [nodeMac, nodeNew, lineBits_putBits_other _ _ (by omega) (by omega)]
    rw [lineBits_zero]; rfl
  · rw [nodeLost, nodeNew, getLsbD_putBits_other _ _ (by omega) (by omega)]
    simp
  · rw [nodeGen, nodeNew, getLsbD_putBits_other _ _ (by omega) (by omega)]
    simp

/-! ### Atomics (R276) -/

theorem atomicNew_values (a c m : Word) :
    atomicNew 1 a c m = BitVec.ofNat 64 ((m.toNat + a.toNat) % 2 ^ 32) ∧ atomicNew 2 a c m = m + a ∧ atomicNew 7 a c m = (if m = a then c else m) ∧
      (atomicNew 3 a c m).toInt = min m.toInt a.toInt ∧ (atomicNew 4 a c m).toInt = max m.toInt a.toInt ∧ (atomicNew 5 a c m).toNat = min m.toNat a.toNat ∧
      (atomicNew 6 a c m).toNat = max m.toNat a.toNat := by
  refine ⟨rfl, rfl, rfl, ?_, ?_, ?_, ?_⟩
  · show (if a.toInt < m.toInt then a else m).toInt = _
    split <;> omega
  · show (if m.toInt < a.toInt then a else m).toInt = _
    split <;> omega
  · show (if a.toNat < m.toNat then a else m).toNat = _
    split <;> omega
  · show (if m.toNat < a.toNat then a else m).toNat = _
    split <;> omega

/-- Settles O46: counter mode undoes itself, a field's write sets its own bits alone, and each atomic's value is read off. -/
theorem linesCountersAndNodesRoundTrip : Obligations.LinesCountersAndNodesRoundTrip := by
  refine ⟨openLine_sealLine, fun c j v => cbSetMinor_keeps c, fun major j _ => cbNew_fields major j, fun n j mac g hj => ?_, fun _ => nodeNew_child, atomicNew_values⟩
  obtain ⟨hmac, hfresh, hgen, hlost⟩ := nodeSetChild_child n mac g hj
  exact ⟨hmac, hfresh, hgen, hlost, fun i hi hne => nodeSetChild_others n mac g hj hi hne⟩

end Sys2Proof.Machine
end

section
/-! Addresses translate by their window and page entry (R306, R307, R311 to R313). -/

namespace Sys2Proof.Machine

/-- R307: the key of a 2 MiB page of a 57-bit address is no part's key. -/
theorem keyIsPart_pageKey (w : Nat) {page : Nat} (h : page < 2 ^ 39) : keyIsPart (pageKey w page) = false := by
  refine decide_eq_false ?_
  simp only [pageKey, bitsOf]; omega

section classify
variable {b : Block} {p : Part} {q : Stalled} {j : Jig} (hj : b.jigOf p = some j)
include hj

/-- R306: no window holds the address. -/
theorem classify_outside (hw : windowAt j q.addr.toNat = none) : classify b p q = .fault 1 0x1F (2 ^ 50 + q.addr.toNat / twoMegs) := by
  simp only [classify, hj, hw]

variable {w : KeyWindow} (hw : windowAt j q.addr.toNat = some w)
include hw

/-- R306: the window's region is not open. -/
theorem classify_closed (hr : b.windowRegion p w.window = none) : classify b p q = .fault 2 w.window (pageKey w.window ((q.addr.toNat - w.base) / twoMegs)) := by
  simp only [classify, hj, hw, hr]

variable {rid : Nat} {r : Region} (hr : b.windowRegion p w.window = some (rid, r))
include hr

/-- R306: a window of a region that is not local is not translated further. -/
theorem classify_shared (hk : w.kind ≠ 0) : classify b p q = .go rid ((q.addr.toNat - w.base) / 64) (pageKey w.window ((q.addr.toNat - w.base) / twoMegs)) := by
  simp only [classify, hj, hw, hr, if_pos hk]

/-- R311, R313: with the table held here and the page whole, its entry decides. -/
theorem classify_page (hk : w.kind = 0) (ht : (b.ptuPart p).table = none) {top : Nat} {e : Pte} (htop : pageKey w.window ((q.addr.toNat - w.base) / twoMegs) = top)
    (he : (b.ptuPart p).pte top = e) (hres : e.res ≠ 3) :
    classify b p q =
      if e.busy then .busy else if e.wd then .fault 5 w.window top else if e.res = 2 then .fault 3 w.window top
      else if e.ro && domWrites q.op then .fault 4 w.window top
      else if e.res = 1 then .go e.rgn.toNat (1024 * e.frame.toNat + (q.addr.toNat - w.base) % twoMegs / 64) top
      else .go rid ((q.addr.toNat - w.base) / 64) top := by
  have hwhole : keyBytesOf top = twoMegs := by
    have hin : (q.addr.toNat - w.base) / twoMegs < 2 ^ 39 := by have := q.addr.isLt; simp only [twoMegs]; omega
    rw [keyBytesOf, ← htop, keyIsPart_pageKey _ hin]; rfl
  simp only [classify, hj, hw, hr, htop, he, if_neg hres, if_neg (not_not_intro hk), ht, hwhole, Option.isSome_none, Bool.false_and, Bool.false_eq_true, if_false, Bool.or_self]

end classify

/-- Settles O50: one equation per case of R306, R307 and R313. -/
theorem addressesTranslateByWindowAndEntry : Obligations.AddressesTranslateByWindowAndEntry := by
  intro b p q j hj
  refine ⟨fun hw => ⟨_, classify_outside hj hw⟩, fun w hw => ⟨classify_closed hj hw, fun rid r hr => ⟨classify_shared hj hw hr, fun hk ht top e htop he hres => ?_⟩⟩⟩
  have hpage := classify_page hj hw hr hk ht htop.symm he hres
  refine ⟨fun hbusy => ?_, fun hbusy hwd => ?_, fun hbusy hwd h2 => ?_, fun hbusy hwd h2 hro hop => ?_, fun hbusy hwd h0 hro => ?_, fun hbusy hwd h1 hro => ?_⟩
  · simp [hpage, hbusy]
  · simp [hpage, hbusy, hwd]
  · simp [hpage, hbusy, hwd, h2]
  · have hwrites : domWrites q.op = true := by
      cases hq : q.op with
      | read => exact absurd hq hop
      | write | atomic => rfl
    rw [hpage, if_neg (by simp [hbusy]), if_neg (by simp [hwd]), if_neg h2, if_pos (by simp [hro, hwrites])]
  · simp [hpage, hbusy, hwd, h0, hro]
  · simp [hpage, hbusy, hwd, h1, hro, twoMegs]

end Sys2Proof.Machine
end

section
/-! Registers keep what is written and read it back (R7, R403, R407). -/

namespace Sys2Proof.Machine

/-! ### Fields of a register word (R6) -/

theorem testBit_wbits (v : Word) (lo w i : Nat) : (wbits v lo w).testBit i = (decide (i < w) && v.getLsbD (lo + i)) := by
  rw [wbits, bitsOf, Nat.testBit_mod_two_pow, Nat.testBit_div_two_pow, Nat.add_comm]
  rfl

theorem wbits_lt (v : Word) (lo w : Nat) : wbits v lo w < 2 ^ w := Nat.mod_lt _ (Nat.two_pow_pos w)

/-- A field put back where it was read is the word under the field's mask. -/
theorem ofNat_wbits (v : Word) (lo w : Nat) : BitVec.ofNat 64 (wbits v lo w % 2 ^ w * 2 ^ lo) = v &&& BitVec.ofNat 64 ((2 ^ w - 1) * 2 ^ lo) := by
  rw [Nat.mod_eq_of_lt (wbits_lt ..)]
  refine BitVec.eq_of_getLsbD_eq fun i hi => ?_
  simp only [BitVec.getLsbD_and, BitVec.getLsbD_ofNat, Nat.testBit_mul_two_pow, testBit_wbits, Nat.testBit_two_pow_sub_one, hi, decide_true, Bool.true_and]
  by_cases hlo : lo ≤ i
  · simp [hlo, Nat.add_sub_cancel' hlo, Bool.and_comm]
  · simp [hlo]

/-- Fields that do not overlap add up to the word under both masks. -/
theorem and_add_and {v m n : Word} (h : m &&& n = 0) : (v &&& m) + (v &&& n) = v &&& (m ||| n) := by
  have hapart : (v &&& m) &&& (v &&& n) = 0 := by
    calc (v &&& m) &&& (v &&& n) = v &&& v &&& (m &&& n) := by ac_rfl
      _ = 0 := by simp [h]
  rw [BitVec.add_eq_or_of_and_eq_zero _ _ hapart]
  refine BitVec.eq_of_getLsbD_eq fun i hi => ?_
  simp only [BitVec.getLsbD_or, BitVec.getLsbD_and, Bool.and_or_distrib_left]

theorem toNat_ofNat_wbits (v : Word) (lo w : Nat) : (BitVec.ofNat w (wbits v lo w)).toNat = wbits v lo w := by
  rw [BitVec.toNat_ofNat, Nat.mod_eq_of_lt (wbits_lt ..)]

/-- A single bit is a field of width 1. -/
theorem bit_wbit (v : Word) (i : Nat) : bit (wbit v i) = (BitVec.ofNat 1 (wbits v i 1)).toNat := by
  rw [toNat_ofNat_wbits]
  refine Nat.eq_of_testBit_eq fun k => ?_
  rw [testBit_wbits]
  obtain hb | hb := Bool.eq_false_or_eq_true (v.getLsbD i) <;> cases k <;> simp [bit, wbit, hb, Nat.testBit_succ]

/-- A register of one field reads the word under the field's mask. -/
theorem wordOf_field (v : Word) (lo w : Nat) : wordOf [(lo, w, (BitVec.ofNat w (wbits v lo w)).toNat)] = v &&& BitVec.ofNat 64 ((2 ^ w - 1) * 2 ^ lo) := by
  simp only [wordOf, List.foldl, Nat.zero_add, toNat_ofNat_wbits, ofNat_wbits]

/-- A register of two fields reads the word under both masks. -/
theorem wordOf_fields (v : Word) {lo w lo' w' : Nat} (h : BitVec.ofNat 64 ((2 ^ w - 1) * 2 ^ lo) &&& BitVec.ofNat 64 ((2 ^ w' - 1) * 2 ^ lo') = 0) :
    wordOf [(lo, w, (BitVec.ofNat w (wbits v lo w)).toNat), (lo', w', (BitVec.ofNat w' (wbits v lo' w')).toNat)]
      = v &&& (BitVec.ofNat 64 ((2 ^ w - 1) * 2 ^ lo) ||| BitVec.ofNat 64 ((2 ^ w' - 1) * 2 ^ lo')) := by
  simp only [wordOf, List.foldl, Nat.zero_add, toNat_ofNat_wbits, BitVec.ofNat_add, ofNat_wbits, and_add_and h]

theorem setWidth_wbits (v : Word) (w : Nat) : (BitVec.ofNat w (wbits v 0 w)).setWidth 64 = v &&& BitVec.ofNat 64 (2 ^ w - 1) := by
  refine BitVec.eq_of_getLsbD_eq fun i hi => ?_
  simp only [BitVec.getLsbD_setWidth, BitVec.getLsbD_and, BitVec.getLsbD_ofNat, testBit_wbits, Nat.testBit_two_pow_sub_one, hi, decide_true, Bool.true_and, Nat.zero_add,
    ← Bool.and_assoc, Bool.and_self, Bool.and_comm]

/-! ### The work a register's write leaves -/

/-- What a dying object waits for lies in the regions, the host's objects and the changes of translations. -/
theorem anyDying_congr {a b : Block} (hr : a.regions = b.regions) (hh : a.host = b.host) (hc : ∀ p, (a.ptuPart p).changes = (b.ptuPart p).changes) : anyDying a = anyDying b := by
  have hregion : regionDue a = regionDue b := by funext e; simp only [regionDue, Block.isNamed, hh, hc]
  have hbounce : bounceDue a = bounceDue b := by funext e; simp only [bounceDue, Block.isNamed, hh]
  have hfence : fenceDue a = fenceDue b := by funext e; simp only [fenceDue, Block.isNamed, Block.fenceHandle, hh]
  simp only [anyDying, hr, hh, hregion, hbounce, hfence]

/-- A write that leaves those and queues no work leaves nothing to be done. -/
theorem settle_of_quiet (h : Hard) {s : State} {b : Block} (hq : s.quiet) (hw : b.work = s.b.work) (hr : b.regions = s.b.regions) (hh : b.host = s.b.host)
    (hc : ∀ p, (b.ptuPart p).changes = (s.b.ptuPart p).changes) : settle h b = b := by
  obtain ⟨hwork, hdying⟩ := hq
  exact settle_quiet h (hw.trans hwork) ((anyDying_congr hr hh hc).trans hdying)

theorem modPtu_changes {f : PtuPart → PtuPart} (p q : Part) (b : Block) (hf : ∀ x, (f x).changes = x.changes := by intro; rfl) : ((modPtu p f b).ptuPart q).changes = (b.ptuPart q).changes := by
  obtain rfl | hne := eq_or_ne q p
  · rw [modPtu_ptuPart, hf]
  · rw [modPtu_ptuPart_ne hne]

/-! ### A write reaches its register (R404, R407) -/

/-- The registers of the lifecycle's page that have effects of their own. -/
def lifecycleReg : Reg → Bool
  | .lcTamper | .lcReq | .lcAddr | .lcStat | .lcBoot => true
  | _ => false

theorem wakeFor_awake {h : Hard} {b : Block} {r : Reg} (hawake : ∀ i, regIsland r = some i → (b.island i).asleep = false) : wakeFor h r b = b := by
  unfold wakeFor
  cases hi : regIsland r with
  | none => rfl
  | some i => simp [wakeIsland, hawake i hi]

/-- A write of a register that answers, its island awake and its partition created, does what the register does. -/
theorem exec_registerWrite_awake {s : State} {off : BitVec 24} {r : Reg} (v : Word) (hoff : off.toNat % 8 = 0) (hat : regAt off.toNat = some r)
    (hans : answers s.hard s.b r = true) (hawake : ∀ i, regIsland r = some i → (s.b.island i).asleep = false) (hpart : ∀ p, regPartition r = some p → s.b.partExists p = true)
    (hlc : lifecycleReg r = false) : exec (.registerWrite off v) s = .next (s.settled (regWritten s.hard r v s.b)) := by
  have hwake := wakeFor_awake (h := s.hard) hawake
  rw [exec_registerWrite]
  unfold execRegisterWrite
  simp only [hoff, if_true, hat, hans, Bool.true_eq_false, if_false]
  split
  case h_6 =>
    simp only [onB_next, hwake]
    cases hp : regPartition r with
    | none => rfl
    | some p => simp [hpart p hp, State.settled, State.withB]
  all_goals cases hlc

/-! ### Reads -/

theorem readBefore_of_ne_tel {r : Reg} (b : Block) (h : ∀ o, r ≠ .telEnv o ∧ r ≠ .telTick o ∧ r ≠ .telCfg o ∧ r ≠ .logData o 3) : readBefore r b = b := by
  unfold readBefore
  split
  · exact absurd rfl (h _).1
  · exact absurd rfl (h _).2.1
  · exact absurd rfl (h _).2.2.1
  · rfl

theorem readAfter_of_no_island {r : Reg} (b : Block) (h : ∀ o, r ≠ .telEnv o ∧ r ≠ .telTick o ∧ r ≠ .telCfg o ∧ r ≠ .logData o 3) (hisl : regIsland r = none) : readAfter r b = b := by
  unfold readAfter
  split
  · exact absurd rfl (h _).2.2.2
  · cases hisl
  · rfl

/-- Settles O57: a written register holds the fields the word gives it, and its value is the word under their masks. -/
theorem registersKeepWhatIsWritten : Obligations.RegistersKeepWhatIsWritten := by
  refine ⟨fun s off v r hquiet hoff hat hans hawake hpart => ?_, fun s off r hup hoff hat hans hisl hne => ?_, ⟨rfl, rfl, rfl, rfl, rfl, rfl, rfl⟩, fun h b hx => ?_, fun h b hs => ?_⟩
  · intro keeps
    have hkeeps {mask : Word} (hlc : lifecycleReg r = false) (hw : (regWritten s.hard r v s.b).work = s.b.work) (hr : (regWritten s.hard r v s.b).regions = s.b.regions)
        (hh : (regWritten s.hard r v s.b).host = s.b.host) (hc : ∀ p, ((regWritten s.hard r v s.b).ptuPart p).changes = (s.b.ptuPart p).changes)
        (hval : regValue s.hard (regWritten s.hard r v s.b) r = v &&& mask) : keeps mask := by
      refine ⟨_, ?_, hval⟩
      rw [exec_registerWrite_awake v hoff hat hans hawake hpart hlc, State.settled, settle_of_quiet s.hard hquiet hw hr hh hc]
      rfl
    refine ⟨?_, ?_, ?_, ?_, ?_, ?_, ?_, ?_, ?_, ?_⟩
    · rintro p rfl
      refine hkeeps rfl rfl rfl rfl (fun _ => rfl) ?_
      simp only [regWritten, regValue, Tab.getD, Tab.get?_set_same, Option.getD_some]
      exact setWidth_wbits v _
    · rintro k p rfl
      refine hkeeps rfl rfl rfl rfl (fun _ => rfl) ?_
      simp only [regWritten, regValue, modPortPart_portPart, shapedPart]
      exact wordOf_fields v (by decide)
    · rintro n p rfl
      refine hkeeps rfl rfl rfl rfl (fun _ => rfl) ?_
      simp only [regWritten, regValue, modMePart_mePart]
      exact wordOf_fields v (by decide)
    · rintro o rfl
      refine hkeeps rfl rfl rfl rfl (fun _ => rfl) ?_
      simp only [regWritten, regValue, modIcPage_icPage]
      exact setWidth_wbits v _
    · rintro o rfl
      refine hkeeps rfl rfl rfl rfl (fun _ => rfl) ?_
      simp only [regWritten, regValue, modIcPage_icPage, bit_wbit]
      exact wordOf_fields v (by decide)
    · rintro p rfl
      refine hkeeps rfl rfl rfl rfl (fun q => by rw [regWritten]; exact modPtu_changes p q s.b) ?_
      simp only [regWritten, regValue, modPtu_ptuPart]
      exact wordOf_fields v (by decide)
    · rintro i rfl
      refine hkeeps rfl rfl rfl rfl (fun _ => rfl) ?_
      simp only [regWritten, regValue, modIsland_island]
      exact wordOf_fields v (by decide)
    · rintro n p rfl
      refine hkeeps rfl rfl rfl rfl (fun _ => rfl) ?_
      simp only [regWritten, regValue, modLePart_lePart]
      exact setWidth_wbits v _
    · rintro n rfl -
      refine hkeeps rfl rfl rfl rfl (fun _ => rfl) ?_
      simp only [regWritten, regValue, modPart_part]
      exact wordOf_field v 12 52
    · rintro n rfl -
      refine hkeeps rfl rfl rfl rfl (fun _ => rfl) ?_
      simp only [regWritten, regValue, modPart_part]
      exact wordOf_field v 12 52
  · have hread : readOff s.hard off.toNat s.b = emit (.regRead (regValue s.hard s.b r)) s.b := by
      simp only [readOff, hat, hans, Bool.true_eq_false, if_false, wakeFor, hisl, readBefore_of_ne_tel _ hne, readAfter_of_no_island _ hne hisl]
    rw [exec_hostAccessSize_aligned_read hup hoff, hread]
  · rw [regValue, hx]; decide
  · rw [regValue, hs]; decide

end Sys2Proof.Machine
end

section
/-! A halted block before its clocks lock (R31, R371, R404). -/

namespace Sys2Proof.Machine

/-- The block after reset with `CHIP_RST_N` released and `HALT` asserted, its clocks not yet locked. -/
def haltedUnlocked : State := { State.reset with b := { Block.reset with rst := { Block.reset.rst with chipRstN := false, halted := true } } }

theorem haltedUnlocked_halted : haltedUnlocked.halted := ⟨rfl, rfl⟩
theorem haltedUnlocked_quiet : haltedUnlocked.quiet := ⟨rfl, rfl⟩
theorem haltedUnlocked_up : haltedUnlocked.b.up = false := rfl

/-- R31: no island leaves reset before the clocks lock, so a read is not even completed. -/
theorem exec_hostAccessSize_down {s : State} (off : BitVec 24) (size : Byte) (isWrite : Bool) (hup : s.b.up = false) : exec (.hostAccessSize off size isWrite) s = .next s := by
  rw [exec_hostAccessSize, execHostAccessSize, onB_next, whenUp_down _ hup, State.withB_self]

/-- Refutes O60: the last clause lets a read of a register that does not answer return zero in every halted state, but before `CLOCK_LOCK` the access is not completed at all. -/
theorem not_haltedBlockTakesNoWork : ¬ Obligations.HaltedBlockTakesNoWork := by
  intro h
  obtain ⟨-, -, -, -, -, -, -, -, -, -, -, -, -, -, -, hread⟩ := h haltedUnlocked haltedUnlocked_halted haltedUnlocked_quiet
  have hzero := hread 0x002000 (.jigState 0) rfl rfl rfl
  rw [exec_hostAccessSize_down _ _ _ haltedUnlocked_up] at hzero
  have hout : haltedUnlocked.b.out = .regRead 0 :: haltedUnlocked.b.out := congrArg (fun t : State => t.b.out) (Host.Outcome.next.inj hzero)
  exact List.cons_ne_self _ _ hout.symm

end Sys2Proof.Machine
end

section
/-! The step, the tick and the timebase (R8, R31 to R36). -/

namespace Sys2Proof.Machine

/-! ### The step -/

/-- Settles O1: by the definition of a step. -/
theorem stepRunsTheFrontCommand : Obligations.StepRunsTheFrontCommand := by
  intro s c rest hq
  rw [step, hq]

theorem step_idle {s : State} (hq : s.pending = []) : step s = .next (s.withB (clockTick s.b)) := by rw [step, hq]; rfl

/-- The block with the counter and every island's copy advanced by one. -/
def ticked (b : Block) : Block :=
  { b with clk := { b.clk with tick := b.clk.tick + 1 }, islands := Tab.mapV b.islands fun _ i => { i with copy := i.copy + 1 } }

theorem clockTick_runs {b : Block} (hup : b.up = true) (hloaded : b.clk.loaded = true) (hlost : b.clk.lost = false) : clockTick b = refillAll (ticked b) := by
  simp [clockTick, hup, hloaded, hlost, ticked]

theorem clockTick_stands {b : Block} (h : (b.up && b.clk.loaded && !b.clk.lost) = false) : clockTick b = b := by rw [clockTick, h]; rfl

/-- Settles O2: the tick's update, read field by field. -/
theorem idleStepIsOneTick : Obligations.IdleStepIsOneTick := by
  refine ⟨fun s hq hup hloaded hlost => ⟨refillAll (ticked s.b), ?_, rfl, fun i => ?_, fun n => ?_, rfl⟩, fun s hq hstand => ?_⟩
  · rw [step_idle hq, clockTick_runs hup hloaded hlost]
  · exact Tab.get?_mapV s.b.islands (fun _ st => { st with copy := st.copy + 1 }) (islandCode i)
  · simp only [refillAll, Tab.get?_mapV, Option.map_map]
    rfl
  · rw [step_idle hq, clockTick_stands hstand, State.withB_self]

/-! ### Islands in turn -/

theorem islandOfCode_islandCode (i : Island) : islandOfCode (islandCode i) = some i := by
  cases i with
  | le n => revert n; decide
  | me n => revert n; decide
  | tc | hbe | ptu | ahu | kdr | battery => rfl

theorem islandCode_injective {i j : Island} (h : islandCode i = islandCode j) : i = j :=
  Option.some_injective _ ((islandOfCode_islandCode i).symm.trans (h ▸ islandOfCode_islandCode j))

theorem modIsland_island_ne {i j : Island} (h : j ≠ i) (f : IslandSt → IslandSt) (b : Block) : (modIsland i f b).island j = b.island j :=
  Tab.getD_upd_other _ (fun e => h (islandCode_injective e)) ..

/-- One update of every island of a list. -/
def modIslands (is : List Island) (f : IslandSt → IslandSt) (b : Block) : Block := is.foldl (fun b i => modIsland i f b) b

theorem modIslands_frame (is : List Island) (f : IslandSt → IslandSt) (b : Block) : modIslands is f b = { b with islands := (modIslands is f b).islands } := by
  induction is generalizing b with
  | nil => rfl
  | cons i is ih => exact ih (modIsland i f b)

theorem modIslands_island_of_not_mem {is : List Island} {i : Island} (h : i ∉ is) (f : IslandSt → IslandSt) (b : Block) : (modIslands is f b).island i = b.island i := by
  induction is generalizing b with
  | nil => rfl
  | cons j is ih =>
    obtain ⟨hne, hnot⟩ := not_or.mp (mt List.mem_cons.mpr h)
    exact (ih hnot _).trans (modIsland_island_ne hne f b)

theorem modIslands_island {is : List Island} (hnodup : is.Nodup) {i : Island} (hi : i ∈ is) (f : IslandSt → IslandSt) (b : Block) :
    (modIslands is f b).island i = f (b.island i) := by
  induction is generalizing b with
  | nil => cases hi
  | cons j is ih =>
    obtain ⟨hnot, hnodup⟩ := List.nodup_cons.mp hnodup
    obtain rfl | hi := List.mem_cons.mp hi
    · exact (modIslands_island_of_not_mem hnot f _).trans (modIsland_island ..)
    · have hne : i ≠ j := fun h => hnot (h ▸ hi)
      exact (ih hnodup hi _).trans (congrArg f (modIsland_island_ne hne f b))

theorem allIslands_nodup (c : Cfg) : (allIslands c).Nodup := by cases c <;> decide

/-! ### The loading of the counter (R33, R35, R106) -/

theorem fetchBundle_frame (b : Block) : fetchBundle b = { b with out := (fetchBundle b).out } := by unfold fetchBundle; split <;> rfl

/-- The block as the loading frame of count `n` leaves its clock and its islands. -/
def counted (h : Hard) (n : Word) (b : Block) : Block :=
  modIslands (allIslands h.cfg) (fun st => { st with copy := n, work := n }) { b with clk := { b.clk with loaded := true, tick := n, loadTick := n } }

theorem loadTicks_eq (h : Hard) (n : Word) (b : Block) : loadTicks h n b = fetchBundle (setTel .operator (telStart TelemetryRec.finest n) (counted h n b)) := rfl

theorem counted_clk (h : Hard) (n : Word) (b : Block) : (counted h n b).clk = { b.clk with loaded := true, tick := n, loadTick := n } := by
  rw [counted, modIslands_frame]

theorem loadTicks_frame (h : Hard) (n : Word) (b : Block) :
    loadTicks h n b = { b with clk := { b.clk with loaded := true, tick := n, loadTick := n }, islands := (loadTicks h n b).islands, tel := (loadTicks h n b).tel, out := (loadTicks h n b).out } := by
  rw [loadTicks_eq, fetchBundle_frame, counted, modIslands_frame]; rfl

theorem loadTicks_copy (h : Hard) (n : Word) (b : Block) {i : Island} (hi : i ∈ allIslands h.cfg) : ((loadTicks h n b).island i).copy = n := by
  have hisl : (loadTicks h n b).island i = (counted h n b).island i := by rw [loadTicks_eq, fetchBundle_frame]; rfl
  rw [hisl, counted, modIslands_island (allIslands_nodup _) hi]

/-- R106: with the counter loaded, a bundle named meanwhile is fetched. -/
theorem loadTicks_out (h : Hard) (n : Word) (b : Block) :
    (loadTicks h n b).out = if b.lc.bootState = 1 then .dmaRead (BitVec.ofNat 64 (b.lc.bundle.toNat * 4096)) 4194304 :: b.out else b.out := by
  have hframe : setTel .operator (telStart TelemetryRec.finest n) (counted h n b) =
      { b with clk := { b.clk with loaded := true, tick := n, loadTick := n }, islands := (counted h n b).islands, tel := (setTel .operator (telStart TelemetryRec.finest n) (counted h n b)).tel } := by
    rw [counted, modIslands_frame]; rfl
  rw [loadTicks_eq, hframe, fetchBundle]
  simp only [Bool.true_and, decide_eq_true_eq]
  split <;> rfl

/-! ### The commands of the timebase -/

theorem exec_clockLock (s : State) : exec .clockLock s = execClockLock s := rfl
theorem exec_tbLoadFrame (n : Word) (ok : Bool) (s : State) : exec (.tbLoadFrame n ok) s = execTbLoadFrame n ok s := rfl

/-- R31: with no release that waits for it, the lock only locks. -/
theorem exec_clockLock_alone {s : State} (h : s.b.clk.locked = true ∨ s.b.rst.chipRstN = true ∨ s.b.clk.waits = none) :
    exec .clockLock s = .next (s.withB { s.b with clk := { s.b.clk with locked := true } }) := by
  rw [exec_clockLock, execClockLock, onHB_next]
  obtain h | h | h := h
  · simp [h, State.withB]
  · simp [h, State.withB]
  · cases hgo : !s.b.clk.locked && !s.b.rst.chipRstN <;> simp only [h] <;> rfl

/-- R52: a release that waited for the lock takes effect with it. -/
theorem exec_clockLock_waiting {s : State} {kind tests lg : Bool} (hl : s.b.clk.locked = false) (hc : s.b.rst.chipRstN = false) (hw : s.b.clk.waits = some (kind, tests, lg)) :
    exec .clockLock s = .next { s with hard := (leaveReset s.hard kind tests lg { s.b with clk := { s.b.clk with locked := true, waits := none } }).1,
                                       b := (leaveReset s.hard kind tests lg { s.b with clk := { s.b.clk with locked := true, waits := none } }).2 } := by
  rw [exec_clockLock, execClockLock, onHB_next]
  simp only [hl, hc, hw]
  rfl

/-- R33: the first good frame at or past the least count loads the counter. -/
theorem exec_tbLoadFrame_loading {s : State} {n : Word} (hup : s.b.up = true) (hloaded : s.b.clk.loaded = false) (hn : s.hard.bat.tickFloor.toNat + 2 ^ 20 ≤ n.toNat) :
    exec (.tbLoadFrame n true) s = .next { s with hard := (reportUnpowered s.hard (loadTicks s.hard n s.b)).1, b := (reportUnpowered s.hard (loadTicks s.hard n s.b)).2 } := by
  have hleast : ¬ n.toNat < leastCount s.hard := by simpa [leastCount] using hn
  rw [exec_tbLoadFrame, execTbLoadFrame, onHB_next]
  simp only [hup, hloaded, if_neg hleast, Bool.not_true, Bool.false_eq_true, if_false]

/-- R33: a frame below the least count is ignored and recorded. -/
theorem exec_tbLoadFrame_early {s : State} {n : Word} (hup : s.b.up = true) (hloaded : s.b.clk.loaded = false) (hn : n.toNat < s.hard.bat.tickFloor.toNat + 2 ^ 20) :
    exec (.tbLoadFrame n true) s = .next (s.withB (loadMismatch s.hard n (leastCount s.hard) s.b)) := by
  have hleast : n.toNat < leastCount s.hard := by simpa [leastCount] using hn
  rw [exec_tbLoadFrame, execTbLoadFrame, onHB_next]
  simp only [hup, hloaded, if_pos hleast, Bool.not_true, Bool.false_eq_true, if_false, State.withB]

theorem exec_tbLoadFrame_later {s : State} (n : Word) (hup : s.b.up = true) (hloaded : s.b.clk.loaded = true) :
    exec (.tbLoadFrame n true) s = .next (s.withB (if within n s.b.clk.tick 2 then s.b else loadMismatch s.hard n s.b.clk.tick.toNat s.b)) := by
  rw [exec_tbLoadFrame, execTbLoadFrame, onHB_next]
  simp only [hup, hloaded, Bool.not_true, Bool.false_eq_true, if_false, if_true, Bool.true_and, State.withB, Block.now]

/-- R34: the floor follows the count past each multiple of 2^20. -/
theorem exec_tickFloorWrite_due {s : State} (hup : s.b.up = true) (hloaded : s.b.clk.loaded = true) (hlost : s.b.clk.lost = false)
    (hpast : s.hard.bat.tickFloor.toNat / 2 ^ 20 < s.b.clk.tick.toNat / 2 ^ 20) :
    exec .tickFloorWrite s = .next { s with hard := { s.hard with bat := { s.hard.bat with tickFloor := s.b.clk.tick } } } := by
  show execTickFloorWrite s = _
  rw [execTickFloorWrite, onHB_next]
  have hdue : (s.b.up && s.b.clk.loaded && !s.b.clk.lost && decide (s.hard.bat.tickFloor.toNat / 2 ^ 20 < s.b.now.toNat / 2 ^ 20)) = true := by
    simp only [hup, hloaded, hlost, Bool.not_false, Bool.and_self, Bool.true_and]
    exact decide_eq_true hpast
  rw [if_pos hdue]
  rfl

/-- The block once every island has latched its copy at the strobe of this tick (R35). -/
def strobed (h : Hard) (b : Block) : Block :=
  modIslands (allIslands h.cfg) (fun st => { st with latched := ((b.clk.tick, st.copy) :: st.latched).take 4 })
    { b with clk := { b.clk with strobes := (b.clk.tick :: b.clk.strobes).take 4 } }

theorem foldl_latch (is : List Island) (b : Block) :
    is.foldl (fun b i => modIsland i (fun st => { st with latched := ((b.now, st.copy) :: st.latched).take 4 }) b) b
      = modIslands is (fun st => { st with latched := ((b.now, st.copy) :: st.latched).take 4 }) b := by
  induction is generalizing b with
  | nil => rfl
  | cons i is ih => exact ih _

theorem exec_tbSync_due {s : State} (hup : s.b.up = true) (hloaded : s.b.clk.loaded = true) (hlost : s.b.clk.lost = false) (hmul : s.b.clk.tick.toNat % 1024 = 0)
    (hnew : s.b.clk.strobes.head? ≠ some s.b.clk.tick) :
    exec .tbSync s = .next (s.withB (emits [.tbSync s.b.clk.tick, .kdrTick s.b.clk.tick] (strobed s.hard s.b))) := by
  show execTbSync s = _
  rw [execTbSync, onB_next, whenUp_up _ hup]
  have hgo : (!s.b.clk.loaded || s.b.clk.lost || decide (s.b.now.toNat % 1024 ≠ 0) || decide (s.b.clk.strobes.head? = some s.b.now)) = false := by
    simp [Block.now, hloaded, hlost, hmul, hnew]
  rw [hgo, if_neg Bool.false_ne_true]
  simp only [foldl_latch]
  have hnow : (strobed s.hard s.b).now = s.b.clk.tick := by rw [strobed, modIslands_frame]; rfl
  congr 2
  show emits [.tbSync (strobed s.hard s.b).now, .kdrTick (strobed s.hard s.b).now] (strobed s.hard s.b) = _
  rw [hnow]

section tickSync
variable {s : State} {isl : Island} {n : Word} (hlive : s.b.live = true) (hres : resettable s.hard isl = true) (hrst : (s.b.island isl).inReset = false)
include hlive hres hrst

/-- R35: an island whose latched copy is the count goes on. -/
theorem exec_tickSync_same (h : latchedCopy (s.b.island isl) n = some n) : exec (.tickSync isl n true) s = .next (s.settled s.b) := by
  show execTickSync isl n true s = _
  rw [execTickSync, act_live _ hlive]
  simp [hres, hrst, h]

/-- R35: one whose copy differs is suspended and reset. -/
theorem exec_tickSync_differs {v : Word} (h : latchedCopy (s.b.island isl) n = some v) (hne : v ≠ n) :
    exec (.tickSync isl n true) s = .next (s.settled (takeEngine s.hard isl 0xFF none
      (logEv s.hard 0x090D (islandCode isl) none 1 3 [aW8 v.toNat, aW8 n.toNat] (modIsland isl (fun st => { st with suspended := true }) s.b)))) := by
  show execTickSync isl n true s = _
  rw [execTickSync, act_live _ hlive]
  simp [hres, hrst, h, hne]

/-- R129: a failed CRC of the KDR is a Clamp. -/
theorem exec_tickSync_badCrc : exec (.tickSync isl n false) s = .next (s.settled (clamp s.hard 4 28 none [] s.b)) := by
  show execTickSync isl n false s = _
  rw [execTickSync, act_live _ hlive]
  simp [hres, hrst]

end tickSync

/-- R36: the loss is recorded and TC asks for a chip reset. -/
theorem exec_timebaseLost {s : State} (k : TbLoss) (hup : s.b.up = true) (hlost : s.b.clk.lost = false) (hhalt : s.b.rst.halted = false) :
    exec (.timebaseLost k) s = .next (s.settled (takeChip s.hard 3 0xFF none (logEv s.hard 0x090E 27 none 3 3 [aByte (lossKind k)] { s.b with clk := { s.b.clk with lost := true } }))) := by
  show execTimebaseLost k s = _
  rw [execTimebaseLost, onB_next, whenUp_up _ hup]
  simp [hlost, hhalt, State.withB, State.settled, chipByTimebase]

/-- Settles O6: one lemma per command and case. -/
theorem timebaseLoadsSyncsAndIsLost : Obligations.TimebaseLoadsSyncsAndIsLost := by
  refine ⟨fun s h => exec_clockLock_alone h, fun s kind tests lg r hl hc hw hr => hr ▸ exec_clockLock_waiting hl hc hw, fun s n hup hloaded hn => ⟨fun hrep => ?_, fun hrep => ?_⟩,
    fun s n hup hloaded => ⟨fun hin => ?_, fun hout => ?_⟩, fun s n hup hloaded hn => ⟨_, exec_tbLoadFrame_early hup hloaded hn, logEv_clk ..⟩,
    fun s hup hloaded hlost hpast => exec_tickFloorWrite_due hup hloaded hlost hpast, fun s hup hloaded hlost hmul hnew => ⟨_, exec_tbSync_due hup hloaded hlost hmul hnew, ?_, ?_, ?_, ?_⟩,
    fun s isl n hlive hres hrst h => exec_tickSync_same hlive hres hrst h, fun s isl n v hlive hres hrst h hne => exec_tickSync_differs hlive hres hrst h hne,
    fun s isl n hlive hres hrst => exec_tickSync_badCrc hlive hres hrst, fun s k hup hlost hhalt => exec_timebaseLost k hup hlost hhalt⟩
  · refine ⟨loadTicks s.hard n s.b, ?_, ?_, fun i hi => loadTicks_copy s.hard n s.b hi, loadTicks_out s.hard n s.b, ?_⟩
    · rw [exec_tbLoadFrame_loading hup hloaded hn, reportUnpowered, hrep]; rfl
    · rw [loadTicks_frame]
    · rw [loadTicks_frame]
  · have hload : (loadTicks s.hard n s.b).clk.loaded = true := by rw [loadTicks_frame]
    rw [exec_tbLoadFrame_loading hup hloaded hn, reportUnpowered, hrep, hload]; rfl
  · rw [exec_tbLoadFrame_later n hup hloaded, hin, if_pos rfl, State.withB_self]
  · rw [exec_tbLoadFrame_later n hup hloaded, hout, if_neg Bool.false_ne_true]; rfl
  · rw [strobed, modIslands_frame]; rfl
  · rw [strobed, modIslands_frame]; rfl
  · exact fun i hi => congrArg IslandSt.latched (modIslands_island (allIslands_nodup _) hi _ _)
  · rw [strobed, modIslands_frame]; rfl

end Sys2Proof.Machine
end

section
/-! The Shim, the sleep of islands, and the sideband (R38 to R44, R49, R366, R383). -/

namespace Sys2Proof.Machine

/-! ### The Shim -/

theorem sealOne_noJob {x : Pinned} (h : x.job = none) (k : Port) (b : Block) : sealOne k b x = b := by simp only [sealOne, h]

/-- What waits for no seal, the sealing pass leaves as it is. -/
theorem sealWaiting_noJob {b : Block} {lane : Lane} {x : Pinned} (hshim : b.shim = [(lane, x)]) (hjob : x.job = none) (on : Lane → Bool) : sealWaiting on b = b := by
  rw [sealWaiting, hshim, List.foldl_cons, List.foldl_nil]
  cases lane with
  | egress k => simp only [sealOne_noJob hjob, ite_self]
  | ingress k | read k => rfl

theorem erase_singleton (y : Lane × Pinned) : [y].erase y = [] := List.erase_cons_head ..

/-- R38, R39: an output alone in its Shim and due is the one the release acts on. -/
theorem exec_shimRelease_single {s : State} {lane : Lane} {x : Pinned} (hlive : s.b.live = true) (hshim : s.b.shim = [(lane, x)]) (hpin : x.pin.toNat ≤ s.b.clk.tick.toNat)
    (hback : heldBack s.b lane x = false) (hjob : x.job = none) :
    exec (.shimRelease lane) s = .next (s.settled (releaseDue s.hard lane s.b x)) := by
  show execShimRelease lane s = _
  rw [execShimRelease, act_live _ hlive]
  simp only [sealWaiting_noJob hshim hjob, hshim]
  have hdue : (decide (lane = lane) && decide (x.pin.toNat ≤ s.b.now.toNat) && !heldBack s.b lane x) = true := by simp [hback, Block.now, hpin]
  rw [List.filter_cons, if_pos hdue]
  rfl

theorem releaseOne_plain {lane : Lane} {x : Pinned} (huse : x.use = none) (hven : x.veneer = none) (h : Hard) (t : Nat) (b : Block) :
    releaseOne h lane x t b = push (.part x.part) (if x.late then slipNote h lane x (BitVec.ofNat 64 t) (emits x.outs b) else emits x.outs b) := by
  simp only [releaseOne, huse, hven, endUse]

section shim
variable {b : Block} {lane : Lane} {x : Pinned} (hshim : b.shim = [(lane, x)]) (huse : x.use = none) (hven : x.veneer = none)
include hshim

/-- R39: one that is not ready stays, and is a slip. -/
theorem releaseDue_notReady (hready : x.ready = false) (hfresh : tooLate b lane x b.clk.tick.toNat = none) (h : Hard) :
    releaseDue h lane b x = { b with shim := [(lane, { x with slipped := true })] } := by
  have hfresh : tooLate b lane x b.now.toNat = none := hfresh
  simp [releaseDue, hready, hfresh, slips, hshim]

include huse hven

/-- A ready output whose time has come leaves the Shim. -/
theorem releaseDue_ready (hready : x.ready = true) (hfresh : tooLate b lane x (leaveAt b x) = none) (hdue : leaveAt b x ≤ b.clk.tick.toNat) (h : Hard) :
    releaseDue h lane b x = push (.part x.part) (if x.late then slipNote h lane x (BitVec.ofNat 64 (leaveAt b x)) (emits x.outs { b with shim := [] }) else emits x.outs { b with shim := [] }) := by
  have hgo : x.ready = true ∧ leaveAt b x ≤ b.now.toNat := ⟨hready, hdue⟩
  rw [releaseDue]
  simp only [if_pos hready, hfresh, if_pos hgo, releaseOne_plain huse hven, hshim, erase_singleton]

end shim

theorem late_eq_false {x : Pinned} (hslip : x.slipped = false) (hat : x.readyAt.toNat ≤ x.pin.toNat) : x.late = false := by
  simp [Pinned.late, hslip, hat]

theorem late_eq_true {x : Pinned} (h : x.slipped = true ∨ x.pin.toNat < x.readyAt.toNat) : x.late = true := by
  simpa [Pinned.late] using h

theorem leaveAt_inTime {x : Pinned} (h : x.late = false) (b : Block) : leaveAt b x = x.pin.toNat := by rw [leaveAt, h, if_pos rfl]

theorem leaveAt_late {x : Pinned} (h : x.late = true) (b : Block) :
    leaveAt b x = match b.schedule x.part with | some sc => slotBoundary sc (max x.readyAt.toNat x.pin.toNat) | none => max x.readyAt.toNat x.pin.toNat := by
  rw [leaveAt, h]; rfl

/-! ### Sleep -/

theorem exec_islandSleep {s : State} {isl : Island} (hlive : s.b.live = true) (hmay : maySleep s.hard s.b isl = true) :
    exec (.islandSleep isl) s = .next (s.settled (if (readyToSleep isl s.b).1 then modIsland isl (fun st => { st with asleep := true, retained := true }) (cacheZero isl (readyToSleep isl s.b).2)
                                                   else (readyToSleep isl s.b).2)) := by
  show execIslandSleep isl s = _
  rw [execIslandSleep, act_live _ hlive, hmay]
  rfl

theorem readyToSleep_of_not_me {isl : Island} (h : ∀ n, isl ≠ .me n) (b : Block) : readyToSleep isl b = (true, b) := by
  cases isl with
  | me n => exact absurd rfl (h n)
  | _ => rfl

/-- R44: a memory engine with nothing latched at its stub wakes with its keys and its partitions' work. -/
theorem exec_islandWake_me {s : State} {n : Fin 8} (hlive : s.b.live = true) (hasleep : (s.b.island (.me n)).asleep = true) (hstub : (s.b.island (.me n)).stubLatch = []) :
    exec (.islandWake (.me n)) s = .next (s.settled (pushAll (refillGroups (.me n) (cacheRefill (.me n)
      (modIsland (.me n) (fun st => { st with asleep := false, stubLatch := [], retained := false }) s.b))))) := by
  show execIslandWake (.me n) s = _
  rw [execIslandWake, act_live _ hlive, wakeIsland]
  simp only [hasleep, hstub, Bool.true_eq_false, if_false, List.foldl_nil]

/-- Settles O7: the release of the Shim's one output by its readiness, and the sleep and waking of an island. -/
theorem shimReleasesAndIslandSleep : Obligations.ShimReleasesAndIslandSleep := by
  refine ⟨fun s lane x hlive hshim hpin hback hjob huse hven => ?_, fun s isl hlive hmay hne => ?_, fun s n b hlive hmay => ⟨fun h => ?_, fun h => ?_⟩, fun s n => exec_islandWake_me⟩
  · rw [exec_shimRelease_single hlive hshim hpin hback hjob]
    refine ⟨fun hready hslip hat hfresh => ?_, fun hready hlate t ht hdue hfresh => ?_, fun hready hfresh => ?_⟩
    · have hin := late_eq_false hslip hat
      have hleave := leaveAt_inTime hin s.b
      rw [releaseDue_ready hshim huse hven hready (hleave ▸ hfresh) (hleave ▸ hpin), hin, if_neg Bool.false_ne_true]
    · have hlate := late_eq_true hlate
      have hleave := (leaveAt_late hlate s.b).trans ht.symm
      rw [releaseDue_ready hshim huse hven hready (hleave ▸ hfresh) (hleave ▸ hdue), hlate, if_pos rfl, hleave]
    · rw [releaseDue_notReady hshim hready hfresh]
  · rw [exec_islandSleep hlive hmay, readyToSleep_of_not_me hne]; rfl
  · rw [exec_islandSleep hlive hmay, h]; rfl
  · rw [exec_islandSleep hlive hmay, h]; rfl

/-! ### The sideband -/

theorem leBytes_one (x : Byte) : leBytes 1 x.toNat = [x] := by simp [leBytes]

/-- A command for the running chip acts on its block. -/
theorem onB_up (f : Hard → Block → Block) {s : State} (hup : s.b.up = true) : onB (fun h => whenUp (f h)) s = .next (s.withB (f s.hard s.b)) := by
  rw [onB_next, whenUp_up _ hup]

theorem i3cReply_addressed {b : Block} {a : BitVec 7} (haddr : b.i3c.addr = some a) (n v : Nat) : i3cReply n v b = emit (.i3c (leBytes n v).reverse) b := by rw [i3cReply, haddr]; rfl

section sideband
variable {s : State} (hup : s.b.up = true)
include hup

theorem exec_i3cEntdaa {a : BitVec 7} (h : s.b.i3c.addr = none) : exec (.i3cEntdaa a) s = .next (s.withB { s.b with i3c := { s.b.i3c with addr := some a } }) := by
  show execI3cEntdaa a s = _
  rw [execI3cEntdaa, onB_up _ hup, modI3c, h]; rfl

theorem exec_i3cRstdaa : exec .i3cRstdaa s = .next (s.withB { s.b with i3c := { s.b.i3c with addr := none } }) := by
  show execI3cRstdaa s = _
  rw [execI3cRstdaa, onB_up _ hup]; rfl

theorem exec_i3cEnec : exec .i3cEnec s = .next (s.withB { s.b with i3c := { s.b.i3c with ibiEn := true } }) := by
  show execI3cEnec s = _
  rw [execI3cEnec, onB_up _ hup]; rfl

theorem exec_i3cDisec : exec .i3cDisec s = .next (s.withB { s.b with i3c := { s.b.i3c with ibiEn := false } }) := by
  show execI3cDisec s = _
  rw [execI3cDisec, onB_up _ hup]; rfl

theorem exec_i3cRstact (a : Byte) : exec (.i3cRstact a) s = .next (s.withB { s.b with i3c := { s.b.i3c with rstAction := a } }) := by
  show execI3cRstact a s = _
  rw [execI3cRstact, onB_up _ hup]; rfl

/-- R383: the power-cycle request asks again a second after the last. -/
theorem exec_powerCycleIbiRepeat (hwant : s.b.i3c.cycleWant = true) (hdue : s.b.i3c.lastIbi.toNat + 1000000000 ≤ s.b.clk.tick.toNat) :
    exec .powerCycleIbiRepeat s = .next (s.withB (sendIbi 0x01 { s.b with i3c := { s.b.i3c with lastIbi := s.b.clk.tick } })) := by
  show execPowerCycleIbiRepeat s = _
  rw [execPowerCycleIbiRepeat, onB_up _ hup, if_pos ⟨hwant, hdue⟩]; rfl

section addressed
variable {a : BitVec 7} (haddr : s.b.i3c.addr = some a)
include haddr

theorem exec_i3cGetpid : exec .i3cGetpid s = .next (s.withB (emit (.i3c (leBytes 6 Config.i3cPid.toNat).reverse) s.b)) := by
  show execI3cGetpid s = _
  rw [execI3cGetpid, onB_up _ hup, i3cReply_addressed haddr]

theorem exec_i3cGetbcr : exec .i3cGetbcr s = .next (s.withB (emit (.i3c [Config.i3cBcr]) s.b)) := by
  show execI3cGetbcr s = _
  rw [execI3cGetbcr, onB_up _ hup, i3cReply_addressed haddr, leBytes_one]; rfl

theorem exec_i3cGetdcr : exec .i3cGetdcr s = .next (s.withB (emit (.i3c [Config.i3cDcr]) s.b)) := by
  show execI3cGetdcr s = _
  rw [execI3cGetdcr, onB_up _ hup, i3cReply_addressed haddr, leBytes_one]; rfl

theorem exec_i3cGetstatus : exec .i3cGetstatus s = .next (s.withB (emit (.i3c (leBytes 2 (Config.i3cStatus s.b.i3c.request).toNat).reverse) s.b)) := by
  show execI3cGetstatus s = _
  rw [execI3cGetstatus, onB_up _ hup, i3cReply_addressed haddr]

theorem exec_i3cPrivateRead : exec .i3cPrivateRead s = .next (s.withB (emit (.i3c (i3cStatusBytes s.b)) s.b)) := by
  show execI3cPrivateRead s = _
  rw [execI3cPrivateRead, onB_up _ hup, haddr]; rfl

theorem exec_i3cPowerCycleAck (hwant : s.b.i3c.cycleWant = true) (hhalt : s.b.rst.halted = false) (hoos : s.b.rst.compat.oos = false) :
    exec .i3cPowerCycleAck s = .next (s.withB { s.b with i3c := { s.b.i3c with cycleWant := false, request := 0 } }) := by
  have hrest : restingRequest s.b = 0 := by simp [restingRequest, hhalt, hoos]
  show execI3cPowerCycleAck s = _
  rw [execI3cPowerCycleAck, onB_up _ hup, haddr, hwant, hrest]; rfl

theorem exec_i3cChipResetRequest (hhalt : s.b.rst.halted = false) : exec .i3cChipResetRequest s = .next (s.withB (takeChip s.hard 6 0xFD none s.b)) := by
  show execI3cChipResetRequest s = _
  rw [execI3cChipResetRequest, onB_up _ hup, haddr, hhalt]; rfl

end addressed
end sideband

/-- R49: the fields of the status word. -/
theorem i3cStatusBytes_fields (b : Block) : (i3cStatusBytes b).length = 16 ∧ fieldAt (i3cStatusBytes b) 0 1 = b.i3c.request.toNat ∧
    fieldAt (i3cStatusBytes b) 1 1 = (if b.rst.halted then b.rst.clampCause.toNat else 0) ∧ fieldAt (i3cStatusBytes b) 4 4 = 0 ∧ fieldAt (i3cStatusBytes b) 8 8 = b.i3c.reqTick.toNat := by
  have hcause : (if b.rst.halted then b.rst.clampCause.toNat else 0) < 256 := by split <;> omega
  have hskip {n off : Nat} (hn : n ≤ off) (v : Nat) (ys : Bytes) (len : Nat) := fieldAt_leBytes_append_skip hn v ys len
  simp only [i3cStatusBytes, List.append_assoc]
  refine ⟨by simp, ?_, ?_, ?_, ?_⟩
  · rw [fieldAt_leBytes_append]; omega
  · rw [hskip (by decide), fieldAt_leBytes_append]; omega
  · rw [hskip (by decide), hskip (by decide), hskip (by decide), fieldAt_leBytes_append, Nat.zero_mod]
  · have hlast : fieldAt (leBytes 8 b.i3c.reqTick.toNat) 0 8 = b.i3c.reqTick.toNat := by
      have h := fieldAt_leBytes_append 8 b.i3c.reqTick.toNat []
      rw [List.append_nil] at h
      omega
    rw [hskip (by decide), hskip (by decide), hskip (by decide), hskip (by decide)]
    exact hlast

/-- Settles O8: one lemma per command of the sideband. -/
theorem sidebandCommandsAndRequests : Obligations.SidebandCommandsAndRequests :=
  ⟨fun _ _ hup h => exec_i3cEntdaa hup h, fun _ hup => exec_i3cRstdaa hup, fun _ hup => exec_i3cEnec hup, fun _ hup => exec_i3cDisec hup, fun _ a hup => exec_i3cRstact hup a,
   fun _ _ hup h => ⟨exec_i3cGetpid hup h, exec_i3cGetbcr hup h, exec_i3cGetdcr hup h, exec_i3cGetstatus hup h⟩,
   fun s _ hup h => ⟨_, exec_i3cPrivateRead hup h, i3cStatusBytes_fields s.b⟩,
   fun _ _ hup h hwant hhalt hoos => exec_i3cPowerCycleAck hup h hwant hhalt hoos,
   fun _ hup hwant hdue => exec_powerCycleIbiRepeat hup hwant hdue,
   fun _ _ hup h hhalt => exec_i3cChipResetRequest hup h hhalt⟩

end Sys2Proof.Machine
end

section
/-! Supplies and telemetry windows (R169, R384, R392 to R394). -/

namespace Sys2Proof.Machine

/-- What each step of a fold leaves as it is, the fold does. -/
theorem foldl_keeps {α β γ : Type} {f : β → α → β} (g : β → γ) (hf : ∀ b a, g (f b a) = g b) (l : List α) (b : β) : g (l.foldl f b) = g b := by
  induction l generalizing b with
  | nil => rfl
  | cons a l ih => exact (ih _).trans (hf b a)

/-! ### A source after an event -/

@[simp] theorem setSrc_src (x : Nat) (v : Src) (b : Block) (c : Cfg) : (setSrc x v b).src c x = v := by rw [Block.src, Tab.getD, setSrc, Tab.get?_set_same]; rfl

theorem setSrc_src_ne {x y : Nat} (h : y ≠ x) (v : Src) (b : Block) (c : Cfg) : (setSrc x v b).src c y = b.src c y := by
  rw [Block.src, Tab.getD, setSrc, Tab.get?_set_other _ h]; rfl

theorem fire_src_ne {x y : Nat} (h : y ≠ x) (hw : Hard) (b : Block) (c : Cfg) : (fire hw x b).src c y = b.src c y := by
  simp only [fire]
  split
  · rfl
  · exact setSrc_src_ne h ..

/-- A firing of a level source leaves the level. -/
theorem fire_cond {x : Nat} (h : srcIsLevel x = true) (hw : Hard) (b : Block) : ((fire hw x b).src hw.cfg x).cond = (b.src hw.cfg x).cond := by
  simp only [fire]
  split
  · rfl
  · rw [setSrc_src, Src.fired, h]
    simp only [if_true]
    split_ifs <;> rfl

theorem modIsland_src (i : Island) (f : IslandSt → IslandSt) (b : Block) (c : Cfg) (x : Nat) : (modIsland i f b).src c x = b.src c x := rfl

theorem setLevel_cond {x : Nat} (h : srcIsLevel x = true) (hw : Hard) (c : Bool) (b : Block) : ((setLevel hw x c b).src hw.cfg x).cond = c := by
  have hset : ((setSrc x { b.src hw.cfg x with cond := c } b).src hw.cfg x).cond = c := by rw [setSrc_src]
  unfold setLevel
  cases srcStub x <;> dsimp only <;> split <;> simp only [fire_cond h, modIsland_src, hset]

/-- A source no stub raises leaves the islands. -/
theorem setLevel_frame_noStub {x : Nat} (h : srcStub x = none) (hw : Hard) (c : Bool) (b : Block) : setLevel hw x c b = { b with ic := (setLevel hw x c b).ic } := by
  unfold setLevel
  rw [h]
  dsimp only
  split
  · rw [fire_frame]; rfl
  · rfl

/-- The sources a new entry of the log raises: 264 to 271 and 419. -/
theorem viewsTake_src_ne {x : Nat} {vs : List Nat} (hvs : ∀ v ∈ vs, v ≤ 8) (hx : x ≠ 419) (hx' : x < 264 ∨ 272 < x) (hw : Hard) (b : Block) (c : Cfg) :
    (viewsTake hw vs b).src c x = b.src c x := by
  induction vs generalizing b with
  | nil => rfl
  | cons v vs ih =>
    have hv := hvs v List.mem_cons_self
    have hne : x ≠ if v = 8 then 419 else 264 + v := by split <;> omega
    exact (ih (fun w hw => hvs w (List.mem_cons_of_mem _ hw)) _).trans (fire_src_ne hne ..)

theorem viewsOf_le (b : Block) (view : Nat) (p : Option Part) : ∀ v ∈ viewsOf b view p, v ≤ 8 := by
  intro v hv
  have hpart (q : Part) : q.val ≤ 8 := by omega
  unfold viewsOf at hv
  cases p <;> dsimp only at hv <;> split at hv <;> grind

theorem logEv_src_ne {x : Nat} (hx : x ≠ 419) (hx' : x < 264 ∨ 272 < x) (hw : Hard) (code isl : Nat) (p : Option Part) (view sev : Nat) (args : List (Nat × Nat)) (b : Block) (c : Cfg) :
    (logEv hw code isl p view sev args b).src c x = b.src c x := by
  have hlose (full : Bool) (ns : Tab Nat) : (if full then viewsLose ns b else b).ic = b.ic := by
    split
    · rw [viewsLose_frame]
    · rfl
  exact (viewsTake_src_ne (viewsOf_le b view p) hx hx' hw _ c).trans (congrArg (fun ic : Ic => Tab.getD ic.srcs x (srcDefault c x)) (hlose ..))

/-! ### Supplies -/

theorem and_supBit_eq_zero_iff (w : BitVec 5) (k : Fin 5) : w &&& supBit k = 0 ↔ w.getLsbD k.val = false := by
  revert w k; decide

theorem supplyWarn_fresh (w : BitVec 5) : w &&& ~~~ (0 : BitVec 5) = w := by revert w; decide

section warnings
variable {s : State} (hup : s.b.up = true)
include hup

/-- R169: a warning of supplies without a period begins one. -/
theorem exec_supplyWarn_first {bits : BitVec 5} (hbits : bits ≠ 0) (hper : s.b.sup.period = 0) :
    exec (.supplyWarn bits) s = .next (s.withB (logEv s.hard 0x0A01 27 none 3 2 [aByte bits.toNat] (setLevel s.hard 416 true
      { s.b with sup := { s.b.sup with warn := s.b.sup.warn ||| bits, period := bits, checking := s.b.sup.checking &&& ~~~ bits,
                                       start := startPeriods bits s.b.clk.tick s.b.sup.start, warnCount := s.b.sup.warnCount + 1 } }))) := by
  have hwarn : decide (s.b.sup.warn ||| bits ≠ 0) = true := decide_eq_true fun h => hbits (BitVec.or_eq_zero_iff.mp h).2
  have hzero : (0 : BitVec 5) ||| bits = bits := BitVec.zero_or
  show execSupplyWarn bits s = _
  rw [execSupplyWarn, onB_up _ hup]
  simp only [modSup, hper, supplyWarn_fresh, if_neg hbits, hwarn, hzero, Block.now]

theorem exec_smWarnRelease {k : Fin 5} (hwarn : s.b.sup.warn.getLsbD k.val = true) :
    exec (.smWarnRelease k) s = .next (s.withB (setLevel s.hard 416 (decide (s.b.sup.warn &&& ~~~ supBit k ≠ 0))
      { s.b with sup := { s.b.sup with warn := s.b.sup.warn &&& ~~~ supBit k, released := Tab.set s.b.sup.released k.val s.b.clk.tick } })) := by
  have hon : ¬ (s.b.sup.warn &&& supBit k = 0) := fun h => absurd ((and_supBit_eq_zero_iff ..).mp h) (by rw [hwarn]; decide)
  show execSmWarnRelease k s = _
  rw [execSmWarnRelease, onB_up _ hup, if_neg hon]
  rfl

/-- R384: 10 µs after the release the period ends and the key store is checked. -/
theorem exec_supplyWarnEnd {k : Fin 5} {t : Word} (hper : s.b.sup.period.getLsbD k.val = true) (hwarn : s.b.sup.warn.getLsbD k.val = false)
    (hrel : Tab.get? s.b.sup.released k.val = some t) (hdue : t.toNat + 10000 ≤ s.b.clk.tick.toNat) :
    exec (.supplyWarnEnd k) s = .next (s.withB { s.b with sup := { s.b.sup with period := s.b.sup.period &&& ~~~ supBit k, checking := s.b.sup.checking ||| supBit k } }) := by
  have hon : ¬ (s.b.sup.period &&& supBit k = 0) := fun h => absurd ((and_supBit_eq_zero_iff ..).mp h) (by rw [hper]; decide)
  have hat : (Tab.getD s.b.sup.released k.val s.b.now).toNat + 10000 ≤ s.b.now.toNat := by rw [Tab.getD, hrel]; exact hdue
  show execSupplyWarnEnd k s = _
  rw [execSupplyWarnEnd, onB_up _ hup, if_pos ⟨hon, (and_supBit_eq_zero_iff ..).mpr hwarn, hat⟩]
  rfl

theorem exec_supplyRecover (hcheck : s.b.sup.checking ≠ 0) (pass : Bool) :
    exec (.supplyRecover pass) s = .next (s.withB (if pass then logEv s.hard 0x0A02 27 none 3 1 [aByte s.b.sup.checking.toNat, aW4 (periodMicros s.b.sup)] { s.b with sup := { s.b.sup with checking := 0 } }
      else clamp s.hard 0x0A 27 none [] { s.b with sup := { s.b.sup with checking := 0 } })) := by
  show execSupplyRecover pass s = _
  rw [execSupplyRecover, onB_up _ hup, if_neg hcheck]
  rfl

theorem exec_supplyTrip {bits : BitVec 5} (hbits : bits ≠ 0) :
    exec (.supplyTrip bits) s = .next (s.withB (assertChipReq (cutSamples (takeChip s.hard chipByTrip 0xFF none
      (logEv s.hard 0x0A03 27 none 3 3 [aByte bits.toNat] { s.b with sup := { s.b.sup with tripLast := bits } }))))) := by
  show execSupplyTrip bits s = _
  rw [execSupplyTrip, onB_up _ hup, if_neg hbits]
  rfl

end warnings

/-! ### What the taking of a chip reset leaves -/

/-- The block but for what the taking of a reset moves: the ladder, the log, the sources, the sideband and what leaves. -/
def resetKeeps (b : Block) : Block := { b with rst := Block.reset.rst, log := Block.reset.log, ic := Block.reset.ic, i3c := Block.reset.i3c, out := [] }

theorem logEv_resetKeeps (h : Hard) (code isl : Nat) (p : Option Part) (view sev : Nat) (args : List (Nat × Nat)) (b : Block) : resetKeeps (logEv h code isl p view sev args b) = resetKeeps b := by
  rw [logEv_frame]; rfl

theorem modRst_resetKeeps (f : Rst → Rst) (b : Block) : resetKeeps (modRst f b) = resetKeeps b := rfl

theorem startSample_resetKeeps (level cause : Byte) (p : Part) (b : Block) : resetKeeps (startSample level cause p b) = resetKeeps b := by
  unfold startSample
  dsimp only
  split_ifs <;> rfl

theorem sendIbi_resetKeeps (code : Byte) (b : Block) : resetKeeps (sendIbi code b) = resetKeeps b := by unfold sendIbi; split <;> rfl

theorem requestPowerCycle_resetKeeps (h : Hard) (b : Block) : resetKeeps (requestPowerCycle h b) = resetKeeps b := by
  have hask (b : Block) : resetKeeps (setRequest 1 { b with i3c := { b.i3c with cycleWant := true, lastIbi := b.now } }) = resetKeeps b := rfl
  rw [requestPowerCycle, sendIbi_resetKeeps, hask, logEv_resetKeeps]

theorem afterSamples_resetKeeps (h : Hard) (b : Block) : resetKeeps (afterSamples h b) = resetKeeps b := by
  have hreq : resetKeeps (if b.chipPending then assertChipReq b else b) = resetKeeps b := by split <;> rfl
  unfold afterSamples
  split
  · rfl
  dsimp only
  generalize (if b.chipPending then assertChipReq b else b) = c at hreq ⊢
  split
  · exact (requestPowerCycle_resetKeeps ..).trans hreq
  · exact hreq

theorem takePowerCycle_resetKeeps (h : Hard) (requester : Byte) (b : Block) : resetKeeps (takePowerCycle h requester b) = resetKeeps b := by
  unfold takePowerCycle
  split
  · rfl
  · exact (afterSamples_resetKeeps ..).trans (foldl_keeps resetKeeps (fun b p => startSample_resetKeeps 4 0 p b) ..)

theorem pushRunning_resetKeeps (sc : ResetScope) (requester : Byte) (origin : Option Part) (b : Block) : resetKeeps (pushRunning sc requester origin b) = resetKeeps b := rfl
theorem countChipReset_resetKeeps (b : Block) : resetKeeps (countChipReset b) = resetKeeps b := rfl

/-- The chip reset of each partition is counted. -/
theorem chipResets_resetKeeps (b : Block) (p : Part) :
    resetKeeps (if b.partExists p then modRstPart p (fun r => { r with resets := r.resets + 1, lastLevel := 3 }) b else b) = resetKeeps b := by
  split <;> rfl

theorem takeChip_resetKeeps (h : Hard) (cause : Nat) (requester : Byte) (origin : Option Part) (b : Block) : resetKeeps (takeChip h cause requester origin b) = resetKeeps b := by
  unfold takeChip
  split
  · rfl
  split
  · exact (takePowerCycle_resetKeeps ..).trans (logEv_resetKeeps ..)
  dsimp only
  generalize hcounted : List.foldl _ _ allParts = c
  have hkeep : resetKeeps c = resetKeeps b := by
    rw [← hcounted, foldl_keeps resetKeeps chipResets_resetKeeps]
    simp only [countChipReset_resetKeeps, modRst_resetKeeps, logEv_resetKeeps, pushRunning_resetKeeps]
  split
  · exact hkeep
  split
  · exact hkeep
  · rw [afterSamples_resetKeeps, foldl_keeps resetKeeps (fun b p => startSample_resetKeeps 3 0 p b), hkeep]

theorem takeChip_sup (h : Hard) (cause : Nat) (requester : Byte) (origin : Option Part) (b : Block) : (takeChip h cause requester origin b).sup = b.sup :=
  show (resetKeeps (takeChip h cause requester origin b)).sup = (resetKeeps b).sup by rw [takeChip_resetKeeps]

theorem takeChip_ks (h : Hard) (cause : Nat) (requester : Byte) (origin : Option Part) (b : Block) : (takeChip h cause requester origin b).ks = b.ks :=
  show (resetKeeps (takeChip h cause requester origin b)).ks = (resetKeeps b).ks by rw [takeChip_resetKeeps]

theorem cutSamples_sup (b : Block) : (cutSamples b).sup = b.sup := rfl
theorem assertChipReq_sup (b : Block) : (assertChipReq b).sup = b.sup := rfl

/-! ### Telemetry -/

theorem ownerKey_injective {o o' : Owner} (h : ownerKey o = ownerKey o') : o = o' := by
  cases o <;> cases o' <;> grind [ownerKey]

theorem setTel_telOf (o : Owner) (t : TelOwner) (b : Block) : (setTel o t b).telOf o = t := by rw [Block.telOf, Tab.getD, setTel, Tab.get?_set_same]; rfl

theorem setTel_telOf_ne {o o' : Owner} (h : o' ≠ o) (t : TelOwner) (b : Block) : (setTel o t b).telOf o' = b.telOf o' := by
  rw [Block.telOf, Tab.getD, setTel, Tab.get?_set_other _ (fun e => h (ownerKey_injective e))]; rfl

/-- What the ending of a window or a period of `o` leaves as it is. -/
theorem rollPower_telOf_ne {o o' : Owner} (h : o' ≠ o) (b : Block) : (rollPower o b).telOf o' = b.telOf o' := by
  unfold rollPower
  split
  · exact setTel_telOf_ne h ..
  · rfl

theorem rollThrottle_telOf_ne {o o' : Owner} (h : o' ≠ o) (b : Block) : (rollThrottle o b).telOf o' = b.telOf o' := by
  unfold rollThrottle
  split
  · exact setTel_telOf_ne h ..
  · rfl

theorem gather_telOf_ne {o o' : Owner} (h : o' ≠ o) (mw : BitVec 32) (th : BitVec 2) (hot : Int) (b : Block) : (gather mw th hot o b).telOf o' = b.telOf o' := by
  unfold gather
  split
  · rfl
  · exact (setTel_telOf_ne h ..).trans ((rollThrottle_telOf_ne h _).trans (rollPower_telOf_ne h _))

/-- A gathering changes the windows and the count of free values drawn. -/
def gatherKeeps (b : Block) : Block := { b with tel := { b.tel with owners := [] }, ent := { b.ent with opens := 0 } }

theorem rollPower_keeps (o : Owner) (b : Block) : gatherKeeps (rollPower o b) = gatherKeeps b := by unfold rollPower; split <;> rfl
theorem rollThrottle_keeps (o : Owner) (b : Block) : gatherKeeps (rollThrottle o b) = gatherKeeps b := by unfold rollThrottle; split <;> rfl

theorem gather_keeps (mw : BitVec 32) (th : BitVec 2) (hot : Int) (b : Block) (o : Owner) : gatherKeeps (gather mw th hot o b) = gatherKeeps b := by
  unfold gather
  split
  · rfl
  · exact (rollThrottle_keeps o _).trans (rollPower_keeps o b)

/-- What of a block a gathering reads but for the owner's windows. -/
theorem telOn_of_keeps {b b' : Block} (h : gatherKeeps b = gatherKeeps b') (o : Owner) : b.telOn o = b'.telOn o := by
  have hparts : (gatherKeeps b).parts = (gatherKeeps b').parts := by rw [h]
  cases o with
  | operator => rfl
  | part p => exact congrArg (fun t : Tab PartSt => (Tab.getD t p.val PartSt.reset).jig.isSome) hparts

/-- The reading taken into windows that run. -/
def readingTaken (mw : BitVec 32) (th : BitVec 2) (hot : Int) (t : TelOwner) : TelOwner :=
  { t with sum := t.sum + mw.toNat, num := t.num + 1, hot := some (match t.hot with | none => hot | some x => max x hot),
           deepest := if t.deepest.toNat < th.toNat then th else t.deepest }

theorem gather_running {o : Owner} {b : Block} (hon : b.telOn o = true) (hp : powerDue b (b.telOf o) = false) (ht : throttleDue b (b.telOf o) = false)
    (hw : (b.telOf o).winStart.toNat ≤ b.clk.tick.toNat) (hq : (b.telOf o).perStart.toNat ≤ b.clk.tick.toNat) (mw : BitVec 32) (th : BitVec 2) (hot : Int) :
    gather mw th hot o b = setTel o (readingTaken mw th hot (b.telOf o)) b := by
  have hw : (b.telOf o).winStart.toNat ≤ b.now.toNat := hw
  have hq : (b.telOf o).perStart.toNat ≤ b.now.toNat := hq
  have hpow : rollPower o b = b := by rw [rollPower, hon, hp]; rfl
  have hthr : rollThrottle o b = b := by rw [rollThrottle, hon, ht]; rfl
  simp only [gather, hon, hpow, hthr, if_pos hw, if_pos hq, Bool.not_true, Bool.false_eq_true, if_false]
  rfl

theorem allOwners_nodup : allOwners.Nodup := by decide
theorem mem_allOwners (o : Owner) : o ∈ allOwners := by
  cases o with
  | operator => decide
  | part p => revert p; decide

theorem powerDue_congr {b c : Block} (h : b.clk = c.clk) (t : TelOwner) : powerDue b t = powerDue c t := by unfold powerDue Block.now; rw [h]
theorem throttleDue_congr {b c : Block} (h : b.clk = c.clk) (t : TelOwner) : throttleDue b t = throttleDue c t := by unfold throttleDue Block.now; rw [h]

/-- A gathering for several owners reaches each owner once. -/
theorem foldl_gather_telOf {os : List Owner} (hnodup : os.Nodup) {o : Owner} (ho : o ∈ os) {b : Block} (hon : b.telOn o = true)
    (hp : powerDue b (b.telOf o) = false) (ht : throttleDue b (b.telOf o) = false)
    (hw : (b.telOf o).winStart.toNat ≤ b.clk.tick.toNat) (hq : (b.telOf o).perStart.toNat ≤ b.clk.tick.toNat) (mw : BitVec 32) (th : BitVec 2) (hot : Int) :
    (os.foldl (fun b o => gather mw th hot o b) b).telOf o = readingTaken mw th hot (b.telOf o) := by
  induction os generalizing b with
  | nil => cases ho
  | cons p os ih =>
    obtain ⟨hnot, hnodup⟩ := List.nodup_cons.mp hnodup
    have hkeep : gatherKeeps (gather mw th hot p b) = gatherKeeps b := gather_keeps ..
    have hclk : (gather mw th hot p b).clk = b.clk := show (gatherKeeps _).clk = (gatherKeeps b).clk by rw [hkeep]
    obtain rfl | ho := List.mem_cons.mp ho
    · refine Eq.trans ?_ ((congrArg (fun b => b.telOf o) (gather_running hon hp ht hw hq mw th hot)).trans (setTel_telOf ..))
      have hrest (os : List Owner) (hnot : o ∉ os) (b : Block) : (os.foldl (fun b o => gather mw th hot o b) b).telOf o = b.telOf o := by
        induction os generalizing b with
        | nil => rfl
        | cons q os ih =>
          obtain ⟨hne, hnot⟩ := not_or.mp (mt List.mem_cons.mpr hnot)
          exact (ih hnot _).trans (gather_telOf_ne hne ..)
      exact hrest os hnot _
    · have hne : o ≠ p := fun h => hnot (h ▸ ho)
      have hsame : (gather mw th hot p b).telOf o = b.telOf o := gather_telOf_ne hne ..
      have hpow : powerDue (gather mw th hot p b) (b.telOf o) = powerDue b (b.telOf o) := powerDue_congr hclk _
      have hthr : throttleDue (gather mw th hot p b) (b.telOf o) = throttleDue b (b.telOf o) := throttleDue_congr hclk _
      refine (ih hnodup ho ((telOn_of_keeps hkeep o).trans hon) ?_ ?_ ?_ ?_).trans (by rw [hsame])
      · rw [hsame, hpow, hp]
      · rw [hsame, hthr, ht]
      · rw [hsame, hclk]; exact hw
      · rw [hsame, hclk]; exact hq

/-- The block with a posting held raw. -/
def rawHeld (mw : BitVec 32) (th : BitVec 2) (seq fab : BitVec 16) (cmp : List (BitVec 16)) (b : Block) : Block :=
  { b with tel := { b.tel with raw := some (mw, th, seq, fab :: cmp) } }

theorem posting_keeps (mw : BitVec 32) (th : BitVec 2) (seq fab : BitVec 16) (cmp : List (BitVec 16)) (b : Block) :
    gatherKeeps (allOwners.foldl (fun b o => gather mw th (hottest fab cmp) o b) (rawHeld mw th seq fab cmp b)) = gatherKeeps (rawHeld mw th seq fab cmp b) :=
  foldl_keeps gatherKeeps (fun b o => gather_keeps mw th _ b o) ..

theorem posted_raw {mw : BitVec 32} {th : BitVec 2} {seq fab : BitVec 16} {cmp : List (BitVec 16)} {b c : Block} (h : gatherKeeps c = gatherKeeps (rawHeld mw th seq fab cmp b)) :
    c.tel.raw = some (mw, th, seq, fab :: cmp) :=
  show (gatherKeeps c).tel.raw = _ by rw [h]; rfl

theorem posted_frame {mw : BitVec 32} {th : BitVec 2} {seq fab : BitVec 16} {cmp : List (BitVec 16)} {b c : Block} (h : gatherKeeps c = gatherKeeps (rawHeld mw th seq fab cmp b)) :
    c = { b with tel := c.tel, ent := c.ent } :=
  congrArg (fun d : Block => { d with tel := c.tel, ent := c.ent }) h

theorem exec_telemetryPosting {s : State} (hup : s.b.up = true) (hloaded : s.b.clk.loaded = true) {cmp : List (BitVec 16)} (hcmp : cmp.length ≤ 4) (mw : BitVec 32) (th : BitVec 2) (seq fab : BitVec 16) :
    exec (.telemetryPosting mw th seq fab cmp) s = .next (s.withB (allOwners.foldl (fun b o => gather mw th (hottest fab cmp) o b) (rawHeld mw th seq fab cmp s.b))) := by
  show execTelemetryPosting mw th seq fab cmp s = _
  rw [execTelemetryPosting, onB_up _ hup, List.take_of_length_le hcmp]
  simp only [hloaded, if_true]
  rfl

/-- One window is over, and no more. -/
theorem elapsed_one {start now len : Nat} (hdue : start + len ≤ now) (hnext : now < start + 2 * len) : (now - start) / len - 1 = 0 := by
  have hpos : 0 < len := by omega
  have hq : (now - start) / len < 2 := (Nat.div_lt_iff_lt_mul hpos).mpr (by omega)
  omega

theorem exec_telemetryWindowEnd {s : State} {o : Owner} (hup : s.b.up = true) (hloaded : s.b.clk.loaded = true) (hon : s.b.telOn o = true)
    (hdue : (s.b.telOf o).winStart.toNat + powerWindow (s.b.telOf o) ≤ s.b.clk.tick.toNat) (hnext : s.b.clk.tick.toNat < (s.b.telOf o).winStart.toNat + 2 * powerWindow (s.b.telOf o)) :
    exec (.telemetryWindowEnd o) s = .next (s.withB (setTel o (endPower s.b.openVal (s.b.telOf o)) (opened s.b))) := by
  have hp : powerDue s.b (s.b.telOf o) = true := decide_eq_true hdue
  have hlast : lastPower s.b (s.b.telOf o) = s.b.telOf o := by
    have h := elapsed_one hdue hnext
    simp only [lastPower, Block.now, h, if_true]
  show execTelemetryWindowEnd o s = _
  rw [execTelemetryWindowEnd, onB_up _ hup, hloaded, rollPower, hon, hp, hlast]
  rfl

theorem exec_throttlePeriodEnd {s : State} {o : Owner} (hup : s.b.up = true) (hloaded : s.b.clk.loaded = true) (hon : s.b.telOn o = true)
    (hdue : (s.b.telOf o).perStart.toNat + throttleWindow (s.b.telOf o) ≤ s.b.clk.tick.toNat) (hnext : s.b.clk.tick.toNat < (s.b.telOf o).perStart.toNat + 2 * throttleWindow (s.b.telOf o)) :
    exec (.throttlePeriodEnd o) s = .next (s.withB (setTel o (endThrottle (s.b.telOf o)) s.b)) := by
  have ht : throttleDue s.b (s.b.telOf o) = true := decide_eq_true hdue
  have hlast : lastThrottle s.b (s.b.telOf o) = s.b.telOf o := by
    have h := elapsed_one hdue hnext
    simp only [lastThrottle, Block.now, h, if_true]
  show execThrottlePeriodEnd o s = _
  rw [execThrottlePeriodEnd, onB_up _ hup, hloaded, rollThrottle, hon, ht, hlast]
  rfl

/-- Settles O9: one lemma per command, and for a posting the owners in turn. -/
theorem supplyTripsAndTelemetry : Obligations.SupplyTripsAndTelemetry := by
  refine ⟨fun s bits hup hbits hper => ⟨_, exec_supplyWarn_first hup hbits hper, ?_, ?_, ?_⟩, fun s k hup hwarn => ⟨_, exec_smWarnRelease hup hwarn, ?_, ?_⟩,
    fun s k t hup hper hwarn hrel hdue => exec_supplyWarnEnd hup hper hwarn hrel hdue, fun s hup hcheck => ⟨exec_supplyRecover hup hcheck true, exec_supplyRecover hup hcheck false⟩,
    fun s bits hup hbits => ⟨_, exec_supplyTrip hup hbits, ?_, rfl⟩,
    fun s mw th seq fab cmp o hup hloaded hon hp ht hw hq hcmp => ⟨_, exec_telemetryPosting hup hloaded hcmp mw th seq fab, posted_raw (posting_keeps mw th seq fab cmp s.b), foldl_gather_telOf (b := rawHeld mw th seq fab cmp s.b) allOwners_nodup (mem_allOwners o) hon hp ht hw hq mw th (hottest fab cmp), ?_⟩,
    fun s o x n hup hloaded hon hhot hnum hdue hnext => ?_, fun s o hup hloaded hon hdue hnext => exec_throttlePeriodEnd hup hloaded hon hdue hnext⟩
  · simp only [logEv_sup, setLevel_sup]
  · rw [logEv_src_ne (by decide) (by decide)]
    exact setLevel_cond rfl ..
  · rw [logEv_frame, setLevel_frame_noStub rfl]
  · exact setLevel_sup ..
  · rw [setLevel_frame_noStub rfl]
  · rw [assertChipReq_sup, cutSamples_sup, takeChip_sup, logEv_sup]
  · exact posted_frame (posting_keeps mw th seq fab cmp s.b)
  · rw [exec_telemetryWindowEnd hup hloaded hon hdue hnext, endPower, hhot, hnum]
    rfl

end Sys2Proof.Machine
end

section
/-! Tamper, battery and zeroisation (R45, R86 to R91, R109). -/

namespace Sys2Proof.Machine

theorem mem_allParts (p : Part) : p ∈ allParts := by revert p; decide

/-! ### The sensors -/

/-- What a trip does to the running chip: its level rises, and a `GEN_ROOT` that runs ends. -/
def tripSeen (h : Hard) (b : Block) : Block := whenUp (fun b => setLevel h 417 true (if b.lc.go && decide (b.lc.op = 0x01) then lcEnd 0x03 0 b else b)) b

theorem exec_tamperTrip_armed {s : State} {k : Fin 8} (harm : s.hard.bat.armMask.getLsbD k.val = true) (busy : Bool) :
    exec (.tamperTrip k busy) s = .next { s with hard := { s.hard with bat := tripBat k.val busy s.hard.bat }, b := tripSeen s.hard s.b } := by
  show execTamperTrip k busy s = _
  rw [execTamperTrip, onHB_next, if_pos harm]
  rfl

theorem exec_tamperTrip_unarmed {s : State} {k : Fin 8} (harm : s.hard.bat.armMask.getLsbD k.val = false) (busy : Bool) : exec (.tamperTrip k busy) s = .next s := by
  show execTamperTrip k busy s = _
  rw [execTamperTrip, onHB_next, if_neg (by rw [harm]; decide)]

theorem tripBat_zeroes {k : Nat} {ba : Battery} {busy : Bool} (h : busy = false ∨ ba.zeroised = false) :
    tripBat k busy ba = { latchBat k ba with entropy := 0, check := 0, zeroCount := ba.zeroCount + 1, zeroised := true } := by
  have hnot : (busy && ba.zeroised) = false := Bool.and_eq_false_iff.mpr h
  rw [tripBat, hnot]; rfl

theorem tripBat_latches {k : Nat} {ba : Battery} (h : ba.zeroised = true) : tripBat k true ba = latchBat k ba := by rw [tripBat, h]; rfl

theorem tripSeen_frame (h : Hard) (b : Block) : tripSeen h b = { b with ic := (tripSeen h b).ic, lc := (tripSeen h b).lc } := by
  unfold tripSeen
  cases hup : b.up
  · rw [whenUp_down _ hup]
  · rw [whenUp_up _ hup, setLevel_frame_noStub rfl]
    split <;> rfl

theorem tripSeen_lc (h : Hard) (b : Block) : (tripSeen h b).lc =
    if b.up = true ∧ b.lc.go = true ∧ b.lc.op = 0x01 then { b.lc with go := false, done := true, error := true, err := 0x03, size := 0 } else b.lc := by
  unfold tripSeen
  cases hup : b.up
  · rw [whenUp_down _ hup, if_neg (by simp)]
  · rw [whenUp_up _ hup, setLevel_lc]
    by_cases hgen : b.lc.go = true ∧ b.lc.op = 0x01
    · have hrun : (b.lc.go && decide (b.lc.op = 0x01)) = true := by simp only [hgen.1, hgen.2]; rfl
      rw [if_pos hrun, if_pos ⟨rfl, hgen⟩]
      rfl
    · have hrun : ¬ (b.lc.go && decide (b.lc.op = 0x01)) = true := by simpa only [Bool.and_eq_true, decide_eq_true_eq] using hgen
      rw [if_neg hrun, if_neg fun h => hgen h.2]

/-! ### The battery domain -/

theorem whenUp_setLevel_frame (h : Hard) (c : Bool) (b : Block) : whenUp (setLevel h 417 c) b = { b with ic := (whenUp (setLevel h 417 c) b).ic } := by
  unfold whenUp
  split
  · exact setLevel_frame_noStub rfl ..
  · rfl

theorem exec_tamperLatchClear {s : State} (hup : s.b.up = true) (m : Byte) :
    exec (.tamperLatchClear m) s = .next { s with
      hard := { s.hard with bat := { s.hard.bat with latch := s.hard.bat.latch &&& ~~~ m, first := if s.hard.bat.latch &&& ~~~ m = 0 then 0xFF else s.hard.bat.first } }
      b := setLevel s.hard 417 (decide (s.hard.bat.latch &&& ~~~ m ≠ 0)) s.b } := by
  show execTamperLatchClear m s = _
  rw [execTamperLatchClear, onHB_next, hup]
  rfl

/-! ### The key store after a zeroisation -/

/-- The battery domain once TC has found the zeroisation, recorded or not. -/
def zeroisationFound (unreported : Bool) (h : Hard) : Hard := { h with bat := { h.bat with zeroised := false, unreported := unreported } }

theorem exec_tamperZeroised_clamps {s : State} {p : Part} (hz : s.hard.bat.zeroised = true) (hup : s.b.up = true) (hp : s.b.partExists p = true) :
    exec .tamperZeroised s = .next { s with hard := zeroisationFound false s.hard, b := clamp (zeroisationFound false s.hard) 9 29 none [] s.b } := by
  have hany : allParts.any s.b.partExists = true := List.any_eq_true.mpr ⟨p, mem_allParts p, hp⟩
  show execTamperZeroised s = _
  rw [execTamperZeroised, onHB_next, hz, hup]
  simp only [hany, if_true]
  rfl

theorem exec_tamperZeroised_noPart {s : State} (hz : s.hard.bat.zeroised = true) (hup : s.b.up = true) (hp : ∀ p : Part, s.b.partExists p = false) :
    exec .tamperZeroised s = .next { s with
      hard := zeroisationFound (!s.b.clk.loaded) s.hard
      b := if s.b.clk.loaded then tamperEvents (zeroisationFound false s.hard) (zeroKeys (zeroisationFound false s.hard) s.b) else zeroKeys (zeroisationFound false s.hard) s.b } := by
  have hany : allParts.any s.b.partExists = false := List.any_eq_false.mpr fun p _ => by rw [hp]; decide
  show execTamperZeroised s = _
  rw [execTamperZeroised, onHB_next, hz, hup, hany]
  cases s.b.clk.loaded <;> rfl

theorem cachesZeroed_eq (is : List Island) (b : Block) : is.foldl (fun b i => cacheZero i b) b = modIslands is (fun st => { st with cache := [], kdrIn := [] }) b := rfl

/-- The block with no key left. -/
def keysZeroed (h : Hard) (b : Block) : Block :=
  (cipherIslands h.cfg).foldl (fun b i => cacheZero i b) { b with ks := { slots := [], repls := [], invals := [], sel := b.ks.sel } }

theorem keysZeroed_frame (h : Hard) (b : Block) : keysZeroed h b = { b with ks := { slots := [], repls := [], invals := [], sel := b.ks.sel }, islands := (keysZeroed h b).islands } := by
  rw [keysZeroed, cachesZeroed_eq, modIslands_frame]

/-- With no key command to abort, what is left is written anew. -/
theorem zeroKeys_quiet {b : Block} (hr : b.ks.repls = []) (hi : b.ks.invals = []) (h : Hard) :
    zeroKeys h b = if b.lc.romRun = false then keysZeroed h b else if b.lc.rootSel then writeKatKeys (keysZeroed h b) else writeIdentity h false (writeKatKeys (keysZeroed h b)) := by
  have habort : abortKeyCommands h b = b := by simp only [abortKeyCommands, hr, hi, List.foldl_nil]
  have hlc : (keysZeroed h b).lc = b.lc := by rw [keysZeroed_frame]
  have hzero : zeroKeys h b = if !(keysZeroed h b).lc.romRun then keysZeroed h b else if (keysZeroed h b).lc.rootSel then writeKatKeys (keysZeroed h b)
      else writeIdentity h false (writeKatKeys (keysZeroed h b)) := by rw [zeroKeys, habort]; rfl
  rw [hzero, hlc]
  cases b.lc.romRun <;> rfl

/-- Keys written into the slots of a list. -/
def putKeys (v : Nat → Key) (a : Attr) (ns : List Nat) (b : Block) : Block := ns.foldl (fun b n => putKey n (v n) a b) b

theorem putKey_get?_ne {n x : Nat} (h : x ≠ n) (v : Key) (a : Attr) (b : Block) : Tab.get? (putKey n v a b).ks.slots x = Tab.get? b.ks.slots x := Tab.get?_set_other _ h _

theorem putKeys_get? {ns : List Nat} {x : Nat} (h : x ∉ ns) (v : Nat → Key) (a : Attr) (b : Block) : Tab.get? (putKeys v a ns b).ks.slots x = Tab.get? b.ks.slots x := by
  induction ns generalizing b with
  | nil => rfl
  | cons n ns ih =>
    obtain ⟨hne, hnot⟩ := not_or.mp (mt List.mem_cons.mpr h)
    exact (ih hnot _).trans (putKey_get?_ne hne ..)

theorem slot_of_get? {b c : Block} {x : Nat} (h : Tab.get? b.ks.slots x = Tab.get? c.ks.slots x) : b.slot x = c.slot x := by rw [Block.slot, Tab.getD, h]; rfl

theorem putKeys_value {ns : List Nat} {x : Nat} (h : x ∈ ns) (v : Nat → Key) (a : Attr) (b : Block) : ((putKeys v a ns b).slot x).value = v x := by
  induction ns generalizing b with
  | nil => cases h
  | cons n ns ih =>
    by_cases hrest : x ∈ ns
    · exact ih hrest _
    · obtain rfl : x = n := (List.mem_cons.mp h).resolve_right hrest
      have hsame := slot_of_get? (putKeys_get? hrest v a (putKey x (v x) a b))
      show ((putKeys v a ns (putKey x (v x) a b)).slot x).value = v x
      rw [hsame, putKey, setSlot_slot_same]

theorem writeKatKeys_eq (b : Block) : writeKatKeys b = putKeys Config.katKey { Attr.zero with st := 1, owner := 0xF, uses := typeUses 14, type := 14 } [2, 3, 4, 5, 6, 7] b := rfl

theorem mem_katSlots {n : Nat} : n ∈ [2, 3, 4, 5, 6, 7] ↔ 2 ≤ n ∧ n ≤ 7 := by simp only [List.mem_cons, List.not_mem_nil, or_false]; omega

theorem writeKatKeys_get? {n : Nat} (hn : n < 2 ∨ 7 < n) (b : Block) : Tab.get? (writeKatKeys b).ks.slots n = Tab.get? b.ks.slots n := by
  rw [writeKatKeys_eq, putKeys_get? fun h => by obtain ⟨hlo, hhi⟩ := mem_katSlots.mp h; omega]

theorem writeKatKeys_value {n : Nat} (hlo : 2 ≤ n) (hhi : n ≤ 7) (b : Block) : ((writeKatKeys b).slot n).value = Config.katKey n := by
  rw [writeKatKeys_eq, putKeys_value (mem_katSlots.mpr ⟨hlo, hhi⟩)]

theorem writeIdentity_get? {n : Nat} (hn : 2 ≤ n) (h : Hard) (sel : Bool) (b : Block) : Tab.get? (writeIdentity h sel b).ks.slots n = Tab.get? b.ks.slots n := by
  unfold writeIdentity
  dsimp only
  rw [putKey_get?_ne (by omega), putKey_get?_ne (by omega)]

theorem writeIdentity_root (h : Hard) (sel : Bool) (b : Block) : ((writeIdentity h sel b).slot 0).value = rootPort h sel := by
  unfold writeIdentity
  dsimp only
  rw [putKey, setSlot_slot_ne (by decide), putKey, setSlot_slot_same]

theorem writeIdentity_base (h : Hard) (sel : Bool) (b : Block) : ((writeIdentity h sel b).slot 1).value = kdf (rootPort h sel) [] "SWY-ID-BASE" := by
  unfold writeIdentity
  dsimp only
  rw [putKey, setSlot_slot_same]

theorem writeKatKeys_rst (b : Block) : (writeKatKeys b).rst = b.rst := by
  unfold writeKatKeys
  refine foldl_keeps Block.rst (fun _ _ => ?_) _ b
  rfl
theorem writeIdentity_rst (h : Hard) (sel : Bool) (b : Block) : (writeIdentity h sel b).rst = b.rst := rfl

section zeroKeys
variable {b : Block} (hr : b.ks.repls = []) (hi : b.ks.invals = []) (h : Hard)
include hr hi

theorem zeroKeys_get? {n : Nat} (hn : 8 ≤ n) : Tab.get? (zeroKeys h b).ks.slots n = none := by
  have hnone : Tab.get? (keysZeroed h b).ks.slots n = none := by rw [keysZeroed_frame]; rfl
  rw [zeroKeys_quiet hr hi]
  split_ifs
  · exact hnone
  · rw [writeKatKeys_get? (by omega), hnone]
  · rw [writeIdentity_get? (by omega), writeKatKeys_get? (by omega), hnone]

theorem zeroKeys_kat {n : Nat} (hrom : b.lc.romRun = true) (hlo : 2 ≤ n) (hhi : n ≤ 7) : ((zeroKeys h b).slot n).value = Config.katKey n := by
  rw [zeroKeys_quiet hr hi, if_neg (by rw [hrom]; decide)]
  split
  · exact writeKatKeys_value hlo hhi _
  · rw [slot_of_get? (writeIdentity_get? hlo ..)]
    exact writeKatKeys_value hlo hhi _

theorem zeroKeys_slot0_selected (hsel : b.lc.rootSel = true) : Tab.get? (zeroKeys h b).ks.slots 0 = none := by
  have hnone : Tab.get? (keysZeroed h b).ks.slots 0 = none := by rw [keysZeroed_frame]; rfl
  rw [zeroKeys_quiet hr hi, hsel]
  split
  · exact hnone
  · exact (writeKatKeys_get? (by omega) _).trans hnone

theorem zeroKeys_slot0_test (hrom : b.lc.romRun = true) (hsel : b.lc.rootSel = false) :
    ((zeroKeys h b).slot 0).value = testRoot h ∧ ((zeroKeys h b).slot 1).value = kdf (testRoot h) [] "SWY-ID-BASE" := by
  rw [zeroKeys_quiet hr hi, if_neg (by rw [hrom]; decide), if_neg (by rw [hsel]; decide)]
  exact ⟨writeIdentity_root .., writeIdentity_base ..⟩

theorem zeroKeys_rst : (zeroKeys h b).rst = b.rst := by
  have hrst : (keysZeroed h b).rst = b.rst := by rw [keysZeroed_frame]
  rw [zeroKeys_quiet hr hi]
  split
  · exact hrst
  split
  · exact (writeKatKeys_rst _).trans hrst
  · exact (writeIdentity_rst ..).trans ((writeKatKeys_rst _).trans hrst)

/-- Of the battery domain and the fuses the rewriting reads only the serial number and the configuration. -/
theorem zeroKeys_found (v w : Bool) : zeroKeys (zeroisationFound v h) b = zeroKeys (zeroisationFound w h) b := by
  rw [zeroKeys_quiet hr hi, zeroKeys_quiet hr hi]
  rfl

end zeroKeys

theorem tamperEvents_ks (h : Hard) (b : Block) : (tamperEvents h b).ks = b.ks := by
  refine (foldl_keeps Block.ks (fun b k => ?_) ..).trans (note_ks ..)
  split
  · exact note_ks ..
  · rfl

theorem tamperEvents_rst (h : Hard) (b : Block) : (tamperEvents h b).rst = b.rst := by
  refine (foldl_keeps Block.rst (fun b k => ?_) ..).trans (note_rst ..)
  split
  · exact note_rst ..
  · rfl

/-- Settles O10: what each command does to the battery domain, and the key store after the zeroisation. -/
theorem tamperBatteryAndZeroisation : Obligations.TamperBatteryAndZeroisation := by
  refine ⟨fun s k harm => ⟨fun busy hfirst => ⟨_, exec_tamperTrip_armed harm busy, ?_⟩, fun hz => ⟨_, exec_tamperTrip_armed harm true, ?_, ?_⟩⟩,
    fun s k busy harm => exec_tamperTrip_unarmed harm busy, fun s => rfl, fun s v => rfl,
    fun s => ⟨_, exec_batteryPowerLoss s, rfl, rfl, rfl, rfl, rfl, rfl, rfl, ?_⟩, fun s m hup => ⟨_, exec_tamperLatchClear hup m, rfl, ?_⟩,
    fun s p hz hup hp => exec_tamperZeroised_clamps hz hup hp, fun s hz hup hp hr hi => ⟨_, exec_tamperZeroised_noPart hz hup hp, rfl, ?_⟩⟩
  · rw [tripBat_zeroes hfirst]
    refine ⟨rfl, rfl, rfl, rfl, rfl, rfl, rfl, rfl, rfl, tripSeen_lc .., ?_⟩
    rw [← tripSeen_frame]
  · rw [tripBat_latches hz]; rfl
  · rw [← tripSeen_frame]
  · rw [← whenUp_setLevel_frame]
  · rw [← setLevel_frame_noStub rfl]
  · have hks : (if s.b.clk.loaded then tamperEvents (zeroisationFound false s.hard) (zeroKeys (zeroisationFound false s.hard) s.b) else zeroKeys (zeroisationFound false s.hard) s.b).ks
        = (zeroKeys (zeroisationFound false s.hard) s.b).ks := by
      split
      · exact tamperEvents_ks ..
      · rfl
    dsimp only [Block.slot]
    rw [hks]
    refine ⟨?_, fun n hn => zeroKeys_get? hr hi _ hn, fun hrom n hlo hhi => zeroKeys_kat hr hi _ hrom hlo hhi, fun hsel => zeroKeys_slot0_selected hr hi _ hsel,
      fun hrom hsel => zeroKeys_slot0_test hr hi _ hrom hsel, ?_⟩
    · split
      · rw [tamperEvents_rst, zeroKeys_rst hr hi]
      · rw [zeroKeys_rst hr hi]
    · cases s.b.clk.loaded
      · exact zeroKeys_found hr hi s.hard false true
      · rfl

end Sys2Proof.Machine
end

section
/-! Roots, lifecycle, starts and the test access port (R50 to R52, R89 to R109, R371). -/

namespace Sys2Proof.Machine

/-! ### Lifecycle operations -/

/-- A lifecycle operation that has ended well with `size` bytes. -/
theorem lcEnd_ok (size : Nat) (b : Block) : lcEnd 0 size b = { b with lc := { b.lc with go := false, done := true, error := false, err := 0, size := BitVec.ofNat 24 size } } := rfl

theorem anyPart_none {b : Block} (h : ∀ p : Part, b.partExists p = false) : anyPart b = false := List.any_eq_false.mpr fun p _ => by rw [h]; decide

/-- R89: the new root array, its check, and true form. -/
theorem exec_genRoot {s : State} (hrun : lcRuns 0x01 s.b = true) (hrnd : s.b.noRandom = false) (hphase : s.b.lc.phase = 0) (hpart : ∀ p : Part, s.b.partExists p = false) :
    ∃ e : BitVec 32512, exec (.genRoot true) s = .next { s with
      hard := { s.hard with bat := { s.hard.bat with entropy := e, check := rootCheck e, inverted := false } }
      b := lcEnd 0 0 { s.b with ent := { s.b.ent with draws := s.b.ent.draws + 64, gens := s.b.ent.gens + 64 } } } := by
  refine ⟨BitVec.ofNat 32512 (drawEntropy s.b.ent.draws 64), ?_⟩
  have hphase : ¬ s.b.lc.phase ≠ 0 := not_not.mpr hphase
  show execGenRoot true s = _
  rw [execGenRoot, onHB_next, hrun, hrnd, if_neg (by decide), if_neg hphase, anyPart_none hpart]
  simp only [Bool.false_eq_true, if_false, Bool.not_true]

theorem exec_arm {s : State} (hready : lcReady s.b = true) (m : Byte) :
    exec (.arm m) s = .next { s with hard := { s.hard with bat := { s.hard.bat with armMask := s.hard.bat.armMask ||| m } }, b := lcEnd 0 0 s.b } := by
  show execArm m s = _
  rw [execArm, onHB_next, hready]
  rfl

/-- The fuses of a chip with one more record begun. -/
def recordBegun (w : Word) (h : Hard) : Hard := { h with fuse := h.fuse.burn (nextRecord h.fuse) w }

theorem exec_close_ok {s : State} (hready : lcReady s.b = true) (herr : closeErr s.hard s.b = 0) :
    exec .close s = .next { s with
      hard := recordBegun (markCells 0) s.hard
      b := dropOpenIr (lcNote (recordBegun (markCells 0) s.hard) 0x0101 [] (setLc (fun l => { l with phase := 1, rootSel := true }) (lcEnd 0 0 s.b))) } := by
  show execClose s = _
  rw [execClose, onHB_next, hready, if_neg (by decide), if_neg (not_not.mpr herr)]
  rfl

theorem exec_close_fails {s : State} (hready : lcReady s.b = true) (herr : closeErr s.hard s.b ≠ 0) : exec .close s = .next (s.withB (lcEnd (closeErr s.hard s.b) 0 s.b)) := by
  show execClose s = _
  rw [execClose, onHB_next, hready, if_neg (by decide), if_pos herr]
  rfl

theorem exec_reopen_ok {s : State} {t : Bytes} (hrun : lcRuns 0x04 s.b = true) (herr : reopenErr s.hard s.b (some t) = 0) :
    exec (.reopen (some t)) s = .next { s with
      hard := recordBegun (BitVec.ofNat 64 (fieldAt t 16 6 * 256) ||| markCells 0) s.hard
      b := lcNote (recordBegun (BitVec.ofNat 64 (fieldAt t 16 6 * 256) ||| markCells 0) s.hard) 0x0101 []
        (setLc (fun l => { l with phase := 5 }) (lcEnd 0 0 s.b)) } := by
  show execReopen (some t) s = _
  refine (onHB_next _ s).trans ?_
  rw [hrun, if_neg (by decide), if_neg (not_not.mpr herr)]
  rfl

theorem exec_reopen_fails {s : State} {tok : Option Bytes} (hrun : lcRuns 0x04 s.b = true) (herr : reopenErr s.hard s.b tok ≠ 0) :
    exec (.reopen tok) s = .next (s.withB (lcEnd (reopenErr s.hard s.b tok) 0 s.b)) := by
  show execReopen tok s = _
  refine (onHB_next _ s).trans ?_
  rw [hrun, if_neg (by decide), if_pos herr]
  rfl

/-- A token that passes is there. -/
theorem reopenErr_none (h : Hard) (b : Block) : reopenErr h b none ≠ 0 := by
  simp only [reopenErr]
  split_ifs <;> decide

/-- The fuses with the certificate's digest, M2 and M3 burned. -/
def certBurned (d : Digest) (h : Hard) : Hard :=
  { h with fuse := ((h.fuse.burnSlot ((h.fuse.highest 16).getD 0 / 2) d).burn ((h.fuse.highest 16).getD 0) (markCells 2)).burn ((h.fuse.highest 16).getD 0) (markCells 3) }

theorem exec_burnCert_ok {s : State} {c : Option Bytes} (hrun : lcRuns 0x06 s.b = true) (herr : burnCertErr s.hard s.b c = 0) :
    exec (.burnCert c) s = .next { s with
      hard := certBurned (Config.sha384 (c.getD [])) s.hard
      b := lcNote (certBurned (Config.sha384 (c.getD [])) s.hard) 0x0102 [] (setLc (fun l => { l with phase := 3 }) (lcEnd 0 0 s.b)) } := by
  show execBurnCert c s = _
  rw [execBurnCert, onHB_next, hrun, if_neg (by decide), if_neg (not_not.mpr herr)]
  rfl

theorem exec_burnCert_fails {s : State} {c : Option Bytes} (hrun : lcRuns 0x06 s.b = true) (herr : burnCertErr s.hard s.b c ≠ 0) :
    exec (.burnCert c) s = .next (s.withB (lcEnd (burnCertErr s.hard s.b c) 0 s.b)) := by
  show execBurnCert c s = _
  rw [execBurnCert, onHB_next, hrun, if_neg (by decide), if_pos herr]
  rfl

theorem addrBad_eq_false {b : Block} (h : b.lc.addr.toNat % 8 = 0) : addrBad b = false := decide_eq_false (not_not.mpr h)

theorem exec_readId {s : State} (hrun : lcRuns 0x05 s.b = true) (hroot : s.b.lc.rootSel = false ∨ rootPresent s.hard.bat = true) (hlen : s.b.lc.len = 4256) (haddr : s.b.lc.addr.toNat % 8 = 0) (dmaOk : Bool) :
    exec (.readId dmaOk) s = .next (s.withB (if dmaOk = false then lcEnd 0x0A 0 s.b else emit (.dmaWrite s.b.lc.addr (identityKeys (rootPort s.hard s.b.lc.rootSel))) (lcEnd 0 4256 s.b))) := by
  have hpresent : (s.b.lc.rootSel && !rootPresent s.hard.bat) = false := by obtain h | h := hroot <;> rw [h] <;> simp
  have hbad : (s.b.lc.len ≠ 4256 ∨ addrBad s.b = true ∨ dmaOk = false) ↔ dmaOk = false := by rw [addrBad_eq_false haddr, hlen]; simp
  show execReadId dmaOk s = _
  rw [execReadId, onB_next, hrun, if_neg (by decide), hpresent, if_neg Bool.false_ne_true]
  simp only [hbad]

theorem exec_readCert {s : State} (hrun : lcRuns 0x07 s.b = true) (hlen : s.b.lc.cert.length ≤ s.b.lc.len.toNat) (haddr : s.b.lc.addr.toNat % 8 = 0) (dmaOk : Bool) :
    exec (.readCert dmaOk) s = .next (s.withB (if dmaOk = false then lcEnd 0x0A 0 s.b else emit (.dmaWrite s.b.lc.addr s.b.lc.cert) (lcEnd 0 s.b.lc.cert.length s.b))) := by
  have hbad : (s.b.lc.len.toNat < s.b.lc.cert.length ∨ addrBad s.b = true ∨ dmaOk = false) ↔ dmaOk = false := by
    have hnot : ¬ s.b.lc.len.toNat < s.b.lc.cert.length := by omega
    rw [addrBad_eq_false haddr]
    simp [hnot]
  show execReadCert dmaOk s = _
  rw [execReadCert, onB_next, hrun, if_neg (by decide)]
  simp only [hbad]

/-- Settles O11: one lemma per operation, for the checks that pass and for those that fail. -/
theorem rootsIdentityAndCertificate : Obligations.RootsIdentityAndCertificate := by
  refine ⟨fun s hrun hrnd hphase hpart => ?_, fun s m hready => exec_arm hready m, fun s hready herr => ⟨_, exec_close_ok hready herr, rfl, ?_, ?_, ?_⟩,
    fun s hready herr => exec_close_fails hready herr, fun s tok hrun => ⟨fun herr => ?_, fun herr => exec_reopen_fails hrun herr⟩,
    fun s c hrun => ⟨fun herr => ⟨_, _, exec_burnCert_ok hrun herr, ?_, rfl, rfl⟩, fun herr => exec_burnCert_fails hrun herr⟩,
    fun s hrun hroot hlen haddr => ⟨exec_readId hrun hroot hlen haddr true, exec_readId hrun hroot hlen haddr false⟩,
    fun s hrun hlen haddr => ⟨exec_readCert hrun hlen haddr true, exec_readCert hrun hlen haddr false⟩⟩
  · obtain ⟨e, he⟩ := exec_genRoot hrun hrnd hphase hpart
    exact ⟨_, he, rfl, rfl, rfl, rfl, rfl⟩
  · rw [lcNote, note_frame]; rfl
  · rw [lcNote, note_frame]; rfl
  · rw [lcNote, note_frame]; rfl
  · cases tok with
    | none => exact absurd herr (reopenErr_none _ _)
    | some t =>
      refine ⟨_, exec_reopen_ok hrun herr, ?_, rfl⟩
      rw [lcNote, note_lc]; rfl
  · rw [lcNote, note_lc]; rfl

/-! ### Starts of TC -/

/-- R106: a write of the boot register once mask ROM has run. -/
theorem exec_lcBootWrite {s : State} (hup : s.b.up = true) (hrom : s.b.lc.romRun = true) (hboot : s.b.lc.bootState = 0 ∨ s.b.lc.bootState = 3) (v : Word) :
    exec (.lcBootWrite v) s = .next (s.withB (fetchBundle (setLc (fun l => { l with bundle := BitVec.ofNat 52 (wbits v 12 52), bootState := 1, bootErr := 0 }) s.b))) := by
  have hgo : (!s.b.up || !(decide (s.b.lc.bootState = 0) || decide (s.b.lc.bootState = 3))) = false := by obtain h | h := hboot <;> rw [hup, h] <;> rfl
  show execLcBootWrite v s = _
  rw [execLcBootWrite, onHB_next, hgo, if_neg Bool.false_ne_true]
  simp only [setLc, hrom, Bool.not_true, Bool.false_and, Bool.false_eq_true, if_false]
  rfl

theorem fetchBundle_loaded {b : Block} (hloaded : b.clk.loaded = true) (hboot : b.lc.bootState = 1) : fetchBundle b = emit (.dmaRead (BitVec.ofNat 64 (b.lc.bundle.toNat * 4096)) 4194304) b := by
  rw [fetchBundle, hloaded, hboot]; rfl

theorem fetchBundle_unloaded {b : Block} (hloaded : b.clk.loaded = false) : fetchBundle b = b := by rw [fetchBundle, hloaded]; rfl

theorem ite_pair {α β : Type} (c : Prop) [Decidable c] (x y : α) (z : β) : (if c then (x, z) else (y, z)) = (if c then x else y, z) := (apply_ite (·, z) c x y).symm

/-- The lifecycle state with a bundle that passed. -/
def bundleTaken (h : Hard) (d : Bytes) (b : Block) : Block :=
  setLc (fun l => { l with bootState := 2, bootErr := 0, patchHash := Config.sha384 (d.take (64 + fieldAt d 12 4)), cert := certInUse h b d }) b

theorem exec_bootBundleFetched_ok {s : State} {d : Option Bytes} (hup : s.b.up = true) (hloaded : s.b.clk.loaded = true) (hboot : s.b.lc.bootState = 1) (herr : bundleErr s.hard s.b d = 0) :
    ∃ hw, exec (.bootBundleFetched d) s = .next { s with hard := hw, b := bundleTaken s.hard (d.getD []) s.b } := by
  have hgo : (!s.b.up || !s.b.clk.loaded || decide (s.b.lc.bootState ≠ 1)) = false := by rw [hup, hloaded, hboot]; rfl
  apply Exists.intro
  show execBootBundleFetched d s = _
  rw [execBootBundleFetched, onHB_next, hgo, if_neg Bool.false_ne_true, if_neg (not_not.mpr herr)]
  dsimp only
  rw [ite_pair]
  rfl

theorem exec_bootBundleFetched_fails {s : State} {d : Option Bytes} (hup : s.b.up = true) (hloaded : s.b.clk.loaded = true) (hboot : s.b.lc.bootState = 1) (herr : bundleErr s.hard s.b d ≠ 0) :
    exec (.bootBundleFetched d) s = .next (s.withB (bootFail s.hard (bundleErr s.hard s.b d) s.b)) := by
  have hgo : (!s.b.up || !s.b.clk.loaded || decide (s.b.lc.bootState ≠ 1)) = false := by rw [hup, hloaded, hboot]; rfl
  show execBootBundleFetched d s = _
  rw [execBootBundleFetched, onHB_next, hgo, if_neg Bool.false_ne_true, if_pos herr]
  rfl

/-- R106: a start that fails stops in `BOOT_STATE` 3 with its reason. -/
theorem bootFail_lc (h : Hard) (err : Nat) (b : Block) : (bootFail h err b).lc = { b.lc with bootState := 3, bootErr := BitVec.ofNat 8 err } := by
  rw [bootFail, lcNote, note_lc]; rfl

theorem bootFail_rst (h : Hard) (err : Nat) (b : Block) : (bootFail h err b).rst = b.rst := by rw [bootFail, lcNote, note_rst]; rfl

/-! ### Chip resets -/

theorem exec_chipRstRelease_waits {s : State} (hrst : s.b.rst.chipRstN = true) (hlock : s.b.clk.locked = false) (k ts lg : Bool) :
    exec (.chipRstRelease k ts lg) s = .next (s.withB { s.b with rst := { s.b.rst with chipRstN := false }, clk := { s.b.clk with waits := some (k, ts, lg) } }) := by
  show execChipRstRelease k ts lg s = _
  rw [execChipRstRelease, onHB_next, hrst, hlock]
  rfl

theorem exec_chipRstRelease_locked {s : State} (hrst : s.b.rst.chipRstN = true) (hlock : s.b.clk.locked = true) (k ts lg : Bool) :
    exec (.chipRstRelease k ts lg) s = .next { s with hard := (leaveReset s.hard k ts lg s.b).1, b := (leaveReset s.hard k ts lg s.b).2 } := by
  show execChipRstRelease k ts lg s = _
  rw [execChipRstRelease, onHB_next, hrst, hlock]
  rfl

/-- The block as its registers start, before the start of mask ROM. -/
def released (h : Hard) (kind logOk : Bool) (b : Block) : Block :=
  sampleLevels h (if kind && !logOk then logEv h 0x0911 27 none 1 3 [] (emptyLog (startRegs h kind b)) else startRegs h kind b)

theorem leaveReset_eq (h : Hard) (kind testsOk logOk : Bool) (b : Block) :
    leaveReset h kind testsOk logOk b = if testsOk then romStart h (released h kind logOk b) else (h, bootFail h 0 (released h kind logOk b)) := rfl

theorem sendIbi_rst (code : Byte) (b : Block) : (sendIbi code b).rst = b.rst := by unfold sendIbi; split <;> rfl

theorem startRegs_chipRstN (h : Hard) (kind : Bool) (b : Block) : (startRegs h kind b).rst.chipRstN = false := by
  have hlog (b : Block) (code isl : Nat) (args : List (Nat × Nat)) : (setRequest 3 (logEv h code isl none 3 4 args b)).rst = b.rst := logEv_rst ..
  unfold startRegs
  split
  · rfl
  dsimp only
  split
  · rw [sendIbi_rst, hlog]; rfl
  · rfl

theorem sampleLevels_rst (h : Hard) (b : Block) : (sampleLevels h b).rst = b.rst := by
  rw [sampleLevels, setLevel_rst, foldl_keeps Block.rst (fun b k => setLevel_rst ..), foldl_keeps Block.rst (fun b n => setLevel_rst ..)]

theorem released_chipRstN (h : Hard) (kind logOk : Bool) (b : Block) : (released h kind logOk b).rst.chipRstN = false := by
  rw [released, sampleLevels_rst]
  split
  · rw [logEv_rst]; exact startRegs_chipRstN h kind b
  · exact startRegs_chipRstN h kind b

theorem lcNote_lc (h : Hard) (code : Nat) (extra : List (Nat × Nat)) (b : Block) : (lcNote h code extra b).lc = b.lc := note_lc ..
theorem lcNote_rst (h : Hard) (code : Nat) (extra : List (Nat × Nat)) (b : Block) : (lcNote h code extra b).rst = b.rst := note_rst ..

theorem writeKatKeys_lc (b : Block) : (writeKatKeys b).lc = b.lc := by
  unfold writeKatKeys
  refine foldl_keeps Block.lc (fun _ _ => ?_) _ b
  rfl
theorem writeIdentity_lc (h : Hard) (sel : Bool) (b : Block) : (writeIdentity h sel b).lc = b.lc := rfl

/-- The notes of a start that ends an interrupted transition, R99. -/
def resumeNotes (h : Hard) (r : Resume) (b : Block) : Block :=
  let b := if r.stalled then lcNote h 0x0104 [] b else b
  let b := match r.from' with | some m => lcNote h 0x0103 [aByte m] b | none => b
  let b := if r.burnt3 then lcNote h 0x0102 [] b else b
  if r.phase = 4 ∧ rootPresent r.bat = false then lcNote h 0x0105 [] b else b

/-- The notes of a start change neither the lifecycle registers nor the ladder. -/
theorem resumeNotes_lc_rst (h : Hard) (r : Resume) (b : Block) : (resumeNotes h r b).lc = b.lc ∧ (resumeNotes h r b).rst = b.rst := by
  have hif {p : Prop} [Decidable p] {code : Nat} {extra : List (Nat × Nat)} {c : Block} (hc : c.lc = b.lc ∧ c.rst = b.rst) :
      (if p then lcNote h code extra c else c).lc = b.lc ∧ (if p then lcNote h code extra c else c).rst = b.rst := by
    split
    · exact ⟨(lcNote_lc ..).trans hc.1, (lcNote_rst ..).trans hc.2⟩
    · exact hc
  have hfrom {c : Block} (hc : c.lc = b.lc ∧ c.rst = b.rst) :
      (match r.from' with | some m => lcNote h 0x0103 [aByte m] c | none => c).lc = b.lc ∧ (match r.from' with | some m => lcNote h 0x0103 [aByte m] c | none => c).rst = b.rst := by
    split
    · exact ⟨(lcNote_lc ..).trans hc.1, (lcNote_rst ..).trans hc.2⟩
    · exact hc
  exact hif (hif (hfrom (hif ⟨rfl, rfl⟩)))

/-- The hardware as mask ROM leaves it. -/
def resumedHard (h : Hard) (r : Resume) : Hard := { h with fuse := r.fuse, bat := r.bat }

/-- The block as mask ROM leaves it, before it writes the first keys. -/
def resumed (h : Hard) (r : Resume) (b : Block) : Block :=
  let b := setLc (fun l => { l with phase := BitVec.ofNat 4 r.phase, rootSel := rootSelOf r.fuse r.phase, romRun := true }) b
  resumeNotes (resumedHard h r) r (if r.phase = 0 then b else dropOpenIr b)

theorem resumed_lc (h : Hard) (r : Resume) (b : Block) : (resumed h r b).lc = { b.lc with phase := BitVec.ofNat 4 r.phase, rootSel := rootSelOf r.fuse r.phase, romRun := true } := by
  unfold resumed
  dsimp only
  rw [(resumeNotes_lc_rst ..).1]
  split <;> rfl

theorem resumed_rst (h : Hard) (r : Resume) (b : Block) : (resumed h r b).rst = b.rst := by
  unfold resumed
  dsimp only
  rw [(resumeNotes_lc_rst ..).2]
  split <;> rfl

theorem romStart_eq (h : Hard) (b : Block) : (romStart h b).2 =
    if rootSelOf (resume h.fuse h.bat).fuse (resume h.fuse h.bat).phase && !rootPresent (resume h.fuse h.bat).bat then writeKatKeys (resumed h (resume h.fuse h.bat) b)
    else writeIdentity (resumedHard h (resume h.fuse h.bat)) (rootSelOf (resume h.fuse h.bat).fuse (resume h.fuse h.bat).phase) (writeKatKeys (resumed h (resume h.fuse h.bat) b)) := rfl

/-- R98: mask ROM has run, in the phase that the records resume. -/
theorem romStart_lc_eq (h : Hard) (b : Block) : (romStart h b).2.lc =
    { b.lc with phase := BitVec.ofNat 4 (resume h.fuse h.bat).phase, rootSel := rootSelOf (resume h.fuse h.bat).fuse (resume h.fuse h.bat).phase, romRun := true } := by
  rw [romStart_eq]
  split
  · rw [writeKatKeys_lc, resumed_lc]
  · rw [writeIdentity_lc, writeKatKeys_lc, resumed_lc]

theorem romStart_rst (h : Hard) (b : Block) : (romStart h b).2.rst = b.rst := by
  rw [romStart_eq]
  split
  · rw [writeKatKeys_rst, resumed_rst]
  · rw [writeIdentity_rst, writeKatKeys_rst, resumed_rst]

theorem romStart_lc (h : Hard) (b : Block) : (romStart h b).2.lc.romRun = true ∧ (romStart h b).2.lc.phase = BitVec.ofNat 4 (resume h.fuse h.bat).phase := by
  rw [romStart_lc_eq]; exact ⟨rfl, rfl⟩

/-! ### The end of a Clamp -/

/-- The block with what a Clamp keeps of the key store (R371). -/
def clampKept (b : Block) : Block :=
  modRst (fun r => { r with running := [] }) (cutSamples { b with ks := { b.ks with slots := Tab.keep b.ks.slots fun n _ => decide (n < 16), repls := [], invals := [] } })

theorem exec_clampEnd {s : State} (hup : s.b.up = true) (hhalt : s.b.rst.halted = true) :
    exec .clampEnd s = .next (s.withB (assertChipReq (takeChip s.hard (if s.b.clk.lost then chipByTimebase else chipByClamp) 0xFF none (clampKept s.b)))) := by
  show execClampEnd s = _
  rw [execClampEnd, onB_up _ hup, hhalt]
  rfl

theorem exec_haltAck {s : State} (hup : s.b.up = true) (hhalt : s.b.rst.halted = true) : exec .haltAck s = .next (s.withB (logEv s.hard 0x090F 27 none 1 1 [] s.b)) := by
  show execHaltAck s = _
  rw [execHaltAck, onB_up _ hup, hhalt]
  rfl

theorem assertChipReq_ks (b : Block) : (assertChipReq b).ks = b.ks := rfl

/-- Settles O12: one lemma per command, and what mask ROM does to the lifecycle registers. -/
theorem startsResetsAndTheClampEnd : Obligations.StartsResetsAndTheClampEnd := by
  refine ⟨fun s v hup hrom hboot => ⟨fun hloaded => ?_, fun hloaded => ?_⟩, fun s d hup hloaded hboot => ⟨fun herr => ?_, fun herr => ⟨_, exec_bootBundleFetched_fails hup hloaded hboot herr, ?_, ?_, rfl⟩⟩,
    fun s => ⟨_, rfl, rfl, rfl, rfl, rfl, rfl, rfl, rfl, rfl, rfl⟩, fun s k ts lg hrst hlock => exec_chipRstRelease_waits hrst hlock k ts lg,
    fun s k lg hrst hlock => ⟨⟨_, exec_chipRstRelease_locked hrst hlock k true lg, ?_, ?_⟩, ⟨_, exec_chipRstRelease_locked hrst hlock k false lg, ?_, ?_, ?_, rfl⟩⟩,
    fun s hup hhalt => exec_haltAck hup hhalt, fun s hup hhalt => ⟨_, exec_clampEnd hup hhalt, rfl, ?_⟩⟩
  · have hbundle : (BitVec.ofNat 52 (wbits v 12 52)).toNat = wbits v 12 52 := by rw [BitVec.toNat_ofNat, Nat.mod_eq_of_lt (wbits_lt ..)]
    have hnamed : (setLc (fun l => { l with bundle := BitVec.ofNat 52 (wbits v 12 52), bootState := 1, bootErr := 0 }) s.b).lc.bundle = BitVec.ofNat 52 (wbits v 12 52) := rfl
    rw [exec_lcBootWrite hup hrom hboot, fetchBundle_loaded (by exact hloaded) rfl, hnamed, hbundle]
    rfl
  · rw [exec_lcBootWrite hup hrom hboot, fetchBundle_unloaded (by exact hloaded)]
    rfl
  · obtain ⟨hw, he⟩ := exec_bootBundleFetched_ok hup hloaded hboot herr
    exact ⟨_, he, rfl, rfl, rfl, rfl⟩
  · dsimp only [State.withB]; rw [bootFail_lc]
  · dsimp only [State.withB]; rw [bootFail_lc]
  · rw [leaveReset_eq, if_pos rfl, romStart_rst, released_chipRstN]
  · rw [leaveReset_eq, if_pos rfl]; exact romStart_lc ..
  · rw [leaveReset_eq, if_neg Bool.false_ne_true, bootFail_rst, released_chipRstN]
  · rw [leaveReset_eq, if_neg Bool.false_ne_true, bootFail_lc]
  · rw [leaveReset_eq, if_neg Bool.false_ne_true, bootFail_lc]; rfl
  · rw [assertChipReq_ks, takeChip_ks]; rfl

/-! ### The test access port -/

theorem idcode_toNat : idcode.toNat = Config.siliconRev.toNat * 268435456 + 23063 * 4096 + Config.manufacturer.toNat * 2 + 1 := by
  have hsum (r m : Nat) (hr : r < 16) (hm : m < 2048) : (BitVec.ofNat 32 (r * 2 ^ 28 + 0x5A17 * 2 ^ 12 + m * 2 + 1)).toNat = r * 268435456 + 23063 * 4096 + m * 2 + 1 := by
    rw [BitVec.toNat_ofNat]; omega
  exact hsum _ _ Config.siliconRev.isLt Config.manufacturer.isLt

/-- A field of a word whose value is a sum. -/
theorem extractLsb'_eq_of_div {v : BitVec 32} {lo w : Nat} {x : BitVec w} (h : v.toNat / 2 ^ lo % 2 ^ w = x.toNat) : v.extractLsb' lo w = x := by
  apply BitVec.eq_of_toNat_eq
  rw [BitVec.extractLsb'_toNat, Nat.shiftRight_eq_div_pow, h]

theorem idcode_part : idcode.extractLsb' 12 16 = 0x5A17 := by
  refine extractLsb'_eq_of_div ?_
  have hr := Config.siliconRev.isLt
  have hm := Config.manufacturer.isLt
  rw [idcode_toNat]
  generalize Config.siliconRev.toNat = r at hr
  generalize Config.manufacturer.toNat = m at hm
  show _ = 23063
  omega

theorem idcode_revision : idcode.extractLsb' 28 4 = Config.siliconRev := by
  refine extractLsb'_eq_of_div ?_
  have hr := Config.siliconRev.isLt
  have hm := Config.manufacturer.isLt
  rw [idcode_toNat]
  omega

theorem idcode_manufacturer : idcode.extractLsb' 1 11 = Config.manufacturer := by
  refine extractLsb'_eq_of_div ?_
  have hr := Config.siliconRev.isLt
  have hm := Config.manufacturer.isLt
  rw [idcode_toNat]
  omega

theorem idcode_marker : idcode.getLsbD 0 = true := by
  rw [BitVec.getLsbD, idcode_toNat, Nat.testBit_zero, decide_eq_true_eq]
  omega

section openChip
variable {s : State} (hopen : s.hard.fuse.open' = true)
include hopen

theorem openIr_open (c : Byte) (b : Block) : openIr s.hard c b = setIr c b := by rw [openIr, hopen]; rfl

theorem exec_jtagIntScan_open : exec .jtagIntScan s = .next (s.withB (shiftOpen (setIr 0x10 s.b))) := by
  show execJtagIntScan s = _
  rw [execJtagIntScan, onB_next, openIr_open hopen, hopen]; rfl

theorem exec_jtagTcDbg_open (op : TcDbg) : exec (.jtagTcDbg op) s = .next (s.withB (tcDebug op (setIr 0x11 s.b))) := by
  show execJtagTcDbg op s = _
  rw [execJtagTcDbg, onB_next, openIr_open hopen, hopen]; rfl

theorem exec_jtagClkCtl_open (off : Bool) : exec (.jtagClkCtl off) s = .next (s.withB { setIr 0x12 s.b with clk := { s.b.clk with spreadOff := off } }) := by
  show execJtagClkCtl off s = _
  rw [execJtagClkCtl, onB_next, openIr_open hopen, hopen]; rfl

theorem exec_jtagFuseRead_open : exec .jtagFuseRead s = .next (s.withB (emit (.jtag (fuseBytes s.hard.fuse)) (setIr 0x13 s.b))) := by
  show execJtagFuseRead s = _
  rw [execJtagFuseRead, onB_next, openIr_open hopen, hopen]; rfl

end openChip

/-- R103: on a chip that is not Open those instructions select `BYPASS` alone. -/
theorem exec_openInstr_closed {s : State} (hclosed : s.hard.fuse.open' = false) {c : Instr} (hc : c = .jtagIntScan ∨ (∃ op, c = .jtagTcDbg op) ∨ c = .jtagFuseRead ∨ ∃ off, c = .jtagClkCtl off) :
    exec c s = .next (s.withB (setIr 0xFF s.b)) := by
  have hir (x : Byte) : openIr s.hard x s.b = setIr 0xFF s.b := by rw [openIr, hclosed]; rfl
  obtain rfl | ⟨op, rfl⟩ | rfl | ⟨off, rfl⟩ := hc
  · show execJtagIntScan s = _
    rw [execJtagIntScan, onB_next, hir, hclosed]; rfl
  · show execJtagTcDbg op s = _
    rw [execJtagTcDbg, onB_next, hir, hclosed]; rfl
  · show execJtagFuseRead s = _
    rw [execJtagFuseRead, onB_next, hir, hclosed]; rfl
  · show execJtagClkCtl off s = _
    rw [execJtagClkCtl, onB_next, hir, hclosed]; rfl

/-- Settles O13: the selection by each instruction, on an Open chip and on another. -/
theorem testAccessPort : Obligations.TestAccessPort :=
  ⟨fun _ => ⟨rfl, rfl, idcode, rfl, idcode_part, idcode_revision, idcode_manufacturer, idcode_marker⟩, fun _ _ => rfl,
   fun _ hopen => ⟨exec_jtagIntScan_open hopen, exec_jtagTcDbg_open hopen .halt, exec_jtagTcDbg_open hopen .resume, exec_jtagTcDbg_open hopen .step,
     fun a => exec_jtagTcDbg_open hopen (.memRead a), fun a v => exec_jtagTcDbg_open hopen (.memWrite a v), fun off => exec_jtagClkCtl_open hopen off, exec_jtagFuseRead_open hopen⟩,
   fun _ _ hclosed hc => exec_openInstr_closed hclosed hc⟩

end Sys2Proof.Machine
end

section
/-! Interrupt sources, the reading of the log, and random values (R185, R361, R362, R388). -/

namespace Sys2Proof.Machine

/-! ### Delivery -/

theorem exec_interruptDelivery {s : State} {k x : Nat} {src : Src} (hup : s.b.up = true) (hnext : s.b.nextOwner s.b.ic.turn 9 = some (k, x, src)) :
    exec .interruptDelivery s = .next (s.withB (deliverSrc x src { s.b with ic := { s.b.ic with turn := (k + 1) % 9 } })) := by
  show execInterruptDelivery s = _
  rw [execInterruptDelivery, onB_up _ hup, hnext]

section machine
variable {src : Src}

theorem fired_inactive (h : src.state = 0) (pap level : Bool) : (src.fired pap level).state = 1 := by rw [Src.fired, if_pos h]

theorem fired_pending (h : src.state = 1) (pap level : Bool) : src.fired pap level = src := by
  rw [Src.fired, if_neg (by rw [h]; decide), if_neg (by rw [h]; decide)]

theorem fired_active (h : src.state = 2) (pap level : Bool) : src.fired pap level = if pap then { src with state := 3 } else if level then src else { src with cond := true } := by
  rw [Src.fired, if_neg (by rw [h]; decide), if_pos h]

theorem completed_pap (src : Src) : src.completed true = if src.state = 3 then { src with state := 1, requeued := true } else { src with state := 0 } := rfl
theorem completed_line (src : Src) : src.completed false = if src.cond then { src with state := 1 } else { src with state := 0 } := rfl

end machine

/-- Settles O14: the delivery, and the state machine by the state of the source. -/
theorem sourcesAreDeliveredAndFire : Obligations.SourcesAreDeliveredAndFire := by
  refine ⟨fun s k x src hup hnext => ⟨_, exec_interruptDelivery hup hnext, rfl, rfl, rfl, rfl⟩, fun src pap level h => fired_inactive h pap level, fun src pap level h => fired_pending h pap level,
    fun src level h => ⟨?_, ?_⟩, fun src h => ?_, fun src h => ?_, fun src => ?_, fun src h => ?_⟩
  · rw [fired_active h]; rfl
  · rw [fired_active h]
    cases level
    · exact h
    · exact h
  · rw [completed_pap, if_neg (by rw [h]; decide)]
  · rw [completed_pap, if_pos h]; exact ⟨rfl, rfl⟩
  · rw [completed_line]; split <;> rfl
  · rw [fired_active h]; rfl

/-! ### The log -/

theorem exec_logDataRead {s : State} (hup : s.b.up = true) (hboot : s.b.lc.bootState = 2) (o : Owner) :
    exec (.logDataRead o) s = .next (s.withB (emit (.regRead (s.b.logWord (ownerKey o) 3)) (logAdvance (ownerKey o) s.b))) := by
  show execLogDataRead o s = _
  rw [execLogDataRead, onB_next, whenPages_on _ hup hboot]

theorem modLogPage_logPage (v : Nat) (f : LogPage → LogPage) (b : Block) : (modLogPage v f b).logPage v = f (b.logPage v) := Tab.getD_upd_same ..

/-- Settles O16: the read emits the word and moves the page on. -/
theorem logDataReadAdvances : Obligations.LogDataReadAdvances := by
  intro s o hup hboot
  have hpage : (logAdvance (ownerKey o) s.b).logPage (ownerKey o) =
      { s.b.logPage (ownerKey o) with rd := (s.b.logPage (ownerKey o)).rd + 1, gone := (s.b.logPage (ownerKey o)).gone || (s.b.logEntry (ownerKey o) (s.b.logPage (ownerKey o)).rd.toNat).isNone } :=
    modLogPage_logPage ..
  refine ⟨_, exec_logDataRead hup hboot o, rfl, congrArg LogPage.rd hpage, congrArg LogPage.gone hpage, fun hnone => ?_, rfl, rfl⟩
  rw [Block.logWord, hnone]

/-! ### Random values -/

section random
variable {s : State}

theorem exec_drbgReseed (hup : s.b.up = true) (hgens : 2 ^ 20 ≤ s.b.ent.gens) (hheld : s.b.ent.withheld = false) : exec .drbgReseed s = .next (s.withB { s.b with ent := { s.b.ent with gens := 0 } }) := by
  have hstay : ¬ (s.b.ent.gens < 2 ^ 20 ∨ s.b.ent.withheld = true) := by rw [hheld]; simpa using hgens
  show execDrbgReseed s = _
  rw [execDrbgReseed, onB_up _ hup, if_neg hstay]

theorem exec_entropyHealthFail (hup : s.b.up = true) : exec .entropyHealthFail s = .next (s.withB { s.b with ent := { s.b.ent with withheld := true } }) := by
  show execEntropyHealthFail s = _
  rw [execEntropyHealthFail, onB_up _ hup]

theorem exec_entropySourceRecovered (hup : s.b.up = true) : exec .entropySourceRecovered s = .next (s.withB { s.b with ent := { s.b.ent with withheld := false } }) := by
  show execEntropySourceRecovered s = _
  rw [execEntropySourceRecovered, onB_up _ hup]

/-- R185: the one command that has waited more than a second ends. -/
theorem exec_entropyWaitTimeout {p : Part} {ctx : CmdCtx} {t : Word} (hlive : s.b.live = true) (hwait : s.b.ent.waiting = [(ctx, p, t)]) (hlate : t.toNat + 1000000000 < s.b.clk.tick.toNat) :
    exec (.entropyWaitTimeout p) s = .next (s.withB (logEv s.hard 0x0910 27 (some p) 0 2 [] (complete s.hard ctx 0x01 0 0 0 s.b))) := by
  have hdue : (decide (p = p) && decide (1000000000 < since s.b t)) = true := by
    have hsince : 1000000000 < since s.b t := by rw [since]; omega
    rw [decide_eq_true hsince, decide_eq_true rfl]; rfl
  show execEntropyWaitTimeout p s = _
  rw [execEntropyWaitTimeout, onB_next, whenLive_live _ hlive, hwait, List.filter_cons, if_pos hdue]
  rfl

end random

/-- Settles O20: one lemma per command. -/
theorem randomValuesAreTested : Obligations.RandomValuesAreTested :=
  ⟨fun _ hup hgens hheld => exec_drbgReseed hup hgens hheld, fun _ hup => exec_entropyHealthFail hup, fun _ hup => exec_entropySourceRecovered hup,
   fun _ _ _ _ hlive hwait hlate => exec_entropyWaitTimeout hlive hwait hlate⟩

end Sys2Proof.Machine
end

section
/-! Grids, cipher requests and the windows of the cores (R120, R175 to R181). -/

namespace Sys2Proof.Machine

/-! ### An island's state -/

/-- An update that agrees on the island's state is the same update. -/
theorem modIsland_congr {i : Island} {f g : IslandSt → IslandSt} {b : Block} (h : f (b.island i) = g (b.island i)) : modIsland i f b = modIsland i g b :=
  congrArg (fun v => { b with islands := Tab.set b.islands (islandCode i) v }) h

theorem emits_nil (b : Block) : emits [] b = b := rfl

/-! ### The switch of a grid -/

/-- R29: with every queued request's partition running, the switch changes the grid alone. -/
theorem exec_gridSwitch {s : State} {isl : Island} {x : NextGrid} {rest : List NextGrid} (hlive : s.b.live = true) (hnext : (s.b.island isl).grid.next = x :: rest)
    (hcol : (s.b.island isl).grid.column = 0) (hdue : x.due.toNat ≤ s.b.clk.tick.toNat)
    (hruns : ∀ q ∈ (s.b.island isl).reqs, (s.b.jigOf q.req.part).isSome = true ∧ (s.b.part q.req.part).state ≠ 3) (hheld : (s.b.island isl).held = []) :
    exec (.gridSwitch isl) s = .next (s.withB (modIsland isl (fun st => { st with grid := { st.grid with basis := x.basis, cells := x.cells, gen := st.grid.gen + 1, next := rest, foreign := [] } }) s.b)) := by
  have hstay : ¬ ((s.b.island isl).grid.column ≠ 0 ∨ s.b.now.toNat < x.due.toNat) := not_or.mpr ⟨not_not.mpr hcol, Nat.not_lt.mpr hdue⟩
  have hgone : ∀ q ∈ (s.b.island isl).reqs, ((s.b.jigOf q.req.part).isNone || decide ((s.b.part q.req.part).state = 3)) = false := fun q hq => by
    obtain ⟨hjig, hstate⟩ := hruns q hq
    rw [← Option.not_isSome, hjig, decide_eq_false hstate]; rfl
  have hkeep : (s.b.island isl).reqs.filter (fun q => !((s.b.jigOf q.req.part).isNone || decide ((s.b.part q.req.part).state = 3))) = (s.b.island isl).reqs :=
    List.filter_eq_self.mpr fun q hq => by rw [hgone q hq]; rfl
  have hdone : (((s.b.island isl).reqs.map fun q => q.req) ++ (s.b.island isl).held).filterMap
      (fun q => if ((s.b.jigOf q.part).isNone || decide ((s.b.part q.part).state = 3)) then some (Out.cipherDone isl q.part q.ret stAborted) else none) = [] := by
    rw [hheld, List.append_nil, List.filterMap_eq_nil_iff]
    intro r hr
    obtain ⟨q, hq, rfl⟩ := List.mem_map.mp hr
    rw [hgone q hq]; rfl
  show execGridSwitch isl s = _
  rw [execGridSwitch, onB_next, whenLive_live _ hlive]
  simp only [hnext, if_neg hstay]
  rw [hdone, emits_nil]
  refine congrArg (fun b => Host.Outcome.next (s.withB b)) (modIsland_congr ?_)
  rw [hkeep, hheld]
  rfl

/-! ### Requests -/

section splitting

theorem splitReq_small {r : CipherReq} (h : r.groups ≤ 64) (n : Nat) : splitReq (n + 1) r = [r] := by rw [splitReq, if_pos h]

theorem splitReq_large {r : CipherReq} (h : 64 < r.groups) (n : Nat) :
    splitReq (n + 1) r = { r with groups := 64, tag := false } :: splitReq n { r with groups := r.groups - 64, ctr := ctrAdd r.ctr 256 } := by
  rw [splitReq, if_neg (by omega)]

/-- R177: the parts of a request are its work. -/
theorem splitReq_sum {n : Nat} {r : CipherReq} (hpos : 1 ≤ r.groups) (hfit : r.groups ≤ 64 * n) : ((splitReq n r).map fun x => x.groups).sum = r.groups := by
  induction n generalizing r with
  | zero => omega
  | succ n ih =>
    by_cases h : r.groups ≤ 64
    · rw [splitReq_small h]; rfl
    · have hrest : ((splitReq n { r with groups := r.groups - 64, ctr := ctrAdd r.ctr 256 }).map fun x => x.groups).sum = r.groups - 64 := ih (by dsimp only; omega) (by dsimp only; omega)
      rw [splitReq_large (by omega), List.map_cons, List.sum_cons, hrest]
      dsimp only
      omega

theorem splitReq_parts (n : Nat) (r : CipherReq) : ∀ x ∈ splitReq n r, x.groups ≤ 64 ∧ x.slot = r.slot ∧ x.part = r.part := by
  induction n generalizing r with
  | zero => intro x hx; cases hx
  | succ n ih =>
    intro x hx
    by_cases h : r.groups ≤ 64
    · rw [splitReq_small h] at hx
      obtain rfl := List.mem_singleton.mp hx
      exact ⟨h, rfl, rfl⟩
    · rw [splitReq_large (by omega)] at hx
      obtain rfl | hx := List.mem_cons.mp hx
      · exact ⟨Nat.le_refl _, rfl, rfl⟩
      · exact ih { r with groups := r.groups - 64, ctr := ctrAdd r.ctr 256 } x hx

end splitting

section request
variable {s : State} {isl : Island} {req : CipherReq} {j : Jig} (hlive : s.b.live = true) (hisl : islandPresent s.hard.cfg isl = true) (hawake : (s.b.island isl).asleep = false)
  (hrst : (s.b.island isl).inReset = false) (hjig : s.b.jigOf req.part = some j) (hshare : j.share isl ≠ 0) (hgroups : 1 ≤ req.groups)
include hlive hisl hawake hrst hjig hshare hgroups

/-- R120: a request names a value that is gone. -/
theorem exec_cipherRequest_dead (hgen : s.b.genLive req.slot req.gen = false) : exec (.cipherRequest isl req) s = .next (s.withB (emit (.cipherDone isl req.part req.ret stKeyOrphaned) s.b)) := by
  have hzero : decide (req.groups = 0) = false := decide_eq_false (by omega)
  show execCipherRequest isl req s = _
  rw [execCipherRequest, onB_next, whenLive_live _ hlive]
  simp only [hisl, hawake, hrst, hjig, decide_eq_false hshare, hzero, hgen, Bool.not_true, Bool.not_false, Bool.or_self, Bool.false_eq_true, if_false, if_true]

variable (hgen : s.b.genLive req.slot req.gen = true) (huse : (s.b.slot req.slot.toNat).attr.uses.getLsbD (useBit req.use) = true) (henc : req.use.getLsbD 0 = false)
include hgen huse henc

/-- R175: a request whose use its key allows is queued in its parts. -/
theorem exec_cipherRequest_queued : exec (.cipherRequest isl req) s = .next (s.withB ((splitReq (req.groups / 64 + 1) req).foldl (fun b r => enqueue isl r b) s.b)) := by
  have hzero : decide (req.groups = 0) = false := decide_eq_false (by omega)
  show execCipherRequest isl req s = _
  rw [execCipherRequest, onB_next, whenLive_live _ hlive]
  simp only [hisl, hawake, hrst, hjig, decide_eq_false hshare, hzero, hgen, huse, henc, Bool.not_true, Bool.or_self, Bool.false_and, Bool.false_eq_true, if_false]

theorem exec_cipherRequest_one (hone : req.groups ≤ 64) : exec (.cipherRequest isl req) s = .next (s.withB (enqueue isl req s.b)) := by
  rw [exec_cipherRequest_queued hlive hisl hawake hrst hjig hshare hgroups hgen huse henc, splitReq_small hone]
  rfl

end request

theorem enqueue_room {isl : Island} {r : CipherReq} {b : Block} (hheld : ((b.island isl).held.any fun q => decide (q.part = r.part)) = false)
    (hroom : ((b.island isl).reqs.filter fun q => decide (q.req.part = r.part)).length < 32) :
    enqueue isl r b = modIsland isl (fun st => { st with reqs := st.reqs ++ [{ req := r, issued := 0 }] }) b := by
  refine modIsland_congr ?_
  rw [if_neg]
  rw [hheld]
  simpa using hroom

theorem enqueue_full {isl : Island} {r : CipherReq} {b : Block} (hfull : 32 ≤ ((b.island isl).reqs.filter fun q => decide (q.req.part = r.part)).length) :
    enqueue isl r b = modIsland isl (fun st => { st with held := st.held ++ [r] }) b :=
  modIsland_congr (if_pos (Or.inl hfull))

/-! ### The windows of a column -/

theorem nextReq_part {st : IslandSt} {p : Nat} {rs : List QReq} {q : QReq} (h : nextReq st p rs = some q) : q.req.part.val = p := by
  unfold nextReq at h
  dsimp only at h
  split at h
  · next x hx => obtain rfl := Option.some.inj h; have := List.find?_some hx; grind
  · split at h
    · next x hx => obtain rfl := Option.some.inj h; have := List.find?_some hx; grind
    · have := List.find?_some h; grind

/-- R179: what a partition issues is its own, in the cells it is given. -/
theorem issuePart_own (st : IslandSt) (p fuel : Nat) (cells : List (Nat × Nat)) (rs : List QReq) :
    ∀ y ∈ (issuePart st p fuel cells rs).2, y.1 ∈ cells.map Prod.fst ∧ y.2.1.part.val = p := by
  induction fuel generalizing cells rs with
  | zero => intro y hy; cases hy
  | succ fuel ih =>
    intro y hy
    unfold issuePart at hy
    split at hy
    · cases hy
    · next q hq =>
      dsimp only at hy
      split at hy
      · cases hy
      · next k room hfind =>
        obtain rfl | hy := List.mem_cons.mp hy
        · exact ⟨List.mem_map.mpr ⟨(k, room), List.mem_of_find?_eq_some hfind, rfl⟩, nextReq_part hq⟩
        · obtain ⟨hcell, hpart⟩ := ih _ _ y hy
          refine ⟨?_, hpart⟩
          rw [List.map_map] at hcell
          convert hcell using 2
          funext c
          simp only [Function.comp]
          split
          · next h => exact h
          · rfl

theorem groupsOf_own (st : IslandSt) (x : Nat × CipherReq × Nat × Nat) : ∀ g ∈ groupsOf st x, g.core = x.1 ∧ g.part = some x.2.1.part := by
  intro g hg
  unfold groupsOf at hg
  dsimp only at hg
  obtain hg | hg := List.mem_append.mp hg
  · obtain ⟨i, _, rfl⟩ := List.mem_map.mp hg
    exact ⟨rfl, rfl⟩
  · split at hg
    · obtain rfl := List.mem_singleton.mp hg
      exact ⟨rfl, rfl⟩
    · cases hg

/-- The groups of a run stand in cells of their own partition, and nothing waits. -/
def ColumnRun.own (c : Cfg) (isl : Island) (st : IslandSt) (r : ColumnRun) : Prop :=
  r.wait = [] ∧ r.moved = [] ∧ ∀ g ∈ r.groups, ∃ p : Part, g.part = some p ∧ cellOwner st.grid.cells (columnsOf c isl) g.core st.grid.column = p.val

theorem runPart_own {c : Cfg} {isl : Island} {st : IslandSt} {r : ColumnRun} (h : r.own c isl st) (p : Nat) : (runPart c isl st r p).own c isl st := by
  obtain ⟨hwait, hmoved, hown⟩ := h
  unfold runPart
  dsimp only
  split
  · exact ⟨hwait, hmoved, hown⟩
  · next k0 ks hcells =>
    refine ⟨by rw [hwait]; rfl, by rw [hmoved]; rfl, fun g hg => ?_⟩
    simp only [hwait, hmoved, List.filter_nil, List.append_nil, List.take_nil, List.map_nil] at hg
    obtain hg | hg := List.mem_append.mp hg
    · exact hown g hg
    · obtain ⟨y, hy, hg⟩ := List.mem_flatMap.mp hg
      obtain ⟨hcore, hpart⟩ := groupsOf_own st y g hg
      obtain ⟨hcell, hp⟩ := issuePart_own _ _ _ _ _ y hy
      have hmem : y.1 ∈ k0 :: ks := by simpa [List.map_map, Function.comp] using hcell
      have howner : cellOwner st.grid.cells (columnsOf c isl) y.1 st.grid.column = p := by
        rw [← hcells] at hmem
        simpa using (List.mem_filter.mp hmem).2
      exact ⟨y.2.1.part, hpart, by rw [hcore, howner, hp]⟩

theorem foldl_runPart_own {c : Cfg} {isl : Island} {st : IslandSt} (ps : List Nat) {r : ColumnRun} (h : r.own c isl st) : (ps.foldl (runPart c isl st) r).own c isl st := by
  induction ps generalizing r with
  | nil => exact h
  | cons p ps ih => exact ih (runPart_own h p)

theorem dropKilled_alive {isl : Island} {b : Block} (halive : ∀ q ∈ (b.island isl).reqs, b.genLive q.req.slot q.req.gen = true) (hheld : (b.island isl).held = []) :
    dropKilled isl b = modIsland isl id b := by
  have hkeep : (b.island isl).reqs.filter (fun q => !!b.genLive q.req.slot q.req.gen) = (b.island isl).reqs := List.filter_eq_self.mpr fun q hq => by rw [halive q hq]; rfl
  have hdone : (((b.island isl).reqs.map fun q => q.req) ++ (b.island isl).held).filterMap
      (fun r => if !b.genLive r.slot r.gen then some (Out.cipherDone isl r.part r.ret stKeyOrphaned) else none) = [] := by
    rw [hheld, List.append_nil, List.filterMap_eq_nil_iff]
    intro r hr
    obtain ⟨q, hq, rfl⟩ := List.mem_map.mp hr
    rw [halive q hq]; rfl
  unfold dropKilled
  dsimp only
  rw [hdone, emits_nil]
  refine modIsland_congr ?_
  rw [hkeep, hheld, List.filter_nil, ← hheld]
  rfl

theorem admitHeld_none {isl : Island} {b : Block} (hheld : (b.island isl).held = []) : admitHeld isl b = modIsland isl id b := by
  rw [admitHeld, hheld, List.foldl_nil]
  refine modIsland_congr ?_
  rw [← hheld]
  rfl

theorem modIsland_id_island (i : Island) (b : Block) : (modIsland i id b).island i = b.island i := modIsland_island ..

theorem admitHeld_dropKilled {isl : Island} {b : Block} (halive : ∀ q ∈ (b.island isl).reqs, b.genLive q.req.slot q.req.gen = true) (hheld : (b.island isl).held = []) :
    admitHeld isl (dropKilled isl b) = modIsland isl id (modIsland isl id b) := by
  rw [dropKilled_alive halive hheld, admitHeld_none (by rw [modIsland_id_island, hheld])]

/-- What a column takes when nothing has waited for it. -/
def columnRun (c : Cfg) (isl : Island) (st : IslandSt) : ColumnRun := (List.range 8).foldl (runPart c isl st) { reqs := st.reqs, groups := [], issued := [], wait := [], moved := [] }

theorem columnRun_own (c : Cfg) (isl : Island) (st : IslandSt) : (columnRun c isl st).own c isl st := foldl_runPart_own _ ⟨rfl, rfl, fun _ hg => nomatch hg⟩

/-- R176: the next column starts with what its partitions issue. -/
theorem exec_coreWindowStart {s : State} {isl : Island} (hlive : s.b.live = true) (hcores : coresOf s.hard.cfg isl ≠ 0) (hisl : islandPresent s.hard.cfg isl = true) (hawake : (s.b.island isl).asleep = false)
    (hrst : (s.b.island isl).inReset = false) (halive : ∀ q ∈ (s.b.island isl).reqs, s.b.genLive q.req.slot q.req.gen = true) (hheld : (s.b.island isl).held = [])
    (hwait : (s.b.island isl).grid.waiting = []) (hmoved : (s.b.island isl).grid.moved = []) :
    exec (.coreWindowStart isl) s = .next (s.withB (modIsland isl (fun st => { st with
      reqs := (columnRun s.hard.cfg isl (s.b.island isl)).reqs, groups := st.groups ++ (columnRun s.hard.cfg isl (s.b.island isl)).groups
      grid := { (s.b.island isl).grid with column := ((s.b.island isl).grid.column + 1) % columnsOf s.hard.cfg isl, foreign := [], issued := (columnRun s.hard.cfg isl (s.b.island isl)).issued } })
      (modIsland isl id (modIsland isl id s.b)))) := by
  have hstay : ¬ (coresOf s.hard.cfg isl = 0 ∨ islandPresent s.hard.cfg isl = false ∨ (s.b.island isl).asleep = true ∨ (s.b.island isl).inReset = true) := by
    simp [hcores, hisl, hawake, hrst]
  have hst : (modIsland isl id (modIsland isl id s.b)).island isl = s.b.island isl := by rw [modIsland_id_island, modIsland_id_island]
  obtain ⟨hw, hm, -⟩ := columnRun_own s.hard.cfg isl (s.b.island isl)
  show execCoreWindowStart isl s = _
  rw [execCoreWindowStart, onB_next, whenLive_live _ hlive]
  simp only [if_neg hstay, admitHeld_dropKilled halive hheld, hst, hwait, hmoved]
  change Host.Outcome.next (s.withB (modIsland isl (fun st => { st with
    reqs := (columnRun s.hard.cfg isl (s.b.island isl)).reqs
    groups := st.groups ++ (columnRun s.hard.cfg isl (s.b.island isl)).groups ++ List.filterMap _ (columnRun s.hard.cfg isl (s.b.island isl)).wait
    grid := { (s.b.island isl).grid with column := _, foreign := [], issued := (columnRun s.hard.cfg isl (s.b.island isl)).issued,
                                          waiting := List.filter _ (columnRun s.hard.cfg isl (s.b.island isl)).wait, moved := (columnRun s.hard.cfg isl (s.b.island isl)).moved } }) _)) = _
  rw [hw, hm]
  simp only [List.filterMap_nil, List.append_nil, List.filter_nil]

/-- Settles O18: the switch, the request's ways, its parts, and the invariant of a column's run. -/
theorem gridsAndCipherRequests : Obligations.GridsAndCipherRequests := by
  refine ⟨fun s isl x rest hlive hnext hcol hdue hruns hheld => ⟨_, exec_gridSwitch hlive hnext hcol hdue hruns hheld, ?_, rfl⟩,
    fun s isl req j hlive hisl hawake hrst hjig hshare hgroups => ⟨fun hgen => exec_cipherRequest_dead hlive hisl hawake hrst hjig hshare hgroups hgen,
      fun hgen huse henc => ⟨fun _ => exec_cipherRequest_queued hlive hisl hawake hrst hjig hshare hgroups hgen huse henc, fun hone hheld => ⟨fun hroom => ?_, fun hfull => ?_⟩⟩⟩,
    fun r hpos => ⟨splitReq_sum hpos (by omega), fun x hx => splitReq_parts _ r x hx⟩,
    fun s isl hlive hcores hisl hawake hrst halive hheld hwait hmoved => ⟨_, (columnRun s.hard.cfg isl (s.b.island isl)).groups, exec_coreWindowStart hlive hcores hisl hawake hrst halive hheld hwait hmoved, ?_, ?_, ?_, rfl⟩⟩
  · exact modIsland_island ..
  · rw [exec_cipherRequest_one hlive hisl hawake hrst hjig hshare hgroups hgen huse henc hone, enqueue_room hheld hroom]
  · rw [exec_cipherRequest_one hlive hisl hawake hrst hjig hshare hgroups hgen huse henc hone, enqueue_full hfull]
  · rw [modIsland_island, modIsland_id_island, modIsland_id_island]
  · rw [modIsland_island]
  · exact (columnRun_own s.hard.cfg isl (s.b.island isl)).2.2

end Sys2Proof.Machine
end

section
/-! Compared groups, recomputations and core tests (R166 to R173, R185). -/

namespace Sys2Proof.Machine

/-! ### The comparison of a group -/

/-- The group leaves the island's list before it is compared. -/
def groupTaken (isl : Island) (g : Group) (b : Block) : Block := modIsland isl (fun st => { st with groups := st.groups.erase g }) b

section compare
variable {s : State} {isl : Island} {core : Nat} {g : Group} (hlive : s.b.live = true) (hfind : ((s.b.island isl).groups.find? fun x => decide (x.core = core)) = some g)
include hlive hfind

/-- R168: copies that agree release the group. -/
theorem exec_cipherGroupCompare_agree {p : Part} (hfirst : g.recomp = 0) (hpart : g.part = some p) :
    exec (.cipherGroupCompare isl core true) s = .next (s.withB (emit (if g.tag then .ghash isl p g.ret else .group isl p g.ret (keystream g.key 4 g.ctr)) (groupTaken isl g s.b))) := by
  show execCipherGroupCompare isl core true s = _
  rw [execCipherGroupCompare, onB_next, whenLive_live _ hlive, hfind]
  simp only [Bool.not_true, Bool.false_eq_true, if_false, hpart, if_pos hfirst]
  rfl

theorem exec_cipherGroupCompare_differ : exec (.cipherGroupCompare isl core false) s = .next (s.withB (mismatch s.hard isl g (groupTaken isl g s.b))) := by
  show execCipherGroupCompare isl core false s = _
  rw [execCipherGroupCompare, onB_next, whenLive_live _ hlive, hfind]
  rfl

end compare

/-- R170: a mismatch beyond its recomputations is a Clamp. -/
theorem mismatch_clamps {isl : Island} {g : Group} {b : Block} (hagain : 1 ≤ g.recomp) (hover : b.inWarning isl = false ∨ 3 ≤ g.recomp) (h : Hard) :
    mismatch h isl g b = clamp h 1 (islandCode isl) none [] (mismatchNote h isl g b) := by
  have hne : g.recomp ≠ 0 := by omega
  have hbound : (if b.inWarning isl then 3 else 1) ≤ g.recomp := by
    obtain hw | hw := hover
    · rw [hw]; exact hagain
    · split <;> omega
  unfold mismatch
  dsimp only
  rw [if_neg hne, if_pos hbound]

/-- A group as it is recomputed the next time. -/
def recomputed (now : Word) (warn : Bool) (g : Group) : Group :=
  { g with recomp := g.recomp + 1, first := if g.recomp = 0 then now else g.first, warned := if g.recomp = 0 then warn else g.warned }

/-- R169, R171: within its recomputations the group is recomputed, and counted in a warning period. -/
theorem mismatch_recomputes {isl : Island} {g : Group} {b : Block} (hwithin : g.recomp = 0 ∨ (b.inWarning isl = true ∧ g.recomp < 3)) (h : Hard) :
    mismatch h isl g b = modIsland isl (fun st => reissue h.cfg isl (recomputed b.clk.tick (b.inWarning isl) g) { st with mmRecomp := if b.inWarning isl then satInc st.mmRecomp else st.mmRecomp }) b := by
  unfold mismatch recomputed
  dsimp only
  by_cases hne : g.recomp = 0
  · have hbound : ¬ (if b.inWarning isl then 3 else 1) ≤ g.recomp := by rw [hne]; split <;> decide
    rw [if_pos hne, if_neg hbound, if_pos hne, if_pos hne]
    rfl
  · obtain ⟨hwarn, hfew⟩ := hwithin.resolve_left hne
    have hbound : ¬ (if b.inWarning isl then 3 else 1) ≤ g.recomp := by rw [hwarn]; simpa using hfew
    rw [if_neg hne, if_neg hbound, if_neg hne, if_neg hne]

/-! ### The way of a recomputation -/

section reissue
variable {c : Cfg} {isl : Island} {g : Group} {st : IslandSt}

theorem reissue_free (hfree : freeCycle c isl st.grid g.part g.core = true) : reissue c isl g st = { st with groups := st.groups ++ [g] } := by rw [reissue, if_pos hfree]

section busy
variable (hfree : freeCycle c isl st.grid g.part g.core = false)
include hfree

theorem reissue_takes (hgiven : st.grid.foreign.contains g.core = false) : reissue c isl g st = { takeCycle c isl g.core st with groups := (takeCycle c isl g.core st).groups ++ [g] } := by
  rw [reissue, if_neg (by rw [hfree]; decide), hgiven]; rfl

theorem reissue_moves (hgiven : st.grid.foreign.contains g.core = true) {k : Nat} (hk : ((List.range (coresOf c isl)).find? fun k => freeCycle c isl st.grid g.part k) = some k) :
    reissue c isl g st = { st with groups := st.groups ++ [{ g with core := k }] } := by
  rw [reissue, if_neg (by rw [hfree]; decide), hgiven, if_neg (by decide), hk]

theorem reissue_waits (hgiven : st.grid.foreign.contains g.core = true) (hnone : ∀ k, k < coresOf c isl → freeCycle c isl st.grid g.part k = false) :
    reissue c isl g st = { st with grid := { st.grid with waiting := st.grid.waiting ++ [g] } } := by
  have hfind : ((List.range (coresOf c isl)).find? fun k => freeCycle c isl st.grid g.part k) = none :=
    List.find?_eq_none.mpr fun k hk => by rw [hnone k (List.mem_range.mp hk)]; decide
  rw [reissue, if_neg (by rw [hfree]; decide), hgiven, if_neg (by decide), hfind]

end busy
end reissue

/-! ### The tests of the cores -/

/-- The island's state after a test of a core, as one that takes a cycle or one that does not. -/
def coreTested (c : Cfg) (isl : Island) (core : Nat) (now : Word) (forced : Bool) (st : IslandSt) : IslandSt :=
  if forced then { takeCycle c isl core { st with tests := Tab.set st.tests core now } with mmForced := satInc st.mmForced } else { st with tests := Tab.set st.tests core now }

/-- R185: one that is not forced waits for a cycle. -/
theorem exec_periodicCoreTest_waits {s : State} {isl : Island} {core : Nat} (hlive : s.b.live = true) (found : CoreTest) (hbusy : freeCycle s.hard.cfg isl (s.b.island isl).grid none core = false) :
    exec (.periodicCoreTest isl core found false) s = .next s := by
  show execPeriodicCoreTest isl core found false s = _
  rw [execPeriodicCoreTest, onB_next, whenLive_live _ hlive]
  simp only [hbusy, Bool.false_eq_true, if_false, Bool.not_false, Bool.or_true, if_true, State.withB_self]

section tests
variable {s : State} {isl : Island} {core : Nat} (hlive : s.b.live = true) (hisl : islandPresent s.hard.cfg isl = true) (hcore : core < coresOf s.hard.cfg isl)
  (hawake : (s.b.island isl).asleep = false) (hrst : (s.b.island isl).inReset = false) (hdue : Tab.get? (s.b.island isl).tests core = none)
include hlive hisl hcore hawake hrst hdue

/-- R166, R185: a test that is due and has its cycle is run, and its outcome acts. -/
theorem exec_periodicCoreTest {forced : Bool} (found : CoreTest)
    (hcan : (if forced then !freeCycle s.hard.cfg isl (s.b.island isl).grid none core && !(s.b.island isl).grid.foreign.contains core else freeCycle s.hard.cfg isl (s.b.island isl).grid none core) = true)
    (hfound : found = .pass ∨ found = .wrongBoth) :
    exec (.periodicCoreTest isl core found forced) s = .next (s.withB (if found = .pass then modIsland isl (coreTested s.hard.cfg isl core s.b.clk.tick forced) s.b
      else clamp s.hard 5 (islandCode isl) none [] (modIsland isl (coreTested s.hard.cfg isl core s.b.clk.tick forced) s.b))) := by
  have hbeyond : decide (coresOf s.hard.cfg isl ≤ core) = false := decide_eq_false (by omega)
  show execPeriodicCoreTest isl core found forced s = _
  rw [execPeriodicCoreTest, onB_next, whenLive_live _ hlive]
  simp only [hisl, hbeyond, hawake, hrst, hdue, hcan, Bool.not_true, Bool.or_self, Bool.false_eq_true, if_false]
  obtain rfl | rfl := hfound <;> rfl

end tests

theorem coreTested_forced (c : Cfg) (isl : Island) (core : Nat) (now : Word) (st : IslandSt) :
    (coreTested c isl core now true st).mmForced = satInc st.mmForced ∧ (coreTested c isl core now true st).mmDisp = satInc st.mmDisp ∧
      Tab.get? (coreTested c isl core now true st).tests core = some now :=
  ⟨rfl, rfl, Tab.get?_set_same ..⟩

/-- Settles O19: the comparison, the mismatch, the recomputation's ways and the test, one lemma each. -/
theorem comparedGroupsAndCoreTests : Obligations.ComparedGroupsAndCoreTests := by
  refine ⟨fun s isl core g p hlive hfind hfirst hpart => exec_cipherGroupCompare_agree hlive hfind hfirst hpart, fun s isl core g hlive hfind hagain hover => ?_, fun s isl core g hlive hfind hwithin => ?_,
    fun c isl g st => ⟨reissue_free, fun hfree hgiven => ?_, fun hfree hgiven => ⟨fun k hk => reissue_moves hfree hgiven hk, fun hnone => reissue_waits hfree hgiven hnone⟩⟩,
    fun s isl core hlive hisl hcore hawake hrst hdue => ⟨fun hfree => ⟨?_, ?_⟩, fun hbusy hgiven => ⟨exec_periodicCoreTest_waits hlive .pass hbusy, ?_⟩⟩⟩
  · rw [exec_cipherGroupCompare_differ hlive hfind, mismatch_clamps (b := groupTaken isl g s.b) hagain hover]
    rfl
  · rw [exec_cipherGroupCompare_differ hlive hfind, mismatch_recomputes (b := groupTaken isl g s.b) hwithin]
    rfl
  · rw [reissue_takes hfree hgiven]
    exact ⟨rfl, rfl, List.mem_append_right _ List.mem_cons_self⟩
  · exact exec_periodicCoreTest hlive hisl hcore hawake hrst hdue .pass hfree (.inl rfl)
  · exact exec_periodicCoreTest hlive hisl hcore hawake hrst hdue .wrongBoth hfree (.inr rfl)
  · have hcan : (!freeCycle s.hard.cfg isl (s.b.island isl).grid none core && !(s.b.island isl).grid.foreign.contains core) = true := by rw [hbusy, hgiven]; rfl
    obtain ⟨hforced, hdisp, htest⟩ := coreTested_forced s.hard.cfg isl core s.b.clk.tick (s.b.island isl)
    refine ⟨_, exec_periodicCoreTest hlive hisl hcore hawake hrst hdue (forced := true) .pass hcan (.inl rfl), ?_⟩
    rw [if_pos rfl, modIsland_island]
    exact ⟨hforced, hdisp, htest, rfl⟩

end Sys2Proof.Machine
end

section
/-! The key commands, and kills, loads and limits of keys (R112 to R132). -/

namespace Sys2Proof.Machine

/-! ### A command that starts -/

/-- The start of a command is noted in its queue. -/
theorem markStarted_frame (ctx : CmdCtx) (b : Block) : markStarted ctx b = { b with host := (markStarted ctx b).host } := by
  unfold markStarted
  split <;> rfl

@[simp] theorem markStarted_ks (ctx : CmdCtx) (b : Block) : (markStarted ctx b).ks = b.ks := by rw [markStarted_frame]
@[simp] theorem markStarted_parts (ctx : CmdCtx) (b : Block) : (markStarted ctx b).parts = b.parts := by rw [markStarted_frame]
@[simp] theorem markStarted_clk (ctx : CmdCtx) (b : Block) : (markStarted ctx b).clk = b.clk := by rw [markStarted_frame]
@[simp] theorem markStarted_ent (ctx : CmdCtx) (b : Block) : (markStarted ctx b).ent = b.ent := by rw [markStarted_frame]

theorem keyCmd_starts {ctx : CmdCtx} {opcode : Nat} {q : Queue} {s : State} (h : s.starts ctx opcode 0 q) (hpause : s.b.keysPaused = false) (f : Hard → Queue → Block → Block) :
    keyCmd ctx opcode f s = .next (s.settled (f s.hard q (markStarted ctx s.b))) := by
  obtain ⟨hlive, htc, hq, hstart, hrun, hgate⟩ := h
  rw [keyCmd, onB_next, hpause, if_neg Bool.false_ne_true, runCmd_starts s.hard (f s.hard) hlive htc hq hstart hrun hgate]
  rfl

/-! ### What reads the key store alone -/

section keyStoreReads
variable {b c : Block} (h : b.ks = c.ks)
include h

theorem slot_congr_ks (n : Nat) : b.slot n = c.slot n := slot_congr (congrArg KeyStore.slots h) n
theorem repl_congr (n : Nat) : b.repl n = c.repl n := by rw [Block.repl, h]; rfl
theorem lowestFreeSlot_congr : b.lowestFreeSlot = c.lowestFreeSlot := by rw [Block.lowestFreeSlot, h]; rfl
theorem keyVal_congr (k : Slot) : b.keyVal k = c.keyVal k := by rw [Block.keyVal, slot_congr_ks h]; rfl
theorem targetSlot_congr (k : Slot) : targetSlot b k = targetSlot c k := by rw [targetSlot, lowestFreeSlot_congr h, h]; rfl

theorem depthOf_congr (fuel n : Nat) : depthOf b fuel n = depthOf c fuel n := by
  induction fuel generalizing n with
  | zero => rfl
  | succ fuel ih => rw [depthOf, slot_congr_ks h, ih]; rfl

theorem chainOrphaned_congr (fuel n : Nat) : chainOrphaned b fuel n = chainOrphaned c fuel n := by
  induction fuel generalizing n with
  | zero => rfl
  | succ fuel ih => rw [chainOrphaned, slot_congr_ks h, ih]; rfl

theorem slotLive_congr (n : Nat) : b.slotLive n = c.slotLive n := by rw [Block.slotLive, slot_congr_ks h, chainOrphaned_congr h]; rfl

theorem keyRefusal_congr (q : Queue) (k : Slot) : keyRefusal b q k = keyRefusal c q k := by
  unfold keyRefusal
  rw [slot_congr_ks h, slotLive_congr h]

end keyStoreReads

/-! ### The key commands -/

section keyCommands
variable {s : State} {ctx : CmdCtx} {q : Queue} (hpause : s.b.keysPaused = false)
include hpause

/-- R112, R116: a derivation makes a user key below its parent. -/
theorem exec_cmdKeyDerive {parent target : Slot} {n : Nat} (hstart : s.starts ctx 0x08 0 q) (hok : keyRefusal s.b q parent = none) (huse : (s.b.slot parent.toNat).attr.uses.getLsbD useDerive = true)
    (hdepth : depthOf s.b 8 parent.toNat < 7) (htarget : targetSlot s.b target = some n) (uses : BitVec 3) (ex : Bool) (lim : BitVec 6) (label : BitVec 256) :
    exec (.cmdKeyDerive ctx parent uses ex lim target label) s = .next (s.settled (complete s.hard ctx 0x00 0 n 0 (setSlot n
      { value := kdf (s.b.keyVal parent) (leBytes 32 label.toNat ++ leBytes 2 0) "SWY-USER",
        attr := { st := 1, limitExp := lim, generation := 0, parent := parent, owner := (s.b.slot parent.toNat).attr.owner, testRoot := (s.b.slot parent.toNat).attr.testRoot,
                  exportable := ex, uses := userUses uses, type := 13 },
        count := 0, pasid := q.pasid, label := label, heldBy := [], told := 0 } (markStarted ctx s.b)))) := by
  have hks := markStarted_ks ctx s.b
  have huse : ¬ (s.b.slot parent.toNat).attr.uses.getLsbD useDerive = false := by rw [huse]; decide
  have hparent : BitVec.ofNat 12 parent.toNat = parent := BitVec.eq_of_toNat_eq (by simp)
  show execCmdKeyDerive ctx parent uses ex lim target label s = _
  rw [execCmdKeyDerive, keyCmd_starts hstart hpause]
  simp only [keyRefusal_congr hks, slot_congr_ks hks, depthOf_congr hks, targetSlot_congr hks, hok, if_neg huse, if_neg (Nat.not_le.mpr hdepth), htarget, childAttr, hparent]
  rfl

/-- R120: a replacement stages its value in a shadow slot. -/
theorem exec_cmdKeyReplace {slot : Slot} {n : Nat} (hstart : s.starts ctx 0x09 0 q) (hok : keyRefusal s.b q slot = none) (htype : (s.b.slot slot.toNat).attr.type = 13)
    (hrepl : s.b.repl slot.toNat = none) (hgen : (s.b.slot slot.toNat).attr.generation ≠ 0xFFFF) (hfree : s.b.lowestFreeSlot = some n) (tick : Word) :
    exec (.cmdKeyReplace ctx slot tick) s = .next (s.settled (setRepl slot.toNat
      { shadow := BitVec.ofNat 12 n, ctx := some ctx, stage := .staged, commitTick := tick, notBefore := 0, await := [], failedKat := false, retireTick := none, link := none }
      (setSlot n { value := kdf (s.b.keyVal (s.b.slot slot.toNat).attr.parent)
                     (leBytes 32 (s.b.slot slot.toNat).label.toNat ++ leBytes 2 ((s.b.slot slot.toNat).attr.generation + 1).toNat) "SWY-USER",
                   attr := { (s.b.slot slot.toNat).attr with st := 2, generation := (s.b.slot slot.toNat).attr.generation + 1 },
                   count := 0, pasid := (s.b.slot slot.toNat).pasid, label := (s.b.slot slot.toNat).label, heldBy := [], told := 0 } (markStarted ctx s.b)))) := by
  have hks := markStarted_ks ctx s.b
  have htype : (s.b.slot slot.toNat).attr.type.toNat = 13 := by rw [htype]; rfl
  show execCmdKeyReplace ctx slot tick s = _
  rw [execCmdKeyReplace, keyCmd_starts hstart hpause]
  simp only [keyRefusal_congr hks, slot_congr_ks hks, hok, htype, startRepl, repl_congr hks, hrepl, Option.isSome_none, Bool.false_eq_true, if_false, if_neg hgen, lowestFreeSlot_congr hks, hfree, keyVal_congr hks]
  rfl

theorem exec_cmdKeyInvalidate {slot : Slot} (hstart : s.starts ctx 0x0A 0 q) (hok : keyRefusal s.b q slot = none) (htype : (s.b.slot slot.toNat).attr.type = 13) :
    exec (.cmdKeyInvalidate ctx slot) s = .next (s.settled (invalidate s.hard slot.toNat (some ctx) (markStarted ctx s.b))) := by
  have hks := markStarted_ks ctx s.b
  show execCmdKeyInvalidate ctx slot s = _
  rw [execCmdKeyInvalidate, keyCmd_starts hstart hpause]
  simp only [keyRefusal_congr hks, slot_congr_ks hks, hok, if_neg (not_not.mpr htype)]

/-- R127: a key that may leave is wrapped to the owner and written. -/
theorem exec_cmdKeyWrap_owner {slot : Slot} {addr : Word} {j : Jig} (hstart : s.starts ctx 0x0B 0 q) (hok : keyRefusal s.b q slot = none) (hjig : s.b.jigOf q.part = some j)
    (haddr : addr.toNat % 8 = 0) (hexp : (s.b.slot slot.toNat).attr.exportable = true) (hrnd : s.b.noRandom = false) :
    exec (.cmdKeyWrap ctx slot 0xFFFFFFFF addr true) s = .next (s.settled (complete s.hard ctx 0x00 0 (wrapForOwner j (s.b.slot slot.toNat) (entropyServed ctx (markStarted ctx s.b))).1.length 0
      (emit (.dmaWrite addr (wrapForOwner j (s.b.slot slot.toNat) (entropyServed ctx (markStarted ctx s.b))).1) (wrapForOwner j (s.b.slot slot.toNat) (entropyServed ctx (markStarted ctx s.b))).2))) := by
  have hks := markStarted_ks ctx s.b
  have hjig : (markStarted ctx s.b).jigOf q.part = some j := by rw [markStarted_frame]; exact hjig
  have hrnd : (markStarted ctx s.b).noRandom = false := by rw [markStarted_frame]; exact hrnd
  have hexp : ¬ (s.b.slot slot.toNat).attr.exportable = false := by rw [hexp]; decide
  show execCmdKeyWrap ctx slot 0xFFFFFFFF addr true s = _
  rw [execCmdKeyWrap, keyCmd_starts hstart hpause]
  simp only [keyRefusal_congr hks, slot_congr_ks hks, hok, hjig, if_neg (not_not.mpr haddr), if_neg hexp, if_true, hrnd, Bool.false_eq_true, if_false]
  rfl

end keyCommands

/-- Settles O21: one lemma per command. -/
theorem keyCommandsTakeEffect : Obligations.KeyCommandsTakeEffect :=
  ⟨fun _ _ _ _ uses ex lim _ label _ hstart hpause hok huse hdepth htarget => exec_cmdKeyDerive hpause hstart hok huse hdepth htarget uses ex lim label,
   fun _ _ _ _ tick _ hstart hpause hok htype hrepl hgen hfree => exec_cmdKeyReplace hpause hstart hok htype hrepl hgen hfree tick,
   fun _ _ _ _ hstart hpause hok htype => exec_cmdKeyInvalidate hpause hstart hok htype,
   fun _ _ _ _ _ _ _ hstart hpause hok hjig haddr hexp hrnd hr => hr ▸ exec_cmdKeyWrap_owner hpause hstart hok hjig haddr hexp hrnd⟩

/-! ### Kills and acknowledgements -/

theorem takeKill_eq_some {slot : Slot} {ms rest : List KdrMsg} : takeKill slot ms = some rest ↔ ms = .kill slot :: rest := by
  unfold takeKill
  split
  · next x t =>
    by_cases h : x = slot
    · simp [h]
    · simp [h]
  · next hno =>
    exact ⟨(fun h => nomatch h), fun h => absurd h (hno slot rest)⟩

theorem takeKill_eq_none {slot : Slot} {ms : List KdrMsg} : takeKill slot ms = none ↔ ∀ rest, ms ≠ .kill slot :: rest := by
  rw [Option.eq_none_iff_forall_ne_some]
  exact forall_congr' fun rest => not_congr takeKill_eq_some

theorem kdrTakes_ok (h : Hard) (f : Block → Block) (b : Block) : kdrTakes h true f b = f b := rfl
theorem kdrTakes_bad (h : Hard) (f : Block → Block) (b : Block) : kdrTakes h false f b = clamp h 4 28 none [] b := rfl

section kdr
variable {s : State} (hlive : s.b.live = true)
include hlive

/-- R115: a kill at the front of the island's queue is taken, or its CRC fails. -/
theorem exec_kdrKill {isl : Island} {slot : Slot} {rest : List KdrMsg} (h : takeKill slot (s.b.island isl).kdrIn = some rest) (crcOk : Bool) :
    exec (.kdrKill isl slot crcOk) s = .next (s.settled (kdrTakes s.hard crcOk (modIsland isl fun st => { st with kdrIn := rest, cache := st.cache.filter fun e => decide (e.home ≠ slot) }) s.b)) := by
  show execKdrKill isl slot crcOk s = _
  rw [execKdrKill, act_live _ hlive, h]

theorem exec_kdrAcknowledge {isl : Island} {slot : Slot} (hwait : (s.b.ks.invals.any fun v => v.waits.contains (isl, slot)) = true) (hdone : killDone (s.b.island isl) slot = true) (crcOk : Bool) :
    exec (.kdrAcknowledge isl slot crcOk) s = .next (s.settled (kdrTakes s.hard crcOk (fun b => pushAll (ackKill s.hard isl slot b)) s.b)) := by
  show execKdrAcknowledge isl slot crcOk s = _
  rw [execKdrAcknowledge, act_live _ hlive, hwait, hdone]
  rfl

/-- R117: an orphan that no island holds any more is zeroed and free. -/
theorem exec_orphanZeroed {slot : Slot} (hst : (s.b.slot slot.toNat).attr.st = 3) (hwait : ∀ v ∈ s.b.ks.invals, ∀ w ∈ v.waits, w.2 ≠ slot) :
    exec (.orphanZeroed slot) s = .next (s.settled (freeSlot slot.toNat s.b)) := by
  have hnone : (s.b.ks.invals.any fun v => v.waits.any fun w => decide (w.2 = slot)) = false := by
    simpa only [List.any_eq_false, List.any_eq_true, decide_eq_true_eq, not_exists, not_and] using hwait
  show execOrphanZeroed slot s = _
  rw [execOrphanZeroed, act_live _ hlive, if_pos ⟨hst, hnone⟩]

/-! ### Loads -/

/-- A load at the front of a memory engine's queue. -/
theorem exec_kdrKeyLoad_me {n : Fin 8} (hawake : (s.b.island (.me n)).asleep = false) (hrst : (s.b.island (.me n)).inReset = false) (slot : Slot) (crcOk : Bool) :
    exec (.kdrKeyLoad (.me n) slot crcOk) s = .next (s.settled (pushAll (kdrLoaded s.hard (.me n) slot crcOk s.b))) := by
  show execKdrKeyLoad (.me n) slot crcOk s = _
  rw [execKdrKeyLoad, act_live _ hlive, hawake, hrst]
  rfl

end kdr

section loaded
variable {b : Block} {n : Fin 8} {slot home : Slot} {gen : BitVec 16} {prev : Bool} {v : Key} {count : Nat} {commit : Word} {o : BitVec 4} {rest : List KdrMsg}
  (hin : (b.island (.me n)).kdrIn = .load slot home gen prev v count commit o .own 0 :: rest) (h : Hard)
include hin

theorem kdrLoaded_badCrc : kdrLoaded h (.me n) slot false b = clamp h 4 28 none [] b := by
  unfold kdrLoaded
  rw [hin]
  simp only [ne_eq, not_true_eq_false, if_false, if_true]

/-- R130: a value of the slot's generation enters the cache. -/
theorem kdrLoaded_current (hgen : gen = (b.slot slot.toNat).attr.generation) : kdrLoaded h (.me n) slot true b = cacheInsert h.cfg (.me n)
    { slot := slot, home := home, gen := gen, previous := prev, value := v, count := count, reported := count, commit := if commit.toNat ≤ b.clk.tick.toNat then 0 else commit, part := o, what := .own, alpha := 0 }
    (modIsland (.me n) (fun st => { st with kdrIn := rest }) b) := by
  have hentry : loadedEntry (modIsland (.me n) (fun st => { st with kdrIn := rest }) b) slot home gen prev v count commit o .own 0 =
      some { slot := slot, home := home, gen := gen, previous := prev, value := v, count := count, reported := count, commit := if commit.toNat ≤ b.clk.tick.toNat then 0 else commit, part := o, what := .own, alpha := 0 } := by
    unfold loadedEntry
    exact if_pos (Or.inr (Or.inr hgen))
  unfold kdrLoaded
  rw [hin]
  simp only [ne_eq, not_true_eq_false, if_false, Bool.true_eq_false, hentry, if_true]

/-- R130: a value of no generation in use is dropped. -/
theorem kdrLoaded_stale (hgen : gen ≠ (b.slot slot.toNat).attr.generation) (hprev : prev = false) (hcommit : commit.toNat ≤ b.clk.tick.toNat) (hrepl : b.repl slot.toNat = none) :
    kdrLoaded h (.me n) slot true b = unholdSlot (.me n) slot (modIsland (.me n) (fun st => { st with kdrIn := rest }) b) := by
  have hentry : loadedEntry (modIsland (.me n) (fun st => { st with kdrIn := rest }) b) slot home gen prev v count commit o .own 0 = none := by
    have hcommit : commit.toNat ≤ (modIsland (.me n) (fun st => { st with kdrIn := rest }) b).now.toNat := hcommit
    have hrepl : (modIsland (.me n) (fun st => { st with kdrIn := rest }) b).repl slot.toNat = none := hrepl
    have hnot : ¬ (prev = true ∨ (if commit.toNat ≤ (modIsland (.me n) (fun st => { st with kdrIn := rest }) b).now.toNat then (0 : Word) else commit) ≠ 0 ∨
        gen = ((modIsland (.me n) (fun st => { st with kdrIn := rest }) b).slot slot.toNat).attr.generation) := by
      rw [if_pos hcommit, hprev]
      rintro (hp | hc | hg)
      · cases hp
      · exact hc rfl
      · exact hgen hg
    unfold loadedEntry
    dsimp only
    rw [if_neg hnot, if_neg (by decide), hrepl]
  unfold kdrLoaded
  rw [hin]
  simp only [ne_eq, not_true_eq_false, if_false, Bool.true_eq_false, hentry]

end loaded

/-! ### Misses -/

theorem loadKey_repl (i : Island) (k : Slot) (commit : Word) (b : Block) (n : Nat) : (loadKey i k commit b).repl n = b.repl n := rfl

/-- What answers a miss: a Veneer group's key by its steps, any other as its slot's. -/
def missServed (isl : Island) (p : Part) (slot : Slot) (b : Block) : Block := match b.groupOfSlot p slot with | some g => wantGroup isl p g b | none => wantKey isl slot b

theorem missServed_key {isl : Island} {p : Part} {slot : Slot} {b : Block} (h : b.groupOfSlot p slot = none) : missServed isl p slot b = wantKey isl slot b := by rw [missServed, h]
theorem missServed_group {isl : Island} {p : Part} {slot : Slot} {b : Block} {g : BitVec 32} (h : b.groupOfSlot p slot = some g) : missServed isl p slot b = wantGroup isl p g b := by rw [missServed, h]

section miss
variable {s : State} {isl : Island} {p : Part} {slot : Slot} (hlive : s.b.live = true) (hisl : (cipherIslands s.hard.cfg).contains isl = true) (hawake : (s.b.island isl).asleep = false)
  (hrst : (s.b.island isl).inReset = false) (howner : (s.b.slot slot.toNat).attr.owner = BitVec.ofNat 4 p.val)
include hlive hisl hawake hrst howner

theorem exec_keyCacheMiss (crcOk : Bool) : exec (.keyCacheMiss isl p slot crcOk) s =
    .next (s.settled (kdrTakes s.hard crcOk (missServed isl p slot) s.b)) := by
  have hmine : decide ((s.b.slot slot.toNat).attr.owner = BitVec.ofNat 4 p.val ∨ (s.b.slot slot.toNat).attr.owner = 0xF) = true := decide_eq_true (Or.inl howner)
  show execKeyCacheMiss isl p slot crcOk s = _
  rw [execKeyCacheMiss, act_live _ hlive]
  simp only [hisl, hawake, hrst, hmine, Bool.not_false, Bool.and_self, if_true]
  rfl

end miss

/-- R130: a key that no cache holds, and that is not on its way, is loaded with its confirmed replacement. -/
theorem wantKey_loads {isl : Island} {slot : Slot} {b : Block} (hlive : b.slotLive slot.toNat = true) (hcached : b.cached isl slot = none) (hpending : loadPending b isl slot false .own = false) :
    wantKey isl slot b = match b.repl slot.toNat with
      | some r => if r.stage = .confirmed then loadNext isl slot r.shadow r.commitTick (loadKey isl slot 0 b) else loadKey isl slot 0 b
      | none => loadKey isl slot 0 b := by
  rw [wantKey, hcached, hpending, hlive]
  rfl

/-! ### Use limits -/

section limits
variable {s : State} {isl : Island} {slot : Slot} {e : CacheEnt} (hlive : s.b.live = true) (hcached : s.b.cached isl slot = some e) (hlim : (s.b.slot slot.toNat).attr.limitExp ≠ 0)
include hlive hcached hlim

theorem exec_keyCountReport (crcOk : Bool) : exec (.keyCountReport isl slot crcOk) s = .next (s.settled (kdrTakes s.hard crcOk (reportCount isl slot e) s.b)) := by
  show execKeyCountReport isl slot crcOk s = _
  rw [execKeyCountReport, act_live _ hlive, hcached]
  simp only [if_neg hlim]

end limits

theorem reportCount_eq (i : Island) (k : Slot) (e : CacheEnt) (b : Block) :
    reportCount i k e b = modSlot k.toNat (fun x => { x with count := max x.count e.count }) (modIsland i (fun st => { st with cache := st.cache.map fun x => if x = e then { e with reported := e.count } else x }) b) := rfl

/-- What a user key's limit point does: the record, and the mark that it is told. -/
theorem limitEvent_user {h : Hard} {isl : Island} {slot : Slot} {e : CacheEnt} {b : Block} {code which : Nat} {point : Nat → Nat} (hcached : b.cached isl slot = some e) (hlim : (b.slot slot.toNat).attr.limitExp ≠ 0)
    (hst : (b.slot slot.toNat).attr.st = 1) (htype : (b.slot slot.toNat).attr.type = 13) (hpoint : point (b.slot slot.toNat).attr.limitExp.toNat ≤ b.useCount isl slot)
    (htold : (b.slot slot.toNat).told.getLsbD which = false) (crcOk : Bool) :
    limitEvent h isl slot code point which crcOk b = kdrTakes h crcOk (limitPoint h isl slot code which) b := by
  have hdue : limitDue b isl slot (point (b.slot slot.toNat).attr.limitExp.toNat) which = true := by
    simp only [limitDue, hcached, decide_eq_true hlim, decide_eq_true hpoint, htold, decide_eq_true hst, Option.isSome_some, Bool.not_false, Bool.and_self]
  unfold limitEvent
  dsimp only
  rw [if_neg (by rw [htype]; decide), hdue]
  rfl

/-- A user key is not replaced at its limit. -/
theorem limitReplace_user {slot : Slot} {b : Block} (htype : (b.slot slot.toNat).attr.type = 13) : limitReplace slot b = b := by
  unfold limitReplace
  dsimp only
  rw [htype]
  split <;> rfl

theorem modSlot_attr (n : Nat) (f : KeySlot → KeySlot) (b : Block) (hf : ∀ k, (f k).attr = k.attr := by intro; rfl) : ((modSlot n f b).slot n).attr = (b.slot n).attr := by
  rw [modSlot, setSlot_slot_same, hf]

theorem reportCount_attr (i : Island) (k : Slot) (e : CacheEnt) (b : Block) : ((reportCount i k e b).slot k.toNat).attr = (b.slot k.toNat).attr := modSlot_attr ..

theorem limitPoint_user {h : Hard} {isl : Island} {slot : Slot} {e : CacheEnt} {b : Block} {code which : Nat} (hcached : b.cached isl slot = some e) (htype : (b.slot slot.toNat).attr.type = 13) :
    limitPoint h isl slot code which b = modSlot slot.toNat (fun k => { k with told := k.told ||| (1#2 <<< which) }) (keyNote h code (islandCode isl) slot.toNat [aW8 (b.useCount isl slot)] (reportCount isl slot e b)) := by
  unfold limitPoint
  rw [hcached]
  refine limitReplace_user ?_
  refine (congrArg Attr.type (modSlot_attr slot.toNat _ _)).trans ?_
  rw [slot_congr_ks (keyNote_ks ..), reportCount_attr, htype]

section limitCommands
variable {s : State} {isl : Island} {slot : Slot} {e : CacheEnt} (hlive : s.b.live = true) (hcached : s.b.cached isl slot = some e) (hlim : (s.b.slot slot.toNat).attr.limitExp ≠ 0)
  (hst : (s.b.slot slot.toNat).attr.st = 1) (htype : (s.b.slot slot.toNat).attr.type = 13)
include hlive hcached hlim hst htype

theorem exec_keyLimitNear (hpoint : nearPoint (s.b.slot slot.toNat).attr.limitExp.toNat ≤ s.b.useCount isl slot) (htold : (s.b.slot slot.toNat).told.getLsbD 0 = false) (crcOk : Bool) :
    exec (.keyLimitNear isl slot crcOk) s = .next (s.settled (kdrTakes s.hard crcOk (limitPoint s.hard isl slot 0x0203 0) s.b)) := by
  show execKeyLimitNear isl slot crcOk s = _
  rw [execKeyLimitNear, act_live _ hlive, limitEvent_user hcached hlim hst htype hpoint htold]

theorem exec_keyLimitReached (hpoint : 2 ^ (s.b.slot slot.toNat).attr.limitExp.toNat ≤ s.b.useCount isl slot) (htold : (s.b.slot slot.toNat).told.getLsbD 1 = false) (crcOk : Bool) :
    exec (.keyLimitReached isl slot crcOk) s = .next (s.settled (kdrTakes s.hard crcOk (limitPoint s.hard isl slot 0x0204 1) s.b)) := by
  show execKeyLimitReached isl slot crcOk s = _
  rw [execKeyLimitReached, act_live _ hlive, limitEvent_user (point := fun e => 2 ^ e) hcached hlim hst htype hpoint htold]

end limitCommands

/-- Settles O23: one lemma per message and event of the KDR. -/
theorem killsLoadsMissesAndLimits : Obligations.KillsLoadsMissesAndLimits := by
  refine ⟨fun s isl slot rest hlive htake => ⟨exec_kdrKill hlive htake true, exec_kdrKill hlive htake false⟩, fun slot ms => ⟨fun rest => takeKill_eq_some, takeKill_eq_none⟩,
    fun s isl slot hlive hwait hdone => ⟨exec_kdrAcknowledge hlive hwait hdone true, exec_kdrAcknowledge hlive hwait hdone false⟩,
    fun s slot hlive hst hwait => exec_orphanZeroed hlive hst hwait,
    fun s n slot home gen prev v count commit o rest hlive hawake hrst hin => ⟨fun hgen => ?_, fun hgen hprev hcommit hrepl => ?_, ?_⟩,
    fun s isl p slot hlive hisl hawake hrst howner hslot hcached hpending => ⟨fun hgroup hrepl => ?_, fun r hgroup hrepl hstage => ?_, fun g hgroup => ?_, exec_keyCacheMiss hlive hisl hawake hrst howner false⟩,
    fun s isl slot e hlive hcached hlim => ⟨exec_keyCountReport hlive hcached hlim false, exec_keyCountReport hlive hcached hlim true⟩,
    fun s isl slot e hlive hcached hlim hst htype => ⟨fun hpoint htold => ⟨exec_keyLimitNear hlive hcached hlim hst htype hpoint htold false, ?_⟩,
      fun hpoint htold => ⟨exec_keyLimitReached hlive hcached hlim hst htype hpoint htold false, ?_⟩⟩⟩
  · rw [exec_kdrKeyLoad_me hlive hawake hrst, kdrLoaded_current hin _ hgen]
  · rw [exec_kdrKeyLoad_me hlive hawake hrst, kdrLoaded_stale hin _ hgen hprev hcommit hrepl]
  · rw [exec_kdrKeyLoad_me hlive hawake hrst, kdrLoaded_badCrc hin]
  · rw [exec_keyCacheMiss hlive hisl hawake hrst howner, kdrTakes_ok, missServed_key hgroup, wantKey_loads hslot hcached hpending, hrepl]
  · rw [exec_keyCacheMiss hlive hisl hawake hrst howner, kdrTakes_ok, missServed_key hgroup, wantKey_loads hslot hcached hpending, hrepl]
    simp only [hstage, if_true]
  · rw [exec_keyCacheMiss hlive hisl hawake hrst howner, kdrTakes_ok, missServed_group hgroup]
  · rw [exec_keyLimitNear hlive hcached hlim hst htype hpoint htold, kdrTakes_ok, limitPoint_user hcached htype]
    rfl
  · rw [exec_keyLimitReached hlive hcached hlim hst htype hpoint htold, kdrTakes_ok, limitPoint_user hcached htype]
    rfl

end Sys2Proof.Machine
end

section
/-! Replacements of keys (R120 to R124). -/

namespace Sys2Proof.Machine

theorem setRepl_repl (n : Nat) (r : Repl) (b : Block) : (setRepl n r b).repl n = some r := Tab.get?_set_same ..

/-- R123: one whose check has passed and that waits for no confirmation is confirmed. -/
theorem advanceRepl_confirms {slot : Slot} {r : Repl} {b : Block} (hrepl : b.repl slot.toNat = some r) (hstage : r.stage = .checked) (hawait : r.await = []) (h : Hard) : advanceRepl h slot b = confirmRepl h slot b := by
  rw [advanceRepl, hrepl]
  exact if_pos ⟨hstage, hawait⟩

/-- No other member is told of a user key's check. -/
theorem tellConfirm_user {slot : Slot} {r : Repl} {b : Block} (htype : (b.slot slot.toNat).attr.type = 13) (hlink : r.link = none) (h : Hard) : tellConfirm h slot r b = b := by
  have hother : (b.slot slot.toNat).attr.type ≠ 8 := by rw [htype]; decide
  unfold tellConfirm
  dsimp only
  rw [hlink]
  split
  · rfl
  · simp only [ne_eq, hother, not_false_eq_true, if_true]

section check
variable {s : State} {slot : Slot} {r : Repl} (hlive : s.b.live = true) (hrepl : s.b.repl slot.toNat = some r) (hstage : r.stage = .staged) (hpause : s.b.keysPaused = false)
include hlive hrepl hstage hpause

theorem exec_knownAnswerCheck_agrees (isl : Island) : exec (.knownAnswerCheck slot true isl) s = .next (s.settled (checkPassed s.hard slot r s.b)) := by
  have hgo : ¬ (r.stage ≠ .staged ∨ s.b.keysPaused = true) := by rw [hstage, hpause]; decide
  show execKnownAnswerCheck slot true isl s = _
  rw [execKnownAnswerCheck, act_live _ hlive, hrepl]
  simp only [if_neg hgo, if_true]

/-- R122: the first check that fails is recorded. -/
theorem exec_knownAnswerCheck_fails {isl : Island} (hfirst : r.failedKat = false) (hisl : (replIslands s.b slot).contains isl = true) :
    exec (.knownAnswerCheck slot false isl) s = .next (s.settled (keyNote s.hard 0x0207 27 slot.toNat [aByte (islandCode isl)] (setRepl slot.toNat { r with failedKat := true } s.b))) := by
  have hgo : ¬ (r.stage ≠ .staged ∨ s.b.keysPaused = true) := by rw [hstage, hpause]; decide
  show execKnownAnswerCheck slot false isl s = _
  rw [execKnownAnswerCheck, act_live _ hlive, hrepl]
  simp only [if_neg hgo, hfirst, hisl, Bool.false_eq_true, if_false, if_true]

/-- R122: the second is a Clamp. -/
theorem exec_knownAnswerCheck_clamps (isl : Island) (hagain : r.failedKat = true) : exec (.knownAnswerCheck slot false isl) s = .next (s.settled (clamp s.hard 3 27 none [] s.b)) := by
  have hgo : ¬ (r.stage ≠ .staged ∨ s.b.keysPaused = true) := by rw [hstage, hpause]; decide
  show execKnownAnswerCheck slot false isl s = _
  rw [execKnownAnswerCheck, act_live _ hlive, hrepl]
  simp only [if_neg hgo, hagain, Bool.false_eq_true, if_false, if_true]

end check

/-- R122, R123: a user key checked in time is confirmed. -/
theorem checkPassed_user {slot : Slot} {r : Repl} {b : Block} (htype : (b.slot slot.toNat).attr.type = 13) (hlink : r.link = none) (hawait : r.await = []) (htime : r.commitTick = 0 ∨ b.clk.tick.toNat ≤ r.commitTick.toNat) (h : Hard) :
    checkPassed h slot r b = confirmRepl h slot (setRepl slot.toNat { r with stage := .checked } b) := by
  have hlate : ¬ (r.commitTick ≠ 0 ∧ r.commitTick.toNat < b.now.toNat) := fun hl => htime.elim hl.1 fun ht => Nat.not_lt.mpr ht hl.2
  rw [checkPassed, if_neg hlate, tellConfirm_user (b := setRepl slot.toNat { r with stage := .checked } b) htype hlink, advanceRepl_confirms (setRepl_repl slot.toNat { r with stage := .checked } b) rfl hawait]

theorem checkPassed_late {slot : Slot} {r : Repl} {b : Block} (htick : r.commitTick ≠ 0) (hlate : r.commitTick.toNat < b.clk.tick.toNat) (h : Hard) : checkPassed h slot r b = failRepl h slot.toNat 1 stAborted b := by
  have hlate : r.commitTick ≠ 0 ∧ r.commitTick.toNat < b.now.toNat := ⟨htick, hlate⟩
  rw [checkPassed, if_pos hlate]

/-- R123: a confirmation that agrees, 10 µs before the commit at the latest, is one awaited no more. -/
theorem confirmed_agrees {slot : Slot} {r : Repl} {m : MemberRef} {kcv : Word} {b : Block} (hawait : r.await.contains m = true) (hkcv : kcv = kcvOf (b.slot r.shadow.toNat).value)
    (htime : b.clk.tick.toNat + 10000 ≤ r.commitTick.toNat) (h : Hard) : confirmed h slot r m kcv b = advanceRepl h slot (setRepl slot.toNat { r with await := r.await.filter fun x => decide (x ≠ m) } b) := by
  have hlate : ¬ (r.commitTick ≠ 0 ∧ r.commitTick.toNat < b.now.toNat + 10000) := fun hl => Nat.not_lt.mpr htime hl.2
  rw [confirmed, hawait, if_neg (by decide), if_neg (not_not.mpr hkcv), if_neg hlate]

/-- A link key's replacement that `context` names on the partition's own egress. -/
def namedBy (b : Block) (p : Part) (context : Word) (e : Nat × Repl) : Bool :=
  decide ((b.slot e.1).attr.owner = BitVec.ofNat 4 p.val) && (match e.2.link with | some l => l.egress && decide (linkContext l = context.toNat) | none => false)

theorem exec_keyConfirm_link {s : State} {sec : Sec} {n : Nat} {r : Repl} {cx : Word} (hhears : s.hears sec) (hfind : (heard sec s.b).ks.repls.find? (namedBy (heard sec s.b) sec.part cx) = some (n, r)) (kcv : Word) :
    exec (.keyConfirm sec 6 0 cx kcv) s = .next (s.settled (confirmed s.hard (BitVec.ofNat 12 n) r sec.peer kcv (heard sec s.b))) := by
  show execKeyConfirm sec 6 0 cx kcv s = _
  rw [execKeyConfirm, actSec_hears _ hhears, if_pos rfl]
  refine congrArg (fun b => Host.Outcome.next (s.settled b)) ?_
  have hmatch : (heard sec s.b).ks.repls.find? (fun e => decide (((heard sec s.b).slot e.1).attr.owner = BitVec.ofNat 4 sec.part.val) &&
      (match e.2.link with | some l => l.egress && decide (linkContext l = cx.toNat) | none => false)) = some (n, r) := hfind
  dsimp only
  erw [hmatch]
  rfl

section due
variable {s : State} {slot : Slot} {r : Repl} (hlive : s.b.live = true) (hrepl : s.b.repl slot.toNat = some r)
include hlive hrepl

/-- R123: a confirmation still awaited 10 µs before the commit fails the replacement. -/
theorem exec_keyConfirmDeadline {p : Part} (howner : ownerPart (s.b.slot slot.toNat).attr.owner = some p) (hawait : r.await ≠ []) (hstage : r.stage ≠ .committed)
    (hsess : ∀ m ∈ r.await, (s.b.peer p m).inSession = true) (htick : r.commitTick ≠ 0) (hlate : r.commitTick.toNat < s.b.clk.tick.toNat + 10000) :
    exec (.keyConfirmDeadline slot) s = .next (s.settled (failRepl s.hard slot.toNat 2 0x01 s.b)) := by
  have hgo : ¬ (r.await = [] ∨ r.stage = .committed) := not_or.mpr ⟨hawait, hstage⟩
  have hall : (r.await.any fun m => !(s.b.peer p m).inSession) = false := List.any_eq_false.mpr fun m hm => by rw [hsess m hm]; decide
  have hlate : r.commitTick ≠ 0 ∧ r.commitTick.toNat < s.b.now.toNat + 10000 := ⟨htick, hlate⟩
  show execKeyConfirmDeadline slot s = _
  rw [execKeyConfirmDeadline, act_live _ hlive, hrepl, howner]
  simp only [if_neg hgo, hall, Bool.false_eq_true, if_false, if_pos hlate]
  rfl

/-- R124: at its tick a confirmed replacement is committed. -/
theorem exec_keyReplaceCommit (hstage : r.stage = .confirmed) (htick : r.commitTick ≠ 0) (hdue : r.commitTick.toNat ≤ s.b.clk.tick.toNat) :
    exec (.keyReplaceCommit slot) s = .next (s.settled (pushAll (commitRepl s.hard slot s.b))) := by
  have hgo : ¬ (r.stage = .committed ∨ r.commitTick = 0 ∨ s.b.now.toNat < r.commitTick.toNat) := by
    rintro (h | h | h)
    · rw [hstage] at h; cases h
    · exact htick h
    · exact Nat.not_lt.mpr hdue h
  have hcommit : dueRepl s.hard slot s.b = commitRepl s.hard slot s.b := by
    rw [dueRepl, hrepl]
    simp only [if_neg hgo, if_pos hstage]
  show execKeyReplaceCommit slot s = _
  rw [execKeyReplaceCommit, act_live _ hlive, hcommit]

/-- R124: at its retirement the value before is invalidated. -/
theorem exec_keyRetire {t : Word} (hstage : r.stage = .committed) (hretire : r.retireTick = some t) (hdue : t.toNat ≤ s.b.clk.tick.toNat) :
    exec (.keyRetire slot) s = .next (s.settled (invalidate s.hard r.shadow.toNat none (dropRepl slot.toNat s.b))) := by
  have hdue : t.toNat ≤ s.b.now.toNat := hdue
  have hret : retireRepl s.hard slot s.b = invalidate s.hard r.shadow.toNat none (dropRepl slot.toNat s.b) := by rw [retireRepl, hrepl]; exact if_pos hstage
  show execKeyRetire slot s = _
  rw [execKeyRetire, act_live _ hlive, hrepl, Option.bind_some, hretire]
  simp only [if_pos hdue, hret]

end due

/-- Settles O24: the check, the confirmation and its deadline, the commit and the retirement. -/
theorem replacementsAreCheckedConfirmedAndCommitted : Obligations.ReplacementsAreCheckedConfirmedAndCommitted := by
  refine ⟨fun s slot r hlive hrepl hstage hpause => ⟨fun isl htype hlink hawait htime => ?_, fun isl htick hlate => ?_, fun isl hfirst hisl => exec_knownAnswerCheck_fails hlive hrepl hstage hpause hfirst hisl,
      fun isl hagain => exec_knownAnswerCheck_clamps hlive hrepl hstage hpause isl hagain⟩,
    fun s sec n r cx kcv hhears hfind hn hawait hkcv htime => ?_,
    fun s slot r p hlive hrepl howner hawait hstage hsess htick hlate => exec_keyConfirmDeadline hlive hrepl howner hawait hstage hsess htick hlate,
    fun s slot r hlive hrepl hstage htick hdue => exec_keyReplaceCommit hlive hrepl hstage htick hdue, fun s slot r t hlive hrepl hstage hretire hdue => exec_keyRetire hlive hrepl hstage hretire hdue⟩
  · rw [exec_knownAnswerCheck_agrees hlive hrepl hstage hpause, checkPassed_user htype hlink hawait htime]
  · rw [exec_knownAnswerCheck_agrees hlive hrepl hstage hpause, checkPassed_late htick hlate]
  · have hslot : (BitVec.ofNat 12 n).toNat = n := by rw [BitVec.toNat_ofNat]; exact Nat.mod_eq_of_lt hn
    rw [exec_keyConfirm_link hhears hfind, confirmed_agrees hawait hkcv htime, hslot]

end Sys2Proof.Machine
end

section
/-! Frames at the receiver and in the Shim, and the synchronisation of streams (R37, R187 to R198). -/

namespace Sys2Proof.Machine

/-! ### A frame at the receiving LE -/

section received
variable {s : State} {k : Port} (hlive : s.b.live = true) (hport : portPresent s.hard.cfg k = true) (hrst : (s.b.island (portIsland k)).inReset = false)
include hlive hport hrst

theorem exec_frameReceived_awake (hawake : (s.b.island (portIsland k)).asleep = false) (node : BitVec 16) (p : Part) (bs : Bytes) :
    exec (.frameReceived k node p bs) s = .next (s.withB (receiveFrame s.hard p k bs s.b.now s.b)) := by
  show execFrameReceived k node p bs s = _
  rw [execFrameReceived, onB_next, whenLive_live _ hlive]
  simp only [hport, hrst, hawake, Bool.not_true, Bool.or_self, Bool.false_eq_true, if_false]

theorem exec_frameReceived_asleep (hasleep : (s.b.island (portIsland k)).asleep = true) (node : BitVec 16) (p : Part) (bs : Bytes) :
    exec (.frameReceived k node p bs) s = .next (s.withB (waitFrame p k s.b.now bs s.b)) := by
  show execFrameReceived k node p bs s = _
  rw [execFrameReceived, onB_next, whenLive_live _ hlive]
  simp only [hport, hrst, hasleep, Bool.not_true, Bool.or_self, Bool.false_eq_true, if_false, if_true]

end received

/-- Mode 0 takes every frame that is no pattern frame. -/
theorem modeTakes_zero {f : Frame} (h : f.ftype ≠ 6) (h' : f.ftype ≠ 7) : modeTakes 0 f = true := by
  have hpat : decide (f.ftype = 6 ∨ f.ftype = 7) = false := decide_eq_false (not_or.mpr ⟨h, h'⟩)
  rw [modeTakes, hpat]; rfl

theorem receiveFrame_malformed {bs : Bytes} (h : parseFrame bs = none) (hw : Hard) (p : Part) (k : Port) (t : Word) (b : Block) :
    receiveFrame hw p k bs t b = modPort k (fun x => { x with malformed := x.malformed + 1 }) b := by rw [receiveFrame, h]

section parsed
variable {b : Block} {k : Port} {p : Part} {bs : Bytes} {f : Frame} (hparse : parseFrame bs = some f) (hmode : (b.port k).mode = 0) (hw : Hard) (t : Word)
include hparse hmode

theorem receiveFrame_admission (htype : f.ftype = 4) : receiveFrame hw p k bs t b = emit (.toEnvelope p f.payload) b := by
  have htakes : ¬ modeTakes (b.port k).mode f = false := by rw [hmode, modeTakes_zero (by rw [htype]; decide) (by rw [htype]; decide)]; decide
  rw [receiveFrame, hparse]
  simp only [if_neg htakes, if_pos htype]

section routed
variable (hne4 : f.ftype ≠ 4) (hne6 : f.ftype ≠ 6) (hne7 : f.ftype ≠ 7)
include hne4 hne6 hne7

/-- R194: a frame for a partition that is not loaded is counted. -/
theorem receiveFrame_noPart (hjig : b.jigOf p = none) : receiveFrame hw p k bs t b = modPort k (fun x => { x with noPart := x.noPart + 1 }) b := by
  have htakes : ¬ modeTakes (b.port k).mode f = false := by rw [hmode, modeTakes_zero hne6 hne7]; decide
  rw [receiveFrame, hparse]
  simp only [if_neg htakes, if_neg hne4, if_neg (not_or.mpr ⟨hne6, hne7⟩), hjig]

theorem receiveFrame_routed {j : Jig} (hjig : b.jigOf p = some j) (hkeyed : b.keyed p = true) : receiveFrame hw p k bs t b = routeFrame hw p k j bs f t b := by
  have htakes : ¬ modeTakes (b.port k).mode f = false := by rw [hmode, modeTakes_zero hne6 hne7]; decide
  rw [receiveFrame, hparse]
  simp only [if_neg htakes, if_neg hne4, if_neg (not_or.mpr ⟨hne6, hne7⟩), hjig, hkeyed, Bool.true_eq_false, if_false]

end routed
end parsed

theorem routeFrame_tray {f : Frame} (htype : f.ftype = 8) (hhops : f.hops.toNat ≤ 5) (hw : Hard) (p : Part) (k : Port) (j : Jig) (bs : Bytes) (t : Word) (b : Block) :
    routeFrame hw p k j bs f t b = emit (.toTray p f.payload) (noteHops p j f b) := by
  rw [routeFrame, if_neg (Nat.not_lt.mpr hhops), if_pos htype]

/-! ### Scheduled data and stale frames -/

/-- R37: data of a scheduled egress slot is sealed for its pin. -/
theorem exec_streamSlotData {s : State} {p : Part} {k : Port} {t : Word} {j : Jig} {sc : Schedule} {e : SchedEntry} (hlive : s.b.live = true) (hjig : s.b.jigOf p = some j) (hsched : s.b.schedule p = some sc)
    (hentry : egressEntry sc k t.toNat = some e) (hstart : t.toNat ≤ s.b.clk.tick.toNat) (hend : s.b.clk.tick.toNat < t.toNat + sc.slotTicks) (hgone : s.b.gone p e.peer = false) (hcls : e.cls = 1)
    (hstop : egressStopped s.b p k = false) (data : Bytes) : exec (.streamSlotData p k t data) s = .next (s.withB (sealScheduled s.hard p k sc e j t data s.b)) := by
  have hin : ¬ (s.b.now.toNat < t.toNat ∨ t.toNat + sc.slotTicks ≤ s.b.now.toNat ∨ s.b.gone p e.peer = true) := by
    rw [hgone]
    exact not_or.mpr ⟨Nat.not_lt.mpr hstart, not_or.mpr ⟨Nat.not_le.mpr hend, Bool.false_ne_true⟩⟩
  have hcls : ¬ e.cls = 2 := by rw [hcls]; decide
  show execStreamSlotData p k t data s = _
  rw [execStreamSlotData, onB_next, whenLive_live _ hlive, hjig, hsched]
  simp only [hentry, if_neg hin, if_neg hcls, hstop, Bool.false_eq_true, if_false]

/-- R193: a sealed frame 1,250 ticks into the next epoch is stale. -/
theorem staleNow_sealed {b : Block} {x : Pinned} {j : Jig} (hjig : b.jigOf x.part = some j) (hsealed : x.sealed' = true) (hold : epochStart j (x.epoch + 1) + 1250 ≤ b.clk.tick.toNat) : staleNow b x = true := by
  have hold : b.epochTick x.part (x.epoch + 1) + 1250 ≤ b.now.toNat := by rw [Block.epochTick, hjig]; exact hold
  rw [staleNow, staleAt, hsealed, decide_eq_true hold]
  rfl

theorem exec_staleDrop_single {s : State} {p : Part} {k : Port} {x : Pinned} (hlive : s.b.live = true) (hshim : s.b.shim = [(.egress k, x)]) (hpart : x.part = p) (hstale : staleNow s.b x = true) :
    exec (.staleDrop p) s = .next (s.withB (dropStale s.hard k x s.b)) := by
  show execStaleDrop p s = _
  rw [execStaleDrop, onB_next, whenLive_live _ hlive, hshim]
  simp only [List.foldl_cons, List.foldl_nil, if_pos (And.intro hpart hstale)]

/-- Settles O29: the receiving LE's first steps by the frame's type, the sealing of a slot's data, and the drop of a stale frame. -/
theorem framesAreCheckedScheduledAndDropped : Obligations.FramesAreCheckedScheduledAndDropped := by
  refine ⟨fun s k node p bs hlive hport hrst hawake => ⟨fun hparse => ?_, fun f hparse hmode => ⟨fun htype => ?_, fun htype hjig => ?_, fun j htype hjig hkeyed hhops => ?_⟩⟩,
    fun s p k t data j sc e hlive hjig hsched hentry hstart hend hgone hcls hstop => exec_streamSlotData hlive hjig hsched hentry hstart hend hgone hcls hstop data,
    fun s k node p bs hlive hport hrst hasleep => exec_frameReceived_asleep hlive hport hrst hasleep node p bs,
    fun s p k x j hlive hjig hshim hpart hsealed hold => ?_⟩
  · rw [exec_frameReceived_awake hlive hport hrst hawake, receiveFrame_malformed hparse]
  · rw [exec_frameReceived_awake hlive hport hrst hawake, receiveFrame_admission hparse hmode _ _ htype]
  · rw [exec_frameReceived_awake hlive hport hrst hawake, receiveFrame_noPart hparse hmode _ _ (by rw [htype]; decide) (by rw [htype]; decide) (by rw [htype]; decide) hjig]
  · rw [exec_frameReceived_awake hlive hport hrst hawake, receiveFrame_routed hparse hmode _ _ (by rw [htype]; decide) (by rw [htype]; decide) (by rw [htype]; decide) hjig hkeyed,
      routeFrame_tray htype hhops]
  · subst hpart
    rw [exec_staleDrop_single hlive hshim rfl (staleNow_sealed hjig hsealed hold), dropStale, hshim, List.filter_cons, if_neg (by simp), List.filter_nil]

/-! ### Streams -/

theorem modPortPart_portPart_ne {k k' : Port} {p p' : Part} (h : k' ≠ k ∨ p' ≠ p) (f : PortPart → PortPart) (b : Block) : (modPortPart k p f b).portPart k' p' = b.portPart k' p' := by
  refine Tab.getD_upd_other _ (fun e => ?_) ..
  have hk : k'.val = k.val := by omega
  have hp : p'.val = p.val := by omega
  exact h.elim (fun hne => hne (Fin.ext hk)) fun hne => hne (Fin.ext hp)

theorem modLePart_lePart_ne {n n' : Fin 16} {p p' : Part} (h : n' ≠ n ∨ p' ≠ p) (f : LePart → LePart) (b : Block) : (modLePart n p f b).lePart n' p' = b.lePart n' p' := by
  refine Tab.getD_upd_other _ (fun e => ?_) ..
  have hn : n'.val = n.val := by omega
  have hp : p'.val = p.val := by omega
  exact h.elim (fun hne => hne (Fin.ext hn)) fun hne => hne (Fin.ext hp)

/-- A port's counter of a stream raised to at least `f` (R198). -/
def raiseSeq (p : Part) (e : BitVec 24) (stream : Byte) (f : Nat) (k : Port) (b : Block) : Block :=
  modPortPart k p (fun x => { x with seqs := Tab.set x.seqs (seqKey e stream) (max f (b.seqOf p k e stream)) }) b

theorem seqOf_congr {b c : Block} {p : Part} {k : Port} (h : b.portPart k p = c.portPart k p) (hp : b.parts = c.parts) (hi : b.islands = c.islands) (e : BitVec 24) (stream : Byte) :
    b.seqOf p k e stream = c.seqOf p k e stream := by
  have htick : b.epochTick p e = c.epochTick p e := by rw [Block.epochTick, Block.jigOf, Block.part, hp]; rfl
  rw [Block.seqOf, h, htick, Block.island, hi]
  rfl

theorem raiseSeq_seqOf (p : Part) (e : BitVec 24) (stream : Byte) (f : Nat) (k : Port) (b : Block) : (raiseSeq p e stream f k b).seqOf p k e stream = max f (b.seqOf p k e stream) := by
  rw [Block.seqOf, raiseSeq, modPortPart_portPart, Tab.get?_set_same]

theorem raiseSeq_seqOf_ne {k q : Port} (h : q ≠ k) (p : Part) (e : BitVec 24) (stream : Byte) (f : Nat) (b : Block) : (raiseSeq p e stream f k b).seqOf p q e stream = b.seqOf p q e stream :=
  seqOf_congr (modPortPart_portPart_ne (.inl h) ..) rfl rfl e stream

/-- The counters of a list of ports raised one after the other. -/
def raiseSeqs (p : Part) (e : BitVec 24) (stream : Byte) (f : Nat) (ks : List Nat) (b : Block) : Block := ks.foldl (fun b k => raiseSeq p e stream f (Fin.ofNat 64 k) b) b

theorem raiseSeqs_frame (p : Part) (e : BitVec 24) (stream : Byte) (f : Nat) (ks : List Nat) (b : Block) : raiseSeqs p e stream f ks b = { b with pports := (raiseSeqs p e stream f ks b).pports } := by
  induction ks generalizing b with
  | nil => rfl
  | cons k ks ih => exact ih (raiseSeq p e stream f (Fin.ofNat 64 k) b)

theorem raiseSeqs_seqOf_le {p : Part} {e : BitVec 24} {stream : Byte} {f : Nat} (ks : List Nat) {b : Block} (h : ∀ q, b.seqOf p q e stream ≤ f) : ∀ q, (raiseSeqs p e stream f ks b).seqOf p q e stream ≤ f := by
  induction ks generalizing b with
  | nil => exact h
  | cons k ks ih =>
    refine ih fun q => ?_
    by_cases hq : q = Fin.ofNat 64 k
    · rw [hq, raiseSeq_seqOf]; exact max_le (Nat.le_refl f) (h _)
    · rw [raiseSeq_seqOf_ne hq]; exact h q

/-- R198: with no counter past it, every port of the list stands at `f`. -/
theorem raiseSeqs_seqOf {p : Part} {e : BitVec 24} {stream : Byte} {f : Nat} {ks : List Nat} {b : Block} (h : ∀ q, b.seqOf p q e stream ≤ f) {q : Port} (hq : q.val ∈ ks) :
    (raiseSeqs p e stream f ks b).seqOf p q e stream = f := by
  refine Nat.le_antisymm (raiseSeqs_seqOf_le ks h q) ?_
  have hkeep (ks : List Nat) {b : Block} (hb : f ≤ b.seqOf p q e stream) : f ≤ (raiseSeqs p e stream f ks b).seqOf p q e stream := by
    induction ks generalizing b with
    | nil => exact hb
    | cons k ks ih =>
      refine ih ?_
      by_cases hq : q = Fin.ofNat 64 k
      · rw [hq, raiseSeq_seqOf]; exact le_max_left ..
      · rw [raiseSeq_seqOf_ne hq]; exact hb
  induction ks generalizing b with
  | nil => cases hq
  | cons k ks ih =>
    by_cases hk : q.val = k
    · have hk : Fin.ofNat 64 k = q := Fin.ext (by simp [← hk])
      refine hkeep ks (b := raiseSeq p e stream f (Fin.ofNat 64 k) b) ?_
      rw [hk, raiseSeq_seqOf]; exact le_max_left ..
    · refine ih (b := raiseSeq p e stream f (Fin.ofNat 64 k) b) (fun x => ?_) ((List.mem_cons.mp hq).resolve_left hk)
      exact raiseSeqs_seqOf_le [k] h x

/-- The port on which a synchronisation is answered: the stream's own egress where there is one. -/
def answerPort (b : Block) (p : Part) (k : Port) (sender : BitVec 16) (stream : Byte) : Port :=
  match (b.entries p).find? fun e => e.egress && decide (e.peer = sender) && decide (e.stream = stream) with
  | some e => Fin.ofNat 64 e.port
  | none => k

theorem exec_syncReq {s : State} {p : Part} {k : Port} (hlive : s.b.live = true) (hkeyed : s.b.keyed p = true) (hport : portPresent s.hard.cfg k = true) (hstart : (s.b.epochSt p).start.toNat ≤ s.b.clk.tick.toNat)
    (sender : BitVec 16) (stream : Byte) (ch : Word) : ∃ q, exec (.syncReq p k sender (s.b.selfIndex p) stream ch (s.b.epochSt p).epoch) s =
      .next (s.withB (sendControl p q false sender (ctlBytes 2 sender stream ch (4 * (s.b.clk.tick.toNat - (s.b.epochSt p).start.toNat + 1)))
        (raiseSeqs p (s.b.epochSt p).epoch stream (4 * (s.b.clk.tick.toNat - (s.b.epochSt p).start.toNat + 1)) (List.range (portCount s.hard.cfg)) s.b))) := by
  have hseed : seqSeed (s.b.epochSt p).start.toNat s.b.now.toNat = 4 * (s.b.clk.tick.toNat - (s.b.epochSt p).start.toNat + 1) := if_neg (Nat.not_lt.mpr hstart)
  refine ⟨answerPort (raiseSeqs p (s.b.epochSt p).epoch stream (4 * (s.b.clk.tick.toNat - (s.b.epochSt p).start.toNat + 1)) (List.range (portCount s.hard.cfg)) s.b) p k sender stream, ?_⟩
  show execSyncReq p k sender (s.b.selfIndex p) stream ch (s.b.epochSt p).epoch s = _
  rw [execSyncReq, onB_next, whenLive_live _ hlive]
  simp only [hkeyed, hport, hseed, ne_eq, not_true_eq_false, decide_false, Bool.not_true, Bool.or_self, Bool.false_eq_true, if_false]
  rfl

/-! ### Answers and retries -/

/-- What an answer does at one LE of the partition. -/
def ackAt (p : Part) (sender : BitVec 16) (sport : BitVec 6) (stream : Byte) (ch : Word) (floor : BitVec 48) (b : Block) (n : Nat) : Block :=
  match (b.lePart (Fin.ofNat 16 n) p).pendingRec sender stream fun r => decide (r.challenge = ch) with
  | none => b
  | some r =>
    let b := putRecord (Fin.ofNat 16 n) p { r with st := 1, floor := floor.toNat, sport := if r.scheduled then sport else r.sport } b
    if r.scheduled && !r.skind then fetchIngress p (Fin.ofNat 64 (4 * n)) sender sport (b.epochSt p).epoch b else b

section acks
variable {p : Part} {sender : BitVec 16} {sport : BitVec 6} {stream : Byte} {ch : Word} {floor : BitVec 48} {b : Block}

theorem ackAt_none {n : Nat} (h : (b.lePart (Fin.ofNat 16 n) p).pendingRec sender stream (fun r => decide (r.challenge = ch)) = none) : ackAt p sender sport stream ch floor b n = b := by rw [ackAt, h]

theorem ackAt_pending {n : Nat} {r : StreamRec} (h : (b.lePart (Fin.ofNat 16 n) p).pendingRec sender stream (fun r => decide (r.challenge = ch)) = some r) (hsched : r.scheduled = false) :
    ackAt p sender sport stream ch floor b n = putRecord (Fin.ofNat 16 n) p { r with st := 1, floor := floor.toNat } b := by
  rw [ackAt, h]
  simp only [hsched, Bool.false_and, Bool.false_eq_true, if_false]

/-- LEs with no record pending are passed over. -/
theorem foldl_ackAt_none {ns : List Nat} (h : ∀ n ∈ ns, (b.lePart (Fin.ofNat 16 n) p).pendingRec sender stream (fun r => decide (r.challenge = ch)) = none) : ns.foldl (ackAt p sender sport stream ch floor) b = b := by
  induction ns with
  | nil => rfl
  | cons n ns ih =>
    rw [List.foldl_cons, ackAt_none (h n List.mem_cons_self)]
    exact ih fun m hm => h m (List.mem_cons_of_mem _ hm)

theorem leIndex_ne {n m : Nat} (hn : n < 16) (hm : m < 16) (h : m ≠ n) : (Fin.ofNat 16 m) ≠ Fin.ofNat 16 n := fun e => h (by
  have hv := congrArg Fin.val e
  simpa [Fin.ofNat, Nat.mod_eq_of_lt hn, Nat.mod_eq_of_lt hm] using hv)

/-- R199: the one LE whose record the challenge matches takes the answer. -/
theorem foldl_ackAt_one {c n : Nat} (hc : c ≤ 16) (hn : n < c) {r : StreamRec}
    (hothers : ∀ m, m < c → m ≠ n → (b.lePart (Fin.ofNat 16 m) p).pendingRec sender stream (fun r => decide (r.challenge = ch)) = none)
    (h : (b.lePart (Fin.ofNat 16 n) p).pendingRec sender stream (fun r => decide (r.challenge = ch)) = some r) (hsched : r.scheduled = false) :
    (List.range c).foldl (ackAt p sender sport stream ch floor) b = putRecord (Fin.ofNat 16 n) p { r with st := 1, floor := floor.toNat } b := by
  induction c with
  | zero => omega
  | succ c ih =>
    rw [List.range_succ, List.foldl_append]
    by_cases hlast : n = c
    · subst hlast
      have hbefore : (List.range n).foldl (ackAt p sender sport stream ch floor) b = b := foldl_ackAt_none fun m hm => hothers m (by have := List.mem_range.mp hm; omega) (by have := List.mem_range.mp hm; omega)
      rw [hbefore]
      exact ackAt_pending h hsched
    · rw [ih (by omega) (by omega) fun m hm hne => hothers m (by omega) hne]
      refine ackAt_none ?_
      rw [putRecord, modLePart_lePart_ne (.inl (leIndex_ne (by omega) (by omega) (Ne.symm hlast)))]
      exact hothers c (by omega) (Ne.symm hlast)

end acks

theorem leCount_le (c : Cfg) : leCount c ≤ 16 := by cases c <;> decide

theorem exec_syncAck {s : State} {k : Port} (hlive : s.b.live = true) (hport : portPresent s.hard.cfg k = true) (p : Part) (sender : BitVec 16) (sport : BitVec 6) (stream : Byte) (ch : Word) (floor : BitVec 48) :
    exec (.syncAck p k sender sport stream ch floor) s = .next (s.withB ((List.range (leCount s.hard.cfg)).foldl (ackAt p sender sport stream ch floor) s.b)) := by
  show execSyncAck p k sender sport stream ch floor s = _
  rw [execSyncAck, onB_next, whenLive_live _ hlive, hport]
  rfl

section retry
variable {s : State} {p : Part} {k : Port} {sender : BitVec 16} {stream : Byte} {r : StreamRec} (hlive : s.b.live = true)
  (hpend : (s.b.lePart (portLe k) p).pendingRec sender stream (fun y => decide (20000 ≤ since s.b y.asked)) = some r)
include hlive hpend

theorem exec_syncReqRetry_again (htries : r.tries < 3) : exec (.syncReqRetry p k sender stream) s = .next (s.withB (sendSync p { r with tries := r.tries + 1, asked := s.b.clk.tick }
    (putRecord (portLe k) p { r with tries := r.tries + 1, asked := s.b.clk.tick } s.b))) := by
  show execSyncReqRetry p k sender stream s = _
  rw [execSyncReqRetry, onB_next, whenLive_live _ hlive, hpend]
  simp only [if_pos htries]
  rfl

theorem exec_syncReqRetry_fails (htries : 3 ≤ r.tries) : exec (.syncReqRetry p k sender stream) s = .next (s.withB (linkNote s.hard 0x0406 p r.port
    (fun n => [aHalf sender.toNat, aByte stream.toNat, aW3 (s.b.epochSt p).epoch.toNat, aCount n]) (putRecord (portLe k) p { r with st := 2 } s.b))) := by
  show execSyncReqRetry p k sender stream s = _
  rw [execSyncReqRetry, onB_next, whenLive_live _ hlive, hpend]
  simp only [if_neg (Nat.not_lt.mpr htries)]

end retry

/-- Settles O30: the counters and the answer, the record that the answer matches, and the retries. -/
theorem streamsSynchronise : Obligations.StreamsSynchronise := by
  refine ⟨fun s p k sender stream ch hlive hkeyed hport hstart hseqs => ?_, fun s p k sender sport stream floor n r hlive hport hn hothers hpend hsched => ?_,
    fun s p k sender stream r hlive hpend => ⟨fun htries => exec_syncReqRetry_again hlive hpend htries, fun htries => exec_syncReqRetry_fails hlive hpend htries⟩⟩
  · obtain ⟨q, he⟩ := exec_syncReq hlive hkeyed hport hstart sender stream ch
    have hframe := raiseSeqs_frame p (s.b.epochSt p).epoch stream (4 * (s.b.clk.tick.toNat - (s.b.epochSt p).start.toNat + 1)) (List.range (portCount s.hard.cfg)) s.b
    refine ⟨_, he, fun q' hq' => ?_, ⟨q, { part := p, ftype := 2, stream := 0xFF, dest := sender, switch := false, node := 0, payload := _, tick := s.b.clk.tick, notice := false, tag := none }, ?_, rfl, rfl, rfl, rfl⟩, ?_⟩
    · refine (seqOf_congr rfl rfl rfl _ _).trans (raiseSeqs_seqOf hseqs (List.mem_range.mpr (of_decide_eq_true hq')))
    · refine (modPort_port ..).trans ?_
      rw [hframe]
      rfl
    · rw [sendControl, hframe]
      rfl
  · rw [exec_syncAck hlive hport, foldl_ackAt_one (leCount_le _) hn hothers hpend hsched]

end Sys2Proof.Machine
end

section
/-! The change of link keys with the epoch (R195 to R201). -/

namespace Sys2Proof.Machine

/-! ### What the change of keys leaves of the LEs' records -/

@[simp] theorem markOrphan_lparts (n : Nat) (b : Block) : (markOrphan n b).lparts = b.lparts := rfl
@[simp] theorem dropRepl_lparts (n : Nat) (b : Block) : (dropRepl n b).lparts = b.lparts := rfl
@[simp] theorem setRepl_lparts (n : Nat) (r : Repl) (b : Block) : (setRepl n r b).lparts = b.lparts := rfl
@[simp] theorem keyNote_lparts (h : Hard) (code isl n : Nat) (args : List (Nat × Nat)) (b : Block) : (keyNote h code isl n args b).lparts = b.lparts := note_lparts ..

@[simp] theorem noteLinkFail_lparts (owner : BitVec 4) (l : Option LinkRef) (cause : Nat) (b : Block) : (noteLinkFail owner l cause b).lparts = b.lparts := by
  unfold noteLinkFail
  split
  · rfl
  · split <;> rfl

@[simp] theorem completeOpt_lparts (h : Hard) (ctx : Option CmdCtx) (st : Byte) (reason r1 r2 : Nat) (b : Block) : (completeOpt h ctx st reason r1 r2 b).lparts = b.lparts := by
  cases ctx with
  | none => rfl
  | some c => exact complete_lparts ..

theorem failRepl_lparts (h : Hard) (n cause : Nat) (st : Byte) (b : Block) : (failRepl h n cause st b).lparts = b.lparts := by
  unfold failRepl
  split
  · rfl
  · simp only [completeOpt_lparts, keyNote_lparts, markOrphan_lparts, dropRepl_lparts, noteLinkFail_lparts]

theorem orphanPasses_lparts (n : Nat) (b : Block) : (orphanPasses n b).lparts = b.lparts := by
  induction n generalizing b with
  | zero => rfl
  | succ n ih => exact ih (orphanPass b)

theorem orphanRepls_lparts (h : Hard) (b : Block) : (orphanRepls h b).lparts = b.lparts := by
  refine foldl_keeps Block.lparts (fun b e => ?_) ..
  split
  · simp only [completeOpt_lparts, keyNote_lparts, markOrphan_lparts, dropRepl_lparts, noteLinkFail_lparts]
  · split <;> rfl

theorem sendKills_lparts (ss : List Nat) (b : Block) : (sendKills ss b).1.lparts = b.lparts :=
  foldl_keeps (fun r : Block × List (Island × Slot) => r.1.lparts) (b := (b, []))
    (fun r k => foldl_keeps Block.lparts (fun b i => (rfl : (sendKdr i (.kill (BitVec.ofNat 12 k)) b).lparts = b.lparts)) ((r.1.slot k).heldBy) r.1) ss

theorem invalDone_lparts (h : Hard) (v : Inval) (b : Block) : (invalDone h v b).lparts = b.lparts := by rw [invalDone, completeOpt_lparts, note_lparts]

theorem invalidate_lparts (h : Hard) (n : Nat) (ctx : Option CmdCtx) (b : Block) : (invalidate h n ctx b).lparts = b.lparts := by
  have hsent (ss : List Nat) : (sendKills ss (orphanRepls h (orphanPasses 7 (markOrphan n b)))).1.lparts = b.lparts := by
    rw [sendKills_lparts, orphanRepls_lparts, orphanPasses_lparts, markOrphan_lparts]
  unfold invalidate
  dsimp only
  split
  · rw [invalDone_lparts, hsent]
  · exact hsent _

theorem retireRepl_lparts (h : Hard) (k : Slot) (b : Block) : (retireRepl h k b).lparts = b.lparts := by
  unfold retireRepl
  split
  · rfl
  · split
    · rw [invalidate_lparts, dropRepl_lparts]
    · rfl

theorem linkCommit_lparts (p : Part) (k : Slot) (l : LinkRef) (b : Block) : (linkCommit p k l b).lparts = b.lparts := by
  unfold linkCommit
  dsimp only
  split <;> rfl

theorem regionCommit_lparts (h : Hard) (k shadow : Slot) (gen : BitVec 16) (b : Block) : (regionCommit h k shadow gen b).lparts = b.lparts := by
  refine foldl_keeps Block.lparts (fun b e => ?_) ..
  split
  · rfl
  · dsimp only
    split
    · rw [note_lparts]; rfl
    · rfl

theorem commitRepl_lparts (h : Hard) (k : Slot) (b : Block) : (commitRepl h k b).lparts = b.lparts := by
  unfold commitRepl
  split
  · rfl
  · next r hr =>
    have hlink {c : Block} (hc : c.lparts = b.lparts) (o : Option Part) : (match r.link, o with | some l, some p => linkCommit p k l c | _, _ => c).lparts = b.lparts := by
      split
      · rw [linkCommit_lparts, hc]
      · exact hc
    have hregion {c : Block} (hc : c.lparts = b.lparts) (q : Prop) [Decidable q] (gen : BitVec 16) : (if q then regionCommit h k r.shadow gen c else c).lparts = b.lparts := by
      split
      · rw [regionCommit_lparts, hc]
      · exact hc
    dsimp only
    split
    · rw [completeOpt_lparts]
      refine hregion (hlink ?_ _) ..
      rw [keyNote_lparts]; rfl
    · rw [retireRepl_lparts, completeOpt_lparts]
      refine hregion (hlink ?_ _) ..
      rw [keyNote_lparts]; rfl

theorem dueRepl_lparts (h : Hard) (k : Slot) (b : Block) : (dueRepl h k b).lparts = b.lparts := by
  unfold dueRepl
  split
  · rfl
  · split
    · rfl
    · split
      · exact commitRepl_lparts ..
      · exact failRepl_lparts ..

theorem linkNote_lparts (h : Hard) (code : Nat) (p : Part) (k : Port) (args : Nat → List (Nat × Nat)) (b : Block) : (linkNote h code p k args b).lparts = b.lparts := noteLimited_lparts ..

theorem holdPort_lparts (h : Hard) (p : Part) (k : Port) (e : BitVec 24) (cause : Nat) (b : Block) : (holdPort h p k e cause b).lparts = b.lparts := by
  unfold holdPort
  dsimp only
  split
  · rfl
  · rw [linkNote_lparts]; rfl

theorem countUses_lparts (i : Island) (k : Slot) (n : Nat) (b : Block) : (countUses i k n b).lparts = b.lparts := by
  unfold countUses
  dsimp only
  split
  · rfl
  · split_ifs <;> rfl

theorem sealOne_lparts (k : Port) (b : Block) (x : Pinned) : (sealOne k b x).lparts = b.lparts := by
  unfold sealOne
  dsimp only
  split
  · rfl
  split
  · rfl
  split
  · split <;> rfl
  split
  · rfl
  split
  · rw [countUses_lparts]
  · rfl

theorem sealWaiting_lparts (on : Lane → Bool) (b : Block) : (sealWaiting on b).lparts = b.lparts := by
  refine foldl_keeps Block.lparts (fun b y => ?_) ..
  split
  · split
    · exact sealOne_lparts ..
    · rfl
  · rfl

/-- With no LE's record of the partition the boundary makes none. -/
theorem boundary_lparts {b : Block} (hnone : b.lparts = []) (h : Hard) (p : Part) (j : Jig) : (boundary h p j b).lparts = [] := by
  unfold boundary
  dsimp only
  generalize hports : List.foldl _ _ ((List.range (portCount h.cfg)).map fun k => Fin.ofNat 64 k) = c
  have hc : c.lparts = [] := by
    rw [← hports, foldl_keeps Block.lparts fun b k => ?_, foldl_keeps Block.lparts fun b x => dueRepl_lparts .., modEpoch_lparts, hnone]
    generalize hseq : (if (b.portPart k p).seqs = [] ∧ (b.portPart k p).carried3 = false then b else _) = d
    have hd : d.lparts = b.lparts := by rw [← hseq]; split <;> rfl
    rw [apply_ite Block.lparts, holdPort_lparts, hd, ite_self]
  have hle (ns : List Nat) : ∀ {c : Block}, c.lparts = [] → (ns.foldl (fun b n => if Tab.has b.lparts (8 * n + p.val) = false then b
      else modLePart (Fin.ofNat 16 n) p (fun l =>
        { l with records := l.records.map fun r => { r with prevFloor := if r.st = 1 then some r.floor else none, st := 1, floor := 0, usedPrev := r.used, used := false },
                 contexts := l.contexts.map fun c => { c with prev := some c.cur, cur := Window.fresh 0, usedPrev := c.used, used := false } }) b) c).lparts = [] := by
    induction ns with
    | nil => exact id
    | cons n ns ih =>
      intro c hc
      refine ih ?_
      have hhas : Tab.has c.lparts (8 * n + p.val) = false := by rw [hc]; rfl
      dsimp only
      rw [if_pos hhas, hc]
  exact hle _ hc

/-! ### Frames that wait -/

theorem drainInbuf_empty {b : Block} {n : Fin 16} {p : Part} (h : (b.lePart n p).inbuf = []) (hw : Hard) : drainInbuf hw n p b = b := by rw [drainInbuf, h]; rfl

theorem foldl_drainInbuf_empty {b : Block} {p : Part} (h : ∀ n, (b.lePart n p).inbuf = []) (hw : Hard) (ns : List Nat) : ns.foldl (fun b n => drainInbuf hw (Fin.ofNat 16 n) p b) b = b :=
  List.foldl_fixed' (fun _ => drainInbuf_empty (h _) hw) ns

theorem lePart_none {b : Block} (h : b.lparts = []) (n : Fin 16) (p : Part) : b.lePart n p = LePart.reset := by rw [Block.lePart, h]; rfl

/-- R195: at the boundary, with no frame waiting, the epoch changes and what waits for its key is sealed. -/
theorem exec_epochBoundary {s : State} {p : Part} {j : Jig} (hlive : s.b.live = true) (hjig : s.b.jigOf p = some j) (hkeyed : s.b.keyed p = true)
    (hdue : epochStart j ((s.b.epochSt p).epoch + 1) ≤ s.b.clk.tick.toNat) (hnone : s.b.lparts = []) :
    exec (.epochBoundary p) s = .next (s.withB (sealWaiting (fun _ => true) (boundary s.hard p j s.b))) := by
  have hgo : ¬ (s.b.keyed p = false ∨ s.b.now.toNat < epochStart j ((s.b.epochSt p).epoch + 1)) := by
    rw [hkeyed]
    exact not_or.mpr ⟨by decide, Nat.not_lt.mpr hdue⟩
  have hempty : (sealWaiting (fun _ => true) (boundary s.hard p j s.b)).lparts = [] := by rw [sealWaiting_lparts, boundary_lparts hnone]
  show execEpochBoundary p s = _
  rw [execEpochBoundary, onB_next, whenLive_live _ hlive, hjig]
  simp only [if_neg hgo]
  rw [foldl_drainInbuf_empty fun n => by rw [lePart_none hempty]; rfl]

/-! ### The change of an egress key -/

theorem startRepl_epochs {k : Slot} {v : Key} {r : Repl} {b c : Block} (h : startRepl k v r b = .inr c) : c.epochs = b.epochs := by
  unfold startRepl at h
  dsimp only at h
  split at h
  · cases h
  split at h
  · cases h
  split at h
  · cases h
  · cases h; rfl

theorem changeEgress_epochs (p : Part) (k : Port) (e : BitVec 24) (commit notBefore : Word) (b : Block) : (changeEgress p k e commit notBefore b).epochs = b.epochs := by
  unfold changeEgress
  split
  · rfl
  split
  · rfl
  dsimp only
  split
  · rfl
  · next h => exact startRepl_epochs h

/-- R196: the one changing port of a partition with no key of its peers. -/
theorem exec_rekeyStart {s : State} {p : Part} {j : Jig} {k : Port} (hlive : s.b.live = true) (hjig : s.b.jigOf p = some j) (hkeyed : s.b.keyed p = true)
    (hsoon : epochStart j ((s.b.epochSt p).epoch + 1) ≤ s.b.clk.tick.toNat + 1000000) (hahead : s.b.clk.tick.toNat < epochStart j ((s.b.epochSt p).epoch + 1)) (hports : changingPorts s.hard s.b p = [k])
    (hkeys : (s.b.epochSt p).keys = []) : exec (.rekeyStart p) s = .next (s.withB (changeEgress p k ((s.b.epochSt p).epoch + 1) (BitVec.ofNat 64 (epochStart j ((s.b.epochSt p).epoch + 1))) 0
      (modPortPart k p (fun x => { x with tried := none }) s.b))) := by
  have hfar : decide (s.b.now.toNat + 1000000 < epochStart j ((s.b.epochSt p).epoch + 1)) = false := decide_eq_false (Nat.not_lt.mpr hsoon)
  have hpast : decide (epochStart j ((s.b.epochSt p).epoch + 1) ≤ s.b.now.toNat) = false := decide_eq_false (Nat.not_le.mpr hahead)
  have hnokeys (e : BitVec 24) (commit : Word) : ((changeEgress p k e commit 0 (modPortPart k p (fun x => { x with tried := none }) s.b)).epochSt p).keys = [] := by
    rw [Block.epochSt, changeEgress_epochs]; exact hkeys
  show execRekeyStart p s = _
  rw [execRekeyStart, onB_next, whenLive_live _ hlive, hjig]
  simp only [hkeyed, hfar, hpast, Bool.not_true, Bool.or_self, Bool.false_eq_true, if_false, hports, List.foldl_cons, List.foldl_nil, hnokeys]

/-- R201: a failed change is tried again a millisecond after the last try. -/
theorem exec_rekeyRetry {s : State} {p : Part} {k : Port} {j : Jig} {e : BitVec 24} {c : Nat} (hlive : s.b.live = true) (hjig : s.b.jigOf p = some j) (hkeyed : s.b.keyed p = true)
    (hfailed : (s.b.portPart k p).failed = some (e, c)) (hepoch : e = (s.b.epochSt p).epoch ∨ e = (s.b.epochSt p).epoch + 1) (htried : ∀ t, (s.b.portPart k p).tried = some t → 1000000 ≤ since s.b t) :
    exec (.rekeyRetry p k) s = .next (s.withB
      (if (s.b.portPart k p).egressKey.isSome then changeEgress p k e 0 (BitVec.ofNat 64 (epochStart j e)) (modPortPart k p (fun x => { x with tried := some s.b.clk.tick }) s.b)
       else retryKeying p k (s.b.epochSt p).epoch (modPortPart k p (fun x => { x with tried := some s.b.clk.tick }) s.b))) := by
  have hcur : decide (e ≠ (s.b.epochSt p).epoch ∧ e ≠ (s.b.epochSt p).epoch + 1) = false := decide_eq_false fun h => hepoch.elim h.1 h.2
  show execRekeyRetry p k s = _
  rw [execRekeyRetry, onB_next, whenLive_live _ hlive, hjig, hfailed]
  cases htry : (s.b.portPart k p).tried with
  | none => simp only [htry, hkeyed, hcur, Bool.not_true, Bool.or_self, Bool.false_eq_true, if_false]; rfl
  | some t =>
    have hlate : decide (since s.b t < 1000000) = false := decide_eq_false (Nat.not_lt.mpr (htried t htry))
    simp only [htry, hkeyed, hcur, hlate, Bool.not_true, Bool.or_self, Bool.false_eq_true, if_false]; rfl

/-! ### The end of Kerf and the loads ahead -/

/-- R195: the receiver's records and contexts once Kerf is over. -/
def kerfEnded (start : Word) (l : LePart) : LePart :=
  { l with records := (l.records.filter fun r => r.scheduled || r.usedPrev || decide (start.toNat ≤ r.created.toNat)).map fun r => { r with prevFloor := none },
           contexts := (l.contexts.filter fun c => c.usedPrev || decide (start.toNat ≤ c.created.toNat)).map fun c => { c with prev := none } }

theorem kerfEnded_reset (start : Word) : kerfEnded start LePart.reset = LePart.reset := rfl

theorem kerfEnded_inbuf (start : Word) (l : LePart) : (kerfEnded start l).inbuf = l.inbuf := rfl

theorem kerfEnded_contexts {start : Word} {l : LePart} {c : Context} (h : c ∈ (kerfEnded start l).contexts) : c.prev = none ∧ (c.usedPrev = true ∨ start.toNat ≤ c.created.toNat) := by
  obtain ⟨d, hd, rfl⟩ := List.mem_map.mp h
  have hkept := (List.mem_filter.mp hd).2
  rw [Bool.or_eq_true, decide_eq_true_eq] at hkept
  exact ⟨rfl, hkept⟩

theorem getD_mapV {α : Type} (t : Tab α) (f : Nat → α → α) (n : Nat) (d : α) (hd : f n d = d) : Tab.getD (Tab.mapV t f) n d = f n (Tab.getD t n d) := by
  rw [Tab.getD, Tab.getD, Tab.get?_mapV]
  cases Tab.get? t n with
  | none => exact hd.symm
  | some v => rfl

/-- No value of an admitted group is held. -/
theorem dropAdmitted_own {b : Block} (h : ∀ n, ∀ c ∈ (b.island (.le n)).cache, c.what = .own) (p : Part) (e : BitVec 24) : dropAdmitted p e b = b := by
  refine List.foldl_fixed' (fun n => ?_) _
  dsimp only
  refine if_pos (List.map_eq_nil_iff.mpr (List.filter_eq_nil_iff.mpr fun c hc => ?_))
  rw [h _ c hc, Bool.and_false]
  exact Bool.false_ne_true

/-- The LEs' records of a partition once its Kerf is over. -/
def kerfEndedParts (p : Part) (start : Word) (t : Tab LePart) : Tab LePart := Tab.mapV t fun n l => if n % 8 = p.val then kerfEnded start l else l

theorem lePart_kerfEndedParts {b c : Block} {p : Part} {start : Word} (h : c.lparts = kerfEndedParts p start b.lparts) (n : Fin 16) : c.lePart n p = kerfEnded start (b.lePart n p) := by
  have hindex : (8 * n.val + p.val) % 8 = p.val := by omega
  rw [Block.lePart, h, kerfEndedParts, getD_mapV _ _ _ _ (by rw [if_pos hindex, kerfEnded_reset]), if_pos hindex]
  rfl

/-- No value of an admitted group is held and no frame waits. -/
theorem drained_of_quiet {b : Block} {p : Part} (hown : ∀ n, ∀ c ∈ (b.island (.le n)).cache, c.what = .own) (hempty : ∀ n, (b.lePart n p).inbuf = []) (hw : Hard) (e : BitVec 24) (ns : List Nat) :
    ns.foldl (fun b n => drainInbuf hw (Fin.ofNat 16 n) p b) (dropAdmitted p e b) = b := by
  rw [dropAdmitted_own hown, foldl_drainInbuf_empty hempty]

/-- R195: 2 us after the boundary, where no link key of the partition is held. -/
theorem exec_kerfEnd {s : State} {p : Part} (hlive : s.b.live = true) (hkerf : (s.b.epochSt p).kerf = true) (hdue : (s.b.epochSt p).start.toNat + 2000 ≤ s.b.clk.tick.toNat)
    (hkeys : (s.b.epochSt p).keys = []) (hown : ∀ n, ∀ c ∈ (s.b.island (.le n)).cache, c.what = .own) (hempty : ∀ n, (s.b.lePart n p).inbuf = []) :
    ∃ b, exec (.kerfEnd p) s = .next (s.withB b) ∧ (b.epochSt p).kerf = false ∧ b.lparts = kerfEndedParts p (s.b.epochSt p).start s.b.lparts ∧
      b = { s.b with epochs := b.epochs, lparts := b.lparts, pports := b.pports } := by
  have hgo : (!(s.b.epochSt p).kerf || decide (s.b.now.toNat < (s.b.epochSt p).start.toNat + 2000)) = false := by
    rw [hkerf]; exact decide_eq_false (Nat.not_lt.mpr hdue)
  show ∃ b, execKerfEnd p s = _ ∧ _
  rw [execKerfEnd, onB_next, whenLive_live _ hlive]
  simp only [hgo, Bool.false_eq_true, if_false, hkeys, List.foldl_nil, List.filter_nil, List.any_nil, modEpoch]
  generalize Tab.mapV s.b.pports _ = pp
  rw [drained_of_quiet]
  case hown => exact hown
  case hempty =>
    intro n
    rw [lePart_kerfEndedParts (b := s.b) (p := p) (start := (s.b.epochSt p).start) rfl, kerfEnded_inbuf, hempty]
  refine ⟨_, rfl, ?_, rfl, rfl⟩
  rw [Block.epochSt, Tab.getD_upd_same]

/-- Ahead of an epoch the one link key of a partition with no Veneer group goes to its port. -/
theorem exec_keyEpochPreload {s : State} {p : Part} {x : LinkKey} (hlive : s.b.live = true) (hkeyed : s.b.keyed p = true) (hkeys : (s.b.epochSt p).keys = [x])
    (hegress : x.ref.egress = true) (hgroups : ∀ g ∈ s.b.vgroups, g.part ≠ p) :
    exec (.keyEpochPreload p) s = .next (s.withB (wantKey (portIsland (Fin.ofNat 64 x.ref.port.toNat)) x.slot s.b)) := by
  have hnone : (s.b.vgroups.filter fun g => decide (g.part = p)) = [] := List.filter_eq_nil_iff.mpr fun g hg => by
    rw [decide_eq_false (hgroups g hg)]
    exact Bool.false_ne_true
  show execKeyEpochPreload p s = _
  rw [execKeyEpochPreload, onB_next, whenLive_live _ hlive]
  simp only [hkeyed, hnone, hkeys, hegress, Bool.not_true, Bool.false_eq_true, if_false, if_true, List.foldl_cons, List.foldl_nil]

/-- Settles O31: one lemma per command of the change of keys. -/
theorem linkKeysChangeWithTheEpoch : Obligations.LinkKeysChangeWithTheEpoch := by
  unfold Obligations.LinkKeysChangeWithTheEpoch
  refine ⟨fun _ _ _ _ => exec_rekeyStart, fun _ _ _ => exec_epochBoundary, fun _ _ _ _ _ _ => exec_rekeyRetry, ?_, fun _ _ _ => exec_keyEpochPreload⟩
  intro s p hlive hkerf hdue hkeys hown hempty
  obtain ⟨b, hexec, hover, hparts, hrest⟩ := exec_kerfEnd hlive hkerf hdue hkeys hown hempty
  refine ⟨b, hexec, hover, fun n c hc => ?_, fun n c hc => ?_, hrest⟩ <;> rw [lePart_kerfEndedParts hparts] at hc
  · exact (kerfEnded_contexts hc).1
  · exact (kerfEnded_contexts hc).2

end Sys2Proof.Machine
end

section
/-! What a port's egress chooses and what it costs (R202 to R205). -/

namespace Sys2Proof.Machine

theorem modPort_congr {k : Port} {f g : PortSt → PortSt} {b : Block} (h : f (b.port k) = g (b.port k)) : modPort k f b = modPort k g b :=
  congrArg (fun v => { b with ports := Tab.set b.ports k.val v }) h

theorem live_iff {b : Block} : b.live = true ↔ b.up = true ∧ b.rst.halted = false ∧ b.clk.loaded = true := by
  rw [Block.live, Bool.and_eq_true, Bool.and_eq_true, Bool.not_eq_true', and_assoc]

/-! ### The choice at a port -/

/-- A port with a key in force for the partition needs no other. -/
theorem keyPort_keyed {b : Block} {p : Part} {k : Port} {sl : Slot} (h : b.egressSlot p k = some sl) (hw : Hard) : keyPort hw p k b = b := by
  unfold Block.egressSlot at h
  split at h
  · next g e hkey =>
    split at h
    · next hok =>
      obtain ⟨he, -⟩ := hok
      unfold keyPort
      refine if_pos ?_
      by_cases hnow : b.epochNow p = (b.epochSt p).epoch
      · simp [hkey, he, hnow]
      · simp [hnow]
    · cases h
  · cases h

/-- What lets a frame of class 0 leave at a port. -/
def Leaves (b : Block) (k : Port) (q : QFrame) : Prop := q.ftype = 4 ∨ q.ftype ≠ 8 ∧ ∃ sl, b.egressSlot q.part k = some sl

theorem Leaves.qReady {b : Block} {k : Port} {q : QFrame} (h : Leaves b k q) : qReady b k q = true := by
  unfold Machine.qReady
  obtain h | ⟨h8, sl, hsl⟩ := h
  · rw [if_pos h]
  · rw [if_neg h8, hsl]
    exact ite_self _

theorem Leaves.keyed {b : Block} {k : Port} {q : QFrame} (h : Leaves b k q) (hw : Hard) : (if q.ftype = 4 then b else keyPort hw q.part k b) = b := by
  split
  · rfl
  · next h4 =>
    obtain h | ⟨-, sl, hsl⟩ := h
    · exact absurd h h4
    · exact keyPort_keyed hsl hw

/-- The one frame that waits at a port is found whatever partition's turn it is. -/
theorem turn_finds {q : QFrame} {ready : QFrame → Bool} (turn : Nat) (h : ready q = true) :
    (List.range 8).findSome? (fun d => [q].find? fun x => decide (x.part.val = (turn + d) % 8) && ready x) = some q := by
  have hsome {d : Nat} {x : QFrame} (hx : ([q].find? fun x => decide (x.part.val = (turn + d) % 8) && ready x) = some x) : x = q :=
    List.mem_singleton.mp (List.mem_of_find?_eq_some hx)
  cases hfind : (List.range 8).findSome? (fun d => [q].find? fun x => decide (x.part.val = (turn + d) % 8) && ready x) with
  | some x =>
    obtain ⟨d, -, hx⟩ := List.exists_of_findSome?_eq_some hfind
    rw [hsome hx]
  | none =>
    have hmiss := List.findSome?_eq_none_iff.mp hfind ((q.part.val + 8 - turn % 8) % 8) (List.mem_range.mpr (Nat.mod_lt _ (by decide)))
    have hpart : q.part.val = (turn + (q.part.val + 8 - turn % 8) % 8) % 8 := by omega
    rw [List.find?_singleton, h, decide_eq_true hpart, if_pos (Bool.and_self true)] at hmiss
    cases hmiss

theorem pick0_alone {b : Block} {k : Port} {q : QFrame} (hrun : b.rst.halted = false) (hq : (b.port k).queue0 = [q]) (hready : qReady b k q = true) : pick0 b k = some q := by
  unfold pick0
  simp only [hrun, Bool.false_eq_true, if_false, hq]
  exact turn_finds _ hready

theorem pick0_empty {b : Block} {k : Port} (hrun : b.rst.halted = false) (hq : (b.port k).queue0 = []) : pick0 b k = none := by
  unfold pick0
  simp only [hrun, Bool.false_eq_true, if_false, hq, List.find?_nil]
  rfl

theorem pick3_empty {b : Block} {k : Port} (c : Cfg) (h : ∀ p : Part, (b.portPart k p).queue3 = []) : pick3 c b k = none := by
  unfold pick3
  simp only [h]
  rfl

/-- R371: a halted block's port looks at its clamp notices only. -/
theorem pick0_halted {b : Block} {k : Port} {q : QFrame} (hhalt : b.rst.halted = true) (hq : (b.port k).queue0 = [q]) (hwait : (b.port k).wait0 = []) (hready : qReady b k q = true) :
    pick0 b k = if q.notice then some q else none := by
  unfold pick0
  simp only [hhalt, if_true, hq, hwait, List.append_nil]
  cases hn : q.notice with
  | true =>
    rw [List.filter_cons_of_pos hn, List.filter_nil]
    exact turn_finds _ hready
  | false =>
    rw [List.filter_cons_of_neg (by rw [hn]; exact Bool.false_ne_true), List.filter_nil]
    rfl

theorem send0_alone {b : Block} {k : Port} {q : QFrame} (hq : (b.port k).queue0 = [q]) (hwait : (b.port k).wait0 = []) (cost : Int) :
    send0 k q cost b = sendQ k 0 q (modPort k (fun x => { x with queue0 := [], turn0 := (q.part.val + 1) % 8, tokens := x.tokens - cost }) b) := by
  unfold send0
  refine congrArg (sendQ k 0 q) (modPort_congr ?_)
  have herase : [q].erase q = [] := List.erase_cons_head ..
  have hput : enterQueue cap0 b.now [] [] = ([], []) := rfl
  simp only [hq, hwait, herase, List.erase_nil, ite_self, PortSt.put0, List.append_nil, hput]

theorem allParts_any_empty {b : Block} {k : Port} (h : ∀ p : Part, (b.portPart k p).queue3 = []) (hw : Hard) :
    allParts.foldl (fun b p => if (b.portPart k p).queue3.any fun q => decide (q.ftype ≠ 8) then keyPort hw p k b else b) b = b :=
  List.foldl_fixed' (fun p => by rw [h p]; rfl) _

theorem noPattern {b : Block} {k : Port} (hgen : (b.port k).genEn = false) (hchk : (b.port k).chkEn = false) :
    (if patternReady b k then sendPattern k b else wantPattern k b) = b := by
  unfold patternReady wantPattern
  simp [hgen, hchk]

/-! ### The command -/

section
variable {s : State} {k : Port} {q : QFrame}

/-- R204: the one frame of class 0, its shaper not in debt and the next pin far enough. -/
theorem exec_egressFrameStart_class0 (hlive : s.b.live = true) (hport : portPresent s.hard.cfg k = true) (hmode : (s.b.port k).mode = 0)
    (hawake : (s.b.island (portIsland k)).asleep = false) (hreset : (s.b.island (portIsland k)).inReset = false) (hq : (s.b.port k).queue0 = [q]) (hwait : (s.b.port k).wait0 = [])
    (hnone : ∀ p : Part, (s.b.portPart k p).queue3 = []) (htok : 0 ≤ (s.b.port k).tokens) (hleaves : Leaves s.b k q) (hguard : guardOk s.b k (qBytes q) = true) :
    exec (.egressFrameStart k) s = .next (s.withB (sendQ k 0 q (modPort k (fun x =>
      { x with queue0 := [], turn0 := (q.part.val + 1) % 8, tokens := x.tokens - frameCost (s.b.port k) (qBytes q) }) s.b))) := by
  obtain ⟨hup, hrun, hload⟩ := live_iff.mp hlive
  have hpick := pick0_alone hrun hq hleaves.qReady
  have hkeyed := hleaves.keyed s.hard
  have h3 : decide ((s.b.port k).mode = 3) = false := by rw [hmode]; rfl
  have h2 : ¬ (s.b.port k).mode = 2 := by rw [hmode]; decide
  show execEgressFrameStart k s = _
  rw [execEgressFrameStart, onB_next]
  simp only [hup, hload, Bool.and_self, if_true, egressStart, hport, hreset, hrun, hawake, h3, if_neg h2, Bool.not_true, Bool.or_self, Bool.false_eq_true, if_false]
  rw [hq, List.foldl_cons, List.foldl_nil, hkeyed, allParts_any_empty hnone]
  simp only [if_pos htok, hpick, hguard, if_true, send0_alone hq hwait]

/-- A port with nothing to send and no pattern. -/
theorem exec_egressFrameStart_empty (hlive : s.b.live = true) (hq : (s.b.port k).queue0 = []) (hnone : ∀ p : Part, (s.b.portPart k p).queue3 = [])
    (hgen : (s.b.port k).genEn = false) (hchk : (s.b.port k).chkEn = false) : exec (.egressFrameStart k) s = .next s := by
  obtain ⟨hup, hrun, hload⟩ := live_iff.mp hlive
  have hidle : egressStart s.hard k s.b = s.b := by
    simp only [egressStart, hrun, Bool.false_eq_true, hq, List.foldl_nil, allParts_any_empty hnone, pick0_empty hrun hq, pick3_empty _ hnone, noPattern hgen hchk, ite_self]
  show execEgressFrameStart k s = _
  rw [execEgressFrameStart, onB_next, hidle, ite_self, State.withB_self]

/-- R371: a halted block sends a clamp notice that waits, and nothing else. -/
theorem exec_egressFrameStart_halted {j : Jig} (hup : s.b.up = true) (hload : s.b.clk.loaded = true) (hhalt : s.b.rst.halted = true) (hport : portPresent s.hard.cfg k = true)
    (hreset : (s.b.island (portIsland k)).inReset = false) (hq : (s.b.port k).queue0 = [q]) (hwait : (s.b.port k).wait0 = []) (htype : q.ftype = 4) (htag : q.tag = none)
    (hjig : s.b.jigOf q.part = some j) :
    exec (.egressFrameStart k) s = .next (s.withB (if q.notice then
      emit (.frame k (envSide j.domainId q) (plainFrame (frameOf k j.memberIndex q 0 0 0) 0)) (modPort k (fun x => { x with queue0 := [], turn0 := (q.part.val + 1) % 8 }) s.b) else s.b)) := by
  have hpick := pick0_halted hhalt hq hwait (Leaves.qReady (.inl htype))
  show execEgressFrameStart k s = _
  rw [execEgressFrameStart, onB_next]
  simp only [hup, hload, Bool.and_self, if_true, egressStart, hport, hreset, hhalt, Bool.not_true, Bool.or_self, Bool.false_eq_true, if_false, hpick]
  cases q.notice with
  | false => rfl
  | true =>
    have hkept (f : PortSt → PortSt) : (modPort k f s.b).jigOf q.part = some j := hjig
    simp only [if_true, send0_alone hq hwait, sendQ, hkept, htag, if_pos htype, Int.sub_zero]

end

/-! ### Capacities, costs and shapers -/

theorem enterQueue_bytes (cap : Nat) (now : Word) (q new : List QFrame) : queueBytes (enterQueue cap now q new).1 ≤ max cap (queueBytes q) := by
  induction new generalizing q with
  | nil => exact Nat.le_max_right ..
  | cons w ws ih =>
    unfold enterQueue
    split
    · next hfit =>
      have hbytes : queueBytes (q ++ [{ w with tick := now }]) = queueBytes q + qBytes w := by simp [queueBytes, qBytes]
      refine (ih _).trans (Nat.max_le.mpr ⟨Nat.le_max_left .., ?_⟩)
      rw [hbytes]
      exact hfit.trans (Nat.le_max_left ..)
    · exact Nat.le_max_right ..

/-- What enters and what waits are the frames in their order. -/
theorem enterQueue_order (cap : Nat) (now : Word) (q new : List QFrame) :
    ((enterQueue cap now q new).1 ++ (enterQueue cap now q new).2).map (fun x => { x with tick := now }) = (q ++ new).map fun x => { x with tick := now } := by
  induction new generalizing q with
  | nil => rfl
  | cons w ws ih =>
    unfold enterQueue
    split
    · rw [ih]; simp
    · rfl

theorem frameCost_total {x : PortSt} (h : x.lenMode = false) (n : Nat) : frameCost x n = 1000 * ((n : Int) + x.overhead.toNat) := by simp [frameCost, h]

theorem frameCost_payload {x : PortSt} (h : x.lenMode = true) (n : Nat) : frameCost x n = 1000 * (n : Int) := by simp [frameCost, h]

theorem refill_le (t : Int) (r b : Nat) : refill t r b ≤ b := min_le_right ..

theorem le_refill {t : Int} {b : Nat} (h : t ≤ b) (r : Nat) : t ≤ refill t r b := le_min (Int.le_add_of_nonneg_right (Int.natCast_nonneg r)) h

theorem c3Rate_le (share : Nat) (x : PortPart) : c3Rate share x ≤ 3125 * share := by
  unfold c3Rate
  split
  · rfl
  · exact Nat.min_le_left ..

/-- Settles O32: the choice at a port, live and halted, the queue's capacity by induction on what waits, and the arithmetic of the shapers. -/
theorem egressChoosesAndShapes : Obligations.EgressChoosesAndShapes := by
  unfold Obligations.EgressChoosesAndShapes
  exact ⟨fun _ _ _ => exec_egressFrameStart_class0, fun _ _ => exec_egressFrameStart_empty, fun _ _ _ _ => exec_egressFrameStart_halted,
    fun cap now q new => ⟨enterQueue_bytes cap now q new, enterQueue_order cap now q new⟩, fun _ => ⟨frameCost_total, frameCost_payload⟩,
    fun t r b => ⟨refill_le t r b, fun h => le_refill h r⟩, c3Rate_le⟩

end Sys2Proof.Machine
end

section
/-! Port modes, the pattern control and the samples of the queues (R206 to R210). -/

namespace Sys2Proof.Machine

/-! ### A port's mode and its link -/

theorem exec_portRegister {s : State} {k : Port} (f : Hard → Block → Block) (hregs : s.b.regs = true) (hisl : islandPresent s.hard.cfg (portIsland k) = true)
    (hreset : (s.b.island (portIsland k)).inReset = false) (hawake : (s.b.island (portIsland k)).asleep = false) (hport : portPresent s.hard.cfg k = true) :
    regAct (islandReg (portIsland k) fun h b => if portPresent h.cfg k then f h b else b) s = .next (s.settled (f s.hard s.b)) := by
  rw [regAct_on _ hregs, islandReg_awake _ hisl hreset hawake, if_pos hport]

theorem modeRefused_of_unscheduled {b : Block} {k : Port} {m : BitVec 2} (h : m = 0 ∨ m = 1 ∨ ∀ p : Part, ∀ e ∈ b.entries p, e.port ≠ k.val) : modeRefused b k m = false := by
  unfold modeRefused
  obtain rfl | rfl | h := h
  · rfl
  · rfl
  · have hany : (allParts.any fun p => (b.entries p).any fun e => decide (e.port = k.val)) = false := by
      rw [List.any_eq_false]
      intro p _ hp
      obtain ⟨e, he, heq⟩ := List.any_eq_true.mp hp
      exact h p e he (of_decide_eq_true heq)
    rw [hany, Bool.and_false]

theorem modeRefused_of_scheduled {b : Block} {k : Port} {m : BitVec 2} (hm : m = 2 ∨ m = 3) (h : ∃ p : Part, ∃ e ∈ b.entries p, e.port = k.val) : modeRefused b k m = true := by
  obtain ⟨p, e, he, heq⟩ := h
  unfold modeRefused
  rw [decide_eq_true hm, Bool.true_and]
  exact List.any_eq_true.mpr ⟨p, mem_allParts p, List.any_eq_true.mpr ⟨e, he, decide_eq_true heq⟩⟩

theorem takeMode_drain_same {m : BitVec 2} {x : PortSt} (h : m = x.mode) (now : Word) : (PortSt.takeMode m now x).drain = none := if_pos h

theorem takeMode_drain_fresh {m : BitVec 2} {x : PortSt} (h : m ≠ x.mode) (hd : x.drain = none) (now : Word) : (PortSt.takeMode m now x).drain = some (m, now) := by
  unfold PortSt.takeMode
  rw [if_neg h, hd]

theorem takeMode_drain {m : BitVec 2} {x : PortSt} (h : m ≠ x.mode) (now : Word) : ∃ t, (PortSt.takeMode m now x).drain = some (m, t) := by
  cases hd : x.drain with
  | none => exact ⟨now, takeMode_drain_fresh h hd now⟩
  | some d =>
    obtain ⟨m', t⟩ := d
    unfold PortSt.takeMode
    dsimp only
    rw [if_neg h, hd]
    dsimp only
    by_cases hm : m' = m
    · exact ⟨t, by rw [if_pos hm, hm]⟩
    · exact ⟨now, if_neg hm⟩

theorem portQueues_empty {b : Block} {k : Port} (h : portQueues b k = []) (p : Part) : (b.portPart k p).queue3 = [] ∧ (b.portPart k p).wait3 = [] :=
  List.append_eq_nil_iff.mp (List.flatMap_eq_nil_iff.mp (List.append_eq_nil_iff.mp h).2 p (mem_allParts p))

/-- A drained port takes the mode and nothing is left to abort. -/
theorem takeMode_drained {b : Block} {k : Port} {m : BitVec 2} (h : portQueues b k = []) (hm : m = 0 ∨ m = 1) (hw : Hard) :
    takeMode hw k m b = pushAll (setPortLevel hw k (modPort k (fun x => { x with drain := none, mode := m, queue0 := [], wait0 := [] }) b)) := by
  have hkeep : ¬ (m = 2 ∨ m = 3) := by obtain rfl | rfl := hm <;> decide
  have hcleared (c : Block) (hc : c.pports = b.pports) :
      allParts.foldl (fun b p => if (b.portPart k p).queue3 = [] ∧ (b.portPart k p).wait3 = [] then b else modPortPart k p (fun x => { x with queue3 := [], wait3 := [] }) b) c = c := by
    refine List.foldl_fixed' (fun p => ?_) _
    refine if_pos ?_
    rw [Block.portPart, hc]
    exact portQueues_empty h p
  unfold takeMode
  dsimp only
  rw [h, List.foldl_nil, if_neg hkeep, hcleared]
  rfl

section
variable {s : State} {k : Port}

theorem exec_portModeDrained {m : BitVec 2} {t : Word} (hup : s.b.up = true) (hrun : s.b.rst.halted = false) (hdrain : (s.b.port k).drain = some (m, t)) (hq : portQueues s.b k = []) (hm : m = 0 ∨ m = 1) :
    exec (.portModeDrained k) s = .next (s.settled (pushAll (setPortLevel s.hard k (modPort k (fun x => { x with drain := none, mode := m, queue0 := [], wait0 := [] }) s.b)))) := by
  show execPortModeDrained k s = _
  rw [execPortModeDrained, onB_next]
  simp only [hup, hrun, hdrain, Bool.not_true, Bool.or_self, Bool.false_eq_true, if_false, if_pos (Or.inl hq), takeMode_drained hq hm]
  rfl

theorem exec_linkUpChange {up : Bool} (hup : s.b.up = true) (hport : portPresent s.hard.cfg k = true) :
    exec (.linkUpChange k up) s = .next (s.settled (pushAll (setPortLevel s.hard k (modPort k (fun x =>
      { x with linkUp := up, downSince := if up then x.downSince else if x.linkUp then s.b.clk.tick else x.downSince }) s.b)))) := by
  show execLinkUpChange k up s = _
  rw [execLinkUpChange, onB_next]
  simp only [hup, hport, Bool.not_true, Bool.or_self, Bool.false_eq_true, if_false]
  rfl

theorem exec_patternInject (hup : s.b.up = true) (hrun : s.b.rst.halted = false) (hport : portPresent s.hard.cfg k = true) :
    exec (.patternInject k) s = .next (s.withB (modPort k (fun x => { x with inject := true }) s.b)) := by
  show execPatternInject k s = _
  rw [execPatternInject, onB_next, whenUp_up _ hup]
  simp only [hport, hrun, Bool.not_false, Bool.and_self, if_true]

end

/-! ### The pattern control -/

/-- R208: whether a write of the pattern control is refused. -/
def ctlRefused (b : Block) (k : Port) (v : Word) : Bool := decide (wbits v 8 2 = 3) && (wbit v 0 || wbit v 1) && lcClosed b && decide ((b.port k).mode = 0 ∨ (b.port k).mode = 1)

/-- R208, R209: the fields a write sets, and what the start of a run and of a check set back. -/
def ctlPort (no : Bool) (v : Word) (x : PortSt) : PortSt :=
  let y := { x with bgRate := BitVec.ofNat 16 (wbits v 32 16), keySlot := BitVec.ofNat 4 (wbits v 24 4), inject := x.inject || wbit v 16,
                    pattern := BitVec.ofNat 2 (wbits v 8 2), chkEn := wbit v 1 && !no, genEn := wbit v 0 && !no, refused := no }
  let y := if x.pattern.toNat ≠ wbits v 8 2 ∨ ((wbit v 0 && !no) && !x.genEn) then { y with patSeq := 0, patReg := 1 } else y
  if (wbit v 1 && !no) && !x.chkEn then { y with bitErr := 0, tagFail := 0, missing := 0, lock := false, frames := 0, patWant := none, patBad := 0 } else y

theorem port_ite_modPort (c : Prop) [Decidable c] (k : Port) (f : PortSt → PortSt) (b : Block) : (if c then modPort k f b else b).port k = if c then f (b.port k) else b.port k := by
  split
  · rw [modPort_port]
  · rfl

theorem setPortLevel_port (hw : Hard) (k j : Port) (b : Block) : (setPortLevel hw k b).port j = b.port j := by rw [setPortLevel, setLevel_frame]; rfl

theorem wantKey_ports (i : Island) (sl : Slot) (b : Block) : (wantKey i sl b).ports = b.ports := by
  unfold wantKey
  split
  · rfl
  · dsimp only
    split
    · split <;> rfl
    · rfl

theorem wantPattern_port (k j : Port) (b : Block) : (wantPattern k b).port j = b.port j := by
  unfold wantPattern
  dsimp only
  split
  · rw [Block.port, wantKey_ports]; rfl
  · rfl

theorem patternCtlWritten_port (hw : Hard) (k : Port) (v : Word) (b : Block) : (patternCtlWritten hw k v b).port k = ctlPort (ctlRefused b k v) v (b.port k) := by
  unfold patternCtlWritten
  dsimp only
  rw [setPortLevel_port, wantPattern_port, port_ite_modPort, port_ite_modPort, modPort_port]
  rfl

section
variable (no : Bool) (v : Word) (x : PortSt)

theorem ctlPort_refused : (ctlPort no v x).refused = no := by unfold ctlPort; dsimp only; split_ifs <;> rfl
theorem ctlPort_genEn : (ctlPort no v x).genEn = (wbit v 0 && !no) := by unfold ctlPort; dsimp only; split_ifs <;> rfl
theorem ctlPort_chkEn : (ctlPort no v x).chkEn = (wbit v 1 && !no) := by unfold ctlPort; dsimp only; split_ifs <;> rfl
theorem ctlPort_pattern : (ctlPort no v x).pattern = BitVec.ofNat 2 (wbits v 8 2) := by unfold ctlPort; dsimp only; split_ifs <;> rfl
theorem ctlPort_bgRate : (ctlPort no v x).bgRate = BitVec.ofNat 16 (wbits v 32 16) := by unfold ctlPort; dsimp only; split_ifs <;> rfl

variable {no v x}

/-- A check that starts counts from zero. -/
theorem ctlPort_check (hoff : x.chkEn = false) (hon : (ctlPort no v x).chkEn = true) : (ctlPort no v x).bitErr = 0 ∧ (ctlPort no v x).frames = 0 ∧ (ctlPort no v x).lock = false := by
  rw [ctlPort_chkEn] at hon
  have hstart : ((wbit v 1 && !no) && !x.chkEn) = true := by rw [hon, hoff]; rfl
  unfold ctlPort
  rw [if_pos hstart]
  exact ⟨rfl, rfl, rfl⟩

/-- A run that starts, or another pattern, begins at its first frame. -/
theorem ctlPort_run (h : x.pattern ≠ BitVec.ofNat 2 (wbits v 8 2) ∨ x.genEn = false ∧ (ctlPort no v x).genEn = true) : (ctlPort no v x).patSeq = 0 ∧ (ctlPort no v x).patReg = 1 := by
  rw [ctlPort_genEn] at h
  have hstart : x.pattern.toNat ≠ wbits v 8 2 ∨ ((wbit v 0 && !no) && !x.genEn) = true := by
    refine h.imp (fun hne heq => hne (BitVec.eq_of_toNat_eq ?_)) fun ⟨hoff, hon⟩ => by rw [hon, hoff]; rfl
    rw [heq, BitVec.toNat_ofNat, Nat.mod_eq_of_lt (wbits_lt v 8 2)]
  unfold ctlPort
  dsimp only
  rw [if_pos hstart]
  split_ifs <;> exact ⟨rfl, rfl⟩

end

/-! ### The samples of the queues -/

/-- A fold whose other steps leave `g` alone shows in `g` only the one step at `a`. -/
theorem foldl_once {α β γ : Type} {f : β → α → β} (g : β → γ) {a : α} {l : List α} (hother : ∀ b, ∀ x ∈ l, x ≠ a → g (f b x) = g b) (hmem : a ∈ l) (hnd : l.Nodup) (b : β) :
    ∃ c, g c = g b ∧ (g (f c a) = g (l.foldl f b)) := by
  induction l generalizing b with
  | nil => cases hmem
  | cons x l ih =>
    have hl (b : β) (y : α) (hy : y ∈ l) : y ≠ a → g (f b y) = g b := hother b y (List.mem_cons_of_mem _ hy)
    obtain ⟨hx, hnd⟩ := List.nodup_cons.mp hnd
    by_cases hxa : x = a
    · subst hxa
      have hrest (l' : List α) (hsub : ∀ y ∈ l', y ∈ l) : ∀ b, g (l'.foldl f b) = g b := by
        induction l' with
        | nil => exact fun _ => rfl
        | cons y l' ih' =>
          intro b
          have hy : y ∈ l := hsub y List.mem_cons_self
          rw [List.foldl_cons, ih' (fun z hz => hsub z (List.mem_cons_of_mem _ hz)), hl b y hy fun e => hx (e ▸ hy)]
      exact ⟨b, rfl, (hrest l (fun _ => id) _).symm⟩
    · obtain ⟨c, hc, hfold⟩ := ih hl ((List.mem_cons.mp hmem).resolve_left fun e => hxa e.symm) hnd (f b x)
      exact ⟨c, hc.trans (hother b x List.mem_cons_self hxa), hfold⟩

/-- The block but for the LEs' records. -/
def Block.beyondLes (b : Block) : Block := { b with lparts := [] }

/-- What a sample takes of the queues does not depend on the LEs' records. -/
theorem sampleOf_congr {b c : Block} (h : b.beyondLes = c.beyondLes) (p : Part) (k : Port) (cls : Nat) (seq : BitVec 16) : sampleOf b p k cls seq = sampleOf c p k cls seq := by
  show sampleOf b.beyondLes p k cls seq = sampleOf c.beyondLes p k cls seq
  rw [h]

theorem samplePart_others (n : Nat) (p : Part) (b : Block) : (samplePart n p b).beyondLes = b.beyondLes := rfl

theorem samplePart_other {n m : Nat} {p q : Part} (hn : n < 16) (hm : m < 16) (h : (m, q) ≠ (n, p)) (b : Block) : (samplePart m q b).lePart (Fin.ofNat 16 n) p = b.lePart (Fin.ofNat 16 n) p := by
  refine modLePart_lePart_ne ?_ ..
  by_contra hsame
  rw [not_or, not_not, not_not] at hsame
  obtain ⟨he, rfl⟩ := hsame
  have hval := congrArg Fin.val he
  simp only [Fin.ofNat, Nat.mod_eq_of_lt hn, Nat.mod_eq_of_lt hm] at hval
  exact h (by rw [hval])

theorem samplePart_sampSeq (n : Nat) (p : Part) (b : Block) : ((samplePart n p b).lePart (Fin.ofNat 16 n) p).sampSeq = (b.lePart (Fin.ofNat 16 n) p).sampSeq + 1 := by
  rw [samplePart, modLePart_lePart]

/-- R206: the sample of one queue joins the samples and the maxima. -/
def sampleInto (b : Block) (p : Part) (n : Nat) (seq : BitVec 16) (acc : Tab QSample × Tab QSample) (i : Nat) : Tab QSample × Tab QSample :=
  let x := sampleOf b p (Fin.ofNat 64 (4 * n + i / 4)) (i % 4) seq
  if x.depth = 0 ∧ x.delay = 0 ∧ Tab.has acc.1 i = false then acc
  else (Tab.set acc.1 i x, Tab.set acc.2 i ((Tab.getD acc.2 i QSample.zero).most x))

theorem sampleInto_other (b : Block) (p : Part) (n : Nat) (seq : BitVec 16) {i j : Nat} (h : j ≠ i) (acc : Tab QSample × Tab QSample) :
    Tab.get? (sampleInto b p n seq acc j).1 i = Tab.get? acc.1 i := by
  unfold sampleInto
  dsimp only
  split
  · rfl
  · exact Tab.get?_set_other _ (Ne.symm h) _

/-- A queue that holds a frame is sampled. -/
theorem samplePart_sample {n : Nat} {p : Part} {b : Block} {i : Nat} (hi : i < 16) (hdeep : (sampleOf b p (Fin.ofNat 64 (4 * n + i / 4)) (i % 4) 0).depth ≠ 0) :
    Tab.get? ((samplePart n p b).lePart (Fin.ofNat 16 n) p).samples i = some (sampleOf b p (Fin.ofNat 64 (4 * n + i / 4)) (i % 4) ((b.lePart (Fin.ofNat 16 n) p).sampSeq + 1)) := by
  rw [samplePart, modLePart_lePart]
  obtain ⟨c, -, hfold⟩ := foldl_once (fun acc : Tab QSample × Tab QSample => Tab.get? acc.1 i) (fun acc j _ h => sampleInto_other b p n ((b.lePart (Fin.ofNat 16 n) p).sampSeq + 1) h acc)
    (List.mem_range.mpr hi) List.nodup_range ((b.lePart (Fin.ofNat 16 n) p).samples, (b.lePart (Fin.ofNat 16 n) p).maxima)
  refine hfold.symm.trans ?_
  rw [sampleInto, if_neg fun h => hdeep h.1, Tab.get?_set_same]

/-- R206: one sampling of every queue at every LE and partition. -/
def sampleAll (m : Nat) (b : Block) : Block := (List.range m).foldl (fun b n => allParts.foldl (fun b p => samplePart n p b) b) b

theorem sampleAll_others (m : Nat) (b : Block) : (sampleAll m b).beyondLes = b.beyondLes :=
  foldl_keeps Block.beyondLes (fun b n => foldl_keeps Block.beyondLes (fun b p => samplePart_others n p b) allParts b) _ b

/-- Each LE and partition is sampled once, at the queues as they stand. -/
theorem sampleAll_lePart {m n : Nat} (hm : m ≤ 16) (hn : n < m) (p : Part) (b : Block) :
    ∃ c, c.beyondLes = b.beyondLes ∧ c.lePart (Fin.ofNat 16 n) p = b.lePart (Fin.ofNat 16 n) p ∧
      (sampleAll m b).lePart (Fin.ofNat 16 n) p = (samplePart n p c).lePart (Fin.ofNat 16 n) p := by
  have hpairs : sampleAll m b = ((List.range m).product allParts).foldl (fun b x => samplePart x.1 x.2 b) b := by
    rw [List.product, List.foldl_flatMap, sampleAll]
    simp only [List.foldl_map]
  have hmem : (n, p) ∈ (List.range m).product allParts := List.mem_product.mpr ⟨List.mem_range.mpr hn, mem_allParts p⟩
  have hother (b : Block) (x : Nat × Part) (hx : x ∈ (List.range m).product allParts) (hne : x ≠ (n, p)) :
      ((samplePart x.1 x.2 b).beyondLes, (samplePart x.1 x.2 b).lePart (Fin.ofNat 16 n) p) = (b.beyondLes, b.lePart (Fin.ofNat 16 n) p) := by
    have hlt : x.1 < m := List.mem_range.mp (List.mem_product.mp hx).1
    rw [samplePart_others, samplePart_other (hn.trans_le hm) (hlt.trans_le hm) hne]
  obtain ⟨c, hc, hfold⟩ := foldl_once (fun b : Block => (b.beyondLes, b.lePart (Fin.ofNat 16 n) p)) hother hmem (List.Nodup.product List.nodup_range (by decide)) b
  rw [hpairs]
  exact ⟨c, congrArg Prod.fst hc, congrArg Prod.snd hc, (congrArg Prod.snd hfold).symm⟩

theorem exec_queueSample {s : State} (hlive : s.b.live = true) (hdue : s.b.clk.tick.toNat % 1000 = 0) : exec .queueSample s = .next (s.withB (sampleAll (leCount s.hard.cfg) s.b)) := by
  show execQueueSample s = _
  rw [execQueueSample, onB_next, whenLive_live _ hlive]
  exact congrArg (fun b => Host.Outcome.next (s.withB b)) (if_neg (not_not.mpr hdue))

theorem eq_withLparts {b c : Block} (h : c.beyondLes = b.beyondLes) : c = { b with lparts := c.lparts } := by
  exact congrArg (fun d : Block => { d with lparts := c.lparts }) h

/-- Settles O33: one lemma per command; each LE and partition is sampled once, so a sample is that of the queues as they stand. -/
theorem portModesPatternsAndSamples : Obligations.PortModesPatternsAndSamples := by
  unfold Obligations.PortModesPatternsAndSamples
  refine ⟨fun s k m hregs hisl hreset hawake hport => ⟨fun h => ?_, fun hm h => ?_⟩, fun m now x => ⟨rfl, rfl, fun h => takeMode_drain_same h now, fun h => takeMode_drain h now, fun h hd => takeMode_drain_fresh h hd now⟩,
    fun _ _ _ _ => exec_portModeDrained, fun _ _ _ => exec_linkUpChange, fun s k v hregs hisl hreset hawake hport => ?_, fun _ _ => exec_patternInject, fun s hlive hdue => ?_,
    fun s n p v hregs hisl hreset hawake hp => ?_⟩
  · refine (exec_portRegister (fun h => portModeWritten h k m) hregs hisl hreset hawake hport).trans ?_
    simp only [portModeWritten, modeRefused_of_unscheduled h, Bool.false_eq_true, if_false]
    rfl
  · refine (exec_portRegister (fun h => portModeWritten h k m) hregs hisl hreset hawake hport).trans ?_
    simp only [portModeWritten, modeRefused_of_scheduled hm h, if_true]
  · refine ⟨_, _, exec_portRegister (fun h => patternCtlWritten h k v) hregs hisl hreset hawake hport, rfl, ?_⟩
    rw [patternCtlWritten_port]
    exact ⟨ctlPort_refused .., ctlPort_genEn .., ctlPort_chkEn .., ctlPort_pattern .., ctlPort_bgRate .., ctlPort_check, ctlPort_run⟩
  · refine ⟨_, exec_queueSample hlive hdue, eq_withLparts (sampleAll_others ..), fun n p hn => ?_⟩
    obtain ⟨c, hrest, hpart, hall⟩ := sampleAll_lePart (leCount_le s.hard.cfg) hn p s.b
    rw [Fin.ofNat_val_eq_self] at hpart hall
    rw [hall]
    have hseq := samplePart_sampSeq n p c
    rw [Fin.ofNat_val_eq_self, hpart] at hseq
    refine ⟨hseq, fun i hi hdeep => ?_⟩
    rw [← sampleOf_congr hrest] at hdeep
    have hsample := samplePart_sample hi hdeep
    rw [Fin.ofNat_val_eq_self, hpart, sampleOf_congr hrest] at hsample
    exact hsample
  · show regAct _ s = _
    rw [regAct_on _ hregs, islandReg_awake _ hisl hreset hawake, partReg_exists _ hp]
    rfl

end Sys2Proof.Machine
end

section
/-! Messages between members, their retransmission, and fences (R277 to R300). -/

namespace Sys2Proof.Machine

/-! ### The pairs' records -/

theorem modAhu_congr {p : Part} {f g : AhuPart → AhuPart} {b : Block} (h : f (b.ahuPart p) = g (b.ahuPart p)) : modAhu p f b = modAhu p g b :=
  congrArg (fun v => { b with ahu := Tab.set b.ahu p.val v }) h

theorem modKeep_congr {p : Part} {m : BitVec 16} {f g : PairKeep → PairKeep} {b : Block} (h : f (b.pairKeep p m) = g (b.pairKeep p m)) : modKeep p m f b = modKeep p m g b :=
  modAhu_congr (congrArg (fun v => { b.ahuPart p with keep := Tab.set (b.ahuPart p).keep m.toNat v }) h)

theorem modPair_congr {p : Part} {m : BitVec 16} {f g : PairReq → PairReq} {b : Block} (h : f (b.pairReq p m) = g (b.pairReq p m)) : modPair p m f b = modPair p m g b :=
  modAhu_congr (congrArg (fun v => { b.ahuPart p with req := Tab.set (b.ahuPart p).req m.toNat v }) h)

@[simp] theorem modKeep_pairKeep (p : Part) (m : BitVec 16) (f : PairKeep → PairKeep) (b : Block) : (modKeep p m f b).pairKeep p m = f (b.pairKeep p m) := by
  rw [Block.pairKeep, modKeep, modAhu_ahuPart, Tab.getD_upd_same]; rfl

@[simp] theorem modPair_pairReq (p : Part) (m : BitVec 16) (f : PairReq → PairReq) (b : Block) : (modPair p m f b).pairReq p m = f (b.pairReq p m) := by
  rw [Block.pairReq, modPair, modAhu_ahuPart, Tab.getD_upd_same]; rfl

theorem choosePort_ahu (c : Cfg) (p : Part) (dkind : BitVec 2) (dest : BitVec 16) (b : Block) : (choosePort c p dkind dest b).2.ahu = b.ahu := by
  unfold choosePort
  dsimp only
  split
  · rfl
  · dsimp only
    split <;> rfl

theorem sendXact_ahu (h : Hard) (p : Part) (peer : BitVec 16) (payload : Bytes) (tag : Option Nat) (b : Block) : (sendXact h p peer payload tag b).ahu = b.ahu := by
  have hport := choosePort_ahu h.cfg p 0 peer b
  unfold sendXact
  split
  · next heq => rw [heq] at hport; exact hport
  · next heq => rw [heq] at hport; exact hport

theorem sendAsk_ahu (h : Hard) (p : Part) (t : Nat) (b : Block) : (sendAsk h p t b).ahu = b.ahu := by
  unfold sendAsk
  split
  · exact sendXact_ahu ..
  · rfl

/-! ### The keeper's side -/

theorem newReq_ahu (p : Part) (rid line : Nat) (op : MemOp) (a : Asker) (within : Nat) (scheduled : Bool) (b : Block) : (newReq p rid line op a within scheduled b).ahu = b.ahu := rfl

theorem keepStart_ahu (p : Part) (peer : BitVec 16) (m : Held) (rid : Nat) (b : Block) : (keepStart p peer m rid b).ahu = b.ahu :=
  foldl_keeps Block.ahu (fun _ _ => newReq_ahu ..) ..

theorem keepNext_busy {b : Block} {p : Part} {peer : BitVec 16} (h : (b.pairKeep p peer).busy = true) (hw : Hard) (n : Nat) : keepNext hw p peer n b = b := by
  cases n with
  | zero => rfl
  | succ n =>
    unfold keepNext
    dsimp only
    rw [if_pos h]

@[simp] theorem keepFloor_pairKeep_accepted (p : Part) (peer : BitVec 16) (f : Nat) (b : Block) : ((keepFloor p peer f b).pairKeep p peer).accepted = (b.pairKeep p peer).accepted := by
  rw [keepFloor, modKeep_pairKeep]

@[simp] theorem keepFloor_pairKeep_busy (p : Part) (peer : BitVec 16) (f : Nat) (b : Block) : ((keepFloor p peer f b).pairKeep p peer).busy = (b.pairKeep p peer).busy := by
  rw [keepFloor, modKeep_pairKeep]

@[simp] theorem keepFloor_pairKeep_reorder (p : Part) (peer : BitVec 16) (f : Nat) (b : Block) : ((keepFloor p peer f b).pairKeep p peer).reorder = (b.pairKeep p peer).reorder := by
  rw [keepFloor, modKeep_pairKeep]

@[simp] theorem keepFloor_pairKeep_floor (p : Part) (peer : BitVec 16) (f : Nat) (b : Block) : ((keepFloor p peer f b).pairKeep p peer).floor = max (b.pairKeep p peer).floor f := by
  rw [keepFloor, modKeep_pairKeep]

section
variable {b : Block} {p : Part} {peer : BitVec 16} {m : Held} (hw : Hard)

theorem keepReceive_taken (hsess : b.session p peer = true) (hreset : (b.island .ahu).inReset = false) (hform : m.wellFormed = true) : ¬ (b.session p peer = false ∨ m.wellFormed = false ∨ (b.island .ahu).inReset = true) := by
  rw [hsess, hreset, hform]
  decide

/-- R286: the next in order starts its one bundle. -/
theorem keepReceive_next {rid : Nat} {r : Region} (hsess : b.session p peer = true) (hreset : (b.island .ahu).inReset = false) (hform : m.wellFormed = true)
    (horder : m.dseq = (b.pairKeep p peer).accepted + 1) (hidle : (b.pairKeep p peer).busy = false) (habandon : m.x.abandon = false) (hok : keepRefusal b p m = none)
    (hregion : b.regionById p m.x.regionId = some (rid, r)) :
    keepReceive hw p peer m b = keepStart p peer m rid (modKeep p peer (fun k => { k with busy := true }) (keepFloor p peer m.x.aux.toNat b)) := by
  have hnew : ¬ m.dseq ≤ (b.pairKeep p peer).accepted := by omega
  have happly : keepApply hw p peer m (keepFloor p peer m.x.aux.toNat b) = keepStart p peer m rid (modKeep p peer (fun k => { k with busy := true }) (keepFloor p peer m.x.aux.toNat b)) := by
    have hok' : keepRefusal (keepFloor p peer m.x.aux.toNat b) p m = none := hok
    have hregion' : (keepFloor p peer m.x.aux.toNat b).regionById p m.x.regionId = some (rid, r) := hregion
    unfold keepApply
    simp only [habandon, Bool.false_eq_true, if_false, hok', hregion']
  have hbusy : ((keepStart p peer m rid (modKeep p peer (fun k => { k with busy := true }) (keepFloor p peer m.x.aux.toNat b))).pairKeep p peer).busy = true := by
    rw [Block.pairKeep, Block.ahuPart, keepStart_ahu]
    exact congrArg PairKeep.busy (modKeep_pairKeep ..)
  unfold keepReceive
  rw [if_neg (keepReceive_taken hsess hreset hform)]
  simp only [keepFloor_pairKeep_accepted, if_neg hnew, if_pos horder, keepFloor_pairKeep_busy, hidle, Bool.false_eq_true, if_false, happly]
  rw [keepNext_busy hbusy]

/-- R287: a duplicate of a write is answered. -/
theorem keepReceive_duplicate (hsess : b.session p peer = true) (hreset : (b.island .ahu).inReset = false) (hform : m.wellFormed = true) (htype : m.mtype = mWrite)
    (hold : m.dseq ≤ (b.pairKeep p peer).accepted) (hfloor : (b.pairKeep p peer).floor ≤ m.dseq) (haux : m.x.aux.toNat ≤ m.dseq) :
    keepReceive hw p peer m b = respond hw p peer 0x82 m.x 0x00 [] (modAhu p (fun a => { a with duplicate := a.duplicate + 1 }) (keepFloor p peer m.x.aux.toNat b)) := by
  have hkept : ¬ m.dseq < max (b.pairKeep p peer).floor m.x.aux.toNat := Nat.not_lt.mpr (Nat.max_le.mpr ⟨hfloor, haux⟩)
  unfold keepReceive
  rw [if_neg (keepReceive_taken hsess hreset hform)]
  simp only [keepFloor_pairKeep_accepted, if_pos hold, keepDuplicate, keepFloor_pairKeep_floor, if_neg hkept, if_pos htype, stOk]

/-- R286: what comes out of order waits in the empty reorder buffer. -/
theorem keepReceive_early (hsess : b.session p peer = true) (hreset : (b.island .ahu).inReset = false) (hform : m.wellFormed = true) (hearly : (b.pairKeep p peer).accepted + 1 < m.dseq)
    (hempty : (b.pairKeep p peer).reorder = []) : keepReceive hw p peer m b = modKeep p peer (fun k => { k with reorder := [m] }) (keepFloor p peer m.x.aux.toNat b) := by
  have hnew : ¬ m.dseq ≤ (b.pairKeep p peer).accepted := by omega
  have hgap : ¬ m.dseq = (b.pairKeep p peer).accepted + 1 := by omega
  have hroom : ([] : List Held).length < reorderCap := by decide
  unfold keepReceive
  rw [if_neg (keepReceive_taken hsess hreset hform)]
  simp only [keepFloor_pairKeep_accepted, if_neg hnew, if_neg hgap, keepFloor_pairKeep_reorder, hempty, List.any_nil, Bool.false_eq_true, if_false, if_pos hroom]
  refine modKeep_congr ?_
  rw [keepFloor_pairKeep_reorder, hempty, List.nil_append]

end

theorem wellFormed_write {x : Xact} {lines : List Line} (h1 : 1 ≤ x.count.toNat) (hl : lines.length = x.count.toNat) :
    ({ dseq := x.dseq.toNat, mtype := mWrite, x := x, lines := lines, aop := 0, opA := 0, opB := 0 } : Held).wellFormed = true := by
  unfold Held.wellFormed
  rw [decide_eq_true h1, decide_eq_true hl]
  rfl

theorem wellFormed_read {x : Xact} (h1 : 1 ≤ x.count.toNat) : ({ dseq := x.dseq.toNat, mtype := mRead, x := x, lines := [], aop := 0, opA := 0, opB := 0 } : Held).wellFormed = true := by
  unfold Held.wellFormed
  rw [decide_eq_true h1]
  rfl

theorem exec_received {s : State} {c : Instr} {p : Part} {peer : BitVec 16} {x : Xact} {m : Held} (hlive : s.b.live = true)
    (hc : (c = .read p peer x ∧ m = { dseq := x.dseq.toNat, mtype := mRead, x := x, lines := [], aop := 0, opA := 0, opB := 0 }) ∨
      (∃ lines, c = .write p peer x lines ∧ m = { dseq := x.dseq.toNat, mtype := mWrite, x := x, lines := lines, aop := 0, opA := 0, opB := 0 }) ∨
      (∃ aop u v, c = .atomic p peer x aop u v ∧ m = { dseq := x.dseq.toNat, mtype := mAtomic, x := x, lines := [], aop := aop, opA := u, opB := v })) :
    exec c s = .next (s.settled (keepReceive s.hard p peer m s.b)) ∧ m.x = x ∧ m.dseq = x.dseq.toNat := by
  obtain ⟨rfl, rfl⟩ | ⟨lines, rfl, rfl⟩ | ⟨aop, u, v, rfl, rfl⟩ := hc
  · refine ⟨?_, rfl, rfl⟩
    show execRead p peer x s = _
    rw [execRead, act_live _ hlive]
  · refine ⟨?_, rfl, rfl⟩
    show execWrite p peer x lines s = _
    rw [execWrite, act_live _ hlive]
  · refine ⟨?_, rfl, rfl⟩
    show execAtomic p peer x aop u v s = _
    rw [execAtomic, act_live _ hlive]

/-- Settles O34: a message taken in order, again, and early. -/
theorem keepersApplyMessagesInOrder : Obligations.KeepersApplyMessagesInOrder := by
  unfold Obligations.KeepersApplyMessagesInOrder
  refine ⟨fun s p peer x rid r m c hc hlive hsess hreset hform horder hidle habandon hok hregion => ?_, fun s p peer x lines hlive hsess hreset h1 hl hold hfloor haux => ?_,
    fun s p peer x hlive hsess hreset h1 hearly hempty => ?_, fun s p peer d hlive => ?_⟩
  · obtain ⟨hexec, rfl, hdseq⟩ := exec_received hlive hc
    rw [hexec, keepReceive_next s.hard hsess hreset hform (hdseq.trans horder) hidle habandon hok hregion]
  · rw [(exec_received hlive (.inr (.inl ⟨lines, rfl, rfl⟩))).1, keepReceive_duplicate s.hard hsess hreset (wellFormed_write h1 hl) rfl hold hfloor haux]
  · rw [(exec_received hlive (.inl ⟨rfl, rfl⟩)).1, keepReceive_early s.hard hsess hreset (wellFormed_read h1) hearly hempty]
  · show execAtomicWindowExpire p peer d s = _
    rw [execAtomicWindowExpire, act_live _ hlive]
    rfl

/-! ### The requester's side -/

theorem ahuTakes_of {b : Block} {p : Part} {peer : BitVec 16} (hsess : b.session p peer = true) (hreset : (b.island .ahu).inReset = false) : ahuTakes b p peer = true := by
  rw [ahuTakes, hsess, hreset]; rfl

/-- R293: a response that matches and is not a revocation gives the requester its answer. -/
theorem rspArrives_answered {b : Block} {p : Part} {peer : BitVec 16} {mt : Byte} {x : Xact} {t : Nat} {y : TagSt} (hmatch : matchTag b p peer mt x = some (t, y)) (hst : x.status ≠ 0x07)
    (hloud : y.silent = false) (hw : Hard) (v : Line) :
    rspArrives hw p peer mt x v b = freeTag p t (answerTag p y x.status v (modPair p peer (fun q => { q with accepted := max q.accepted x.aux.toNat }) (dropQueued p t b))) := by
  have hkept : ¬ (x.status = stRegionRevoked ∧ y.silent = false) := fun h => hst h.1
  unfold rspArrives
  rw [hmatch]
  simp only [if_neg hkept]
  rw [hloud, if_neg Bool.false_ne_true]

theorem rspArrives_stale {b : Block} {p : Part} {peer : BitVec 16} {mt : Byte} {x : Xact} (hmatch : matchTag b p peer mt x = none) (hw : Hard) (v : Line) :
    rspArrives hw p peer mt x v b = modAhu p (fun a => { a with staleRsp := a.staleRsp + 1 }) b := by
  unfold rspArrives
  rw [hmatch]
  rfl

theorem exec_response {s : State} {c : Instr} {p : Part} {peer : BitVec 16} {x : Xact} {mt : Byte} {v : Line} (hlive : s.b.live = true) (htakes : ahuTakes s.b p peer = true)
    (hc : (∃ l, c = .readRsp p peer x [l] ∧ x.count = 1 ∧ mt = mRead ∧ v = l) ∨ (c = .writeAck p peer x ∧ mt = mWrite ∧ v = 0) ∨ (∃ old : Word, c = .atomicRsp p peer x old ∧ mt = mAtomic ∧ v = old.setWidth 512)) :
    exec c s = .next (s.settled (rspArrives s.hard p peer mt x v s.b)) := by
  obtain ⟨l, rfl, hcount, rfl, rfl⟩ | ⟨rfl, rfl, rfl⟩ | ⟨old, rfl, rfl, rfl⟩ := hc
  · show execReadRsp p peer x [v] s = _
    rw [execReadRsp, act_live _ hlive]
    dsimp only
    rw [if_pos ⟨htakes, hcount⟩]
  · show execWriteAck p peer x s = _
    rw [execWriteAck, act_live _ hlive, if_pos htakes]
  · show execAtomicRsp p peer x old s = _
    rw [execAtomicRsp, act_live _ hlive, if_pos htakes]

section
variable {s : State} {p : Part}

/-- R282: the tray's answer to a write. -/
theorem exec_trayResponse_write {r : TrayRsp} {x : TagSt} (hlive : s.b.live = true) (hop : r.op = 4) (hreset : (s.b.island .ahu).inReset = false)
    (htag : s.b.tagSt p (bitsOf r.tag.toNat 0 11) = some x) (htype : x.mtype = mWrite) (hmatch : trayMatches s.b p r x = true) :
    exec (.trayResponse p r) s = .next (s.settled (push (.pub x.region) (modRegion x.region
      (fun y => if y.regionId = x.regionId then { y with pub := y.pub.map fun u => { u with tags := u.tags.filter fun n => decide (n ≠ bitsOf r.tag.toNat 0 11) } } else y)
      (freeTag p (bitsOf r.tag.toNat 0 11) (dropQueued p (bitsOf r.tag.toNat 0 11) s.b))))) := by
  have htake : ¬ ((r.op ≠ 3 ∧ r.op ≠ 4) ∨ (s.b.island .ahu).inReset = true) := by
    rw [hop, hreset]
    decide
  show execTrayResponse p r s = _
  rw [execTrayResponse, act_live _ hlive]
  unfold trayAnswered
  simp only [if_neg htake, htag, hmatch, Bool.true_eq_false, if_false, if_pos htype]

theorem exec_tagQuarantineEnd {t : Fin 2048} {x : TagSt} (hlive : s.b.live = true) (htag : s.b.tagSt p t.val = some x) (hkind : x.kind = 2) (hend : x.quarEnd.toNat ≤ s.b.clk.tick.toNat) :
    exec (.tagQuarantineEnd p t) s = .next (s.settled (freeTag p t.val s.b)) := by
  show execTagQuarantineEnd p t s = _
  rw [execTagQuarantineEnd, act_live _ hlive]
  rw [htag]
  exact congrArg (fun b => Host.Outcome.next (s.settled b)) (if_pos ⟨hkind, hend⟩)

theorem exec_retransmit_tray {t : Fin 2048} {x : TagSt} (hlive : s.b.live = true) (htag : s.b.tagSt p t.val = some x) (hkind : x.kind = 0) (hdue : resendDue s.b p t.val x = true) :
    exec (.retransmit p t) s = .next (s.settled (resend s.hard p t.val s.b)) := by
  show execRetransmit p t s = _
  rw [execRetransmit, act_live _ hlive]
  simp only [htag, hdue, Bool.true_eq_false, if_false, if_pos hkind]

/-- R299: the abandon copy of a write or atomic whose requester is gone. -/
theorem exec_abandonCopy {t : Fin 2048} {x : TagSt} (hlive : s.b.live = true) (htag : s.b.tagSt p t.val = some x) (hkind : x.kind = 1) (hseq : x.dseq.isSome = true) (hfirst : x.abandon = false)
    (hmut : x.mtype = mWrite ∨ x.mtype = mAtomic) (hsilent : x.silent = true) :
    exec (.abandonCopy p t) s = .next (s.settled (sendAsk s.hard p t.val (modAhu p (fun a => { a with abandoned := a.abandoned + 1 })
      (modTag p t.val (fun y => { y with abandon := true }) (dropQueued p t.val s.b))))) := by
  have hdue : abandonDue s.b x = true := by
    rw [abandonDue, TagSt.mutates, decide_eq_true hkind, hseq, hfirst, decide_eq_true hmut, hsilent]
    rfl
  show execAbandonCopy p t s = _
  rw [execAbandonCopy, act_live _ hlive]
  simp only [htag, hdue, Bool.true_eq_false, if_false]

end

/-- Settles O35: what ends a message and what sends it again, one lemma each. -/
theorem messagesEndOrAreSentAgain : Obligations.MessagesEndOrAreSentAgain := by
  unfold Obligations.MessagesEndOrAreSentAgain
  refine ⟨fun s p peer x t y c mt v hc hlive hsess hreset hmatch hst hloud => ?_, fun s p peer x hlive hsess hreset hmatch => ?_, fun _ _ _ _ => exec_trayResponse_write,
    fun _ _ _ _ => exec_tagQuarantineEnd, fun _ _ _ _ => exec_retransmit_tray, fun _ _ _ _ => exec_abandonCopy⟩
  · rw [exec_response hlive (ahuTakes_of hsess hreset) hc, rspArrives_answered hmatch hst hloud]
  · rw [exec_response hlive (ahuTakes_of hsess hreset) (.inr (.inl ⟨rfl, rfl, rfl⟩)), rspArrives_stale hmatch]

/-! ### Fences -/

section
variable {s : State} {p : Part} {peer : BitVec 16}

theorem visible_target (k : PairKeep) (t : Nat) : ({ k with target := t } : PairKeep).visible = k.visible := rfl

theorem modKeep_fenceSeq (f : PairKeep → PairKeep) (b : Block) (id : BitVec 32) : fenceSeq (modKeep p peer f b) p id = fenceSeq b p id := rfl

/-- R295: a fence's target at the keeper, nothing left unseen. -/
theorem exec_fenceReq {x : Xact} (hlive : s.b.live = true) (hsess : s.b.session p peer = true) (hreset : (s.b.island .ahu).inReset = false) (hacq : x.acquire = false)
    (hseen : (s.b.pairKeep p peer).unseen = []) :
    exec (.fenceReq p peer x) s = .next (s.settled (modKeep p peer (fun k => { k with fence := if max (s.b.pairKeep p peer).target x.aux.toNat ≤ (s.b.pairKeep p peer).visible then none else some (x.tag, x.regionId) })
      (fenceAck s.hard p peer x.tag x.regionId (fenceSeq s.b p x.regionId) (modKeep p peer (fun k => { k with target := max k.target x.aux.toNat }) s.b)))) := by
  show execFenceReq p peer x s = _
  rw [execFenceReq, act_live _ hlive]
  rw [if_pos (ahuTakes_of hsess hreset), fenceAsked, if_neg (by rw [hsess]; decide), hacq, if_neg Bool.false_ne_true]
  dsimp only
  rw [modKeep_pairKeep, visible_target, hseen, List.filter_nil, List.map_nil, List.dedup_nil, List.foldl_nil, modKeep_fenceSeq]
  generalize fenceAck s.hard p peer x.tag x.regionId _ _ = c
  by_cases hdone : max (s.b.pairKeep p peer).target x.aux.toNat ≤ (s.b.pairKeep p peer).visible
  · refine (congrArg (fun b => Host.Outcome.next (s.settled b)) (if_pos hdone)).trans ?_
    simp only [if_pos hdone]
  · refine (congrArg (fun b => Host.Outcome.next (s.settled b)) (if_neg hdone)).trans ?_
    simp only [if_neg hdone]

/-- R296: an answer that reaches the fence's target. -/
theorem exec_fenceAck {x : Xact} {seq : Word} {t : Nat} {y : TagSt} (hlive : s.b.live = true) (hsess : s.b.session p peer = true) (hreset : (s.b.island .ahu).inReset = false)
    (hmatch : matchTag s.b p peer mFence x = some (t, y)) (hop : y.aop ≠ 1) (htarget : (s.b.pairReq p peer).target ≤ x.aux.toNat) (hvis : (s.b.pairReq p peer).visible ≤ x.aux.toNat) :
    exec (.fenceAck p peer x seq) s = .next (s.settled (push (.part p) (push (.fences p) (freeTag p t (modPair p peer (fun q => { q with fenceTag := none })
      (modPair p peer (fun q => { q with visible := x.aux.toNat }) s.b)))))) := by
  have hmoved : modPair p peer (fun q => { q with visible := max q.visible x.aux.toNat }) s.b = modPair p peer (fun q => { q with visible := x.aux.toNat }) s.b :=
    modPair_congr (by rw [Nat.max_eq_right hvis])
  show execFenceAck p peer x seq s = _
  rw [execFenceAck, act_live _ hlive]
  simp only [ahuTakes_of hsess hreset, Bool.true_eq_false, if_false, hmatch, fenceAnswered, if_neg hop, hmoved, modPair_pairReq, if_pos htarget]

/-- The fence of a compute die: every pair with messages not visible yet is among its targets. -/
def dieFence (b : Block) (die : Fin 4) (p : Part) : FenceRun :=
  { ctx := none, die := some die, object := 0, slot := none, pasid := 0,
    targets := ((b.ahuPart p).req.filter fun q => decide (q.2.visible + 1 < q.2.next)).map fun q => (BitVec.ofNat 16 q.1, q.2.next - 1), self := ownWrites b p,
    pubs := (b.regions.filter fun e => decide (e.2.part = p ∧ e.2.kind = 2 ∧ e.2.role = 0)).map fun e => (e.1, (0 : Word)), acquire := [], flush := none, status := 0x00 }

theorem exec_computeDieFence {die : Fin 4} (hlive : s.b.live = true) (hpart : s.b.partExists p = true) :
    exec (.computeDieFence die p) s = .next (s.settled (push (.fences p) (modAhu p (fun a => { a with fences := a.fences ++ [dieFence s.b die p] }) s.b))) := by
  show execComputeDieFence die p s = _
  rw [execComputeDieFence, act_live _ hlive]
  rw [if_pos hpart]
  rfl

theorem dieFence_targets {b : Block} {die : Fin 4} {m : Nat} {q : PairReq} (hmem : (m, q) ∈ (b.ahuPart p).req) (hlate : q.visible + 1 < q.next) : (BitVec.ofNat 16 m, q.next - 1) ∈ (dieFence b die p).targets :=
  List.mem_map_of_mem (f := fun q : Nat × PairReq => (BitVec.ofNat 16 q.1, q.2.next - 1)) (List.mem_filter.mpr ⟨hmem, decide_eq_true hlate⟩)

/-- R297: the fence request goes out again; no acquire waits. -/
theorem exec_fenceReqResend {t : Nat} (hlive : s.b.live = true) (htag : (s.b.pairReq p peer).fenceTag = some t) (hopen : (s.b.pairReq p peer).visible < (s.b.pairReq p peer).target)
    (hlate : (s.b.pairReq p peer).asked.toNat + 100000 ≤ s.b.clk.tick.toNat) (hnone : (s.b.ahuPart p).fences = []) :
    exec (.fenceReqResend p peer) s = .next (s.settled (sendAsk s.hard p t (modPair p peer (fun q => { q with asked := s.b.clk.tick }) s.b))) := by
  have hacquires : acquireTags (sendAsk s.hard p t (modPair p peer (fun q => { q with asked := s.b.clk.tick }) s.b)) p peer = [] := by
    have hfences : ((sendAsk s.hard p t (modPair p peer (fun q => { q with asked := s.b.clk.tick }) s.b)).ahuPart p).fences = [] := by
      rw [Block.ahuPart, sendAsk_ahu]
      exact (congrArg AhuPart.fences (modAhu_ahuPart ..)).trans hnone
    rw [acquireTags, hfences]
    rfl
  have hdue : (s.b.pairReq p peer).visible < (s.b.pairReq p peer).target ∧ (s.b.pairReq p peer).asked.toNat + 100000 ≤ s.b.now.toNat := ⟨hopen, hlate⟩
  show execFenceReqResend p peer s = _
  rw [execFenceReqResend, act_live _ hlive]
  dsimp only
  rw [htag]
  dsimp only
  rw [if_pos hdue]
  exact congrArg (fun b => Host.Outcome.next (s.settled b)) (by rw [show s.b.now = s.b.clk.tick from rfl, hacquires]; rfl)

/-- R297: a late token is asked for once. -/
def tokenAsked (b : Block) (r : Region) (a : AhuPart) : AhuPart :=
  { a with fences := a.fences.map fun f => { f with acquire := f.acquire.map fun q => if acquireLate b r q then { q with answered := BitVec.allOnes 64 } else q } }

theorem tokenAsked_late {b : Block} {r : Region} {a : AhuPart} {f : FenceRun} {q : Acquire} (hf : f ∈ (tokenAsked b r a).fences) (hq : q ∈ f.acquire) : acquireLate b r q = false := by
  obtain ⟨f', -, rfl⟩ := List.mem_map.mp hf
  obtain ⟨q', -, rfl⟩ := List.mem_map.mp hq
  by_cases hlate : acquireLate b r q' = true
  · rw [if_pos hlate]
    simp [acquireLate]
  · rw [if_neg hlate]
    exact Bool.eq_false_iff.mpr hlate

theorem exec_acquireTimeout {id : BitVec 32} {rid : Nat} {r : Region} (hlive : s.b.live = true) (hregion : s.b.regionById p id = some (rid, r)) (hrole : r.role ≠ 0)
    (hlate : ∃ f ∈ (s.b.ahuPart p).fences, ∃ a ∈ f.acquire, acquireLate s.b r a = true) (hsess : s.b.session p r.token.keeper = true) :
    exec (.acquireTimeout p id) s = .next (s.settled (sendMem s.hard p r.token.keeper 5 id [] (modAhu p (tokenAsked s.b r) s.b))) := by
  have hany : ((s.b.ahuPart p).fences.any fun f => f.acquire.any (acquireLate s.b r)) = true := by
    obtain ⟨f, hf, a, ha, h⟩ := hlate
    exact List.any_eq_true.mpr ⟨f, hf, List.any_eq_true.mpr ⟨a, ha, h⟩⟩
  have hsess' : (modAhu p (tokenAsked s.b r) s.b).session p r.token.keeper = true := hsess
  show execAcquireTimeout p id s = _
  rw [execAcquireTimeout, act_live _ hlive]
  rw [hregion]
  dsimp only
  rw [if_pos ⟨hrole, hany⟩, sendMemTo]
  exact congrArg (fun b => Host.Outcome.next (s.settled b)) (if_pos hsess')

end

/-- Settles O36: one lemma per command of the fences. -/
theorem fencesAreAskedAndAnswered : Obligations.FencesAreAskedAndAnswered := by
  unfold Obligations.FencesAreAskedAndAnswered
  refine ⟨fun _ _ _ _ => exec_fenceReq, fun _ _ _ _ _ _ _ => exec_fenceAck, fun s die p hlive hpart => ?_, fun _ _ _ _ => exec_fenceReqResend, fun s p id rid r hlive hregion hrole hlate hsess => ?_⟩
  · exact ⟨_, dieFence s.b die p, exec_computeDieFence hlive hpart, by rw [modAhu_ahuPart], rfl, rfl, rfl, fun m q => dieFence_targets, rfl⟩
  · refine ⟨_, exec_acquireTimeout hlive hregion hrole hlate hsess, rfl, fun f hf a ha => ?_⟩
    rw [modAhu_ahuPart] at hf
    exact tokenAsked_late hf ha

end Sys2Proof.Machine
end

section
/-! The loads of a Jig and the Expert mailbox (R65 to R79). -/

namespace Sys2Proof.Machine

/-! ### A load is taken -/

section
variable {s : State} {ctx : CmdCtx} {part : Part} {rep : Bool} {addr : Word} {len : BitVec 32} {q : Queue}

theorem exec_cmdJigLoad (hst : s.starts ctx 0x02 0 q) :
    exec (.cmdJigLoad ctx part rep addr len) s = .next (s.settled (if part ≠ q.part then complete s.hard ctx stNotOwner 0 0 0 (markStarted ctx s.b)
      else if transitionOpen s.hard.fuse then complete s.hard ctx stNoSlot 0 0 0 (rejectOpen part (markStarted ctx s.b))
      else nextLoad { markStarted ctx s.b with tcQueue := (markStarted ctx s.b).tcQueue ++ [{ ctx := ctx, part := part, replace := rep, addr := addr, length := len, begun := 0 }] })) := by
  show execCmdJigLoad ctx part rep addr len s = _
  rw [execCmdJigLoad, actCmd_starts _ hst]

end

/-! ### The staged copy -/

/-- Whether random values wait changes no check of a copy. -/
theorem entropyServed_steps1to8 (hw : Hard) (ctx : CmdCtx) (b : Block) (p : Part) (rep : Bool) (img : Bytes) : steps1to8 hw (entropyServed ctx b) p rep img = steps1to8 hw b p rep img := rfl
theorem entropyServed_step9 (ctx : CmdCtx) (b : Block) (p : Part) (old new : Jig) (img : Bytes) : step9 (entropyServed ctx b) p old new img = step9 b p old new img := rfl
theorem entropyServed_step10 (hw : Hard) (ctx : CmdCtx) (b : Block) (p : Part) (j : Jig) (t : Nat) (offs : Nat → Nat) : step10 hw (entropyServed ctx b) p j t offs = step10 hw b p j t offs := rfl
theorem entropyServed_dumpSecret (hw : Hard) (ctx : CmdCtx) (b : Block) (img : Bytes) : dumpSecret hw (entropyServed ctx b) img = dumpSecret hw b img := rfl

theorem padTo_exact {n : Nat} {bs : Bytes} (h : bs.length = n) : (padTo n bs).take n = bs := by
  rw [padTo, h, Nat.sub_self, List.replicate_zero, List.append_nil, ← h, List.take_length]

section
variable {b : Block} {l : JigLoad} {hw : Hard}

theorem stagedCheck_open (hopen : transitionOpen hw.fuse = true) (image : Option Bytes) : stagedCheck hw l image b = complete hw l.ctx stNoSlot 0 0 0 (rejectOpen l.part b) := by
  unfold stagedCheck
  rw [if_pos hopen]

theorem stagedCheck_loaded {j : Jig} (hopen : transitionOpen hw.fuse = false) (hjig : b.jigOf l.part = some j) (hrep : l.replace = false) (image : Option Bytes) :
    stagedCheck hw l image b = loadFails hw l.part l.ctx stJigRejected 0x30 { reason := 0x30, type := 0, off := 0 } b := by
  unfold stagedCheck
  rw [hopen, hjig, if_neg Bool.false_ne_true]
  exact if_pos ⟨rfl, hrep⟩

theorem stagedCheck_unloaded (hopen : transitionOpen hw.fuse = false) (hjig : b.jigOf l.part = none) (hrep : l.replace = true) (image : Option Bytes) :
    stagedCheck hw l image b = loadFails hw l.part l.ctx stJigRejected 0x31 { reason := 0x31, type := 0, off := 0 } b := by
  unfold stagedCheck
  rw [hopen, hjig, hrep, if_neg Bool.false_ne_true]
  rfl

section
variable (hopen : transitionOpen hw.fuse = false) (hrep : (b.jigOf l.part).isSome = l.replace)
include hopen hrep

theorem stagedCheck_unread : stagedCheck hw l none b = loadFails hw l.part l.ctx stAborted 0x0104 { reason := 0x06, type := 0, off := 0 } b := by
  unfold stagedCheck
  rw [hopen, hrep, if_neg Bool.false_ne_true]
  cases l.replace <;> rfl

theorem stagedCheck_tooLong (img : Bytes) (hlen : 16777216 < l.length.toNat) : stagedCheck hw l (some img) b = loadFails hw l.part l.ctx stJigRejected 0x05 { reason := 0x05, type := 0, off := 0 } b := by
  unfold stagedCheck
  simp only [hopen, hrep, Bool.false_eq_true, if_false, if_pos hlen]
  cases l.replace <;> rfl

theorem stagedCheck_image {img : Bytes} (hlen : l.length.toNat ≤ 16777216) (hwhole : img.length = l.length.toNat) : stagedCheck hw l (some img) b = checkImage hw l img b := by
  unfold stagedCheck
  simp only [hopen, hrep, Bool.false_eq_true, if_false, if_neg (Nat.not_lt.mpr hlen), padTo_exact hwhole]
  cases l.replace <;> rfl

end

theorem checkImage_rejected {img : Bytes} {r : Rej} (h8 : steps1to8 hw b l.part l.replace img = some r) : checkImage hw l img b = loadFails hw l.part l.ctx stJigRejected r.reason r b := by
  unfold checkImage
  simp only [h8]

/-- R74: a replacement that passes stands as the pending one. -/
theorem checkImage_replaces {img : Bytes} {old : Jig} (h8 : steps1to8 hw b l.part l.replace img = none) (hjig : b.jigOf l.part = some old) (h9 : step9 b l.part old (jigOfImage img) img = none) :
    checkImage hw l img b = modPart l.part (fun x =>
      { x with pending := some { jig := jigOfImage img, offs := [0x10, 0x11, 0x21, 0x30, 0x40].map fun t => (t, offOf (records img) t), ctx := l.ctx, committed := false } }) b := by
  unfold checkImage
  simp only [h8, hjig, h9]

theorem checkImage_loads {img : Bytes} {k : Key} (h8 : steps1to8 hw b l.part l.replace img = none) (hjig : b.jigOf l.part = none)
    (h10 : step10 hw b l.part (jigOfImage img) b.now.toNat (offOf (records img)) = none) (hkey : dumpSecret hw b img = some k) : checkImage hw l img b = firstLoad hw l (jigOfImage img) k b := by
  unfold checkImage
  simp only [h8, hjig, h10, hkey]

end

section
variable {s : State} {l : JigLoad} {image : Option Bytes} (hlive : s.b.live = true) (hload : s.b.tcLoad = some l)
include hlive hload

theorem exec_jigStagedCheck (hlives : loadLives s.b l = true) (hrandom : s.b.noRandom = false) :
    exec (.jigStagedCheck image) s = .next (s.settled (dropLoads (fun x => decide (x = l)) (stagedCheck s.hard l image (entropyServed l.ctx s.b)))) := by
  show execJigStagedCheck image s = _
  rw [execJigStagedCheck, act_live _ hlive]
  simp only [hload, hlives, hrandom, Bool.true_eq_false, Bool.false_eq_true, if_false]

theorem exec_jigStagedCheck_waits (hlives : loadLives s.b l = true) (hrandom : s.b.noRandom = true) (hnew : (s.b.ent.waiting.any fun w => decide (w.1 = l.ctx)) = false) :
    exec (.jigStagedCheck image) s = .next (s.settled { s.b with ent := { s.b.ent with waiting := s.b.ent.waiting ++ [(l.ctx, l.part, s.b.clk.tick)] } }) := by
  show execJigStagedCheck image s = _
  rw [execJigStagedCheck, act_live _ hlive]
  simp only [hload, hlives, hrandom, hnew, Bool.true_eq_false, Bool.false_eq_true, if_false, if_true]
  rfl

theorem exec_jigStagedCheck_dead (hlives : loadLives s.b l = false) :
    exec (.jigStagedCheck image) s = .next (s.settled (dropLoads (fun x => decide (x = l)) (rejectOpen l.part s.b))) := by
  show execJigStagedCheck image s = _
  rw [execJigStagedCheck, act_live _ hlive]
  simp only [hload, hlives, if_true]

end

/-! ### The commit point and the tick of activation -/

section
variable {s : State} {p : Part} {x : PendingJig} {old : Jig} (hlive : s.b.live = true) (hpend : (s.b.part p).pending = some x) (hjig : s.b.jigOf p = some old)
include hlive hpend hjig

theorem exec_jigCommitPoint (hfresh : x.committed = false) (hdue : x.jig.activateTick.toNat ≤ s.b.clk.tick.toNat + 100000) :
    exec (.jigCommitPoint p) s = .next (s.settled (commitPoint s.hard p x old s.b)) := by
  have hgo : x.committed = false ∧ x.jig.activateTick.toNat ≤ s.b.now.toNat + 100000 := ⟨hfresh, hdue⟩
  show execJigCommitPoint p s = _
  rw [execJigCommitPoint, act_live _ hlive]
  simp only [hpend, hjig, if_pos hgo]

theorem exec_jigCommitPoint_early (hearly : s.b.clk.tick.toNat + 100000 < x.jig.activateTick.toNat) : exec (.jigCommitPoint p) s = .next (s.settled s.b) := by
  have hgo : ¬ (x.committed = false ∧ x.jig.activateTick.toNat ≤ s.b.now.toNat + 100000) := fun h => Nat.not_lt.mpr h.2 hearly
  show execJigCommitPoint p s = _
  rw [execJigCommitPoint, act_live _ hlive]
  simp only [hpend, hjig, if_neg hgo]

theorem exec_jigActivate (hcommitted : x.committed = true) (hdue : x.jig.activateTick.toNat ≤ s.b.clk.tick.toNat) : exec (.jigActivate p) s = .next (s.settled (activate s.hard p x old s.b)) := by
  have hgo : x.committed = true ∧ x.jig.activateTick.toNat ≤ s.b.now.toNat := ⟨hcommitted, hdue⟩
  show execJigActivate p s = _
  rw [execJigActivate, act_live _ hlive]
  simp only [hpend, hjig, if_pos hgo]

theorem exec_jigActivate_early (hearly : s.b.clk.tick.toNat < x.jig.activateTick.toNat) : exec (.jigActivate p) s = .next (s.settled s.b) := by
  have hgo : ¬ (x.committed = true ∧ x.jig.activateTick.toNat ≤ s.b.now.toNat) := fun h => Nat.not_lt.mpr h.2 hearly
  show execJigActivate p s = _
  rw [execJigActivate, act_live _ hlive]
  simp only [hpend, hjig, if_neg hgo]

end

section
variable {b : Block} {p : Part} {x : PendingJig} {old : Jig} {hw : Hard}

theorem commitPoint_fails {st : Byte} {r : Rej} (h10 : step10 hw b p x.jig x.jig.activateTick.toNat (Tab.getD x.offs · 0) = some (st, r)) :
    commitPoint hw p x old b = loadFails hw p x.ctx st r.reason r (modPart p (fun y => { y with pending := none }) b) := by
  unfold commitPoint
  simp only [h10]

theorem commitPoint_inUse (h10 : step10 hw b p x.jig x.jig.activateTick.toNat (Tab.getD x.offs · 0) = none) (huse : inUse b p old x.jig = true) :
    commitPoint hw p x old b = loadFails hw p x.ctx stJigRejected 0x36 { reason := 0x36, type := 0, off := 0 } (modPart p (fun y => { y with pending := none }) b) := by
  unfold commitPoint
  simp only [h10, huse, if_true]

theorem commitPoint_commits (h10 : step10 hw b p x.jig x.jig.activateTick.toNat (Tab.getD x.offs · 0) = none) (huse : inUse b p old x.jig = false) :
    commitPoint hw p x old b = rebuildGrids hw (modPart p (fun y => { y with pending := some { x with committed := true } }) b) := by
  unfold commitPoint
  simp only [h10, huse, Bool.false_eq_true, if_false]

end

/-- Settles O37: the branches of a staged copy's check, of the commit point and of the activation. -/
theorem jigLoadsAreStagedAndCommitted : Obligations.JigLoadsAreStagedAndCommitted := by
  unfold Obligations.JigLoadsAreStagedAndCommitted
  refine ⟨fun s ctx part rep addr len q hst => ⟨fun hown hopen => ?_, fun hown hopen => ?_, fun hown => ?_⟩, fun s l image hlive hload hlives hrandom hopen => ?_,
    fun s l image hlive hload hlives hrandom hopen => ?_, fun _ _ _ => exec_jigStagedCheck_waits, fun _ _ _ => exec_jigStagedCheck_dead, fun s p x old hlive hpend hjig => ?_⟩
  · rw [exec_cmdJigLoad hst, if_neg (not_not.mpr hown), hopen, if_neg Bool.false_ne_true]
  · rw [exec_cmdJigLoad hst, if_neg (not_not.mpr hown), if_pos hopen]
  · rw [exec_cmdJigLoad hst, if_pos hown]
  · intro fails
    rw [exec_jigStagedCheck hlive hload hlives hrandom]
    refine ⟨fun ⟨j, hjig⟩ hrep => ?_, fun hjig hrep => ?_, fun hrep => ⟨fun himg => ?_, fun img himg hlen => ?_, fun img himg hlen hwhole => ⟨fun r h8 => ?_, fun old h8 hjig h9 => ?_, fun k h8 hjig h10 hkey => ?_⟩⟩⟩
    · rw [stagedCheck_loaded (b := entropyServed l.ctx s.b) hopen hjig hrep]; rfl
    · rw [stagedCheck_unloaded (b := entropyServed l.ctx s.b) hopen hjig hrep]; rfl
    · rw [himg, stagedCheck_unread (b := entropyServed l.ctx s.b) hopen hrep]; rfl
    · rw [himg, stagedCheck_tooLong (b := entropyServed l.ctx s.b) hopen hrep img hlen]; rfl
    · rw [himg, stagedCheck_image (b := entropyServed l.ctx s.b) hopen hrep hlen hwhole, checkImage_rejected ((entropyServed_steps1to8 ..).trans h8)]; rfl
    · rw [himg, stagedCheck_image (b := entropyServed l.ctx s.b) hopen hrep hlen hwhole, checkImage_replaces ((entropyServed_steps1to8 ..).trans h8) hjig ((entropyServed_step9 ..).trans h9)]
    · rw [himg, stagedCheck_image (b := entropyServed l.ctx s.b) hopen hrep hlen hwhole, checkImage_loads ((entropyServed_steps1to8 ..).trans h8) hjig ((entropyServed_step10 ..).trans h10) ((entropyServed_dumpSecret ..).trans hkey)]
  · rw [exec_jigStagedCheck hlive hload hlives hrandom, stagedCheck_open hopen]
  · intro tenth
    refine ⟨fun hfresh hdue => ?_, exec_jigCommitPoint_early hlive hpend hjig, exec_jigActivate hlive hpend hjig, exec_jigActivate_early hlive hpend hjig⟩
    rw [exec_jigCommitPoint hlive hpend hjig hfresh hdue]
    refine ⟨fun st r h10 => ?_, fun h10 huse => ?_, fun h10 huse => ?_⟩
    · rw [commitPoint_fails h10]; rfl
    · rw [commitPoint_inUse h10 huse]; rfl
    · rw [commitPoint_commits h10 huse]

/-! ### The mailbox -/

theorem Tab.set_set {α : Type} (t : Tab α) (k : Nat) (v w : α) : Tab.set (Tab.set t k v) k w = Tab.set t k w := by
  induction t with
  | nil => simp [Tab.set]
  | cons e t ih =>
    obtain ⟨j, u⟩ := e
    by_cases hlt : k < j
    · simp [Tab.set, hlt]
    · by_cases heq : k = j
      · simp [Tab.set, heq]
      · simp [Tab.set, hlt, heq, ih]

theorem modPart_modPart (p : Part) (f g : PartSt → PartSt) (b : Block) : modPart p g (modPart p f b) = modPart p (fun x => g (f x)) b := by
  have hset : Tab.upd (Tab.upd b.parts p.val PartSt.reset f) p.val PartSt.reset g = Tab.upd b.parts p.val PartSt.reset fun x => g (f x) := by
    rw [Tab.upd, Tab.getD_upd_same, Tab.upd, Tab.set_set]; rfl
  exact congrArg (fun t => { b with parts := t }) hset

section
variable {b : Block} {p : Part} {op : Byte} {a : BitVec 32} {k : Jig → Option (List Word)}

/-- R79: how an operation of the mailbox ends. -/
def mboxEnded (p : Part) (op : Byte) (a : BitVec 32) (r : Option (List Word)) (b : Block) : Block :=
  modPart p (fun x => { x with mbox := { x.mbox with op := op, arg := a, go := false, done := true, error := r.isNone, words := (r.getD []).take 256 } }) b

theorem mboxRun_ends (hpart : b.partExists p = true) (hfree : (b.part p).mbox.go = false ∨ ((b.part p).mbox.op = op ∧ (b.part p).mbox.arg = a)) :
    mboxRun op a p k b = mboxEnded p op a ((b.jigOf p).bind k) b := by
  have hrun : ¬ ((b.part p).mbox.go = true ∧ ((b.part p).mbox.op ≠ op ∨ (b.part p).mbox.arg ≠ a)) := by
    rintro ⟨hgo, hne⟩
    obtain hoff | ⟨hop, harg⟩ := hfree
    · rw [hoff] at hgo; cases hgo
    · exact hne.elim (absurd hop) (absurd harg)
  unfold mboxRun
  rw [hpart, if_neg (by decide), if_neg hrun, mboxEnd, modPart_modPart]
  rfl

theorem mboxRun_overruns (hpart : b.partExists p = true) (hgo : (b.part p).mbox.go = true) (hop : (b.part p).mbox.op ≠ op) :
    mboxRun op a p k b = modPart p (fun x => { x with mbox := { x.mbox with overrun := true } }) b := by
  unfold mboxRun
  rw [hpart, if_neg (by decide), if_pos ⟨hgo, .inl hop⟩]

end

theorem exec_mbox {s : State} {p : Part} {a : BitVec 32} {c : Instr} {op : Byte} {k : Jig → Option (List Word)} (hlive : s.b.live = true)
    (hc : (c = .mboxReadDigests p ∧ op = 1 ∧ a = (s.b.part p).mbox.arg ∧ k = fun j => some (digestWords (s.b.part p) j)) ∨
      (c = .mboxReadDecisions p a ∧ op = 2 ∧ k = fun j => decisionWords s.hard.cfg s.b p j a.toNat) ∨
      (c = .mboxReadHeader p ∧ op = 3 ∧ a = (s.b.part p).mbox.arg ∧ k = fun j => some (wordsOf j.header))) :
    exec c s = .next (s.settled (mboxRun op a p k s.b)) := by
  obtain ⟨rfl, rfl, rfl, rfl⟩ | ⟨rfl, rfl, rfl⟩ | ⟨rfl, rfl, rfl, rfl⟩ := hc
  · show execMboxReadDigests p s = _
    rw [execMboxReadDigests, act_live _ hlive]
  · show execMboxReadDecisions p a s = _
    rw [execMboxReadDecisions, act_live _ hlive]
  · show execMboxReadHeader p s = _
    rw [execMboxReadHeader, act_live _ hlive]

/-- Settles O38: each operation is one run of the mailbox. -/
theorem mailboxReportsTheJig : Obligations.MailboxReportsTheJig := by
  unfold Obligations.MailboxReportsTheJig
  intro s p a c op k hlive hpart hc ends
  rw [exec_mbox hlive hc]
  refine ⟨fun hfree => ?_, fun hgo hop => by rw [mboxRun_overruns hpart hgo hop]⟩
  rw [mboxRun_ends hpart hfree]
  refine ⟨fun j ws hjig hk => ?_, fun hjig => ?_⟩
  · rw [hjig, Option.bind_some, hk]; rfl
  · rw [hjig, Option.bind_none]; rfl

end Sys2Proof.Machine
end

section
/-! Veneer groups: arming, steps and halts (R220 to R239). -/

namespace Sys2Proof.Machine

/-! ### What the start of a command leaves -/

section
variable (ctx : CmdCtx) (b : Block) (p : Part) (id : BitVec 32)

theorem markStarted_vgeo : (markStarted ctx b).vgeo p id = b.vgeo p id := by rw [markStarted_frame]; rfl
theorem markStarted_vgroup : (markStarted ctx b).vgroup p id = b.vgroup p id := by rw [markStarted_frame]; rfl
theorem markStarted_jigOf : (markStarted ctx b).jigOf p = b.jigOf p := by rw [markStarted_frame]; rfl
theorem markStarted_epochNow : (markStarted ctx b).epochNow p = b.epochNow p := by rw [markStarted_frame]; rfl

theorem groupKey_congr {b c : Block} (hadm : b.adm' p = c.adm' p) (hks : b.ks = c.ks) : b.groupKey p id = c.groupKey p id := by
  simp only [Block.groupKey, hadm, slotLive_congr hks]

theorem markStarted_groupKey : (markStarted ctx b).groupKey p id = b.groupKey p id := groupKey_congr p id (by rw [markStarted_frame]; rfl) (markStarted_ks ctx b)

end

/-! ### The command -/

/-- R231: whether another partition's Jig names the group. -/
def groupElsewhere (b : Block) (p : Part) (g : BitVec 32) : Bool :=
  allParts.any fun x => decide (x ≠ p) && (match b.jigOf x with | some j => j.groups.any fun r => decide (r.groupId = g) | none => false)

theorem groupElsewhere_iff (b : Block) (p : Part) (g : BitVec 32) : groupElsewhere b p g = true ↔ ∃ x : Part, x ≠ p ∧ ∃ j, b.jigOf x = some j ∧ ∃ r ∈ j.groups, r.groupId = g := by
  unfold groupElsewhere
  rw [List.any_eq_true]
  constructor
  · rintro ⟨x, -, h⟩
    rw [Bool.and_eq_true, decide_eq_true_eq] at h
    obtain ⟨hne, hnames⟩ := h
    cases hjig : b.jigOf x with
    | none => rw [hjig] at hnames; cases hnames
    | some j =>
      rw [hjig] at hnames
      obtain ⟨r, hr, hid⟩ := List.any_eq_true.mp hnames
      exact ⟨x, hne, j, hjig, r, hr, of_decide_eq_true hid⟩
  · rintro ⟨x, hne, j, hjig, r, hr, hid⟩
    refine ⟨x, mem_allParts x, ?_⟩
    rw [decide_eq_true hne, hjig, Bool.true_and]
    exact List.any_eq_true.mpr ⟨r, hr, decide_eq_true hid⟩

/-- R231 to R234: what the command does once it runs. -/
def veneerCommand (h : Hard) (ctx : CmdCtx) (p : Part) (group : BitVec 32) (op : BitVec 2) (src : Bool) (first table : Word) (b : Block) : Block :=
  if (op ≠ 1 ∧ op ≠ 2) ∨ table.toNat % 8 ≠ 0 then complete h ctx stAborted 0x0102 0 0 b
  else match b.vgeo p group with
    | none => complete h ctx (if groupElsewhere b p group then stNotOwner else stObjectGone) 0 0 0 b
    | some v =>
      if op = 1 then veneerArm h ctx p v src first table b
      else match b.vgroup p group with
        | none => complete h ctx stAborted 0 0 0 b
        | some g => if g.state ≠ 2 then complete h ctx stAborted 0 0 0 b else complete h ctx stOk 0 0 0 (putGroup { g with haltReq := true } b)

theorem exec_cmdVeneerGroup {s : State} {ctx : CmdCtx} {q : Queue} {g : BitVec 32} {op : BitVec 2} {src : Bool} {first tab : Word} (hst : s.starts ctx 0x0C 0 q) :
    exec (.cmdVeneerGroup ctx g op src first tab) s = .next (s.withB (veneerCommand s.hard ctx q.part g op src first tab (markStarted ctx s.b))) := by
  obtain ⟨hlive, htc, hq, hstart, hrun, hgate⟩ := hst
  show execCmdVeneerGroup ctx g op src first tab s = _
  rw [execCmdVeneerGroup, onB_next, runCmd_starts s.hard _ hlive htc hq hstart hrun hgate]
  rfl

section
variable {b : Block} {h : Hard} {ctx : CmdCtx} {p : Part} {g : BitVec 32} {v : VGeo} {src : Bool} {first tab : Word}

theorem veneerCommand_bad {op : BitVec 2} (hbad : (op ≠ 1 ∧ op ≠ 2) ∨ tab.toNat % 8 ≠ 0) : veneerCommand h ctx p g op src first tab b = complete h ctx stAborted 0x0102 0 0 b := if_pos hbad

theorem wellAligned {op : BitVec 2} (hop : op = 1 ∨ op = 2) (htab : tab.toNat % 8 = 0) : ¬ ((op ≠ 1 ∧ op ≠ 2) ∨ tab.toNat % 8 ≠ 0) := by
  rintro (⟨h1, h2⟩ | hne)
  · exact hop.elim h1 h2
  · exact hne htab

theorem veneerCommand_unknown {op : BitVec 2} (hop : op = 1 ∨ op = 2) (htab : tab.toNat % 8 = 0) (hgeo : b.vgeo p g = none) :
    veneerCommand h ctx p g op src first tab b = complete h ctx (if groupElsewhere b p g then stNotOwner else stObjectGone) 0 0 0 b := by
  rw [veneerCommand, if_neg (wellAligned hop htab), hgeo]

theorem veneerCommand_arm (htab : tab.toNat % 8 = 0) (hgeo : b.vgeo p g = some v) : veneerCommand h ctx p g 1 src first tab b = veneerArm h ctx p v src first tab b := by
  rw [veneerCommand, if_neg (wellAligned (.inl rfl) htab), hgeo]
  rfl

theorem veneerCommand_halt {x : VGroup} (htab : tab.toNat % 8 = 0) (hgeo : b.vgeo p g = some v) (hx : b.vgroup p g = some x) (hrun : x.state = 2) :
    veneerCommand h ctx p g 2 src first tab b = complete h ctx stOk 0 0 0 (putGroup { x with haltReq := true } b) := by
  rw [veneerCommand, if_neg (wellAligned (.inr rfl) htab), hgeo]
  simp only [hx, if_neg (not_not.mpr hrun)]
  rfl

theorem veneerCommand_haltIdle (htab : tab.toNat % 8 = 0) (hgeo : b.vgeo p g = some v) (hidle : ∀ y, b.vgroup p g = some y → y.state ≠ 2) :
    veneerCommand h ctx p g 2 src first tab b = complete h ctx stAborted 0 0 0 b := by
  rw [veneerCommand, if_neg (wellAligned (.inr rfl) htab), hgeo]
  cases hx : b.vgroup p g with
  | none => rfl
  | some x => simp only [if_pos (hidle x hx)]; rfl

/-! ### Arming -/

/-- R234: the group an arm makes. -/
def armedGroup (b : Block) (ctx : CmdCtx) (p : Part) (v : VGeo) (src : Bool) (first tab : Word) : VGroup :=
  let g? := b.vgroup p v.grp.groupId
  { part := p, groupId := v.grp.groupId, state := 2, cause := 0, ctx := some ctx, firstStep := first.toNat, newest := none, haltReq := false, haltStep := none, haltSt := stOk, final := true,
    steps := [], masks := [], table := armTable b v g? src, tableAt := tab, chosen := false,
    admEpoch := match g? with | some g => g.admEpoch | none => 0, admCount := match g? with | some g => g.admCount | none => 0,
    admTold := match g? with | some g => g.admTold | none => 0, sat := 0, tagFail := 0, discard := 0, late := 0 }

theorem veneerArm_busy {x : VGroup} (hx : b.vgroup p v.grp.groupId = some x) (hrun : x.state = 2) : veneerArm h ctx p v src first tab b = complete h ctx stAborted 0 0 0 b := by
  unfold veneerArm
  simp only [hx, hrun]
  rfl

/-- R231: a group that neither runs nor has anything left of a run. -/
def GroupIdle (b : Block) (p : Part) (g : BitVec 32) : Prop := ∀ y, b.vgroup p g = some y → y.state ≠ 2 ∧ y.final = false ∧ y.steps = []

theorem GroupIdle.notBusy (hidle : GroupIdle b p g) : (match b.vgroup p g with | some g => decide (g.state = 2) || g.final || decide (g.steps ≠ []) | none => false) = false := by
  cases hx : b.vgroup p g with
  | none => rfl
  | some y =>
    obtain ⟨hstate, hfinal, hsteps⟩ := hidle y hx
    dsimp only
    rw [decide_eq_false hstate, hfinal, hsteps]
    rfl

section
variable (hidle : GroupIdle b p v.grp.groupId)
include hidle

theorem veneerArm_noKey (hkey : b.groupKey p v.grp.groupId = none) : veneerArm h ctx p v src first tab b = complete h ctx stKeyOrphaned 0 0 0 b := by
  refine (if_neg ?_).trans ?_
  · exact fun hb => Bool.false_ne_true (hidle.notBusy.symm.trans hb)
  · rw [hkey]; rfl

theorem veneerArm_late {k : Slot} (hkey : b.groupKey p v.grp.groupId = some k) (hlate : v.stepTick first.toNat < b.clk.tick.toNat + 1000000) :
    veneerArm h ctx p v src first tab b = complete h ctx stAborted 0 0 0 b := by
  refine (if_neg ?_).trans ?_
  · exact fun hb => Bool.false_ne_true (hidle.notBusy.symm.trans hb)
  · rw [hkey]
    exact (if_neg Bool.false_ne_true).trans (if_pos hlate)

theorem veneerArm_arms {k : Slot} (hkey : b.groupKey p v.grp.groupId = some k) (hsoon : b.clk.tick.toNat + 1000000 ≤ v.stepTick first.toNat) (htab : tab ≠ 0) :
    veneerArm h ctx p v src first tab b = complete h ctx stOk 0 0 0 (loadAdmitted p v (b.epochNow p) (loadStep p v (first.toNat + 1) (loadStep p v first.toNat
      (putGroup (armedGroup b ctx p v src first tab) { b with ent := { b.ent with opens := b.ent.opens + v.blocks / 64 + 1 } })))) := by
  have hroom : ¬ (tab = 0 ∧ Config.stackedSram < tablesHeld b p v.grp.groupId + 2 * v.blocks) := fun h => htab h.1
  refine (if_neg ?_).trans ?_
  · exact fun hb => Bool.false_ne_true (hidle.notBusy.symm.trans hb)
  · rw [hkey]
    refine (if_neg Bool.false_ne_true).trans ((if_neg (Nat.not_lt.mpr hsoon)).trans ((if_neg hroom).trans ?_))
    rw [if_neg htab, decide_eq_false htab]
    rfl

end

theorem armTable_ofScale {sc : ScaleRec} (hsc : v.scale = some sc) (g? : Option VGroup) : armTable b v g? false = match sc.exps with | some es => es | none => List.replicate sc.blocks sc.init := by
  unfold armTable
  rw [hsc]
  rfl

end

/-! ### A step begins, or the group halts -/

section
variable {s : State} {p : Part} {id : BitVec 32} {v : VGeo} {g : VGroup}

theorem veneerWaits_empty {b : Block} (h : Hard) (hshim : b.shim = []) : veneerWaits h p v b = b := by
  unfold veneerWaits
  rw [hshim]
  rfl

theorem veneerLate_empty {b : Block} (h : Hard) (hg : b.vgroup p v.grp.groupId = some g) (hsteps : g.steps = []) : veneerLate h p v b = b := by
  unfold veneerLate
  simp only [hg, hsteps]
  rfl

/-- R236: the group's next step, where nothing of a step before it is left. -/
theorem exec_veneerStepStart (hlive : s.b.live = true) (hgeo : s.b.vgeo p id = some v) (hid : v.grp.groupId = id) (hg : s.b.vgroup p id = some g) (hshim : s.b.shim = []) (hsteps : g.steps = [])
    (hrun : g.state = 2) (hnew : g.newest = none) :
    exec (.veneerStepStart p id) s = .next (s.withB (if g.haltReq ∧ (v.stepTick g.firstStep ≤ s.b.clk.tick.toNat ∨ stepBoundary v s.b.clk.tick.toNat = true) then veneerHalt s.hard p id 1 none stOk s.b
      else if s.b.clk.tick.toNat < v.stepTick g.firstStep then s.b else veneerBegin p v g g.firstStep s.b)) := by
  show execVeneerStepStart p id s = _
  rw [execVeneerStepStart, onB_next, whenLive_live _ hlive]
  simp only [hgeo, veneerWaits_empty s.hard hshim, veneerLate_empty s.hard (hid.symm ▸ hg) hsteps, hg, hsteps, List.foldl_nil, hnew, if_neg (not_not.mpr hrun)]
  rfl

theorem veneerBegin_first {b : Block} {n : Nat} (hsteps : g.steps = []) (hnew : g.newest = none) :
    veneerBegin p v g n b = loadAdmitted p v (b.epochNow p) (loadStep p v (n + 1) (loadStep p v n (putGroup { g with newest := some n, steps :=
      [{ step := n, exps := g.table.map some, total := v.blocks, received := [], delivered := [], failed := [], sent := [], sat := [], malformed := [], departed := false, aborted := false }] } b))) := by
  unfold veneerBegin
  simp only [hnew, hsteps, List.nil_append]

/-- R222: a step's key and coefficients go to the one LE of the group. -/
theorem loadStep_fresh {b : Block} {n : Nat} {k : Slot} {i : Island} (hkey : b.groupKey p v.grp.groupId = some k) (hg : b.vgroup p v.grp.groupId = some g) (hmask : g.mask n = none)
    (hadm : v.grp.admitted = false) (hles : v.les = [i]) :
    loadStep p v n b = wantDerived i k (.step n) (stepMask (b.keyVal k) v.grp.groupId n).key (stepMask (b.keyVal k) v.grp.groupId n).alpha (putGroup { g with masks := g.masks ++ [stepMask (b.keyVal k) v.grp.groupId n] } b) := by
  have hkept (y : VGroup) : (putGroup y b).groupKey p v.grp.groupId = some k := hkey
  unfold loadStep
  simp only [hkey, hg, hadm, hmask, Option.isSome_none, Bool.false_eq_true, if_false, hles, List.foldl_cons, List.foldl_nil, wantStep, hkept]
  rfl

end

/-- Settles O40: the command's branches, the next step's branches, and the load of a step's key. -/
theorem veneerGroupsArmStepAndHalt : Obligations.VeneerGroupsArmStepAndHalt := by
  unfold Obligations.VeneerGroupsArmStepAndHalt
  refine ⟨fun s ctx q g op src first tab hst => ?_, fun s p id v g hlive hgeo hid hg hshim hsteps hrun hnew => ?_, fun p v n k g b i => loadStep_fresh⟩
  · intro b ends
    have hrun (op : BitVec 2) : exec (.cmdVeneerGroup ctx g op src first tab) s = .next (s.withB (veneerCommand s.hard ctx q.part g op src first tab b)) := exec_cmdVeneerGroup hst
    have hclk : b.clk = s.b.clk := markStarted_clk ..
    have hgeo' : b.vgeo q.part g = s.b.vgeo q.part g := markStarted_vgeo ..
    have hgroup' : b.vgroup q.part g = s.b.vgroup q.part g := markStarted_vgroup ..
    have hkey' : b.groupKey q.part g = s.b.groupKey q.part g := markStarted_groupKey ..
    refine ⟨fun hbad => ?_, fun hop htab hgeo => ?_, fun v htab hgeo hid => ?_⟩
    · rw [hrun, veneerCommand_bad hbad]
    · have helse : (if groupElsewhere b q.part g then stNotOwner else stObjectGone) =
          if ∃ x : Part, x ≠ q.part ∧ ∃ j, s.b.jigOf x = some j ∧ ∃ r ∈ j.groups, r.groupId = g then stNotOwner else stObjectGone := by
        refine if_congr ((groupElsewhere_iff ..).trans ?_) rfl rfl
        simp only [b, markStarted_jigOf]
      rw [hrun, veneerCommand_unknown hop htab (hgeo'.trans hgeo), helse]
    subst hid
    have hgeo := hgeo'.trans hgeo
    refine ⟨fun x hx hstate => ⟨?_, ?_⟩, fun hidle => ?_⟩
    · rw [hrun, veneerCommand_arm htab hgeo, veneerArm_busy (hgroup'.trans hx) hstate]
    · rw [hrun, veneerCommand_halt htab hgeo (hgroup'.trans hx) hstate]
    · have hidle' : GroupIdle b q.part v.grp.groupId := fun y hy => hidle y (hgroup'.symm.trans hy)
      refine ⟨?_, fun hnone => ?_, fun k hk => ⟨fun hlate => ?_, fun hsoon hne => ?_⟩⟩
      · rw [hrun, veneerCommand_haltIdle htab hgeo fun y hy => (hidle' y hy).1]
      · rw [hrun, veneerCommand_arm htab hgeo, veneerArm_noKey hidle' (hkey'.trans hnone)]
      · rw [hrun, veneerCommand_arm htab hgeo, veneerArm_late hidle' (hkey'.trans hk) (by rw [hclk]; exact hlate)]
      · refine ⟨armedGroup b ctx q.part v src first tab, _, ?_, rfl, ?_, rfl, rfl, rfl, rfl, rfl, rfl, rfl, rfl, rfl, rfl, ?_⟩
        · rw [hrun, veneerCommand_arm htab hgeo, veneerArm_arms hidle' (hkey'.trans hk) (by rw [hclk]; exact hsoon) hne]
          exact congrArg (fun e => Host.Outcome.next (s.withB (complete s.hard ctx stOk 0 0 0 (loadAdmitted q.part v e _)))) (markStarted_epochNow ..)
        · show (match b.vgroup q.part v.grp.groupId with | some y => y.admCount | none => 0) = _
          exact congrArg (fun o : Option VGroup => match o with | some y => y.admCount | none => 0) hgroup'
        · rintro sc hsc rfl
          exact armTable_ofScale hsc _
  · rw [exec_veneerStepStart hlive hgeo hid hg hshim hsteps hrun hnew]
    refine ⟨fun hearly hcalm => ?_, fun hdue hreq => ?_, fun hdue hcalm => ?_⟩
    · have hno : ¬ (g.haltReq = true ∧ (v.stepTick g.firstStep ≤ s.b.clk.tick.toNat ∨ stepBoundary v s.b.clk.tick.toNat = true)) := by
        rintro ⟨hreq, hat⟩
        obtain hoff | hoff := hcalm
        · exact Bool.false_ne_true (hoff.symm.trans hreq)
        · exact hat.elim (Nat.not_le.mpr hearly) fun h => Bool.false_ne_true (hoff.symm.trans h)
      rw [if_neg hno, if_pos hearly]
    · rw [if_pos ⟨hreq, hdue⟩]
    · rw [if_neg fun h => Bool.false_ne_true (hcalm.symm.trans h.1), if_neg (Nat.not_lt.mpr hdue), veneerBegin_first hsteps hnew]

end Sys2Proof.Machine
end

section
/-! Envelopes, announcements and their ports (R130 to R137). -/

namespace Sys2Proof.Machine

/-! ### The fragments of a message -/

theorem chunks_bound {n : Nat} {fuel : Nat} {bs : Bytes} : ∀ c ∈ chunks n fuel bs, c.length ≤ n := by
  induction fuel generalizing bs with
  | zero => exact fun c hc => by cases hc
  | succ fuel ih =>
    intro c hc
    unfold chunks at hc
    split at hc
    · cases hc
    · obtain rfl | hc := List.mem_cons.mp hc
      · exact List.length_take_le ..
      · exact ih c hc

/-- Enough chunks hold all the bytes. -/
theorem chunks_flatten {n fuel : Nat} {bs : Bytes} (h : bs.length ≤ n * fuel) : (chunks n fuel bs).flatten = bs := by
  induction fuel generalizing bs with
  | zero =>
    have hnil : bs = [] := List.eq_nil_of_length_eq_zero (Nat.le_zero.mp h)
    rw [hnil]; rfl
  | succ fuel ih =>
    unfold chunks
    split
    · next hempty => rw [List.isEmpty_iff.mp hempty]; rfl
    · have hrest : (bs.drop n).length ≤ n * fuel := by
        rw [List.length_drop]
        rw [Nat.mul_succ] at h
        omega
      rw [List.flatten_cons, ih hrest, List.take_append_drop]

/-- R134: the fragment that holds the chunk at an offset. -/
def fragment (kind : Nat) (id : BitVec 16) (domain : BitVec 32) (src dst : MemberRef) (total spdm off : Nat) (chunk : Bytes) : Bytes :=
  padTo8 (envHeader kind id domain src dst total off chunk.length spdm ++ chunk)

section
variable (kind : Nat) (id : BitVec 16) (domain : BitVec 32) (src dst : MemberRef) (total spdm off : Nat) (chunk : Bytes)

theorem envFragments_eq (msg : Bytes) : envFragments kind id domain src dst spdm msg = (chunks 480 128 msg).zipIdx.map fun x => fragment kind id domain src dst msg.length spdm (480 * x.2) x.1 := rfl

theorem envHeader_length (len : Nat) : (envHeader kind id domain src dst total off len spdm).length = 32 := by simp [envHeader]

theorem padTo8_eq (bs : Bytes) : ∃ pad, padTo8 bs = bs ++ pad ∧ pad.length = (bs.length + 7) / 8 * 8 - bs.length := ⟨_, rfl, List.length_replicate⟩

theorem fragment_length : (fragment kind id domain src dst total spdm off chunk).length = (chunk.length + 39) / 8 * 8 := by
  obtain ⟨pad, hpad, hlen⟩ := padTo8_eq (envHeader kind id domain src dst total off chunk.length spdm ++ chunk)
  rw [List.length_append, envHeader_length] at hlen
  rw [fragment, hpad, List.length_append, List.length_append, envHeader_length, hlen]
  omega

/-- The header's fields of a fragment, whatever follows them. -/
theorem fragment_fields : fieldAt (fragment kind id domain src dst total spdm off chunk) 0 1 = 1 ∧ fieldAt (fragment kind id domain src dst total spdm off chunk) 2 2 = id.toNat ∧
    fieldAt (fragment kind id domain src dst total spdm off chunk) 16 2 = total % 65536 ∧ fieldAt (fragment kind id domain src dst total spdm off chunk) 20 2 = chunk.length % 65536 := by
  have hid : id.toNat < 65536 := id.isLt
  simp [fragment, padTo8, padTo, envHeader, List.append_assoc, fieldAt_leBytes_append, fieldAt_leBytes_append_skip, hid]

theorem fragment_chunk (h : chunk.length < 65536) : ((fragment kind id domain src dst total spdm off chunk).drop 32).take (fieldAt (fragment kind id domain src dst total spdm off chunk) 20 2) = chunk := by
  obtain ⟨pad, hpad, -⟩ := padTo8_eq (envHeader kind id domain src dst total off chunk.length spdm ++ chunk)
  rw [(fragment_fields ..).2.2.2, Nat.mod_eq_of_lt h, fragment, hpad, List.append_assoc, List.drop_left' (envHeader_length ..), List.take_left' rfl]

end

theorem envFragments_give (kind : Nat) (id : BitVec 16) (domain : BitVec 32) (src dst : MemberRef) (spdm : Nat) {msg : Bytes} (h : msg.length ≤ 61440) :
    ((envFragments kind id domain src dst spdm msg).flatMap fun f => (f.drop 32).take (fieldAt f 20 2)) = msg := by
  have hchunk (x : Bytes × Nat) (hx : x ∈ (chunks 480 128 msg).zipIdx) :
      ((fragment kind id domain src dst msg.length spdm (480 * x.2) x.1).drop 32).take (fieldAt (fragment kind id domain src dst msg.length spdm (480 * x.2) x.1) 20 2) = x.1 :=
    fragment_chunk (h := (chunks_bound x.1 (List.fst_mem_of_mem_zipIdx hx)).trans_lt (by decide)) ..
  rw [envFragments_eq, List.flatMap_map, List.flatMap_congr hchunk, List.flatMap_def, List.zipIdx_map_fst, chunks_flatten h]

theorem envFragments_fit {kind : Nat} {id : BitVec 16} {domain : BitVec 32} {src dst : MemberRef} {spdm : Nat} {msg f : Bytes} (h : msg.length ≤ 61440) (hf : f ∈ envFragments kind id domain src dst spdm msg) :
    f.length ≤ 512 ∧ f.length % 8 = 0 ∧ fieldAt f 0 1 = 1 ∧ fieldAt f 2 2 = id.toNat ∧ fieldAt f 16 2 = msg.length := by
  rw [envFragments_eq] at hf
  obtain ⟨x, hx, rfl⟩ := List.mem_map.mp hf
  have hbound := chunks_bound x.1 (List.fst_mem_of_mem_zipIdx hx)
  obtain ⟨hver, hmsg, htot, -⟩ := fragment_fields kind id domain src dst msg.length spdm (480 * x.2) x.1
  rw [fragment_length]
  exact ⟨by omega, by omega, hver, hmsg, by omega⟩

/-! ### The fragments that arrive -/

theorem fragmentOk_checks {b : Block} {p : Part} {hd : EnvHead} {data : Bytes} (h : fragmentOk b p hd data = true) :
    hd.version = 1 ∧ 1 ≤ hd.kind.toNat ∧ hd.kind.toNat ≤ 3 ∧ hd.resv = 0 ∧ hd.dst = (if hd.kind = 1 then 0 else b.selfRef p) ∧ 1 ≤ hd.totalLen.toNat ∧ hd.totalLen.toNat ≤ 61440 ∧
      data.length = hd.fragLen.toNat ∧ hd.fragOffset.toNat + data.length ≤ hd.totalLen.toNat ∧ (hd.kind ≠ 2 → hd.spdmLen = hd.totalLen) ∧ (memberKind hd.src ≠ 1 → data.length ≤ 480) := by
  rw [fragmentOk, Bool.and_eq_true, Bool.and_eq_true, Bool.and_eq_true, decide_eq_true_eq, decide_eq_true_eq] at h
  obtain ⟨⟨⟨⟨hver, hk1, hk3, hresv, hdst⟩, ht1, htmax, hlen, hend⟩, hspdm⟩, hsrc⟩ := h
  refine ⟨hver, hk1, hk3, hresv, hdst, ht1, htmax, hlen, hend, fun hkind => ?_, fun hmember => ?_⟩
  · rw [if_neg hkind] at hspdm
    exact of_decide_eq_true hspdm
  · rw [if_neg hmember] at hsrc
    exact of_decide_eq_true hsrc

/-- R136: what is held of the message a fragment belongs to. -/
def heldOf (a : Adm) (hd : EnvHead) : Option Reasm := a.reasm.find? fun r => decide (r.src = hd.src ∧ r.msgId = hd.msgId)

/-- R136: what is held of the message is dropped. -/
def dropReasm (p : Part) (hd : EnvHead) (b : Block) : Block := modAdm p (fun a => { a with reasm := a.reasm.filter fun x => !decide (x.src = hd.src ∧ x.msgId = hd.msgId) }) b

section
variable {s : State} {p : Part} {hd : EnvHead} {data : Bytes} {j : Jig}

theorem exec_envelopeFragment (hlive : s.b.live = true) (hjig : s.b.jigOf p = some j) : exec (.envelopeFragment p hd data) s = .next (s.settled (
    if fragmentOk s.b p hd data = false then s.b
    else match heldOf (s.b.adm' p) hd with
      | none =>
        if data.length = hd.totalLen.toNat then envelopeDone s.hard p hd data s.b
        else modAdm p (fun a => { a with reasm := a.reasm ++ [{ src := hd.src, msgId := hd.msgId, totalLen := hd.totalLen, started := s.b.clk.tick, frags := [(hd.fragOffset.toNat, data)] }] }) s.b
      | some r =>
        if r.totalLen ≠ hd.totalLen ∨ r.overlaps hd.fragOffset.toNat data.length = true then dropReasm p hd s.b
        else
          let r' : Reasm := { r with frags := r.frags ++ [(hd.fragOffset.toNat, data)] }
          if r'.got = hd.totalLen.toNat then envelopeDone s.hard p hd r'.message (dropReasm p hd s.b)
          else modAdm p (fun a => { a with reasm := a.reasm.map fun x => if decide (x.src = hd.src ∧ x.msgId = hd.msgId) then r' else x }) s.b)) := by
  show execEnvelopeFragment p hd data s = _
  rw [execEnvelopeFragment, act_live _ hlive]
  simp only [hjig, Option.isNone_some, Bool.false_eq_true, false_or]
  rfl

theorem got_append (r : Reasm) (off : Nat) (data : Bytes) : ({ r with frags := r.frags ++ [(off, data)] } : Reasm).got = r.got + data.length := by
  simp [Reasm.got]

end

/-! ### Announcements and ports -/

section
variable {s : State} {p : Part} {j : Jig}

theorem exec_announcementSend (hlive : s.b.live = true) (hjig : s.b.jigOf p = some j) (hon : (s.b.adm' p).selfOff = false) (hdue : (s.b.adm' p).announceAt.toNat ≤ s.b.clk.tick.toNat) :
    exec (.announcementSend p) s = .next (s.settled (sendAnnouncement s.hard.cfg p j
      (leBytes 48 j.ownerDigest.toNat ++ leBytes 8 j.serial.toNat ++ leBytes 4 (s.b.adm' p).term.toNat ++
        leBytes 4 (bit (lcClosed s.b) + 2 * bit (s.b.adm' p).keyed + 4 * bit (decide ((s.b.adm' p).anchor = j.memberIndex))))
      (modAdm p (fun a => { a with announceAt := s.b.clk.tick + (if formed s.b p j then 1000000000 else 100000000) }) s.b))) := by
  have hgo : ¬ (s.b.now.toNat < (s.b.adm' p).announceAt.toNat ∨ (s.b.adm' p).selfOff = true) := by
    rw [hon]
    exact not_or.mpr ⟨Nat.not_lt.mpr hdue, by decide⟩
  show execAnnouncementSend p s = _
  rw [execAnnouncementSend, act_live _ hlive]
  simp only [hjig, if_neg hgo]
  rfl

theorem exec_announcementSend_early (hlive : s.b.live = true) (hjig : s.b.jigOf p = some j) (hearly : s.b.clk.tick.toNat < (s.b.adm' p).announceAt.toNat) :
    exec (.announcementSend p) s = .next (s.settled s.b) := by
  have hwait : s.b.now.toNat < (s.b.adm' p).announceAt.toNat ∨ (s.b.adm' p).selfOff = true := .inl hearly
  show execAnnouncementSend p s = _
  rw [execAnnouncementSend, act_live _ hlive]
  simp only [hjig, if_pos hwait]

/-- R137: a member this one needs is discovered. -/
theorem exec_announcement_discovers {a : Announce} (hlive : s.b.live = true) (hjig : s.b.jigOf p = some j) (hdom : a.domainId = j.domainId) (howner : a.ownerDigest = j.ownerDigest)
    (hkind : memberKind a.sender ≠ 1) (hman : (s.b.adm' p).manual = false) (hon : (s.b.adm' p).selfOff = false) (hneed : pairNeeded s.b p j a.sender = true)
    (hidle : (s.b.peer p a.sender).state = 0 ∨ (s.b.peer p a.sender).state = 9) :
    exec (.announcement p a) s = .next (s.settled (push (.adm p) (modPeer p a.sender (fun q =>
      { Peer.reset with state := 1, reason := q.reason, admitCtx := q.admitCtx, relay := q.relay, port := q.port }) s.b))) := by
  have hsess : (s.b.peer p a.sender).inSession = false := by
    unfold Peer.inSession
    obtain h | h := hidle <;> rw [h] <;> rfl
  have hgo : ¬ (a.domainId ≠ j.domainId ∨ a.ownerDigest ≠ j.ownerDigest ∨ memberKind a.sender = 1 ∨ (s.b.adm' p).manual = true ∨ (s.b.adm' p).selfOff = true ∨ (s.b.peer p a.sender).inSession = true) := by
    rw [hman, hon, hsess]
    rintro (h | h | h | h | h | h)
    exacts [h hdom, h howner, hkind h, Bool.false_ne_true h, Bool.false_ne_true h, Bool.false_ne_true h]
  show execAnnouncement p a s = _
  rw [execAnnouncement, act_live _ hlive]
  simp only [hjig, if_neg hgo, hneed, if_true, discover, if_pos hidle]

theorem exec_announcement_ignored {a : Announce} (hlive : s.b.live = true) (hjig : s.b.jigOf p = some j) (hother : a.domainId ≠ j.domainId ∨ a.ownerDigest ≠ j.ownerDigest ∨ (s.b.adm' p).manual = true) :
    exec (.announcement p a) s = .next (s.settled s.b) := by
  have hstop : a.domainId ≠ j.domainId ∨ a.ownerDigest ≠ j.ownerDigest ∨ memberKind a.sender = 1 ∨ (s.b.adm' p).manual = true ∨ (s.b.adm' p).selfOff = true ∨ (s.b.peer p a.sender).inSession = true :=
    hother.imp id fun h => h.imp id fun h => .inr (.inl h)
  show execAnnouncement p a s = _
  rw [execAnnouncement, act_live _ hlive]
  simp only [hjig, if_pos hstop]

section
variable {m : MemberRef} {k n : Port} {rest : List Port} (hlive : s.b.live = true) (hports : envPorts s.hard.cfg s.b p m = k :: n :: rest) (hport : (s.b.peer p m).port = none)
include hlive hports hport

theorem exec_envelopePortFailover (hdown : (s.b.port k).linkUp = false) (hlong : (s.b.port k).downSince.toNat + 1000000 ≤ s.b.clk.tick.toNat) (hup : (s.b.port n).linkUp = true) :
    exec (.envelopePortFailover p m) s = .next (s.settled (modPeer p m (fun q => { q with port := some n }) s.b)) := by
  have hgo : ¬ ((s.b.port k).linkUp = true ∨ s.b.now.toNat < (s.b.port k).downSince.toNat + 1000000) := by
    rw [hdown]
    exact not_or.mpr ⟨by decide, Nat.not_lt.mpr hlong⟩
  have hafter : ((k :: n :: rest).dropWhile fun y => decide (y ≠ k)).drop 1 = n :: rest := by
    rw [List.dropWhile_cons_of_neg (by simp)]
    rfl
  show execEnvelopePortFailover p m s = _
  rw [execEnvelopePortFailover, act_live _ hlive]
  simp only [hport, hports, List.head?_cons, if_neg hgo, hafter, List.cons_append, List.find?_cons_of_pos (l := rest ++ k :: n :: rest) (p := fun y => (s.b.port y).linkUp) hup]

theorem exec_envelopePortFailover_up (hup : (s.b.port k).linkUp = true) : exec (.envelopePortFailover p m) s = .next (s.settled s.b) := by
  have hstay : (s.b.port k).linkUp = true ∨ s.b.now.toNat < (s.b.port k).downSince.toNat + 1000000 := .inl hup
  show execEnvelopePortFailover p m s = _
  rw [execEnvelopePortFailover, act_live _ hlive]
  simp only [hport, hports, List.head?_cons, if_pos hstay]

end
end

/-- Settles O41: a message's fragments, what becomes of those that arrive, announcements, and the change of ports. -/
theorem envelopesAndAnnouncements : Obligations.EnvelopesAndAnnouncements := by
  unfold Obligations.EnvelopesAndAnnouncements
  refine ⟨fun kind id domain src dst spdm msg h => ⟨fun f => envFragments_fit h, envFragments_give kind id domain src dst spdm h⟩, fun b p hd data => fragmentOk_checks,
    fun s p hd data hlive ⟨j, hjig⟩ => ?_, fun h p hd msg b => ⟨_, rfl, rfl⟩, fun s p src msg hlive => ?_,
    fun s p j hlive hjig hon => ⟨exec_announcementSend hlive hjig hon, exec_announcementSend_early hlive hjig⟩,
    fun s p j a hlive hjig => ⟨exec_announcement_discovers hlive hjig, exec_announcement_ignored hlive hjig⟩,
    fun s p m k n rest hlive hports hport => ⟨exec_envelopePortFailover hlive hports hport, exec_envelopePortFailover_up hlive hports hport⟩⟩
  · intro held drop
    rw [exec_envelopeFragment hlive hjig]
    refine ⟨fun hbad => ?_, fun hok hheld hpart => ?_, fun hok hheld hwhole => ?_, fun r hok hheld hclash => ?_, fun r hok hheld hlen hclear hgot => ?_⟩
    · rw [if_pos hbad]
    all_goals
      have hheld' : heldOf (s.b.adm' p) hd = _ := hheld
      rw [if_neg (by rw [hok]; decide), hheld']
      dsimp only
    · rw [if_neg hpart]
    · rw [if_pos hwhole]
    · rw [if_pos hclash]; rfl
    · have hfree : ¬ (r.totalLen ≠ hd.totalLen ∨ r.overlaps hd.fragOffset.toNat data.length = true) := by
        rw [hclear]
        exact not_or.mpr ⟨not_not.mpr hlen, by decide⟩
      rw [if_neg hfree, if_pos ((got_append ..).trans hgot)]
      rfl
  · show execEnvelopeReassemblyTimeout p src msg s = _
    rw [execEnvelopeReassemblyTimeout, act_live _ hlive]
    rfl

end Sys2Proof.Machine
end

section
/-! The SPDM exchanges of an admission (R138 to R147). -/

namespace Sys2Proof.Machine

/-! ### A responder's turn -/

section
variable {b : Block} {p : Part} {m : MemberRef} {j : Jig} {n : Nat}

theorem turnOf_turn (hjig : b.jigOf p = some j) (hans : (b.att p m).answers = true) (hstep : (b.att p m).step = n) : turnOf b p m n = true := by
  rw [turnOf, hjig, hans, decide_eq_true hstep]; rfl

theorem turnOf_other (hstep : (b.att p m).step ≠ n) : turnOf b p m n = false := by rw [turnOf, decide_eq_false hstep, Bool.and_false]

theorem Peer.attempting_of_answers {q : Peer} (h : q.answers = true) : q.attempting = true := by
  unfold Peer.answers at h
  unfold Peer.attempting
  split at h
  · rw [of_decide_eq_true h]; rfl
  · obtain h | h := of_decide_eq_true h <;> rw [h] <;> rfl

variable (h : Hard)

theorem spdmTurn_turn (hturn : turnOf b p m n = true) (msg : Bytes) (say : Block → SpdmBody × Bytes) (k : Block → Block) :
    spdmTurn h p m n msg say k b = k (reply h p m (rspCode n) (say (noteScript p m msg b)).1 (say (noteScript p m msg b)).2 (modAtt p m (fun q => { q with step := n + 1 }) (noteScript p m msg b))) := if_pos hturn

theorem spdmTurn_other (hturn : turnOf b p m n = false) (msg : Bytes) (say : Block → SpdmBody × Bytes) (k : Block → Block) : spdmTurn h p m n msg say k b = repeated h p m (rspCode n) b :=
  if_neg (by rw [hturn]; exact Bool.false_ne_true)

theorem signedTurn_turn {t : SelfTest} (hturn : turnOf b p m n = true) (ht : t ≠ .fail) (msg : Bytes) (body : Block → Bytes → SpdmBody) (k : Block → Block) :
    signedTurn h p m n msg t body k b = spdmTurn h p m n msg (fun b => signBody h b (b.att p m) (rspCode n) (body b) []) k b := (if_pos hturn).trans (if_neg ht)

theorem signedTurn_failed (hturn : turnOf b p m n = true) (msg : Bytes) (body : Block → Bytes → SpdmBody) (k : Block → Block) :
    signedTurn h p m n msg .fail body k b = clamp h 5 27 none [] b := (if_pos hturn).trans (if_pos rfl)

theorem repeated_answered {code : Byte} {x : Sent} (hatt : (b.att p m).attempting = true) (hx : (b.att p m).answeredWith code = some x) : repeated h p m code b = sendSent h p m (attKey b p m) x b := by
  unfold repeated
  simp only [hatt, hx, Bool.not_true, Bool.false_eq_true, if_false]

theorem repeated_unexpected {code : Byte} (hatt : (b.att p m).attempting = true) (hx : (b.att p m).answeredWith code = none) :
    repeated h p m code b = sendEnv h p m (.spdm 0x7F (.error 0x04) []) b := by
  unfold repeated
  simp only [hatt, hx, Bool.not_true, Bool.false_eq_true, if_false]
  rfl

end

theorem getVersion_heard {b : Block} {p : Part} {m : MemberRef} (hon : (b.adm' p).selfOff = false) (hk3 : memberKind m ≠ 3) (hk1 : memberKind m ≠ 1) :
    ¬ ((b.adm' p).selfOff = true ∨ memberKind m = 3 ∨ (memberKind m = 1 ∧ (b.peer p m).relay.isNone = true)) := by
  rw [hon]
  rintro (h | h | h)
  exacts [Bool.false_ne_true h, hk3 h, hk1 h.1]

/-- The side `r` of a key exchange is at step `n`. -/
theorem inExchange {q : Peer} {n : Nat} {r r' : Bool} (hstate : q.state = 5) (hreq : q.requester = r) (hside : r ≠ r') (hstep : q.step = n) :
    ¬ (q.state ≠ 5 ∨ q.requester = r' ∨ q.step ≠ n) := by
  rw [hreq]
  rintro (h | h | h)
  exacts [h hstate, hside h, h hstep]

/-- The requester waits for the answer to its request `n`. -/
theorem requesterTurn {q : Peer} {n : Nat} (hasks : q.asks = true) (hstate : q.state ≠ 5) (hstep : q.step = n) : (!(q.asks && decide (q.state ≠ 5) && decide (q.step = n))) = false := by
  rw [hasks, decide_eq_true hstate, decide_eq_true hstep]; rfl

theorem exec_unsignedTurn {s : State} {p : Part} {m : MemberRef} {msg : Bytes} {n : Nat} {c : Instr} {say : SpdmBody} (hlive : s.b.live = true)
    (hc : (c = .getCapabilities p m msg ∧ n = 1 ∧ say = .capabilities [.cert, .chal, .meas, .encrypt, .mac, .mutAuth, .keyEx, .keyUpd] 14 61440 61440) ∨
      (c = .getDigests p m msg ∧ n = 3 ∧ say = .digests (Config.sha384 (ourChain s.b).flatten)) ∨ (c = .getCertificate p m msg ∧ n = 4 ∧ say = .chain (ourChain s.b))) :
    ∃ f, exec c s = .next (s.settled (spdmTurn s.hard p m n msg f id s.b)) ∧ f (noteScript p m msg s.b) = (say, []) := by
  obtain ⟨rfl, rfl, rfl⟩ | ⟨rfl, rfl, rfl⟩ | ⟨rfl, rfl, rfl⟩ := hc
  · exact ⟨_, act_live (fun h => spdmTurn h p m 1 msg _ id) hlive, rfl⟩
  · exact ⟨_, act_live (fun h => spdmTurn h p m 3 msg _ id) hlive, rfl⟩
  · exact ⟨_, act_live (fun h => spdmTurn h p m 4 msg _ id) hlive, rfl⟩

section
variable {s : State} {p : Part} {m : MemberRef} {msg : Bytes} {t : SelfTest} (hlive : s.b.live = true)
include hlive

theorem exec_challenge : exec (.challenge p m msg t) s = .next (s.settled (signedTurn s.hard p m 5 msg t (fun _ sig => .signed 0 sig) id s.b)) := by
  show execChallenge p m msg t s = _
  rw [execChallenge, act_live _ hlive]

theorem exec_getMeasurements : exec (.getMeasurements p m msg t) s = .next (s.settled (signedTurn s.hard p m 6 msg t (fun b sig => .measurements (ourMeasurements s.hard b) sig) (fun b =>
    if (b.att p m).requester then askExchange s.hard p m t b else ask s.hard p m 0x84 .none [] (modAtt p m (fun q => { q with state := 4, step := 0 }) b)) s.b)) := by
  show execGetMeasurements p m msg t s = _
  rw [execGetMeasurements, act_live _ hlive]
  rfl

theorem exec_negotiateAlgorithms (hturn : turnOf s.b p m 2 = true) :
    exec (.negotiateAlgorithms p m true msg) s = .next (s.settled (modAtt p m (fun q => { q with state := if q.state = 2 then 3 else q.state })
      (reply s.hard p m 0x63 (.algorithms .ecdsaP384 .ecdsaP384 .sha384 .sha384 .secp384r1 .aes256gcm .spdmSchedule .dmtf) [] (modAtt p m (fun q => { q with step := 3 }) (noteScript p m msg s.b))))) := by
  show execNegotiateAlgorithms p m true msg s = _
  rw [execNegotiateAlgorithms, act_live _ hlive, Bool.not_true, Bool.and_false, if_neg Bool.false_ne_true, spdmTurn_turn s.hard hturn]
  rfl

theorem exec_negotiateAlgorithms_refused (hturn : turnOf s.b p m 2 = true) : exec (.negotiateAlgorithms p m false msg) s = .next (s.settled (refuse s.hard p m 0x0001 s.b)) := by
  show execNegotiateAlgorithms p m false msg s = _
  rw [execNegotiateAlgorithms, act_live _ hlive, hturn]
  rfl

/-! ### The first request, and the key exchange at the responder -/

section
variable {j : Jig} (hjig : s.b.jigOf p = some j) (hon : (s.b.adm' p).selfOff = false) (hk3 : memberKind m ≠ 3) (hk1 : memberKind m ≠ 1)
include hjig hon hk3 hk1

/-- R140: a new attempt needs a free context. -/
theorem exec_getVersion_idle (hidle : (s.b.att p m).state = 0 ∨ (s.b.att p m).state = 1 ∨ (s.b.att p m).state = 9) :
    exec (.getVersion p m msg) s = .next (s.settled (if contextCount s.hard.cfg ≤ s.b.contexts then sendEnv s.hard p m (.spdm 0x7F (.error 0x03) []) s.b else beginAttempt s.hard p j m msg s.b)) := by
  have hne (n : BitVec 4) (hn : n = 2 ∨ n = 3 ∨ n = 4) : (s.b.att p m).state ≠ n := by
    obtain h | h | h := hidle <;> rw [h] <;> obtain rfl | rfl | rfl := hn <;> decide
  show execGetVersion p m msg s = _
  rw [execGetVersion, act_live _ hlive]
  simp only [hjig, if_neg (getVersion_heard hon hk3 hk1), if_neg fun h : _ ∧ (s.b.att p m).state = 2 ∧ _ => hne 2 (.inl rfl) h.2.1,
    if_neg fun h : _ ∧ (s.b.att p m).state = 4 => hne 4 (.inr (.inr rfl)) h.2, if_neg (not_or.mpr ⟨hne 2 (.inl rfl), hne 3 (.inr (.inl rfl))⟩), if_pos hidle]
  rfl

/-- R140: of two that ask each other the lower reference goes on as requester. -/
theorem exec_getVersion_crossed (hreq : (s.b.att p m).requester = true) (hstate : (s.b.att p m).state = 2) (hstep : (s.b.att p m).step = 0) :
    exec (.getVersion p m msg) s = .next (s.settled (if (s.b.selfRef p).toNat < m.toNat then s.b else beginAttempt s.hard p j m msg s.b)) := by
  have hcross : (s.b.att p m).requester = true ∧ (s.b.att p m).state = 2 ∧ (s.b.att p m).step = 0 := ⟨hreq, hstate, hstep⟩
  show execGetVersion p m msg s = _
  rw [execGetVersion, act_live _ hlive]
  simp only [hjig, if_neg (getVersion_heard hon hk3 hk1), if_pos hcross]

end

section
variable (hstate : (s.b.att p m).state = 5) (hrsp : (s.b.att p m).requester = false)
include hstate hrsp

/-- R144: the block after the two draws of a responder's key exchange. -/
def exchangeDrawn (p : Part) (m : MemberRef) (msg : Bytes) (b : Block) : Block := drawn (modAtt p m (fun q => { q with ecdh := ecdhOf (drawn b).draw }) (drawn (noteScript p m msg b)))

theorem exec_keyExchange {ek share : Bytes} (hstep : (s.b.att p m).step = 0) :
    exec (.keyExchange p m ek share msg .pass) s = .next (s.settled (takeHash p m (reply s.hard p m 0x64
      (signBody s.hard (exchangeDrawn p m msg s.b) ((exchangeDrawn p m msg s.b).att p m) 0x64 (fun sig => .keyExchangeRsp (shareOf ((exchangeDrawn p m msg s.b).att p m).ecdh) true sig) (compEntry 3 (Config.mlkemEncap ek (s.b.draw.setWidth 256)).1)).1
      (signBody s.hard (exchangeDrawn p m msg s.b) ((exchangeDrawn p m msg s.b).att p m) 0x64 (fun sig => .keyExchangeRsp (shareOf ((exchangeDrawn p m msg s.b).att p m).ecdh) true sig) (compEntry 3 (Config.mlkemEncap ek (s.b.draw.setWidth 256)).1)).2
      (modAtt p m (fun q => { q with step := 1, dhe := hybridDhe (Config.ecdhP384 ((exchangeDrawn p m msg s.b).att p m).ecdh share) (Config.mlkemEncap ek (s.b.draw.setWidth 256)).2 }) (exchangeDrawn p m msg s.b))))) := by
  show execKeyExchange p m ek share msg .pass s = _
  rw [execKeyExchange, act_live _ hlive]
  dsimp only
  rw [if_neg (inExchange hstate hrsp (by decide) hstep)]
  rfl

theorem exec_finish {e d : Bool} (hstep : (s.b.att p m).step = 1) :
    exec (.finish p m e d msg) s = .next (s.settled (if (e && d) = false then refuse s.hard p m 0x0004 s.b
      else sessionUp s.hard p m (modAtt p m (fun q => { q with th := Config.transcriptHash ((s.b.att p m).script ++ [msg]) }) (reply s.hard p m 0x65 .none [] (noteScript p m msg s.b))))) := by
  show execFinish p m e d msg s = _
  rw [execFinish, act_live _ hlive]
  dsimp only
  rw [if_neg (inExchange hstate hrsp (by decide) hstep)]
  cases e <;> cases d <;> rfl

end

/-! ### The requester's side -/

section
variable {j : Jig} (hjig : s.b.jigOf p = some j)
include hjig

section
variable (hasks : (s.b.att p m).asks = true) (hstate : (s.b.att p m).state ≠ 5)
include hasks hstate

theorem exec_spdmResponse_version (ok : Bool) (hstep : (s.b.att p m).step = 0) :
    exec (.spdmResponse p m (.version ok) msg t) s = .next (s.settled (if ok then askNext s.hard p m 1 (noteScript p m msg s.b) else refuse s.hard p m 0x0001 s.b)) := by
  show execSpdmResponse p m (.version ok) msg t s = _
  rw [execSpdmResponse, act_live _ hlive]
  simp only [hjig, requesterTurn hasks hstate hstep, Bool.false_eq_true, if_false]

theorem exec_spdmResponse_capabilities (ok : Bool) (hstep : (s.b.att p m).step = 1) :
    exec (.spdmResponse p m (.capabilities ok) msg t) s = .next (s.settled (if ok then askNext s.hard p m 2 (noteScript p m msg s.b) else refuse s.hard p m 0x0001 s.b)) := by
  show execSpdmResponse p m (.capabilities ok) msg t s = _
  rw [execSpdmResponse, act_live _ hlive]
  simp only [hjig, requesterTurn hasks hstate hstep, Bool.false_eq_true, if_false]

theorem exec_spdmResponse_algorithms (ok : Bool) (hstep : (s.b.att p m).step = 2) :
    exec (.spdmResponse p m (.algorithms ok) msg t) s = .next (s.settled (if ok then askNext s.hard p m 3 (modAtt p m (fun q => { q with state := if q.state = 2 then 3 else q.state }) (noteScript p m msg s.b)) else refuse s.hard p m 0x0001 s.b)) := by
  show execSpdmResponse p m (.algorithms ok) msg t s = _
  rw [execSpdmResponse, act_live _ hlive]
  simp only [hjig, requesterTurn hasks hstate hstep, Bool.false_eq_true, if_false]

theorem exec_spdmResponse_digests (hstep : (s.b.att p m).step = 3) :
    exec (.spdmResponse p m .digests msg t) s = .next (s.settled (askNext s.hard p m 4 (noteScript p m msg s.b))) := by
  show execSpdmResponse p m .digests msg t s = _
  rw [execSpdmResponse, act_live _ hlive]
  simp only [hjig, requesterTurn hasks hstate hstep, Bool.false_eq_true, if_false]

theorem exec_spdmResponse_certificate (chain selfI root : Bool) (leaf : Digest) (hstep : (s.b.att p m).step = 4) :
    exec (.spdmResponse p m (.certificate chain selfI root leaf) msg t) s = .next (s.settled (if certReason s.b ((s.b.att p m).jig j) m chain selfI root leaf ≠ 0 then refuse s.hard p m (certReason s.b ((s.b.att p m).jig j) m chain selfI root leaf) s.b
      else askNext s.hard p m 5 (modAtt p m (fun q => { q with leaf := leaf, tag := leaf.setWidth 128 }) (noteScript p m msg s.b)))) := by
  show execSpdmResponse p m (.certificate chain selfI root leaf) msg t s = _
  rw [execSpdmResponse, act_live _ hlive]
  simp only [hjig, requesterTurn hasks hstate hstep, Bool.false_eq_true, if_false]
  rfl

theorem exec_spdmResponse_challengeAuth (e d : Bool) (hstep : (s.b.att p m).step = 5) :
    exec (.spdmResponse p m (.challengeAuth e d) msg t) s = .next (s.settled (if e && d then askNext s.hard p m 6 (noteScript p m msg s.b) else refuse s.hard p m 0x0004 s.b)) := by
  show execSpdmResponse p m (.challengeAuth e d) msg t s = _
  rw [execSpdmResponse, act_live _ hlive]
  simp only [hjig, requesterTurn hasks hstate hstep, Bool.false_eq_true, if_false]

theorem exec_spdmResponse_measurements (e d : Bool) (blocks : List (Byte × Digest)) (lc : Word) (hstep : (s.b.att p m).step = 6) :
    exec (.spdmResponse p m (.measurements e d blocks lc) msg t) s = .next (s.settled (if attestReason s.b ((s.b.att p m).jig j) m (s.b.att p m).leaf e d blocks lc ≠ 0 then refuse s.hard p m (attestReason s.b ((s.b.att p m).jig j) m (s.b.att p m).leaf e d blocks lc) s.b
      else attested p m (modAtt p m (fun q => { q with meas := blocks }) (noteScript p m msg s.b)))) := by
  show execSpdmResponse p m (.measurements e d blocks lc) msg t s = _
  rw [execSpdmResponse, act_live _ hlive]
  simp only [hjig, requesterTurn hasks hstate hstep, Bool.false_eq_true, if_false]

end

section
variable (hstate : (s.b.att p m).state = 5) (hreq : (s.b.att p m).requester = true)
include hstate hreq

theorem exec_spdmResponse_keyExchangeRsp (share ct : Bytes) (hstep : (s.b.att p m).step = 0) :
    exec (.spdmResponse p m (.keyExchangeRsp true true share ct) msg .pass) s = .next (s.settled (finishOut s.hard p m share ct (noteScript p m msg s.b))) := by
  show execSpdmResponse p m (.keyExchangeRsp true true share ct) msg .pass s = _
  rw [execSpdmResponse, act_live _ hlive]
  simp only [hjig, if_neg (inExchange hstate hreq (r' := false) (by decide) hstep)]
  rfl

theorem exec_spdmResponse_keyExchangeRsp_refused {e d : Bool} (hbad : (e && d) = false) (share ct : Bytes) (hstep : (s.b.att p m).step = 0) :
    exec (.spdmResponse p m (.keyExchangeRsp e d share ct) msg t) s = .next (s.settled (refuse s.hard p m 0x0004 s.b)) := by
  show execSpdmResponse p m (.keyExchangeRsp e d share ct) msg t s = _
  rw [execSpdmResponse, act_live _ hlive]
  simp only [hjig, if_neg (inExchange hstate hreq (r' := false) (by decide) hstep), hbad, Bool.false_eq_true, if_false]

theorem exec_spdmResponse_finishRsp (hstep : (s.b.att p m).step = 1) : exec (.spdmResponse p m .finishRsp msg t) s = .next (s.settled (sessionUp s.hard p m (takeHash p m s.b))) := by
  show execSpdmResponse p m .finishRsp msg t s = _
  rw [execSpdmResponse, act_live _ hlive]
  simp only [hjig, if_neg (inExchange hstate hreq (r' := false) (by decide) hstep)]

end

theorem exec_busyRetry (hstate : (s.b.att p m).state = 1) (hreq : (s.b.att p m).requester = true) (hdue : (s.b.att p m).asked.toNat ≤ s.b.clk.tick.toNat) (hroom : s.b.contexts < contextCount s.hard.cfg) :
    exec (.busyRetry p m) s = .next (s.settled (ask s.hard p m 0x84 .none [] (modAtt p m (fun q => q.started true s.b.clk.tick j (s.b.adm' p).groupLog) s.b))) := by
  have hgo : ¬ ((s.b.att p m).state ≠ 1 ∨ (s.b.att p m).requester = false ∨ s.b.now.toNat < (s.b.att p m).asked.toNat ∨ contextCount s.hard.cfg ≤ s.b.contexts) := by
    rw [hreq]
    rintro (h | h | h | h)
    exacts [h hstate, absurd h (by decide), Nat.not_lt.mpr hdue h, Nat.not_le.mpr hroom h]
  show execBusyRetry p m s = _
  rw [execBusyRetry, act_live _ hlive]
  simp only [hjig, if_neg hgo]
  rfl

end

/-- R142: a request goes out again once; then the attempt ends. -/
theorem exec_spdmRequestTimeout {x : Sent} (hasks : (s.b.att p m).asks = true) (hasking : (s.b.att p m).asking = some x) (hlate : (s.b.att p m).asked.toNat + 100000000 ≤ s.b.clk.tick.toNat) :
    exec (.spdmRequestTimeout p m) s = .next (s.settled (if (s.b.att p m).resent then refuseQuiet s.hard p m (attKey s.b p m) 0x000D
        (note s.hard 0x0304 27 (some p) [aW4 m.toNat, aByte (s.b.att p m).state.toNat, aByte x.code.toNat] s.b)
      else sendSent s.hard p m (attKey s.b p m) x (modAtt p m (fun q => { q with asked := s.b.clk.tick, resent := true }) s.b))) := by
  have hatt : s.b.peerAt p (attKey s.b p m) = s.b.att p m := rfl
  have hgo : ¬ ((s.b.att p m).asks = false ∨ s.b.now.toNat < (s.b.att p m).asked.toNat + 100000000) := by
    rw [hasks]
    exact not_or.mpr ⟨by decide, Nat.not_lt.mpr hlate⟩
  show execSpdmRequestTimeout p m s = _
  rw [execSpdmRequestTimeout, act_live _ hlive]
  simp only [hatt, if_neg hgo, hasking, Peer.codeOut]
  cases (s.b.att p m).resent <;> rfl

theorem exec_admissionRetry (hstate : (s.b.att p m).state = 10) :
    exec (.admissionRetry p m) s = .next (s.settled (if s.b.clk.tick.toNat < (s.b.att p m).refusedAt.toNat + 1000000000 then s.b else modAtt p m (fun q => { q with state := 0 }) s.b)) := by
  have hatt : s.b.peerAt p (attKey s.b p m) = s.b.att p m := rfl
  have hrefused : ¬ (s.b.att p m).state ≠ 10 := not_not.mpr hstate
  show execAdmissionRetry p m s = _
  rw [execAdmissionRetry, act_live _ hlive]
  simp only [hatt, hrefused, false_or]
  rfl

end

/-! ### The reasons of R143 and R146 -/

section
variable {b : Block} {j : Jig} {m : MemberRef} {leaf : Digest}

theorem certReason_chain {chain selfI root : Bool} (h : chain = false ∨ (memberKind m ≠ 1 ∧ (if lcClosed b then !root else !selfI) = true)) : certReason b j m chain selfI root leaf = 0x0002 := by
  unfold certReason
  refine if_pos (h.imp (fun hc => ?_) id)
  rw [hc]; rfl

theorem certReason_good {chain selfI root : Bool} (hchain : chain = true) (hroot : (if lcClosed b then root else selfI) = true) (hm : memberKind m = 0) : certReason b j m chain selfI root leaf = 0 := by
  have hok : ¬ ((!chain) = true ∨ (memberKind m ≠ 1 ∧ (if lcClosed b then !root else !selfI) = true)) := by
    rw [hchain]
    rintro (h | ⟨-, h⟩)
    · cases h
    · cases hl : lcClosed b <;> rw [hl] at h hroot <;> simp_all
  have hlisted : ¬ (memberKind m ≠ 0 ∧ allowFor j (memberKind m) leaf = []) := fun h => h.1 hm
  unfold certReason
  rw [if_neg hok, if_neg hlisted]

theorem attestReason_signed (blocks : List (Byte × Digest)) (lc : Word) : attestReason b j m leaf true true blocks lc =
    if measureReason j (memberKind m) leaf blocks ≠ 0 then measureReason j (memberKind m) leaf blocks
    else if memberKind m ≠ 1 ∧ (lc.getLsbD 0 ≠ lcClosed b ∨ (lcClosed b = true ∧ lc.getLsbD 9 = false)) then 0x0006 else 0 := by
  unfold attestReason
  exact if_neg (by decide)

end

/-- One refusal for the reason found, or one for each. -/
theorem measured_eq (f : Nat → Block) (c : Block) (r : Nat) (q : Prop) [Decidable q] :
    (if (if r ≠ 0 then r else if q then 0x0006 else 0) ≠ 0 then f (if r ≠ 0 then r else if q then 0x0006 else 0) else c) = if r ≠ 0 then f r else if q then f 0x0006 else c := by
  by_cases hr : r ≠ 0
  · simp only [if_pos hr]
  · by_cases hq : q
    · simp only [if_neg hr, if_pos hq]; rfl
    · simp only [if_neg hr, if_neg hq]; rfl

/-- Settles O42: a responder's turn, a requester's turn, and what a timer does, one lemma each. -/
theorem spdmExchangesRunInOrder : Obligations.SpdmExchangesRunInOrder := by
  unfold Obligations.SpdmExchangesRunInOrder
  refine ⟨fun s p m msg n c say hc hlive ⟨j, hjig⟩ hans => ?_, fun _ _ _ _ _ _ => rfl, fun s p m msg t hlive ⟨j, hjig⟩ hans => ?_, fun s p m msg j hlive hjig hon hk3 hk1 => ?_,
    fun s p m ek share msg hlive hstate hrsp => ?_, fun _ _ => rfl, fun s p m j msg t hlive hjig hasks hstate => ?_, fun s p m j share ct msg hlive hjig hstate hreq => ?_,
    fun s p m x hlive hasks hasking hlate => ?_, fun s p m j hlive hjig => exec_busyRetry hlive hjig, fun s p m hlive hstate => ?_⟩
  · obtain ⟨f, hexec, hsay⟩ := exec_unsignedTurn hlive hc
    have hatt := Peer.attempting_of_answers hans
    rw [hexec]
    refine ⟨fun hstep => ?_, fun hstep => ⟨fun x hx => ?_, fun hnone => ?_⟩⟩
    · rw [spdmTurn_turn s.hard (turnOf_turn hjig hans hstep), hsay]; rfl
    · rw [spdmTurn_other s.hard (turnOf_other hstep), repeated_answered s.hard hatt hx]
    · rw [spdmTurn_other s.hard (turnOf_other hstep), repeated_unexpected s.hard hatt hnone]
  · intro b
    refine ⟨fun hstep ht x hx => ?_, fun hstep ht x b' hx hb' => ?_, fun hstep => ?_, fun hstep => ?_⟩
    · have hturn := turnOf_turn hjig hans hstep
      rw [exec_challenge hlive, signedTurn_turn s.hard hturn ht, spdmTurn_turn s.hard hturn, hx]; rfl
    · have hturn := turnOf_turn hjig hans hstep
      rw [exec_getMeasurements hlive, signedTurn_turn s.hard hturn ht, spdmTurn_turn s.hard hturn, hb', hx]; rfl
    · rw [exec_challenge hlive, signedTurn_failed s.hard (turnOf_turn hjig hans hstep)]
    · have hturn := turnOf_turn hjig hans hstep
      exact ⟨exec_negotiateAlgorithms hlive hturn, exec_negotiateAlgorithms_refused hlive hturn⟩
  · intro begins
    refine ⟨fun hidle => ⟨fun hroom => ?_, fun hfull => ?_⟩, fun hreq hstate hstep => exec_getVersion_crossed hlive hjig hon hk3 hk1 hreq hstate hstep⟩
    · rw [exec_getVersion_idle hlive hjig hon hk3 hk1 hidle, if_neg (Nat.not_le.mpr hroom)]; rfl
    · rw [exec_getVersion_idle hlive hjig hon hk3 hk1 hidle, if_pos hfull]
  · refine ⟨fun hstep => ⟨exchangeDrawn p m msg s.b, _, _, _, rfl, rfl, rfl, rfl, exec_keyExchange hlive hstate hrsp hstep⟩, fun hstep => ⟨?_, fun e d hbad => ?_⟩⟩
    · rw [exec_finish hlive hstate hrsp hstep]; rfl
    · rw [exec_finish hlive hstate hrsp hstep, if_pos hbad]
  · intro b next
    refine ⟨fun hstep => ⟨?_, ?_⟩, fun hstep => ?_, fun hstep => ?_, fun hstep => ?_, fun hstep chain selfI root leaf => ⟨fun hbad => ?_, fun hchain hroot hm => ?_⟩, fun hstep => ⟨?_, fun e d hbad => ?_⟩,
      fun hstep blocks lc i hi => ?_⟩
    · exact exec_spdmResponse_version hlive hjig hasks hstate true hstep
    · exact exec_spdmResponse_version hlive hjig hasks hstate false hstep
    · exact exec_spdmResponse_capabilities hlive hjig hasks hstate true hstep
    · exact exec_spdmResponse_algorithms hlive hjig hasks hstate true hstep
    · exact exec_spdmResponse_digests hlive hjig hasks hstate hstep
    · rw [exec_spdmResponse_certificate hlive hjig hasks hstate chain selfI root leaf hstep, certReason_chain hbad]; rfl
    · rw [exec_spdmResponse_certificate hlive hjig hasks hstate chain selfI root leaf hstep, certReason_good hchain hroot hm]; rfl
    · exact exec_spdmResponse_challengeAuth hlive hjig hasks hstate true true hstep
    · rw [exec_spdmResponse_challengeAuth hlive hjig hasks hstate e d hstep, hbad]; rfl
    · rw [exec_spdmResponse_measurements hlive hjig hasks hstate true true blocks lc hstep, attestReason_signed, ← hi]
      exact congrArg (fun c => Host.Outcome.next (s.settled c)) (measured_eq (fun r => refuse s.hard p m r s.b) ..)
  · exact ⟨fun hstep => ⟨exec_spdmResponse_keyExchangeRsp hlive hjig hstate hreq share ct hstep, fun e d hbad t => exec_spdmResponse_keyExchangeRsp_refused hlive hjig hstate hreq hbad share ct hstep⟩,
      fun hstep t => exec_spdmResponse_finishRsp hlive hjig hstate hreq hstep⟩
  · rw [exec_spdmRequestTimeout hlive hasks hasking hlate]
    exact ⟨fun h => by rw [h]; rfl, fun h => by rw [h]; rfl⟩
  · rw [exec_admissionRetry hlive hstate]
    exact ⟨fun h => by rw [if_neg (Nat.not_lt.mpr h)], fun h => by rw [if_pos h]⟩

end Sys2Proof.Machine
end

section
/-! Joining, the roster, and keys given to members (R148 to R156). -/

namespace Sys2Proof.Machine

-- The many short lemmas of this file use one another: elaborated one by one they do not wait for each other in threads of their own.
set_option Elab.async false

/-! ### What a secured message leaves of an admission -/

theorem modPeerAt_adm' (p : Part) (k : Nat) (f : Peer → Peer) (b : Block) : (modPeerAt p k f b).adm' p = { b.adm' p with peers := Tab.upd (b.adm' p).peers k Peer.reset f } := by rw [modPeerAt, modAdm_adm']

/-- A change of the admissions alone, after others of the admissions alone. -/
theorem modAdm_admOnly {p : Part} {f : Adm → Adm} {b c : Block} (h : b = { c with adm := b.adm }) : modAdm p f b = { c with adm := (modAdm p f b).adm } :=
  congrArg (fun d => { d with adm := (modAdm p f b).adm }) h

theorem modPeerAt_admField {γ : Type} (g : Adm → γ) (p : Part) (k : Nat) (f : Peer → Peer) (b : Block) (hg : ∀ a t, g { a with peers := t } = g a := by intros; rfl) :
    g ((modPeerAt p k f b).adm' p) = g (b.adm' p) := by rw [modPeerAt_adm', hg]

/-- A change of an entry shows in the fields that it changes only. -/
theorem modPeerAt_peerField {γ : Type} (g : Peer → γ) (p : Part) (k : Nat) (f : Peer → Peer) (b : Block) (hg : ∀ q, g (f q) = g q) (i : Nat) : g ((modPeerAt p k f b).peerAt p i) = g (b.peerAt p i) := by
  rw [Block.peerAt, modPeerAt_adm', Block.peerAt]
  by_cases hi : i = k
  · rw [hi, Tab.getD_upd_same, hg]
  · rw [Tab.getD_upd_other _ hi]

section
variable {γ : Type} (sec : Sec) (b : Block)

theorem heard_admField (g : Adm → γ) (hg : ∀ a t, g { a with peers := t } = g a := by intros; rfl) : g ((heard sec b).adm' sec.part) = g (b.adm' sec.part) := modPeerAt_admField g _ _ _ b hg

theorem heard_peerField (g : Peer → γ) (m : MemberRef) (hg : ∀ q n r, g { q with authFails := n, received := r } = g q := by intros; rfl) : g ((heard sec b).peer sec.part m) = g (b.peer sec.part m) :=
  modPeerAt_peerField g _ _ _ b (fun q => hg q 0 (q.received + 1)) m.toNat

theorem heardJoin_peerField (g : Peer → γ) (k : Nat) (hg : ∀ q n r, g { q with authFails := n, received := r } = g q := by intros; rfl) : g ((heardJoin sec b).peerAt sec.part k) = g (b.peerAt sec.part k) :=
  modPeerAt_peerField g _ _ _ b (fun q => hg q 0 (q.received + 1)) k

theorem heard_selfIndex (p : Part) : (heard sec b).selfIndex p = b.selfIndex p := rfl

end

/-! ### JOIN and its acknowledgement -/

section
variable {s : State} {sec : Sec} (hj : s.hearsJoin sec)
include hj

theorem exec_join {body : Join} {now : Jig} (hjig : s.b.jigOf sec.part = some now) (hnew : (s.b.peerAt sec.part (joinKey s.b sec.part sec.peer)).joinIn = false) {q : Peer}
    (hq : q = (heardJoin sec s.b).peerAt sec.part (joinKey s.b sec.part sec.peer)) {r : Nat} (hr : r = joinReason (heardJoin sec s.b) sec.part (q.jig now) sec.peer q body) :
    exec (.join sec body) s = .next (s.settled (if r ≠ 0 then denyJoin s.hard sec.part sec.peer (joinKey s.b sec.part sec.peer) r (heardJoin sec s.b)
      else joinPasses s.hard sec.part (q.jig now) sec.peer body (heardJoin sec s.b))) := by
  have hjig' : (heardJoin sec s.b).jigOf sec.part = some now := hjig
  have hnew' : ((heardJoin sec s.b).peerAt sec.part (joinKey s.b sec.part sec.peer)).joinIn = false := (heardJoin_peerField sec s.b Peer.joinIn _).trans hnew
  subst hr hq
  show execJoin sec body s = _
  rw [execJoin, actJoin_hears _ hj]
  simp only [hjig', hnew', Bool.false_eq_true, if_false]

theorem exec_joinAck {r : BitVec 16} (hfirst : (s.b.peerAt sec.part (joinKey s.b sec.part sec.peer)).ackIn = false)
    (hpair : (s.b.peerAt sec.part (joinKey s.b sec.part sec.peer)).state = 6 ∨ (s.b.peerAt sec.part (joinKey s.b sec.part sec.peer)).rejoin = true) :
    exec (.joinAck sec r) s = .next (s.settled (if r ≠ 0 then refuseAt s.hard sec.part sec.peer (joinKey s.b sec.part sec.peer) r.toNat (heardJoin sec s.b)
      else if (s.b.peerAt sec.part (joinKey s.b sec.part sec.peer)).ackOut then admitted s.hard sec.part sec.peer (modPeerAt sec.part (joinKey s.b sec.part sec.peer) (fun q => { q with ackIn := true }) (heardJoin sec s.b))
      else modPeerAt sec.part (joinKey s.b sec.part sec.peer) (fun q => { q with ackIn := true }) (heardJoin sec s.b))) := by
  have hgo : ¬ ((s.b.peerAt sec.part (joinKey s.b sec.part sec.peer)).ackIn = true ∨
      (!(decide ((s.b.peerAt sec.part (joinKey s.b sec.part sec.peer)).state = 6) || (s.b.peerAt sec.part (joinKey s.b sec.part sec.peer)).rejoin)) = true) := by
    rw [hfirst]
    rintro (h | h)
    · cases h
    · obtain hs | hs := hpair <;> simp [hs] at h
  show execJoinAck sec r s = _
  rw [execJoinAck, actJoin_hears _ hj]
  simp only [heardJoin_peerField sec s.b Peer.ackIn, heardJoin_peerField sec s.b Peer.state, heardJoin_peerField sec s.b Peer.rejoin, heardJoin_peerField sec s.b Peer.ackOut, if_neg hgo]

end

/-! ### What a message to a member leaves -/

/-- The anchor of a partition and the partitions, which no message changes. -/
def Block.standing (p : Part) (b : Block) : BitVec 16 × Tab PartSt := ((b.adm' p).anchor, b.parts)

section
variable (h : Hard) (p : Part) (m : MemberRef) (b : Block)

theorem standing_congr {p : Part} {b c : Block} (hadm : b.adm = c.adm) (hparts : b.parts = c.parts) : b.standing p = c.standing p := by
  rw [Block.standing, Block.standing, Block.adm', Block.adm', hadm, hparts]

theorem modPeerAt_standing (k : Nat) (f : Peer → Peer) : (modPeerAt p k f b).standing p = b.standing p := congrArg (fun x => (x, b.parts)) (modPeerAt_admField Adm.anchor p k f b)

theorem relayWrite_standing (j : Jig) (r : Relay) (x : Sent) : (relayWrite h p m j r x b).standing p = b.standing p := by
  unfold relayWrite
  dsimp only
  split
  · rw [writeRec_frame]
    exact modPeerAt_standing ..
  · exact modPeerAt_standing ..

theorem relayDrain_standing (j : Jig) (n : Nat) : (relayDrain h p m j n b).standing p = b.standing p := by
  induction n generalizing b with
  | zero => rfl
  | succ n ih =>
    unfold relayDrain
    split
    · rfl
    · split
      · rfl
      · split
        · rfl
        · rw [ih, relayWrite_standing]

theorem sendSent_standing (k : Nat) (x : Sent) : (sendSent h p m k x b).standing p = b.standing p := by
  unfold sendSent
  split
  · rfl
  · split
    · rw [relayDrain_standing]
      exact modPeerAt_standing ..
    · dsimp only
      unfold sendFrames
      split <;> rfl

theorem countSent_standing (k : Nat) (e : Env) : (countSent p m k e b).standing p = b.standing p := by
  have hids : (modAdm p (fun a => { a with msgIds := Tab.upd a.msgIds m.toNat 0 (fun n => n + 1) }) b).standing p = b.standing p := by
    rw [Block.standing, modAdm_adm']; rfl
  unfold countSent
  dsimp only
  split
  · rw [modPeerAt_standing, hids]
  · exact hids

theorem sendTo_standing (type : Nat) (body : Bytes) : (sendTo h p m type body b).standing p = b.standing p := (sendSent_standing ..).trans (countSent_standing ..)

theorem wrapFor_standing (sl : Slot) : (wrapFor p m sl b).2.standing p = b.standing p := by
  unfold wrapFor
  split
  · rfl
  · exact modPeerAt_standing ..

theorem deliverKeys_standing (ks : List (BitVec 32 × Slot)) : (deliverKeys h p m ks b).standing p = b.standing p := by
  unfold deliverKeys
  split
  · rfl
  · refine (sendTo_standing ..).trans ?_
    refine foldl_keeps (fun acc : Bytes × Block => acc.2.standing p) (fun acc k => ?_) ks ([], b)
    exact wrapFor_standing ..

theorem awaitGroups_standing (gs : List (BitVec 32)) : (awaitGroups p m gs b).standing p = b.standing p := by
  rw [Block.standing, awaitGroups, modAdm_adm']; rfl

/-- The anchor asks nobody for a group's key. -/
theorem fetchFor_anchor {p : Part} {b c : Block} (hc : c.standing p = b.standing p) (hanchor : (b.adm' p).anchor = b.selfIndex p) (gs : List (BitVec 32)) : fetchFor h p m gs c = c := by
  have hself : c.selfIndex p = b.selfIndex p := by
    have hparts : c.parts = b.parts := congrArg Prod.snd hc
    rw [Block.selfIndex, Block.jigOf, Block.part, hparts]; rfl
  refine if_pos ?_
  rw [hself, ← hanchor]
  exact congrArg Prod.fst hc

end

/-! ### Keys asked for and given -/

theorem deliver_stop {b : Block} {sec : Sec} {term : BitVec 32} (hno : term.toNat < (b.adm' sec.part).term.toNat ∨ memberKind sec.peer ≠ 0) :
    term.toNat < ((heard sec b).adm' sec.part).term.toNat ∨ (!isAccel sec.peer) = true ∨ (!(((heard sec b).peer sec.part sec.peer).anchor || ((heard sec b).peer sec.part sec.peer).standby || ((heard sec b).peer sec.part sec.peer).delegate)) = true := by
  rw [heard_admField sec b Adm.term, isAccel]
  exact hno.imp id fun h => .inl (by rw [decide_eq_false h]; rfl)

theorem deliver_go {b : Block} {sec : Sec} {term : BitVec 32} (hterm : (b.adm' sec.part).term.toNat ≤ term.toNat) (hkind : memberKind sec.peer = 0) (hanchor : (b.peer sec.part sec.peer).anchor = true) :
    ¬ (term.toNat < ((heard sec b).adm' sec.part).term.toNat ∨ (!isAccel sec.peer) = true ∨ (!(((heard sec b).peer sec.part sec.peer).anchor || ((heard sec b).peer sec.part sec.peer).standby || ((heard sec b).peer sec.part sec.peer).delegate)) = true) := by
  rw [heard_admField sec b Adm.term, isAccel, decide_eq_true hkind, heard_peerField sec b Peer.anchor, hanchor]
  exact not_or.mpr ⟨Nat.not_lt.mpr hterm, by simp⟩

section
variable {s : State} {sec : Sec} (hh : s.hears sec)
include hh

theorem exec_keyFetch_ignored {gs : List (BitVec 32)} (hno : (s.b.adm' sec.part).keyed = false ∨ memberKind sec.peer ≠ 0) : exec (.keyFetch sec gs) s = .next (s.settled (heard sec s.b)) := by
  have hstop : ((heard sec s.b).adm' sec.part).keyed = false ∨ (!isAccel sec.peer) = true := by
    rw [heard_admField sec s.b Adm.keyed, isAccel]
    exact hno.imp id fun h => by rw [decide_eq_false h]; rfl
  show execKeyFetch sec gs s = _
  rw [execKeyFetch, actSec_hears _ hh]
  exact congrArg (fun b => Host.Outcome.next (s.settled b)) (if_pos hstop)

theorem exec_keyFetch_gives {g : BitVec 32} {k : Slot} (hkeyed : (s.b.adm' sec.part).keyed = true) (hkind : memberKind sec.peer = 0) (hanchor : (s.b.adm' sec.part).anchor = s.b.selfIndex sec.part)
    (hslot : Tab.get? (s.b.adm' sec.part).groupSlots g.toNat = some k) (hdrawn : (s.b.adm' sec.part).drawn = []) :
    exec (.keyFetch sec [g]) s = .next (s.settled (awaitGroups sec.part sec.peer [g] (deliverKeys s.hard sec.part sec.peer [(g, k)] (heard sec s.b)))) := by
  have hslot' : Tab.get? ((heard sec s.b).adm' sec.part).groupSlots g.toNat = some k := (congrArg (Tab.get? · g.toNat) (heard_admField sec s.b Adm.groupSlots)).trans hslot
  have hdrawn' : ((heard sec s.b).adm' sec.part).drawn = [] := (heard_admField sec s.b Adm.drawn).trans hdrawn
  have hgo : ¬ (((heard sec s.b).adm' sec.part).keyed = false ∨ (!isAccel sec.peer) = true) := by
    rw [heard_admField sec s.b Adm.keyed, hkeyed, isAccel, decide_eq_true hkind]; decide
  have hdraw : drawGroup s.hard sec.part (heard sec s.b) g = heard sec s.b := if_pos (.inr (.inr (.inr (by rw [hslot']; rfl))))
  have hheld : heldGroups (heard sec s.b) sec.part [g] = [(g, k)] := by simp [heldGroups, groupWaits, hdrawn', hslot']
  show execKeyFetch sec [g] s = _
  rw [execKeyFetch, actSec_hears _ hh]
  have hstand : (awaitGroups sec.part sec.peer [g] (deliverKeys s.hard sec.part sec.peer [(g, k)] (heard sec s.b))).standing sec.part = s.b.standing sec.part :=
    ((awaitGroups_standing ..).trans (deliverKeys_standing ..)).trans (modPeerAt_standing ..)
  dsimp only
  rw [if_neg hgo, List.foldl_cons, List.foldl_nil, hdraw, hheld, fetchFor_anchor s.hard sec.peer hstand hanchor]

section
variable {term : BitVec 32} {es : List (BitVec 32 × Bytes)} {j : Jig} (hjig : s.b.jigOf sec.part = some j)
include hjig

theorem exec_keyDeliver_ignored (hno : term.toNat < (s.b.adm' sec.part).term.toNat ∨ memberKind sec.peer ≠ 0) : exec (.keyDeliver sec term es) s = .next (s.settled (heard sec s.b)) := by
  have hjig' : (heard sec s.b).jigOf sec.part = some j := hjig
  show execKeyDeliver sec term es s = _
  rw [execKeyDeliver, actSec_hears _ hh]
  dsimp only
  rw [hjig']
  dsimp only
  rw [if_pos (deliver_stop hno)]

variable (hkind : memberKind sec.peer = 0) (hanchor : (s.b.peer sec.part sec.peer).anchor = true)
include hkind hanchor

theorem exec_keyDeliver_refused (hterm : (s.b.adm' sec.part).term.toNat ≤ term.toNat) {g : Nat} (hopen : openBlobs (heard sec s.b) sec.part sec.peer j (s.b.peer sec.part sec.peer).wrapIn es = .inr g) :
    exec (.keyDeliver sec term es) s = .next (s.settled (refuseKeys s.hard sec.part sec.peer g (heard sec s.b))) := by
  have hjig' : (heard sec s.b).jigOf sec.part = some j := hjig
  show execKeyDeliver sec term es s = _
  rw [execKeyDeliver, actSec_hears _ hh]
  dsimp only
  rw [hjig']
  dsimp only
  rw [if_neg (deliver_go hterm hkind hanchor), heard_peerField sec s.b Peer.wrapIn, hopen]

/-- R153: one key that is already there. -/
theorem exec_keyDeliver_known {g : BitVec 32} {bs : Bytes} {a : Attr} {v : Key} {seq : Word} (hterm : (s.b.adm' sec.part).term = term) (hwant : (s.b.adm' sec.part).wantGroups = [])
    (hopen : openBlob (heard sec s.b) sec.part sec.peer j (s.b.peer sec.part sec.peer).wrapIn bs = .inl (a, v, seq))
    (hknown : (g = 0 ∧ (s.b.adm' sec.part).keyed = true) ∨ (g ≠ 0 ∧ (Tab.get? (s.b.adm' sec.part).groupSlots g.toNat).isSome = true)) :
    ∃ b, exec (.keyDeliver sec term [(g, bs)]) s = .next (s.settled (push (.part sec.part) b)) ∧ (b.peer sec.part sec.peer).wrapIn = some (BitVec.ofNat 64 (fieldAt bs 24 8)) ∧ b = { s.b with adm := b.adm } := by
  have hjig' : (heard sec s.b).jigOf sec.part = some j := hjig
  have hblobs : openBlobs (heard sec s.b) sec.part sec.peer j (s.b.peer sec.part sec.peer).wrapIn [(g, bs)] = .inl [(g, a, v)] := by
    unfold openBlobs
    simp only [hopen]
    rfl
  have himport : importKeys s.hard sec.part [(g, a, v)] (heard sec s.b) = some (heard sec s.b) := by
    rw [← heard_admField sec s.b Adm.keyed, ← heard_admField sec s.b Adm.groupSlots] at hknown
    unfold importKeys
    simp only [if_pos hknown]
    rfl
  have hwants (w : Option Word) : ((modAdm sec.part (fun a => { a with term := if a.term.toNat < term.toNat then term else a.term })
      (modPeer sec.part sec.peer (fun q => { q with wrapIn := w }) (heard sec s.b))).adm' sec.part).wantGroups = [] := by
    rw [modAdm_adm']
    exact (modPeerAt_admField Adm.wantGroups ..).trans ((heard_admField sec s.b Adm.wantGroups).trans hwant)
  show ∃ b, execKeyDeliver sec term [(g, bs)] s = _ ∧ _
  rw [execKeyDeliver, actSec_hears _ hh]
  dsimp only
  rw [hjig']
  dsimp only
  rw [if_neg (deliver_go (hterm ▸ Nat.le_refl _) hkind hanchor), heard_peerField sec s.b Peer.wrapIn, hblobs]
  simp only [himport, hwants, List.filter_nil, List.foldl_nil]
  refine ⟨_, rfl, ?_, modAdm_admOnly (modAdm_admOnly (modAdm_admOnly (modAdm_admOnly rfl)))⟩
  rw [Block.peer, Block.peerAt, modAdm_adm', modAdm_adm']
  exact congrArg Peer.wrapIn (modPeerAt_peerAt ..)

end
end

/-! ### The roster -/

theorem memberKind_accel (i : BitVec 16) : memberKind (accel i) = 0 := by
  have hi := i.isLt
  simp [memberKind, accel, bitsOf]
  omega

theorem memberIndex_accel (i : BitVec 16) : memberIndex (accel i) = i := by simp [memberIndex, accel]

theorem heard_rosterNow (sec : Sec) (b : Block) (i : BitVec 16) : (heard sec b).rosterNow sec.part i = b.rosterNow sec.part i := by
  simp only [Block.rosterNow, heard_admField sec b Adm.rosterPend, heard_admField sec b Adm.roster]

theorem indexTaken_of_other {b : Block} {p : Part} {i : BitVec 16} {tag : BitVec 128} {e : RosterEntry} (he : b.rosterNow p i = some e) (hstate : e.state ≠ 0) (htag : e.tag ≠ tag) :
    indexTaken b p (accel i) tag = true := by
  rw [indexTaken, isAccel, memberKind_accel, memberIndex_accel, he]
  dsimp only
  rw [decide_eq_true (show e.state ≠ 0 ∧ e.tag ≠ tag from ⟨hstate, htag⟩)]
  rfl

section
variable {s : State} {sec : Sec} (hh : s.hears sec)
include hh

/-- R154: the anchor's answers to a claim. -/
theorem exec_rosterClaim {i : BitVec 16} {tag : BitVec 128} {j : Jig} (hjig : s.b.jigOf sec.part = some j) (hanchor : (s.b.adm' sec.part).anchor = j.memberIndex) :
    exec (.rosterClaim sec i tag) s = .next (s.settled (
      if j.memberCount ≤ i.toNat then sendTo s.hard sec.part sec.peer 0x06 (leBytes 2 i.toNat ++ leBytes 2 0x0009) (heard sec s.b)
      else if indexTaken (heard sec s.b) sec.part (accel i) tag then sendTo s.hard sec.part sec.peer 0x06 (leBytes 2 i.toNat ++ leBytes 2 0x0008) (heard sec s.b)
      else if rosterLive (heard sec s.b) sec.part i tag then sendTo s.hard sec.part sec.peer 0x06 (leBytes 2 i.toNat ++ leBytes 2 0) (heard sec s.b)
      else grantIndex s.hard sec.part i tag sec.peer (heard sec s.b))) := by
  have hjig' : (heard sec s.b).jigOf sec.part = some j := hjig
  have hown : ¬ ((heard sec s.b).adm' sec.part).anchor ≠ j.memberIndex := by rw [heard_admField sec s.b Adm.anchor]; exact not_not.mpr hanchor
  show execRosterClaim sec i tag s = _
  rw [execRosterClaim, actSec_hears _ hh]
  simp only [hjig', if_neg hown]

theorem exec_rosterGrant {i r : BitVec 16} {term : BitVec 32} (hterm : (s.b.adm' sec.part).term.toNat ≤ term.toNat) (hpeer : sec.peer = accel (s.b.adm' sec.part).anchor)
    (hheld : (s.b.peer sec.part (accel i)).ackHeld = true) :
    exec (.rosterGrant sec i r term) s = .next (s.settled (if r = 0 then sendAck s.hard sec.part (accel i) (heard sec s.b)
      else denyJoin s.hard sec.part (accel i) (accel i).toNat r.toNat (heard sec s.b))) := by
  have hgo : ¬ (term.toNat < ((heard sec s.b).adm' sec.part).term.toNat ∨ sec.peer ≠ accel ((heard sec s.b).adm' sec.part).anchor ∨ ((heard sec s.b).peer sec.part (accel i)).ackHeld = false) := by
    rw [heard_admField sec s.b Adm.term, heard_admField sec s.b Adm.anchor, heard_peerField sec s.b Peer.ackHeld, hheld]
    rintro (h | h | h)
    exacts [Nat.not_lt.mpr hterm h, h hpeer, absurd h (by decide)]
  show execRosterGrant sec i r term s = _
  rw [execRosterGrant, actSec_hears _ hh]
  exact congrArg (fun b => Host.Outcome.next (s.settled b)) (if_neg hgo)

theorem exec_rosterSync {e : RosterEntry} (hfrom : sec.peer = accel (s.b.adm' sec.part).anchor ∨ (s.b.peer sec.part sec.peer).anchor = true) :
    exec (.rosterSync sec e) s = .next (s.settled (sendTo s.hard sec.part sec.peer 0x07 (leBytes 2 e.index.toNat ++ leBytes 6 0)
      (modAdm sec.part (fun a => { a with rosterSeq := a.rosterSeq + 1, roster := if e.state = 0 then Tab.del a.roster e.index.toNat else Tab.set a.roster e.index.toNat e }) (heard sec s.b)))) := by
  have hgo : ¬ (sec.peer ≠ accel ((heard sec s.b).adm' sec.part).anchor ∧ ((heard sec s.b).peer sec.part sec.peer).anchor = false) := by
    rw [heard_admField sec s.b Adm.anchor, heard_peerField sec s.b Peer.anchor]
    rintro ⟨hne, hnot⟩
    exact hfrom.elim hne fun h => Bool.false_ne_true (hnot.symm.trans h)
  show execRosterSync sec e s = _
  rw [execRosterSync, actSec_hears _ hh]
  exact congrArg (fun b => Host.Outcome.next (s.settled b)) (if_neg hgo)

theorem exec_rosterSync_ignored {e : RosterEntry} (hpeer : sec.peer ≠ accel (s.b.adm' sec.part).anchor) (hnot : (s.b.peer sec.part sec.peer).anchor = false) :
    exec (.rosterSync sec e) s = .next (s.settled (heard sec s.b)) := by
  have hstop : sec.peer ≠ accel ((heard sec s.b).adm' sec.part).anchor ∧ ((heard sec s.b).peer sec.part sec.peer).anchor = false := by
    rw [heard_admField sec s.b Adm.anchor, heard_peerField sec s.b Peer.anchor]
    exact ⟨hpeer, hnot⟩
  show execRosterSync sec e s = _
  rw [execRosterSync, actSec_hears _ hh]
  exact congrArg (fun b => Host.Outcome.next (s.settled b)) (if_pos hstop)

theorem exec_rosterSyncAck {i : BitVec 16} :
    exec (.rosterSyncAck sec i) s = .next (s.settled (push (.adm sec.part) (modAdm sec.part (fun a => { a with rosterPend := ackRoster sec.peer i a.rosterPend }) (heard sec s.b)))) := by
  show execRosterSyncAck sec i s = _
  rw [execRosterSyncAck, actSec_hears _ hh]

end

/-- Settles O43: one lemma per message of a joining. -/
theorem joiningRosterAndKeys : Obligations.JoiningRosterAndKeys := by
  unfold Obligations.JoiningRosterAndKeys
  refine ⟨fun s sec body now hj hjig hnew => ?_, fun s sec r hj => ?_, fun s sec gs hh => ⟨exec_keyFetch_ignored hh, ?_⟩, fun s sec term es j hh hjig => ⟨exec_keyDeliver_ignored hh hjig, ?_, ?_⟩,
    fun s sec i tag j hh hjig hanchor => ?_, fun s sec i r term hh hterm hpeer hheld => ⟨?_, fun hr => ?_⟩, fun s sec e hh => ⟨exec_rosterSync hh, exec_rosterSync_ignored hh⟩, fun _ _ _ hh => exec_rosterSyncAck hh⟩
  · intro b k q
    refine ⟨_, rfl, fun hr => ?_, fun hr => ?_⟩
    · rw [exec_join hj hjig hnew rfl rfl, if_pos hr]; rfl
    · rw [exec_join hj hjig hnew rfl rfl, if_neg (not_not.mpr hr)]
  · intro k b hfirst hpair
    refine ⟨fun hr => ?_, fun hout => ?_, fun hout => ?_⟩
    · rw [exec_joinAck hj hfirst hpair, if_pos hr]
    · rw [exec_joinAck hj hfirst hpair, if_neg (by decide), if_pos hout]
    · rw [exec_joinAck hj hfirst hpair, if_neg (by decide), if_neg (by rw [hout]; decide)]
  · rintro g k hkeyed hkind hanchor rfl hslot hdrawn
    exact exec_keyFetch_gives hh hkeyed hkind hanchor hslot hdrawn
  · exact fun hterm hkind hanchor g hopen => exec_keyDeliver_refused hh hjig hkind hanchor hterm hopen
  · rintro g bs a v seq hterm hkind hanchor rfl hwant hopen hknown
    exact exec_keyDeliver_known hh hjig hkind hanchor hterm hwant hopen hknown
  · intro b answers
    rw [exec_rosterClaim hh hjig hanchor]
    refine ⟨fun hout => by rw [if_pos hout], fun hin => ⟨fun e he hstate htag => ?_, fun hfree => ?_⟩⟩
    · rw [if_neg (Nat.not_le.mpr hin), if_pos (indexTaken_of_other ((heard_rosterNow ..).trans he) hstate htag)]
    · rw [if_neg (Nat.not_le.mpr hin), if_neg (by rw [hfree]; decide)]
      exact apply_ite (fun b => Host.Outcome.next (s.settled b)) _ _ _
  · rw [exec_rosterGrant hh hterm hpeer hheld, if_pos rfl]
  · rw [exec_rosterGrant hh hterm hpeer hheld, if_neg hr]; rfl

end Sys2Proof.Machine
end

section
/-! Sessions, heartbeats, takeover and departures (R150 to R164). -/

namespace Sys2Proof.Machine

/-! ### The messages of a session -/

theorem actSec_fails {sec : Sec} {s : State} (f : Hard → Block → Block) (hlive : s.b.live = true) (hsess : (s.b.peer sec.part sec.peer).hasSession = true) (hauth : sec.auth = false)
    (hfew : (s.b.peer sec.part sec.peer).authFails + 1 < 3) :
    actSec sec f s = .next (s.settled (modPeer sec.part sec.peer (fun q => { q with authFails := (s.b.peer sec.part sec.peer).authFails + 1 }) s.b)) := by
  have hsess' : (s.b.peerAt sec.part sec.peer.toNat).hasSession = true := hsess
  have hfew' : (s.b.peerAt sec.part sec.peer.toNat).authFails + 1 < 3 := hfew
  rw [actSec, onB_next, secIn, secInAt]
  simp only [hlive, hsess', hauth, Bool.not_true, Bool.or_self, Bool.false_eq_true, if_false, if_pos hfew']
  rfl

/-- R150: the first failures of a session's authentication are counted. -/
theorem exec_session_fails {s : State} {sec : Sec} {c : Instr} (hc : c = .keyUpdate sec ∨ c = .probe sec ∨ c = .probeAck sec) (hlive : s.b.live = true)
    (hsess : (s.b.peer sec.part sec.peer).hasSession = true) (hauth : sec.auth = false) (hfew : (s.b.peer sec.part sec.peer).authFails + 1 < 3) :
    exec c s = .next (s.settled (modPeer sec.part sec.peer (fun q => { q with authFails := (s.b.peer sec.part sec.peer).authFails + 1 }) s.b)) := by
  obtain rfl | rfl | rfl := hc
  · show execKeyUpdate sec s = _
    rw [execKeyUpdate, actSec_fails _ hlive hsess hauth hfew]
  · show execProbe sec s = _
    rw [execProbe, actSec_fails _ hlive hsess hauth hfew]
  · show execProbeAck sec s = _
    rw [execProbeAck, actSec_fails _ hlive hsess hauth hfew]

section
variable {s : State} {sec : Sec} (hh : s.hears sec)
include hh

theorem exec_keyUpdate : exec (.keyUpdate sec) s = .next (s.settled (sendEnv s.hard sec.part sec.peer (.spdm 0x69 .none []) (modPeer sec.part sec.peer (fun q => { q with sent := 0, received := 0 }) (heard sec s.b)))) := by
  show execKeyUpdate sec s = _
  rw [execKeyUpdate, actSec_hears _ hh]

theorem exec_probe : exec (.probe sec) s = .next (s.settled (sendTo s.hard sec.part sec.peer 0x0C [] (heard sec s.b))) := by
  show execProbe sec s = _
  rw [execProbe, actSec_hears _ hh]

theorem exec_probeAck : exec (.probeAck sec) s = .next (s.settled (push (.adm sec.part) (modAdm sec.part (fun a => { a with drawn := a.drawn.map fun g => { g with await := g.await.filter fun x => decide (x ≠ sec.peer) } })
    (modPeer sec.part sec.peer (fun q => { q with probes := 0 }) (heard sec s.b))))) := by
  show execProbeAck sec s = _
  rw [execProbeAck, actSec_hears _ hh]

end

theorem heardJoin_joinKey (sec : Sec) (b : Block) : joinKey (heardJoin sec b) sec.part sec.peer = joinKey b sec.part sec.peer := by
  rw [joinKey, heardJoin_peerField sec b Peer.state]; rfl

theorem secInAt_hearsJoin {s : State} {sec : Sec} (hj : s.hearsJoin sec) (h : Hard) (f : Block → Block) : secInAt h sec (joinKey s.b sec.part sec.peer) f s.b = f (heardJoin sec s.b) := by
  obtain ⟨hlive, hsess, hauth⟩ := hj
  rw [secInAt]
  simp only [hlive, hsess, hauth, Bool.not_true, Bool.or_self, Bool.false_eq_true, if_false, if_true]
  rfl

/-- R150: the end of a session, or of an attempt whose JOINs have not ended. -/
theorem exec_endSession {s : State} {sec : Sec} (hj : s.hearsJoin sec) {b : Block} (hb : b = sendAt s.hard sec.part sec.peer (joinKey s.b sec.part sec.peer) (.spdm 0x6C .none []) (heardJoin sec s.b)) :
    exec (.endSession sec) s = .next (s.settled (if (s.b.peerAt sec.part (joinKey s.b sec.part sec.peer)).state = 6 then
        refuseAt s.hard sec.part sec.peer (joinKey s.b sec.part sec.peer) 0x000D (modPeerAt sec.part (joinKey s.b sec.part sec.peer) (fun q => { q with secret := 0 })
          (endKey s.hard (s.b.peerAt sec.part (joinKey s.b sec.part sec.peer)).secret b))
      else if isAccel sec.peer then memberLost s.hard sec.part (memberIndex sec.peer) (freeEntry sec.part sec.peer (closeSession s.hard sec.part sec.peer stPeerDeparted b))
      else freeEntry sec.part sec.peer (closeSession s.hard sec.part sec.peer stPeerDeparted b))) := by
  subst hb
  show execEndSession sec s = _
  rw [execEndSession, onB_next, secInAt_hearsJoin hj]
  dsimp only
  rw [heardJoin_joinKey, heardJoin_peerField sec s.b Peer.state, heardJoin_peerField sec s.b Peer.secret]
  rfl

section
variable {s : State} {p : Part} {m : MemberRef} (hlive : s.b.live = true) (hsess : (s.b.peer p m).inSession = true)
include hlive hsess

theorem exec_probeTimeout_asks (hdue : (s.b.peer p m).probes = 0 ∨ ((s.b.peer p m).probes < 3 ∧ (s.b.peer p m).probeTick.toNat + 10000000 ≤ s.b.clk.tick.toNat)) :
    exec (.probeTimeout p m) s = .next (s.settled (sendTo s.hard p m 0x0B [] (modPeer p m (fun q => { q with probes := q.probes + 1, probeTick := s.b.clk.tick }) s.b))) := by
  have hgo : ¬ ((!(s.b.peer p m).inSession) = true ∨ ((s.b.peer p m).probes ≠ 0 ∧ s.b.now.toNat < (s.b.peer p m).probeTick.toNat + 10000000)) := by
    rw [hsess]
    rintro (h | ⟨hne, hearly⟩)
    · cases h
    · exact hdue.elim hne fun h => Nat.not_lt.mpr h.2 hearly
  have hfew : (s.b.peer p m).probes < 3 := hdue.elim (fun h => by rw [h]; decide) (·.1)
  show execProbeTimeout p m s = _
  rw [execProbeTimeout, act_live _ hlive]
  dsimp only
  rw [if_neg hgo, if_pos hfew]
  rfl

theorem exec_probeTimeout_lost (hmany : 3 ≤ (s.b.peer p m).probes) (hlate : (s.b.peer p m).probeTick.toNat + 10000000 ≤ s.b.clk.tick.toNat) :
    exec (.probeTimeout p m) s = .next (s.settled (sessionLost s.hard p m 2 s.b)) := by
  have hgo : ¬ ((!(s.b.peer p m).inSession) = true ∨ ((s.b.peer p m).probes ≠ 0 ∧ s.b.now.toNat < (s.b.peer p m).probeTick.toNat + 10000000)) := by
    rw [hsess]
    rintro (h | ⟨-, hearly⟩)
    · cases h
    · exact Nat.not_lt.mpr hlate hearly
  show execProbeTimeout p m s = _
  rw [execProbeTimeout, act_live _ hlive]
  dsimp only
  rw [if_neg hgo, if_neg (Nat.not_lt.mpr hmany)]

theorem exec_keyUpdateTrigger (hreq : (s.b.peer p m).requester = true) (hmany : 2 ^ 24 ≤ (s.b.peer p m).sent ∨ 2 ^ 24 ≤ (s.b.peer p m).received) :
    exec (.keyUpdateTrigger p m) s = .next (s.settled (sendEnv s.hard p m (.spdm 0xE9 .updateAllKeys []) s.b)) := by
  have hgo : ¬ ((!(s.b.peer p m).inSession) = true ∨ (s.b.peer p m).requester = false ∨ ((s.b.peer p m).sent < 2 ^ 24 ∧ (s.b.peer p m).received < 2 ^ 24)) := by
    rw [hsess, hreq]
    rintro (h | h | ⟨h1, h2⟩)
    exacts [absurd h (by decide), absurd h (by decide), hmany.elim (Nat.not_le.mpr h1) (Nat.not_le.mpr h2)]
  show execKeyUpdateTrigger p m s = _
  rw [execKeyUpdateTrigger, act_live _ hlive]
  exact congrArg (fun b => Host.Outcome.next (s.settled b)) (if_neg hgo)

omit hsess in
theorem exec_keyUpdateTrigger_responder (hrsp : (s.b.peer p m).requester = false) : exec (.keyUpdateTrigger p m) s = .next (s.settled s.b) := by
  show execKeyUpdateTrigger p m s = _
  rw [execKeyUpdateTrigger, act_live _ hlive]
  exact congrArg (fun b => Host.Outcome.next (s.settled b)) (if_pos (.inr (.inl hrsp)))

end

/-! ### Heartbeats and the anchor -/

section
variable {s : State} {sec : Sec} {term seq : BitVec 32} (hh : s.hears sec)
include hh

theorem exec_heartbeat (hkind : memberKind sec.peer = 0) (hterm : (s.b.adm' sec.part).term.toNat ≤ term.toNat) :
    exec (.heartbeat sec term seq) s = .next (s.settled (modAdm sec.part (fun a => { a with heard := Tab.set a.heard (memberIndex sec.peer).toNat s.b.clk.tick }) (heard sec s.b))) := by
  have hgo : ((heard sec s.b).adm' sec.part).term.toNat ≤ term.toNat ∧ isAccel sec.peer = true := by
    rw [heard_admField sec s.b Adm.term]
    exact ⟨hterm, decide_eq_true hkind⟩
  show execHeartbeat sec term seq s = _
  rw [execHeartbeat, actSec_hears _ hh]
  exact congrArg (fun b => Host.Outcome.next (s.settled b)) (if_pos hgo)

theorem exec_heartbeat_old (hterm : term.toNat < (s.b.adm' sec.part).term.toNat) : exec (.heartbeat sec term seq) s = .next (s.settled (heard sec s.b)) := by
  have hstop : ¬ (((heard sec s.b).adm' sec.part).term.toNat ≤ term.toNat ∧ isAccel sec.peer = true) := by
    rw [heard_admField sec s.b Adm.term]
    exact fun h => Nat.not_le.mpr hterm h.1
  show execHeartbeat sec term seq s = _
  rw [execHeartbeat, actSec_hears _ hh]
  exact congrArg (fun b => Host.Outcome.next (s.settled b)) (if_neg hstop)

/-- R158: a takeover by the next anchor is followed. -/
theorem exec_takeover {i : BitVec 16} {j : Jig} (hjig : s.b.jigOf sec.part = some j) (hterm : (s.b.adm' sec.part).term.toNat < term.toNat) (hpeer : sec.peer = accel i)
    (hnext : nextAnchor (heard sec s.b) sec.part j i = true) {followed : Block}
    (hf : followed = modAdm sec.part (fun a => { a with term := term, anchor := i, noAnchor := false, heard := Tab.set a.heard i.toNat s.b.clk.tick, peers := Tab.mapV a.peers fun n q => { q with anchor := decide (n = (accel i).toNat) } })
      (overtake sec.part j.memberIndex (s.b.adm' sec.part).anchor (heard sec s.b))) :
    exec (.takeover sec term i) s = .next (s.settled (if (s.b.adm' sec.part).anchor = j.memberIndex then dropHeld s.hard sec.part followed else followed)) := by
  have hjig' : (heard sec s.b).jigOf sec.part = some j := hjig
  have hgo : ¬ (term.toNat ≤ (s.b.adm' sec.part).term.toNat ∨ sec.peer ≠ accel i ∨ nextAnchor (heard sec s.b) sec.part j i = false) := by
    rw [hnext]
    rintro (h | h | h)
    exacts [Nat.not_le.mpr hterm h, h hpeer, absurd h (by decide)]
  subst hf
  show execTakeover sec term i s = _
  rw [execTakeover, actSec_hears _ hh]
  dsimp only
  rw [hjig']
  dsimp only
  rw [heard_admField sec s.b Adm.term, heard_admField sec s.b Adm.anchor, if_neg hgo]
  rfl

theorem exec_takeover_ignored {i : BitVec 16} {j : Jig} (hjig : s.b.jigOf sec.part = some j) (hno : term.toNat ≤ (s.b.adm' sec.part).term.toNat ∨ sec.peer ≠ accel i) :
    exec (.takeover sec term i) s = .next (s.settled (heard sec s.b)) := by
  have hjig' : (heard sec s.b).jigOf sec.part = some j := hjig
  have hstop : term.toNat ≤ (s.b.adm' sec.part).term.toNat ∨ sec.peer ≠ accel i ∨ nextAnchor (heard sec s.b) sec.part j i = false := hno.imp id .inl
  show execTakeover sec term i s = _
  rw [execTakeover, actSec_hears _ hh]
  dsimp only
  rw [hjig']
  dsimp only
  rw [heard_admField sec s.b Adm.term, if_pos hstop]

/-! ### Departures -/

theorem exec_depart {m : MemberRef} {cause : Byte} {e : BitVec 24} :
    exec (.depart sec m cause e) s = .next (s.settled (
      if (s.b.adm' sec.part).anchor = s.b.selfIndex sec.part then
        if e = 0 then heard sec s.b
        else if isAccel m then heardDeparture s.hard sec.part m (recordDeparture s.hard sec.part m cause (heard sec s.b))
        else setDeparting sec.part m cause (departEpoch (heard sec s.b) sec.part) true (heard sec s.b)
      else if e = 0 then (if sec.peer = accel (s.b.adm' sec.part).anchor then undoDeparting sec.part m (heard sec s.b) else heard sec s.b)
      else if sec.peer = accel (s.b.adm' sec.part).anchor ∨ sec.peer = m then
        heardDeparture s.hard sec.part m (setDeparting sec.part m cause e (decide (sec.peer = accel (s.b.adm' sec.part).anchor) || !isAccel m) (heard sec s.b))
      else heard sec s.b)) := by
  show execDepart sec m cause e s = _
  rw [execDepart, actSec_hears _ hh]
  simp only [heard_admField sec s.b Adm.anchor, heard_selfIndex, decide_eq_true_eq]

end

section
variable {s : State} {p : Part} {j : Jig} (hlive : s.b.live = true) (hjig : s.b.jigOf p = some j)
include hlive hjig

theorem exec_heartbeatSend (hanchor : (s.b.adm' p).anchor = j.memberIndex) :
    exec (.heartbeatSend p) s = .next (s.settled ((((standbys j (s.b.adm' p)).map accel).filter fun m => (s.b.peer p m).inSession).foldl
      (fun b m => sendTo s.hard p m 0x08 (leBytes 4 (s.b.adm' p).term.toNat ++ leBytes 4 (s.b.adm' p).rosterSeq.toNat) b) s.b)) := by
  show execHeartbeatSend p s = _
  rw [execHeartbeatSend, act_live _ hlive]
  simp only [hjig, if_pos hanchor]

theorem exec_heartbeatLost_idle (hby : (s.b.adm' p).byAnchor = false) (hkeyed : (s.b.adm' p).keyed = false) : exec (.heartbeatLost p) s = .next (s.settled s.b) := by
  have htake : takeAnchor s.hard p s.b = s.b := by
    unfold takeAnchor
    rw [hjig]
    exact if_pos (.inl hby)
  have hcheck : noAnchorCheck s.hard p s.b = s.b := by
    unfold noAnchorCheck
    rw [hjig]
    exact if_pos (.inr (.inl hkeyed))
  show execHeartbeatLost p s = _
  rw [execHeartbeatLost, act_live _ hlive, htake, hcheck]

theorem exec_formationLate (hanchor : (s.b.adm' p).anchor = j.memberIndex) (hlate : (s.b.adm' p).formStart.toNat + 12000000000 ≤ s.b.clk.tick.toNat) {n : Nat}
    (hn : n = (((List.range j.memberCount).filter fun i => decide (i ≠ j.memberIndex.toNat) && !(s.b.peer p (accel (BitVec.ofNat 16 i))).inSession).length)) :
    exec (.formationLate p) s = .next (s.settled (if n = 0 then s.b else note s.hard 0x0308 27 (some p) [aCount n] s.b)) := by
  have hgo : ((s.b.adm' p).anchor ≠ j.memberIndex ∨ s.b.now.toNat < (s.b.adm' p).formStart.toNat + 12000000000 ∨ n = 0) ↔ n = 0 :=
    ⟨fun h => (h.resolve_left (not_not.mpr hanchor)).resolve_left (Nat.not_lt.mpr hlate), fun h => .inr (.inr h)⟩
  subst hn
  show execFormationLate p s = _
  rw [execFormationLate, act_live _ hlive]
  simp only [hjig]
  exact congrArg (fun b => Host.Outcome.next (s.settled b)) (if_congr hgo rfl rfl)

omit hjig in
theorem exec_delegateAbsent (hdue : (s.b.adm' p).formStart.toNat + 1000000000 ≤ s.b.clk.tick.toNat) : exec (.delegateAbsent p) s = .next (s.settled (push (.adm p) s.b)) := by
  show execDelegateAbsent p s = _
  rw [execDelegateAbsent, act_live _ hlive]
  exact congrArg (fun b => Host.Outcome.next (s.settled b)) (if_pos hdue)

theorem exec_departureEffective {d : Departing} (hd : ((s.b.adm' p).departing.find? fun x => decide (x.member = d.member)) = some d) :
    exec (.departureEffective p d.member) s = .next (s.settled (if epochStart j d.epoch ≤ s.b.clk.tick.toNat then departNow s.hard p d s.b else s.b)) := by
  show execDepartureEffective p d.member s = _
  rw [execDepartureEffective, act_live _ hlive]
  simp only [hd, hjig]
  rfl

/-! ### A takeover by this standby -/

/-- R158: the block of the standby that has taken over. -/
def tookOver (h : Hard) (p : Part) (j : Jig) (b : Block) : Block :=
  note h 0x0305 27 (some p) [aHalf j.memberIndex.toNat, aW4 ((b.adm' p).term + 1).toNat] (ownIndex p j.memberIndex (modAdm p (fun a => { a with term := a.term + 1, anchor := j.memberIndex }) b))

omit hlive hjig in
theorem ownIndex_adm' (me : BitVec 16) (b : Block) : (ownIndex p me (modAdm p (fun a => { a with term := a.term + 1, anchor := me }) b)).adm' p =
    { b.adm' p with term := (b.adm' p).term + 1, anchor := me, roster := Tab.set (b.adm' p).roster me.toNat { index := me, state := 1, tag := identityTag (Config.sha384 b.lc.cert) } } := by
  rw [ownIndex, modAdm_adm', modAdm_adm']; rfl

omit hlive hjig in
theorem tookOver_adm' (h : Hard) (b : Block) : (tookOver h p j b).adm' p =
    { b.adm' p with term := (b.adm' p).term + 1, anchor := j.memberIndex, roster := Tab.set (b.adm' p).roster j.memberIndex.toNat { index := j.memberIndex, state := 1, tag := identityTag (Config.sha384 b.lc.cert) } } := by
  rw [tookOver, Block.adm', note_adm]
  exact ownIndex_adm' ..

omit hlive in
/-- R158: a standby that is due, with nobody to tell. -/
theorem takeAnchor_due (hby : (s.b.adm' p).byAnchor = true) (hmine : (standbys j (s.b.adm' p)).contains j.memberIndex = true)
    (hlost : (((j.anchors.take (anchorRank j j.memberIndex)).drop (anchorRank j (s.b.adm' p).anchor)).all (watchLost s.b p)) = true) (hpeers : (s.b.adm' p).peers = []) (hdep : (s.b.adm' p).departing = []) :
    takeAnchor s.hard p s.b = tookOver s.hard p j s.b := by
  have hgo : ¬ ((s.b.adm' p).byAnchor = false ∨ (!(standbys j (s.b.adm' p)).contains j.memberIndex) = true ∨
      (!((j.anchors.take (anchorRank j j.memberIndex)).drop (anchorRank j (s.b.adm' p).anchor)).all (watchLost s.b p)) = true) := by
    rw [hby, hmine, hlost]
    decide
  have htell : tellDepartures s.hard p (tookOver s.hard p j s.b) = tookOver s.hard p j s.b := by
    unfold tellDepartures
    rw [tookOver_adm']
    simp only [hdep]
    rfl
  unfold takeAnchor
  rw [hjig]
  dsimp only
  rw [if_neg hgo, ownIndex_adm']
  simp only [hpeers, List.filter_nil, List.map_nil, List.foldl_nil]
  exact htell

omit hlive in
/-- The new anchor is not itself lost. -/
theorem noAnchorCheck_tookOver (hlost : (s.b.adm' p).lost.contains j.memberIndex = false) (hdeparted : (s.b.adm' p).departed = []) (hdep : (s.b.adm' p).departing = []) :
    noAnchorCheck s.hard p (tookOver s.hard p j s.b) = tookOver s.hard p j s.b := by
  have hjig' : (tookOver s.hard p j s.b).jigOf p = some j := by
    rw [tookOver, Block.jigOf, Block.part, note_parts]; exact hjig
  have hhere : lostMember (tookOver s.hard p j s.b) p j.memberIndex = false := by
    unfold lostMember
    rw [tookOver_adm']
    simp only [hlost, hdeparted, hdep]
    rfl
  unfold noAnchorCheck
  rw [hjig']
  refine if_pos (.inr (.inr ?_))
  rw [List.all_cons, congrArg Adm.anchor (tookOver_adm' ..), hhere]
  rfl

theorem exec_heartbeatLost_due (hby : (s.b.adm' p).byAnchor = true) (hmine : (standbys j (s.b.adm' p)).contains j.memberIndex = true)
    (hlost : (((j.anchors.take (anchorRank j j.memberIndex)).drop (anchorRank j (s.b.adm' p).anchor)).all (watchLost s.b p)) = true) (hpeers : (s.b.adm' p).peers = []) (hdeparted : (s.b.adm' p).departed = [])
    (hdep : (s.b.adm' p).departing = []) (hhere : (s.b.adm' p).lost.contains j.memberIndex = false) : exec (.heartbeatLost p) s = .next (s.settled (tookOver s.hard p j s.b)) := by
  show execHeartbeatLost p s = _
  rw [execHeartbeatLost, act_live _ hlive, takeAnchor_due hjig hby hmine hlost hpeers hdep, noAnchorCheck_tookOver hjig hhere hdeparted hdep]

end

theorem isAccel_not (m : MemberRef) : (!isAccel m) = decide (memberKind m ≠ 0) := (decide_not ..).symm

/-- Settles O44: one lemma per message and timer of a session, of the anchor and of departures. -/
theorem sessionsHeartbeatsAndDepartures : Obligations.SessionsHeartbeatsAndDepartures := by
  unfold Obligations.SessionsHeartbeatsAndDepartures
  refine ⟨fun s sec c => exec_session_fails, fun s sec hh => ⟨exec_keyUpdate hh, exec_probe hh, exec_probeAck hh⟩, fun s sec hj => ?_,
    fun s p m hlive hsess => ⟨exec_probeTimeout_asks hlive hsess, exec_probeTimeout_lost hlive hsess, exec_keyUpdateTrigger hlive hsess, exec_keyUpdateTrigger_responder hlive⟩,
    fun s sec term seq hh hkind => ⟨exec_heartbeat hh hkind, exec_heartbeat_old hh⟩,
    fun s p j hlive hjig => ⟨exec_heartbeatSend hlive hjig, exec_heartbeatLost_idle hlive hjig, exec_heartbeatLost_due hlive hjig, fun hanchor hlate n => exec_formationLate hlive hjig hanchor hlate, exec_delegateAbsent hlive⟩,
    fun s sec term i j hh hjig => ?_, fun s sec m cause e hh => ?_, fun s p j d hlive hjig hd => ?_⟩
  · intro k b ended
    refine ⟨fun hstate => ?_, fun hstate => ?_⟩
    · rw [exec_endSession hj rfl, if_neg hstate, isAccel]
      simp only [decide_eq_true_eq]
      rfl
    · rw [exec_endSession hj rfl, if_pos hstate]
  · intro old followed
    exact ⟨fun hterm hpeer hnext => exec_takeover hh hjig hterm hpeer hnext rfl, exec_takeover_ignored hh hjig⟩
  · intro b
    refine ⟨fun hown he => ?_, fun hother he hfrom => ?_, fun hother hfrom => ?_⟩
    · rw [exec_depart hh, if_pos hown, if_neg he, isAccel]
      simp only [decide_eq_true_eq]
      rfl
    · rw [exec_depart hh, if_neg hother, if_neg he, if_pos hfrom, isAccel_not]
    · rw [exec_depart hh, if_neg hother, if_pos rfl, if_pos hfrom]
  · rw [exec_departureEffective hlive hjig hd]
    exact ⟨fun h => by rw [if_pos h], fun h => by rw [if_neg (Nat.not_le.mpr h)]⟩

end Sys2Proof.Machine
end

section
/-! The driver's admission and release of a peer, and the relay (R157 to R164, R352). -/

namespace Sys2Proof.Machine

/-! ### What the start of a command leaves of the admissions -/

section
variable (ctx : CmdCtx) (b : Block) (p : Part)

theorem markStarted_adm' : (markStarted ctx b).adm' p = b.adm' p := by rw [markStarted_frame]; rfl
theorem markStarted_peer (m : MemberRef) : (markStarted ctx b).peer p m = b.peer p m := by rw [markStarted_frame]; rfl
theorem markStarted_att (m : MemberRef) : (markStarted ctx b).att p m = b.att p m := by rw [markStarted_frame]; rfl
theorem markStarted_gone (i : BitVec 16) : (markStarted ctx b).gone p i = b.gone p i := by rw [markStarted_frame]; rfl
theorem markStarted_selfRef : (markStarted ctx b).selfRef p = b.selfRef p := by rw [markStarted_frame]; rfl

end

/-! ### The admission of a peer -/

section
variable {s : State} {ctx : CmdCtx} {q : Queue} {m : MemberRef} {man : Bool} {deleg : BitVec 4} {rel : Word} {j : Jig} (hst : s.starts ctx 0x03 0 q) (hjig : s.b.jigOf q.part = some j)
include hst hjig

/-- R162: the operands for this member itself. -/
theorem exec_cmdPeerAdmit_self (hself : m = accel j.memberIndex) :
    exec (.cmdPeerAdmit ctx m man deleg rel) s = .next (s.settled (if deleg ≠ 0 ∧ (deleg.toNat < 4 ∨ deleg = 0xD ∨ deleg = 0xE) then complete s.hard ctx stPeerDeparted 0x0009 0 0 (markStarted ctx s.b)
      else push (.adm q.part) (complete s.hard ctx stOk 0 (2 ^ 32 * (s.b.adm' q.part).term.toNat) 0
        (modAdm q.part (fun a => { a with manual := man, selfOff := false, groupLog := if deleg = 0 then a.groupLog else deleg.toNat }) (markStarted ctx s.b))))) := by
  have hjig' : (markStarted ctx s.b).jigOf q.part = some j := (markStarted_jigOf ..).trans hjig
  have hterm (f : Adm → Adm) (hf : ∀ a, (f a).term = a.term) : ((modAdm q.part f (markStarted ctx s.b)).adm' q.part).term = (s.b.adm' q.part).term := by rw [modAdm_adm', hf, markStarted_adm']
  show execCmdPeerAdmit ctx m man deleg rel s = _
  rw [execCmdPeerAdmit, actCmd_starts _ hst]
  simp only [hjig', if_pos hself, hterm (fun a => { a with manual := man, selfOff := false, groupLog := if deleg = 0 then a.groupLog else deleg.toNat }) fun _ => rfl]

theorem exec_cmdPeerAdmit_unknown (hself : m ≠ accel j.memberIndex) (hknown : peerKnown j m = false) :
    exec (.cmdPeerAdmit ctx m man deleg rel) s = .next (s.settled (complete s.hard ctx stPeerDeparted 0x0009 0 0 (markStarted ctx s.b))) := by
  have hjig' : (markStarted ctx s.b).jigOf q.part = some j := (markStarted_jigOf ..).trans hjig
  show execCmdPeerAdmit ctx m man deleg rel s = _
  rw [execCmdPeerAdmit, actCmd_starts _ hst]
  simp only [hjig', if_neg hself, hknown, Bool.not_false, if_true]

section
variable (hself : m ≠ accel j.memberIndex) (hknown : peerKnown j m = true) (hkind : memberKind m = 0) (hhere : s.b.gone q.part (memberIndex m) = false)
include hself hknown hkind hhere

theorem exec_cmdPeerAdmit_admitted (hstate : (s.b.peer q.part m).state = 7) :
    exec (.cmdPeerAdmit ctx m man deleg rel) s = .next (s.settled (complete s.hard ctx stOk 0 ((s.b.peer q.part m).sessionId.toNat + 2 ^ 32 * (s.b.adm' q.part).term.toNat) 0 (markStarted ctx s.b))) := by
  have hjig' : (markStarted ctx s.b).jigOf q.part = some j := (markStarted_jigOf ..).trans hjig
  have harea : ¬ (memberKind m = 1 ∧ (rel.toNat % 4096 ≠ 0 ∨ rel = 0)) := fun h => by rw [hkind] at h; exact absurd h.1 (by decide)
  show execCmdPeerAdmit ctx m man deleg rel s = _
  rw [execCmdPeerAdmit, actCmd_starts _ hst]
  simp only [hjig', if_neg hself, hknown, Bool.not_true, Bool.false_eq_true, if_false, markStarted_gone, hhere, Bool.and_false, if_neg harea, markStarted_peer, if_pos hstate, markStarted_adm']

theorem exec_cmdPeerAdmit_discovers (hstate : (s.b.peer q.part m).state = 0) (hfree : (s.b.peer q.part m).admitCtx = none) :
    exec (.cmdPeerAdmit ctx m man deleg rel) s = .next (s.settled (discover q.part m (modAtt q.part m (fun y => { y with admitCtx := some ctx })
      (modPeer q.part m (fun y => { y with relay := (s.b.peer q.part m).relay }) (markStarted ctx s.b))))) := by
  have hjig' : (markStarted ctx s.b).jigOf q.part = some j := (markStarted_jigOf ..).trans hjig
  have harea : ¬ (memberKind m = 1 ∧ (rel.toNat % 4096 ≠ 0 ∨ rel = 0)) := fun h => by rw [hkind] at h; exact absurd h.1 (by decide)
  have hnotAccel : ¬ memberKind m = 1 := by rw [hkind]; decide
  have hne (n : BitVec 4) (hn : n ≠ 0) : ¬ (s.b.peer q.part m).state = n := by rw [hstate]; exact hn.symm
  have hatt : s.b.att q.part m = s.b.peer q.part m := by
    rw [Block.att, attKey, if_neg (not_or.mpr ⟨hne 7 (by decide), hne 8 (by decide)⟩)]; rfl
  show execCmdPeerAdmit ctx m man deleg rel s = _
  rw [execCmdPeerAdmit, actCmd_starts _ hst]
  simp only [hjig', if_neg hself, hknown, Bool.not_true, Bool.false_eq_true, if_false, markStarted_gone, hhere, Bool.and_false, if_neg harea, markStarted_peer, if_neg (hne 7 (by decide)), markStarted_att, hatt,
    hfree, Option.isSome_none, if_neg (hne 10 (by decide)), if_neg hnotAccel]

end

theorem exec_cmdPeerAdmit_badArea (hself : m ≠ accel j.memberIndex) (hknown : peerKnown j m = true) (hkind : memberKind m = 1) (hbad : rel.toNat % 4096 ≠ 0 ∨ rel = 0) :
    exec (.cmdPeerAdmit ctx m man deleg rel) s = .next (s.settled (complete s.hard ctx stAborted 0x0102 0 0 (markStarted ctx s.b))) := by
  have hjig' : (markStarted ctx s.b).jigOf q.part = some j := (markStarted_jigOf ..).trans hjig
  have hacc : isAccel m = false := by rw [isAccel, hkind]; rfl
  have harea : memberKind m = 1 ∧ (rel.toNat % 4096 ≠ 0 ∨ rel = 0) := ⟨hkind, hbad⟩
  show execCmdPeerAdmit ctx m man deleg rel s = _
  rw [execCmdPeerAdmit, actCmd_starts _ hst]
  simp only [hjig', if_neg hself, hknown, Bool.not_true, Bool.false_eq_true, if_false, hacc, Bool.false_and, if_pos harea]

end

/-! ### Its release -/

/-- R161: what a release does. -/
theorem exec_cmdPeerRelease {s : State} {ctx : CmdCtx} {q : Queue} {m : MemberRef} (hst : s.starts ctx 0x04 0 q) :
    exec (.cmdPeerRelease ctx m) s = .next (s.settled (if m = s.b.selfRef q.part then complete s.hard ctx stOk 0 (selfRelease s.hard q.part (markStarted ctx s.b)).1 0 (selfRelease s.hard q.part (markStarted ctx s.b)).2
      else if memberKind m = 0 then complete s.hard ctx stNotOwner 0 0 0 (markStarted ctx s.b)
      else if (s.b.peer q.part m).inSession = false then complete s.hard ctx stPeerDeparted 0 0 0 (markStarted ctx s.b)
      else complete s.hard ctx stOk 0 1 0 (freeEntry q.part m (closeSession s.hard q.part m stPeerDeparted (sendEnv s.hard q.part m (.spdm 0xEC .none []) (markStarted ctx s.b)))))) := by
  show execCmdPeerRelease ctx m s = _
  rw [execCmdPeerRelease, actCmd_starts _ hst]
  simp only [markStarted_selfRef, markStarted_peer, isAccel, decide_eq_true_eq]
  rfl

/-! ### The relay -/

section
variable {s : State} {p : Part} {host : BitVec 16} {prod cons : BitVec 32} {r : Relay} {j : Jig} (hregs : s.b.regs = true) (hpart : s.b.partExists p = true) (hjig : s.b.jigOf p = some j)
  (hrelay : (s.b.peer p (0x10000 ||| host.setWidth 32)).relay = some r)
include hregs hpart hjig hrelay

/-- R352: indices in which nothing is new. -/
theorem exec_relayDoorbell_quiet (hprod : prod = r.inCons) (hcons : cons = r.outCons) (hempty : r.outq = []) :
    exec (.relayDoorbell p host prod cons) s = .next (s.settled (emit (.dmaWrite (r.addr + 12) (leBytes 4 prod.toNat))
      (modPeer p (0x10000 ||| host.setWidth 32) (fun q => { q with relay := some { r with inProd := prod, inCons := prod, outCons := cons } }) s.b))) := by
  have hgo : ¬ (8 < (prod - r.inCons).toNat ∨ (r.outProd - r.outCons).toNat < (cons - r.outCons).toNat) := by
    rw [hprod, hcons, BitVec.sub_self, BitVec.sub_self]
    exact not_or.mpr ⟨by decide, Nat.not_lt_zero _⟩
  have hnone : (List.range (prod - r.inCons).toNat) = [] := by rw [hprod, BitVec.sub_self]; rfl
  have hdrain (c : Block) (hc : (c.peer p (0x10000 ||| host.setWidth 32)).relay = some { r with inProd := prod, inCons := prod, outCons := cons }) :
      relayDrain s.hard p (0x10000 ||| host.setWidth 32) j (r.outq.length + 1) c = c := by
    unfold relayDrain
    rw [hc]
    simp only [hempty]
  show execRelayDoorbell p host prod cons s = _
  rw [execRelayDoorbell, regAct_on _ hregs, partReg_exists _ hpart]
  simp only [hrelay, hjig, if_neg hgo, hnone, List.map_nil, List.nil_append]
  refine congrArg (fun b => Host.Outcome.next (s.settled b)) ((hdrain _ ?_).trans rfl)
  exact congrArg Peer.relay (modPeer_peer ..)

/-- R352: an index out of range costs the relay its session. -/
theorem exec_relayDoorbell_bad (hbad : 8 < (prod - r.inCons).toNat) (hsess : (s.b.peer p (0x10000 ||| host.setWidth 32)).inSession = true) :
    exec (.relayDoorbell p host prod cons) s = .next (s.settled (sessionLost s.hard p (0x10000 ||| host.setWidth 32) 2
      (noteLimited s.hard 0x0809 24 (some p) host.toNat (fun n => [aHalf host.toNat, aCount n]) (modPeer p (0x10000 ||| host.setWidth 32) (fun q => { q with relay := none }) s.b)))) := by
  have hstop : 8 < (prod - r.inCons).toNat ∨ (r.outProd - r.outCons).toNat < (cons - r.outCons).toNat := .inl hbad
  have hsess' (h : Hard) (code isl obj : Nat) (args : Nat → List (Nat × Nat)) : ((noteLimited h code isl (some p) obj args (modPeer p (0x10000 ||| host.setWidth 32) (fun q => { q with relay := none }) s.b)).peer p
      (0x10000 ||| host.setWidth 32)).inSession = true := by
    rw [noteLimited_frame]
    exact (congrArg Peer.inSession (modPeer_peer ..)).trans hsess
  show execRelayDoorbell p host prod cons s = _
  rw [execRelayDoorbell, regAct_on _ hregs, partReg_exists _ hpart]
  simp only [hrelay, hjig, if_pos hstop, hsess', if_true]

end

/-- Settles O45: the branches of the two commands and of the doorbell. -/
theorem peerCommandsAndRelay : Obligations.PeerCommandsAndRelay := by
  unfold Obligations.PeerCommandsAndRelay
  refine ⟨fun s ctx q m man deleg rel j hst hjig => ?_, fun s ctx q m hst => ?_, fun s p host prod cons r hregs hpart ⟨j, hjig⟩ hrelay => ?_⟩
  · intro b
    refine ⟨fun hself => ⟨fun hok => ?_, fun hne hbad => ?_⟩, exec_cmdPeerAdmit_unknown hst hjig,
      fun hself hknown hkind hhere => ⟨exec_cmdPeerAdmit_admitted hst hjig hself hknown hkind hhere, exec_cmdPeerAdmit_discovers hst hjig hself hknown hkind hhere⟩, exec_cmdPeerAdmit_badArea hst hjig⟩
    · have hgood : ¬ (deleg ≠ 0 ∧ (deleg.toNat < 4 ∨ deleg = 0xD ∨ deleg = 0xE)) := by
        rintro ⟨hne, hbad⟩
        obtain h0 | ⟨h4, hD, hE⟩ := hok
        · exact hne h0
        · exact hbad.elim (Nat.not_lt.mpr h4) fun h => h.elim hD hE
      rw [exec_cmdPeerAdmit_self hst hjig hself, if_neg hgood]
    · rw [exec_cmdPeerAdmit_self hst hjig hself, if_pos ⟨hne, hbad⟩]
  · intro b
    rw [exec_cmdPeerRelease hst]
    refine ⟨fun hne hkind => ?_, fun hne hkind hoff => ?_, fun hne hkind hon => ?_, fun hself => by rw [if_pos hself]⟩
    · rw [if_neg hne, if_pos hkind]
    · rw [if_neg hne, if_neg hkind, if_pos hoff]
    · rw [if_neg hne, if_neg hkind, if_neg (by rw [hon]; decide)]
  · exact ⟨exec_relayDoorbell_quiet hregs hpart hjig hrelay, fun hbad hsess => ⟨_, _, rfl, rfl, exec_relayDoorbell_bad hregs hpart hjig hrelay hbad hsess⟩⟩

end Sys2Proof.Machine
end

section
/-! The commands of the memory engines (R250 to R259, R269 to R274). -/

namespace Sys2Proof.Machine

theorem modMe_congr {n : Fin 8} {f g : MeSt → MeSt} {b : Block} (h : f (b.me n) = g (b.me n)) : modMe n f b = modMe n g b :=
  congrArg (fun v => { b with mes := Tab.set b.mes n.val v }) h

/-! ### A request of a compute die, and an object of a stack -/

theorem exec_domainRequest (s : State) (die : Fin 4) (p : Part) (pasid : BitVec 20) (eng : BitVec 16) (op : DomOp) (a : BitVec 57) (sch ok : Bool) (hlive : s.b.live = true)
    (hp : s.b.partExists p = true) (hreset : (s.b.island .ptu).inReset = false) :
    exec (.domainRequest die p pasid eng op a sch ok) s = .next (s.settled (if domOpDefined op then xlatNew s.hard p ok
      { pasid := pasid, engine := eng, src := .port die, op := op, addr := portAddr op a, since := s.b.clk.tick, fault := none, scheduled := sch } s.b else s.b)) := by
  show execDomainRequest die p pasid eng op a sch ok s = _
  rw [execDomainRequest, act_live _ hlive]
  cases hop : domOpDefined op with
  | false => simp only [domainRequest, hop, Bool.not_false, Bool.or_true, if_true, Bool.false_eq_true, if_false]
  | true => simp only [domainRequest, hop, hp, hreset, Bool.not_true, Bool.or_self, Bool.false_eq_true, if_false, if_true]; rfl

section
variable {s : State} {n : Fin 8} {rid : BitVec 10} {obj : MemObj} {st : BitVec 2} {l : Line} {r : Region} (hlive : s.b.live = true)
  (hreg : s.b.region rid.toNat = some r) (hme : r.me = n) (hkind : r.kind ≠ 2)
include hlive hreg hme hkind

theorem exec_hbmResponse :
    exec (.hbmResponse n rid obj st l) s = .next (s.settled (if s.b.fetches.contains (rid.toNat, obj) = true then objArrives s.hard rid.toNat obj st l s.b else s.b)) := by
  show execHbmResponse n rid obj st l s = _
  rw [execHbmResponse, act_live _ hlive]
  simp only [hreg, hme, hkind, ne_eq, not_false_eq_true, true_and]

omit hlive hme hkind in
/-- A data line that arrives with an error for no request: the error is counted and recorded, and nothing else. -/
theorem objArrives_uncorrected (i : Nat) (hst : 2 ≤ st.toNat) (hreqs : s.b.memReqs = []) :
    objArrives s.hard rid.toNat (.dataLine i) st l s.b = uncorrected s.hard r (.dataLine i) false { s.b with fetches := s.b.fetches.erase (rid.toNat, .dataLine i) } := by
  have hreg' : Block.region { s.b with fetches := s.b.fetches.erase (rid.toNat, .dataLine i) } rid.toNat = some r := hreg
  have hwait : waiters { s.b with fetches := s.b.fetches.erase (rid.toNat, .dataLine i) } rid.toNat (.dataLine i) = [] := by
    show s.b.memReqs.filter _ = []
    rw [hreqs]; rfl
  simp only [objArrives, hreg', hwait, hst, if_true, List.foldl_nil]

end

/-! ### Re-encryption slots -/

section
variable {s : State} {n : Fin 8} {p : Part} {k : Fin 2} (hlive : s.b.live = true)
include hlive

theorem exec_reencryptionDone : exec (.reencryptionDone n p k) s = .next (s.settled (reencDone s.hard n p k.val s.b)) := by
  show execReencryptionDone n p k s = _
  rw [execReencryptionDone, act_live _ hlive]

omit hlive in
theorem reencDone_free (hslot : Tab.get? (s.b.mePart n p).slots k.val = none) : reencDone s.hard n p k.val s.b = s.b := by
  rw [reencDone, hslot]

variable {x : Reenc} {r : Region} (hslot : Tab.get? (s.b.mePart n p).slots k.val = some x) (hreg : s.b.region x.region = some r)
omit hlive
include hslot hreg

theorem reencDone_awaiting (hawait : x.await ≠ []) : reencDone s.hard n p k.val s.b = s.b := by
  rw [reencDone, hslot]
  dsimp only
  rw [hreg]
  exact if_pos (.inl hawait)

theorem reencDone_ready (hawait : x.await = []) (hreset : (s.b.island (.me n)).inReset = false) (hasleep : (s.b.island (.me n)).asleep = false)
    (hread : pageReading s.b x.region x.page = false) (hkeys : regionKeysReady s.b (.me n) r = true) {cb parent : Line} (hwalk : walk s.b x.region r x.page = .cb cb parent)
    {room : Bool × Block} (hroom : room = roomFor s.hard.cfg x.region r ((List.range 7).map fun t => .tagLine (7 * x.page + t)) (touchPath x.region r x.page s.b)) :
    reencDone s.hard n p k.val s.b = if room.1 then sealSlot s.hard x.region r k.val x room.2 else room.2 := by
  rw [reencDone, hslot]
  dsimp only
  rw [hreg]
  dsimp only
  rw [hawait, hreset, hasleep, hread, hkeys, hwalk, hroom]
  simp only [ne_eq, not_true_eq_false, Bool.false_eq_true, or_self, if_false, Bool.not_true]

end

/-! ### Staging -/

/-- The lines a stage request with one bit names. -/
theorem filter_getLsbD_shiftLeft_one {j : Nat} (hj : j < 64) : ((List.range 64).filter fun i => (1#64 <<< j).getLsbD i) = [j] := by
  interval_cases j <;> decide

section
variable {s : State} {p : Part} {rid : BitVec 10} {page : Nat} {t : Word} {r : Region} (hlive : s.b.live = true) (hreg : s.b.region rid.toNat = some r)
include hlive hreg

theorem exec_stageRequest_outside (lines : BitVec 64) (hpage : r.pages ≤ page) : exec (.stageRequest p rid page lines t) s = .next (s.settled s.b) := by
  show execStageRequest p rid page lines t s = _
  rw [execStageRequest, act_live _ hlive, stageRequest, hreg]
  exact congrArg (fun b => Host.Outcome.next (s.settled b)) (if_pos (.inr (.inr (.inr hpage))))

theorem exec_stageRequest_line {j : Nat} (hpart : r.part = p) (hkind : r.kind ≠ 2) (hrole : r.role = 0) (hpage : page < r.pages) (hj : j < 64)
    (hstaging : (s.b.mePart r.me p).staging = []) :
    exec (.stageRequest p rid page (1#64 <<< j) t) s = .next (s.settled (newReqs p rid.toNat .quiet [(64 * page, .path)]
      (modMePart r.me p (fun m => { m with staging := m.staging ++ [{ region := rid.toNat, line := 64 * page + j, complete := false, dataTick := t }] }) s.b))) := by
  have hok : ¬ (r.part ≠ p ∨ r.kind = 2 ∨ r.role ≠ 0 ∨ r.pages ≤ page) := by
    rintro (h | h | h | h)
    exacts [h hpart, hkind h, h hrole, absurd hpage (not_lt.mpr h)]
  show execStageRequest p rid page _ t s = _
  rw [execStageRequest, act_live _ hlive, stageRequest, hreg]
  simp only [if_neg hok, hstaging, List.any_nil, Bool.not_false, List.filter_true, filter_getLsbD_shiftLeft_one hj, List.map_cons, List.map_nil, List.length_nil,
    List.length_singleton, stagingCap, List.cons_ne_nil, false_or]
  rfl

end

/-! ### The scrub and the sweep -/

section
variable {s : State} {n : Fin 8} {p : Part} (hlive : s.b.live = true)
include hlive

theorem exec_scrubStep : exec (.scrubStep n p) s = .next (s.settled (scrubStep n p s.b)) := by
  show execScrubStep n p s = _
  rw [execScrubStep, act_live _ hlive]

omit hlive in
theorem scrubStep_off (h : (s.b.mePart n p).scrubPeriod = 0) : scrubStep n p s.b = s.b := if_pos (.inl h)

omit hlive in
theorem scrubStep_busy (h : planeBusy s.b n p true = true) : scrubStep n p s.b = s.b := if_pos (.inr (.inr (.inr (.inl h))))

omit hlive in
/-- The scrub on the one region of the partition. -/
theorem scrubStep_only {rid : Nat} {r : Region} (hreset : (s.b.island (.me n)).inReset = false) (hasleep : (s.b.island (.me n)).asleep = false)
    (hperiod : (s.b.mePart n p).scrubPeriod ≠ 0) (hbusy : planeBusy s.b n p true = false) (hmay : planeMay s.b n p false = true) (hregs : scrubRegions s.b n p = [(rid, r)])
    (hat : (s.b.mePart n p).scrubRegion = rid) (hpub : r.pub = none) {page : Nat} (hpage : page = (s.b.mePart n p).page.toNat) :
    scrubStep n p s.b = newReqs p rid .quiet ((List.range 64).map fun j => (64 * page + j, MemOp.fill)) (dropPath rid r page (modMePart n p (fun m =>
      if page + 1 < r.pages then { m with scrubRegion := rid, page := BitVec.ofNat 36 (page + 1) } else { m with scrubRegion := 0, page := 0, passes := m.passes + 1 }) s.b)) := by
  have hgo : ¬ ((s.b.mePart n p).scrubPeriod = 0 ∨ (s.b.island (.me n)).inReset = true ∨ (s.b.island (.me n)).asleep = true ∨ planeBusy s.b n p true = true
      ∨ planeMay s.b n p false = false) := by
    rw [hreset, hasleep, hbusy, hmay]
    simpa using hperiod
  have hfind : (scrubRegions s.b n p).find? (fun e => decide (rid ≤ e.1)) = some (rid, r) := by
    rw [hregs]; simp
  have hmore : ((scrubRegions s.b n p).any fun e => decide (rid < e.1)) = false := by rw [hregs]; simp
  rw [scrubStep]
  simp only [if_neg hgo, hfind, hpub, hmore, hat, ← hpage, if_true, Option.isSome_none, Bool.false_eq_true, if_false]

end

section
variable {s : State} {p : Part} {rid : BitVec 10} {r : Region} (hlive : s.b.live = true) (hreg : s.b.region rid.toNat = some r)
include hlive hreg

theorem exec_sweepStep_busy (hbusy : planeBusy s.b r.me p false = true) : exec (.sweepStep p rid) s = .next (s.settled s.b) := by
  show execSweepStep p rid s = _
  rw [execSweepStep, act_live _ hlive, sweepStep, hreg]
  exact congrArg (fun b => Host.Outcome.next (s.settled b)) (if_pos (.inr (.inr (.inr (.inr (.inr (.inr (.inl hbusy))))))))

theorem exec_sweepStep_idle (hidle : r.sweeping = false) : exec (.sweepStep p rid) s = .next (s.settled s.b) := by
  show execSweepStep p rid s = _
  rw [execSweepStep, act_live _ hlive, sweepStep, hreg]
  exact congrArg (fun b => Host.Outcome.next (s.settled b)) (if_pos (.inr (.inl hidle)))

/-- A page nothing has been written to is passed. -/
theorem exec_sweepStep_fresh {k : Nat} (hpart : r.part = p) (hrole : r.role = 0) (hstate : r.state = 2) (hreset : (s.b.island (.me r.me)).inReset = false)
    (hasleep : (s.b.island (.me r.me)).asleep = false) (hkeys : regionKeysReady s.b (.me r.me) r = true) (hsweep : r.sweeping = true)
    (hbusy : planeBusy s.b r.me p false = false) (hmay : planeMay s.b r.me p (decide (2 ^ 39 < s.b.useCount (.me r.me) r.keySlot)) = true)
    (hpage : r.token.sweepPtr.toNat < r.pages) (hwalk : walk s.b rid.toNat r r.token.sweepPtr.toNat = .fresh k) :
    exec (.sweepStep p rid) s = .next (s.settled (sweepPass rid.toNat r r.token.sweepPtr.toNat s.b)) := by
  show execSweepStep p rid s = _
  rw [execSweepStep, act_live _ hlive, sweepStep, hreg]
  simp only [hpart, hsweep, hrole, hstate, hreset, hasleep, hbusy, hmay, hkeys, ne_eq, not_true_eq_false, true_or, Bool.false_eq_true, Bool.true_eq_false,
    or_self, if_false, Bool.not_true, if_neg (not_le.mpr hpage), hwalk]

end

/-! ### A cleared footprint, a stack's readiness, and the end of a repair -/

theorem exec_memClearDone_only {s : State} (n : Fin 8) {id : BitVec 32} {f : Footprint} (hlive : s.b.live = true) (hplaced : (s.b.me n).placed = [f]) (hclear : f.clearing = true) (hid : f.regionId = id) :
    exec (.memClearDone n id) s = .next (s.settled (push (.part f.part) (meLevel s.hard n (note s.hard 0x050D (16 + n.val) (some f.part) [aW4 id.toNat, aW6 f.size] (modMe n (fun x => { x with placed := [] }) s.b))))) := by
  have hmod : modMe n (fun x => { x with placed := x.placed.erase f }) s.b = modMe n (fun x => { x with placed := [] }) s.b :=
    modMe_congr (by rw [hplaced, List.erase_cons_head])
  show execMemClearDone n id s = _
  rw [execMemClearDone, act_live _ hlive, clearDone, hplaced, List.find?_cons_of_pos (by rw [hclear, hid]; simp)]
  dsimp only
  rw [hmod]

theorem exec_hbmReadyChange {s : State} {n : Fin 8} (ready : Bool) (hup : s.b.up = true) (hn : n.val < meCount s.hard.cfg) :
    exec (.hbmReadyChange n ready) s = .next (s.settled (pushAll (meLevel s.hard n (modMe n (fun x => { x with ready := ready }) s.b)))) := by
  show execHbmReadyChange n ready s = _
  rw [execHbmReadyChange, onB_next, hup, decide_eq_false (not_le.mpr hn)]
  simp only [Bool.not_true, Bool.or_self, Bool.false_eq_true, if_false]
  rfl

section
variable {s : State} {p : Part} {rid : BitVec 10} {i : Nat} {cs : List (BitVec 2 × Line)} {r : Region} (hlive : s.b.live = true) (hreg : s.b.region rid.toNat = some r)
include hlive hreg

/-- A counter block that cannot be read costs its page. -/
theorem exec_repairDone_page (hpart : r.part = p) (hrole : r.role = 0) (hlevels : 1 ≤ r.levels) (hrep : r.repair = some (0, i)) :
    exec (.repairDone p rid 0 i cs) s = .next (s.settled (repairEnded s.hard rid.toNat 0 i 1 (losePage s.hard rid.toNat i 1 s.b))) := by
  show execRepairDone p rid 0 i cs s = _
  rw [execRepairDone, act_live _ hlive]
  simp only [hreg, hpart, hrole, hrep, ne_eq, not_true_eq_false, false_or, if_neg (not_le.mpr (Nat.lt_of_lt_of_le Nat.zero_lt_one hlevels)), if_true]

theorem exec_repairDone_other {k : Nat} (hrep : r.repair ≠ some (k, i)) : exec (.repairDone p rid k i cs) s = .next (s.settled s.b) := by
  show execRepairDone p rid k i cs s = _
  rw [execRepairDone, act_live _ hlive]
  simp only [hreg, hrep, ne_eq, not_false_eq_true, true_or, or_true, if_true]

end

/-- Settles O47: command by command, the memory engine's work by the case the state is in. -/
theorem memoryEngineCommands : Obligations.MemoryEngineCommands := by
  unfold Obligations.MemoryEngineCommands
  refine ⟨?_, ?_, ?_, ?_, ?_, ?_, ?_, ?_, ?_, ?_⟩
  · intro s die p pasid eng op a sch ok hlive hp hreset
    refine ⟨fun hop => ?_, fun hop => ?_⟩ <;> rw [exec_domainRequest s die p pasid eng op a sch ok hlive hp hreset, hop] <;> rfl
  · intro s n rid obj st l r hlive hreg hme hkind
    refine ⟨fun hf => ⟨?_, ?_⟩, fun hf => ?_⟩
    · rw [exec_hbmResponse hlive hreg hme hkind, if_pos hf]
    · rintro i rfl hst hreqs
      rw [exec_hbmResponse hlive hreg hme hkind, if_pos hf, objArrives_uncorrected hreg i hst hreqs]
    · rw [exec_hbmResponse hlive hreg hme hkind, hf]; rfl
  · intro s n p k hlive
    refine ⟨fun hslot => ?_, fun x r hslot hreg => ⟨fun hawait => ?_, ?_⟩⟩
    · rw [exec_reencryptionDone hlive, reencDone_free hslot]
    · rw [exec_reencryptionDone hlive, reencDone_awaiting hslot hreg hawait]
    · rintro hawait hreset hasleep hread hkeys ⟨cb, parent, hwalk⟩ room hroom
      rw [exec_reencryptionDone hlive, reencDone_ready hslot hreg hawait hreset hasleep hread hkeys hwalk hroom]
  · intro s p rid page j t r hlive hreg hpart hkind hrole hpage hj hstaging
    exact exec_stageRequest_line hlive hreg hpart hkind hrole hpage hj hstaging
  · intro s p rid page lines t r hlive hreg hpage
    exact exec_stageRequest_outside hlive hreg lines hpage
  · intro s n p hlive hreset hasleep
    refine ⟨fun h => ?_, fun h => ?_, fun rid r hperiod hbusy hmay hregs hat hpub page hpage => ?_⟩
    · rw [exec_scrubStep hlive, scrubStep_off h]
    · rw [exec_scrubStep hlive, scrubStep_busy h]
    · rw [exec_scrubStep hlive, scrubStep_only hreset hasleep hperiod hbusy hmay hregs hat hpub hpage]
  · intro s p rid r k hlive hreg hpart hrole hstate hreset hasleep hkeys
    exact ⟨exec_sweepStep_busy hlive hreg, exec_sweepStep_fresh hlive hreg hpart hrole hstate hreset hasleep hkeys, exec_sweepStep_idle hlive hreg⟩
  · intro s n id f hlive hplaced hclear hid
    exact exec_memClearDone_only n hlive hplaced hclear hid
  · intro s n ready hup hn
    exact exec_hbmReadyChange ready hup hn
  · intro s p rid i cs r hlive hreg hpart hrole hlevels
    exact ⟨exec_repairDone_page hlive hreg hpart hrole hlevels, fun k => exec_repairDone_other hlive hreg⟩

end Sys2Proof.Machine

end

section
/-! Tokens, intents, readers, and the relay of tokens (R260 to R270). -/

namespace Sys2Proof.Machine

/-! ### What a heard message leaves of regions, mirrors and tokens -/

section
variable (sec : Sec) (b : Block) (p : Part)

theorem heard_keptById (id : BitVec 32) : keptById (heard sec b) p id = keptById b p id := rfl
theorem heard_regionById (id : BitVec 32) : (heard sec b).regionById p id = b.regionById p id := rfl
theorem heard_mirrorEnt (id : BitVec 32) : (heard sec b).mirrorEnt p id = b.mirrorEnt p id := rfl
theorem heard_lastSeq (id : BitVec 32) : lastSeq (heard sec b) p id = lastSeq b p id := rfl

theorem heard_session (m : BitVec 16) : (heard sec b).session sec.part m = b.session sec.part m :=
  heard_peerField sec b (fun q => q.inSession) (accel m)

end

theorem isAccel_of_kind {m : MemberRef} (h : memberKind m = 0) : isAccel m = true := decide_eq_true h

/-! ### A token reaches a member -/

section
variable {h : Hard} {p : Part} {t : Token} {b : Block}

theorem tokenIn_ignored (hno : (b.adm' p).keyed = false ∨ tokenOk b p t = false ∨ t.keeper = b.selfIndex p) : tokenIn h p t b = b := if_pos hno

/-- A token is taken up by a member that neither keeps nor reads its region. -/
theorem tokenIn_stranger (hkeyed : (b.adm' p).keyed = true) (hok : tokenOk b p t = true) (hkeep : t.keeper ≠ b.selfIndex p) (hobj : b.regionById p t.regionId = none) :
    tokenIn h p t b = if (lastSeq b p t.regionId).all (fun n => decide (n < t.tokenSeq.toNat)) = false then b
      else if decide (t.mirror = b.selfIndex p ∧ t.noMirror = false) = false ∧ (b.mirrorEnt p t.regionId).isNone = true then sendMemTo h p t.keeper 6 t.regionId [] b
      else sendMemTo h p t.keeper 2 t.regionId (leBytes 8 t.tokenSeq.toNat) (mirrorToken b p t) := by
  have hgo : ¬ ((b.adm' p).keyed = false ∨ tokenOk b p t = false ∨ t.keeper = b.selfIndex p) := by
    rw [hkeyed, hok]
    simpa using hkeep
  cases hlast : lastSeq b p t.regionId <;>
    simp only [tokenIn, if_neg hgo, hlast, hobj, Option.isNone_none, true_and, Option.bind_none, Bool.not_eq_true', Option.all_some, Option.all_none]

theorem tokenIn_old {n : Nat} (hkeyed : (b.adm' p).keyed = true) (hok : tokenOk b p t = true) (hkeep : t.keeper ≠ b.selfIndex p) (hobj : b.regionById p t.regionId = none)
    (hlast : lastSeq b p t.regionId = some n) (hle : t.tokenSeq.toNat ≤ n) : tokenIn h p t b = b := by
  rw [tokenIn_stranger hkeyed hok hkeep hobj, hlast]
  exact if_pos (decide_eq_false (not_lt.mpr hle))

/-- The first token a mirror has of its region is held and acknowledged. -/
theorem tokenIn_first {m : MirrorEnt} (hkeyed : (b.adm' p).keyed = true) (hok : tokenOk b p t = true) (hkeep : t.keeper ≠ b.selfIndex p) (hobj : b.regionById p t.regionId = none)
    (hm : b.mirrorEnt p t.regionId = some m) (hnone : m.token = none) (hmirror : t.mirror = b.selfIndex p) (hno : t.noMirror = false) (hsess : b.session p t.keeper = true) :
    tokenIn h p t b = sendMem h p t.keeper 2 t.regionId (leBytes 8 t.tokenSeq.toNat) (putMirror { part := p, regionId := t.regionId, token := some t, intent := none, heard := b.clk.tick } b) := by
  have hlast : lastSeq b p t.regionId = none := by simp only [lastSeq, hm, hobj, Option.bind_some, hnone, Option.map_none, Option.bind_none]
  have hput : mirrorToken b p t = putMirror { part := p, regionId := t.regionId, token := some t, intent := none, heard := b.clk.tick } b := by
    simp only [mirrorToken, hmirror, hno, and_self, if_true, hm, Option.isNone_some, Bool.false_eq_true, false_and, if_false]
    rfl
  have hsess' : (putMirror { part := p, regionId := t.regionId, token := some t, intent := none, heard := b.clk.tick } b).session p t.keeper = true := hsess
  rw [tokenIn_stranger hkeyed hok hkeep hobj, hlast, hm, hput]
  simp only [hmirror, hno, and_self, decide_true, Option.all_none, Bool.true_eq_false, false_and, if_false, sendMemTo, hsess', if_true]

end

section
variable {s : State} {sec : Sec} {t : Token} (hh : s.hears sec) (hkind : memberKind sec.peer = 0)
include hh hkind

theorem exec_token : exec (.token sec t) s = .next (s.settled (tokenIn s.hard sec.part t (heard sec s.b))) := by
  show execToken sec t s = _
  rw [execToken, actSec_hears _ hh, if_pos (isAccel_of_kind hkind)]

end

/-! ### Acknowledgements of tokens and intents -/

section
variable {s : State} {sec : Sec} {id : BitVec 32} {seq : Word} {rid : Nat} {r : Region} {x : Publication} (hh : s.hears sec)
  (hkept : keptById s.b sec.part id = some (rid, r)) (hpub : r.pub = some x)
include hh hkept hpub

/-- The acknowledgement of a token, of a region that is not being handed off. -/
theorem exec_tokenAck (hkind : memberKind sec.peer = 0) (hstate : r.state ≠ 7) :
    exec (.tokenAck sec id seq) s = .next (s.settled (if seq ≠ r.token.tokenSeq then heard sec s.b
      else if x.phase = 3 ∧ memberIndex sec.peer = r.token.mirror then pubAcked s.hard rid r x (heard sec s.b)
      else if x.phase = 4 then push (.pub rid) (setRegion rid { r with pub := some { x with await := x.await.filter fun y => decide (y ≠ memberIndex sec.peer) } } (heard sec s.b))
      else heard sec s.b)) := by
  show execTokenAck sec id seq s = _
  rw [execTokenAck, actSec_hears _ hh, if_pos (isAccel_of_kind hkind), tokenAcked, heard_keptById, hkept]
  simp only [if_neg hstate, hpub]

theorem exec_intentAck : exec (.intentAck sec id seq) s = .next (s.settled (if x.phase = 1 ∧ sec.peer = accel r.token.mirror ∧ seq = r.token.tokenSeq + 1 then
    push (.pub rid) (setRegion rid { r with pub := some { x with await := [] } } (heard sec s.b)) else heard sec s.b)) := by
  show execIntentAck sec id seq s = _
  rw [execIntentAck, actSec_hears _ hh, heard_keptById, hkept]
  simp only [hpub]

end

theorem exec_intent {s : State} {sec : Sec} {id : BitVec 32} {m : MirrorEnt} {t : Token} (seq : Word) (es : List IntentEntry) (hh : s.hears sec) (hm : s.b.mirrorEnt sec.part id = some m)
    (ht : m.token = some t) :
    exec (.intent sec id seq es) s = .next (s.settled (if accel t.keeper = sec.peer then
      sendMem s.hard sec.part (memberIndex sec.peer) 4 id (leBytes 8 seq.toNat) (putMirror { m with intent := some (seq, es), heard := s.b.clk.tick } (heard sec s.b)) else heard sec s.b)) := by
  show execIntent sec id seq es s = _
  rw [execIntent, actSec_hears _ hh, heard_mirrorEnt, hm]
  simp only [ht, decide_eq_true_eq]
  rfl

/-! ### Readers at a member that does not keep the region -/

section
variable {s : State} {sec : Sec} {id : BitVec 32} (hh : s.hears sec) (hkept : keptById s.b sec.part id = none)
include hh hkept

theorem exec_readOpen_unkept (hkind : memberKind sec.peer = 0) :
    exec (.readOpen sec id) s = .next (s.settled (sendMem s.hard sec.part (memberIndex sec.peer) 10 id (leBytes 1 stRegionRevoked.toNat ++ leBytes 7 0) (heard sec s.b))) := by
  show execReadOpen sec id s = _
  rw [execReadOpen, actSec_hears _ hh, if_pos (isAccel_of_kind hkind), readOpened, heard_keptById, hkept]

theorem exec_readClose_unkept : exec (.readClose sec id) s = .next (s.settled (heard sec s.b)) := by
  show execReadClose sec id s = _
  rw [execReadClose, actSec_hears _ hh, heard_keptById, hkept]

theorem exec_reverify_unkept (pg sq : Word) : exec (.reverify sec id pg sq) s = .next (s.settled (heard sec s.b)) := by
  show execReverify sec id pg sq s = _
  rw [execReverify, actSec_hears _ hh, heard_keptById, hkept]

theorem exec_repairReq_unkept (lv : Byte) (ix : Word) : exec (.repairReq sec id lv ix) s = .next (s.settled (heard sec s.b)) := by
  show execRepairReq sec id lv ix s = _
  rw [execRepairReq, actSec_hears _ hh, heard_keptById, hkept]

end

/-! ### Readers at the keeper, with no publication under way -/

section
variable {s : State} {sec : Sec} {id : BitVec 32} {rid : Nat} {r : Region} (hh : s.hears sec) (hkind : memberKind sec.peer = 0)
  (hkept : keptById s.b sec.part id = some (rid, r)) (hpub : r.pub = none)
include hh hkind hkept hpub

theorem exec_readOpen_new (hlocal : r.kind ≠ 0) (h7 : r.state ≠ 7) (h8 : r.state ≠ 8) (hdying : r.dying = false) (hnew : r.readers.contains (memberIndex sec.peer) = false) :
    exec (.readOpen sec id) s = .next (s.settled (if 65535 ≤ r.readers.length then
        sendMem s.hard sec.part (memberIndex sec.peer) 10 id (leBytes 1 stNoSlot.toNat ++ leBytes 7 0) (heard sec s.b)
      else sendToken s.hard sec.part (memberIndex sec.peer) (currentToken (setRegion rid { r with readers := r.readers ++ [memberIndex sec.peer] } (heard sec s.b)) r)
        (setRegion rid { r with readers := r.readers ++ [memberIndex sec.peer] } (heard sec s.b)))) := by
  show execReadOpen sec id s = _
  rw [execReadOpen, actSec_hears _ hh, if_pos (isAccel_of_kind hkind), readOpened, heard_keptById, hkept]
  simp only [hlocal, h7, h8, hdying, hnew, hpub, Bool.false_eq_true, or_self, if_false, true_and, readerCap]

theorem exec_readClose_kept : exec (.readClose sec id) s = .next (s.settled (push (.pub rid) (setRegion rid { r with readers := r.readers.filter fun x => decide (x ≠ memberIndex sec.peer) } (heard sec s.b)))) := by
  show execReadClose sec id s = _
  rw [execReadClose, actSec_hears _ hh, heard_keptById, hkept]
  simp only [isAccel_of_kind hkind, Bool.not_true, Bool.false_eq_true, if_false, hpub, Option.map_none]

theorem exec_reverify_kept (pg sq : Word) (hpool : r.kind = 2) (hpg : pg.toNat < r.pages) :
    exec (.reverify sec id pg sq) s = .next (s.settled (startReverify rid r (memberIndex sec.peer) pg.toNat (heard sec s.b))) := by
  show execReverify sec id pg sq s = _
  rw [execReverify, actSec_hears _ hh, heard_keptById, hkept]
  simp only [isAccel_of_kind hkind, Bool.not_true, Bool.false_eq_true, hpool, ne_eq, not_true_eq_false, false_or, if_neg (not_le.mpr hpg), hpub, Option.isSome_none, if_false]

theorem exec_repairReq_kept (lv : Byte) (ix : Word) (hpool : r.kind = 2) (hlv : 1 ≤ lv.toNat) (hlevels : lv.toNat < r.levels) (hix : ix.toNat < nodesAt r.pages lv.toNat) :
    exec (.repairReq sec id lv ix) s = .next (s.settled (startRepair s.hard rid r lv.toNat ix.toNat (heard sec s.b))) := by
  have hok : ¬ ((!isAccel sec.peer) = true ∨ r.kind ≠ 2 ∨ r.levels ≤ lv.toNat ∨ nodesAt r.pages lv.toNat ≤ ix.toNat) := by
    rw [isAccel_of_kind hkind, hpool]
    simp [not_le.mpr hlevels, not_le.mpr hix]
  show execRepairReq sec id lv ix s = _
  rw [execRepairReq, actSec_hears _ hh, heard_keptById, hkept]
  simp only [if_neg hok, if_neg (Nat.one_le_iff_ne_zero.mp hlv), hpub, Option.isSome_none, Bool.false_eq_true, if_false]

end

/-! ### The relay of a token -/

section
variable {s : State} {sec : Sec} {t : Token} (hh : s.hears sec) (hkind : memberKind sec.peer = 0)
include hh hkind

theorem exec_relay_member (ds : List (BitVec 16)) (hanchor : (s.b.adm' sec.part).anchor ≠ s.b.selfIndex sec.part) :
    exec (.relay sec ds t) s = .next (s.settled (if ds.contains (s.b.selfIndex sec.part) then tokenIn s.hard sec.part t (heard sec s.b) else heard sec s.b)) := by
  show execRelay sec ds t s = _
  rw [execRelay, actSec_hears _ hh]
  simp only [heard_admField sec s.b Adm.anchor, heard_selfIndex, isAccel_of_kind hkind, Bool.not_true, Bool.false_eq_true, if_false, if_neg hanchor]

theorem exec_relay_anchor {d : BitVec 16} (hanchor : (s.b.adm' sec.part).anchor = s.b.selfIndex sec.part) (hd : d ≠ s.b.selfIndex sec.part) (hsess : s.b.session sec.part d = true) :
    exec (.relay sec [d] t) s = .next (s.settled (sendMem s.hard sec.part d 11 t.regionId (leBytes 2 1 ++ leBytes 2 d.toNat ++ tokenBody t) (heard sec s.b))) := by
  have hself : [d].contains (s.b.selfIndex sec.part) = false := by simpa using Ne.symm hd
  show execRelay sec [d] t s = _
  rw [execRelay, actSec_hears _ hh]
  simp only [heard_admField sec s.b Adm.anchor, heard_selfIndex, isAccel_of_kind hkind, Bool.not_true, Bool.false_eq_true, if_false, hanchor, if_true, hself, List.filter_cons, List.filter_nil, ne_eq, hd, not_false_eq_true, decide_true, List.foldl_cons, List.foldl_nil,
    sendMemTo, heard_session, hsess]

end

/-- Settles O48: command by command, on the block that has heard the message. -/
theorem tokensIntentsAndReaders : Obligations.TokensIntentsAndReaders := by
  unfold Obligations.TokensIntentsAndReaders
  refine ⟨?_, ?_, ?_, ?_, ?_, ?_, ?_⟩
  · intro s sec t hh hkind
    have hkeyedEq : ((heard sec s.b).adm' sec.part).keyed = (s.b.adm' sec.part).keyed := heard_admField sec s.b Adm.keyed
    refine ⟨fun hno => ?_, fun hkeyed hok hkeep hobj => ⟨fun n hlast hle => ?_, fun m hm hnone hmirror hno hsess => ?_⟩⟩
    · rw [exec_token hh hkind, tokenIn_ignored (by rw [hkeyedEq]; exact hno)]
    · rw [exec_token hh hkind, tokenIn_old (hkeyedEq.trans hkeyed) hok hkeep hobj hlast hle]
    · rw [exec_token hh hkind, tokenIn_first (hkeyedEq.trans hkeyed) hok hkeep hobj hm hnone hmirror hno ((heard_session sec s.b t.keeper).trans hsess)]
      rfl
  · intro s sec id seq rid r x hh hkind hkept hstate hpub
    refine ⟨fun hne => ?_, fun heq h3 hmirror => ?_, fun heq h4 => ?_, fun h1 hpeer hseq => ?_, fun h1 => ?_⟩
    · rw [exec_tokenAck hh hkept hpub hkind hstate, if_pos hne]
    · rw [exec_tokenAck hh hkept hpub hkind hstate, if_neg (not_not.mpr heq), if_pos ⟨h3, hmirror⟩]
    · rw [exec_tokenAck hh hkept hpub hkind hstate, if_neg (not_not.mpr heq), if_neg (by rw [h4]; exact fun h => absurd h.1 (by decide)), if_pos h4]
    · rw [exec_intentAck hh hkept hpub, if_pos ⟨h1, hpeer, hseq⟩]
    · rw [exec_intentAck hh hkept hpub, if_neg fun h => h1 h.1]
  · intro s sec id seq es m t hh hm ht
    refine ⟨fun hk => ?_, fun hk => ?_⟩
    · rw [exec_intent seq es hh hm ht, if_pos hk]
    · rw [exec_intent seq es hh hm ht, if_neg hk]
  · intro s sec id hh hkind hkept
    exact ⟨exec_readOpen_unkept hh hkept hkind, exec_readClose_unkept hh hkept, exec_reverify_unkept hh hkept, exec_repairReq_unkept hh hkept⟩
  · intro s sec id rid r hh hkind hkept hpub
    refine ⟨fun hlocal h7 h8 hdying hnew => ⟨fun hlt => ?_, fun hle => ?_⟩, exec_readClose_kept hh hkind hkept hpub, exec_reverify_kept hh hkind hkept hpub, exec_repairReq_kept hh hkind hkept hpub⟩
    · rw [exec_readOpen_new hh hkind hkept hpub hlocal h7 h8 hdying hnew, if_neg (not_le.mpr hlt)]
    · rw [exec_readOpen_new hh hkind hkept hpub hlocal h7 h8 hdying hnew, if_pos hle]
  · intro s sec t ds hh hkind hanchor
    exact exec_relay_member hh hkind ds hanchor
  · intro s sec t d hh hkind hanchor hd hsess
    exact exec_relay_anchor hh hkind hanchor hd hsess

end Sys2Proof.Machine

end

section
/-! Regions open, move to another keeper, and are cleared (R265 to R272). -/

namespace Sys2Proof.Machine

/-! ### What the start of a command leaves of regions and slices -/

section
variable (ctx : CmdCtx) (b : Block)

theorem markStarted_regions : (markStarted ctx b).regions = b.regions := by rw [markStarted_frame]
theorem markStarted_region (rid : Nat) : (markStarted ctx b).region rid = b.region rid := congrArg (fun t => Tab.get? t rid) (markStarted_regions ctx b)
theorem markStarted_windowObject (p : Part) (w : Nat) : windowObject (markStarted ctx b) p w = windowObject b p w := by rw [windowObject, markStarted_regions]; rfl
theorem markStarted_regionsHeld (pasid : BitVec 20) : regionsHeld (markStarted ctx b) pasid = regionsHeld b pasid := by rw [regionsHeld, markStarted_regions]; rfl
theorem markStarted_session (p : Part) (m : BitVec 16) : (markStarted ctx b).session p m = b.session p m := congrArg Peer.inSession (markStarted_peer ctx b p (accel m))
theorem markStarted_selfIndex (p : Part) : (markStarted ctx b).selfIndex p = b.selfIndex p := by rw [Block.selfIndex, markStarted_jigOf]; rfl
theorem markStarted_sliceOf (pasid : BitVec 20) : (markStarted ctx b).sliceOf pasid = b.sliceOf pasid := by
  unfold markStarted
  split <;> rfl

end

/-! ### The open of a window -/

theorem exec_cmdRegionOpen {s : State} {ctx : CmdCtx} {q : Queue} (w : Fin 16) (n : BitVec 4) (hst : s.starts ctx 0x05 0 q) :
    exec (.cmdRegionOpen ctx w n) s = .next (s.settled (openRegion s.hard ctx q w n (markStarted ctx s.b))) := by
  show execCmdRegionOpen ctx w n s = _
  rw [execCmdRegionOpen, actCmd_starts _ hst]

section
variable {h : Hard} {ctx : CmdCtx} {q : Queue} {w : Fin 16} {n : BitVec 4} {b : Block} {j : Jig} {v : KeyWindow} (hj : b.jigOf q.part = some j)
include hj

theorem openRegion_unknown (hno : ∀ v ∈ j.windows, v.window ≠ w.val) : openRegion h ctx q w n b = complete h ctx stObjectGone 0 0 0 b := by
  have hfind : (j.windows.find? fun x => decide (x.window = w.val)) = none := List.find?_eq_none.mpr fun v hv => by simpa using hno v hv
  rw [openRegion, hj]
  dsimp only
  rw [hfind]

variable (hv : (j.windows.find? fun x => decide (x.window = w.val)) = some v)
include hv

/-- An open window keeps its object. -/
theorem openRegion_open {rid : Nat} {r : Region} (hobj : windowObject b q.part w.val = some (rid, r)) (hdying : r.dying = false) (hclosing : r.closing = false) {owner : BitVec 20}
    (hpasid : r.pasid = some owner) :
    openRegion h ctx q w n b = if owner = q.pasid then complete h ctx stOk 0 (rid + 1024 * r.role.toNat) (if r.kind = 0 then 0 else r.token.tokenSeq.toNat) b
      else complete h ctx stNotOwner 0 0 0 b := by
  rw [openRegion, hj]
  dsimp only
  rw [hv]
  dsimp only
  rw [hobj]
  simp only [hdying, hclosing, Bool.false_eq_true, or_self, if_false, hpasid, Option.some.injEq, reduceCtorEq]

variable (hobj : windowObject b q.part w.val = none)
include hobj

theorem openRegion_noStack (hcount : meCount h.cfg ≤ n.toNat) (hn : n.toNat ≤ 14) : openRegion h ctx q w n b = complete h ctx stAborted 0x0102 0 0 b := by
  rw [openRegion, hj]
  dsimp only
  rw [hv]
  dsimp only
  rw [hobj]
  exact if_pos ⟨hcount, hn⟩

/-- An open with no ME named, within the slice. -/
theorem openRegion_new {sl : Slice} (hn : n = 15) (hsl : b.sliceOf q.pasid = some sl) :
    openRegion h ctx q w n b = if sl.rgn.toNat ≤ regionsHeld b q.pasid then complete h ctx stNoSlot 0 0 0 b else openFresh h ctx q j v none b := by
  have hin : ¬ (meCount h.cfg ≤ n.toNat ∧ n.toNat ≤ 14) := fun h => absurd h.2 (by rw [hn]; decide)
  rw [openRegion, hj]
  dsimp only
  rw [hv]
  dsimp only
  rw [hobj, hsl]
  dsimp only
  rw [if_neg hin, if_pos hn]
  simp only [decide_eq_true_eq]

end

section
variable {h : Hard} {ctx : CmdCtx} {q : Queue} {b : Block} {j : Jig} {v : KeyWindow} {pin : Option (Fin 8)}

theorem openFresh_full (hfree : b.freeRegion = none) : openFresh h ctx q j v pin b = complete h ctx stNoSlot 0 0 0 b := by
  rw [openFresh, hfree]

variable (hkind : v.kind = 0)
include hkind

theorem openFresh_noRoot (hroots : 1024 ≤ rootEntries b b.jigs) : openFresh h ctx q j v pin b = complete h ctx stNoSlot 0 0 0 b := by
  cases hfree : b.freeRegion with
  | none => exact openFresh_full hfree
  | some rid =>
    rw [openFresh, hfree]
    simp only [hkind, if_true, if_pos hroots]

/-- The object of a local window: its tree starts anew, its major counters go on from where they were left. -/
def localObject (q : Queue) (j : Jig) (v : KeyWindow) (me : Fin 8) (off : Nat) (k : Slot) (t : Block) : Region :=
  openedRegion q.part (some q.pasid) (some (Fin.ofNat 16 v.window)) 0 0 me off 0 k
    { freshToken v.regionId j.memberIndex 0 j.domainId v.generation (pagesOf v.size) (t.markOf q.part v.regionId v.window v.generation) with noMirror := true } t.now

theorem openFresh_local {rid : Nat} {me : Fin 8} {off : Nat} {k : Slot} {t : Block} (hfree : b.freeRegion = some rid) (hroots : rootEntries b b.jigs < 1024)
    (hplace : chooseStack h.cfg b q.part pin (footprintOf (pagesOf v.size)) = some (me, off))
    (hkey : openKey q.part 0 (BitVec.ofNat 8 v.window) v.regionId v.generation b = some (k, t)) :
    openFresh h ctx q j v pin b = openObject ctx rid (localObject q j v me off k t)
      (placeFoot me { regionId := v.regionId, part := q.part, base := off, size := footprintOf (pagesOf v.size), clearing := false, pool := false } t) := by
  rw [openFresh, hfree]
  simp only [hkind, if_true, if_neg (not_le.mpr hroots), hplace, hkey]
  rfl

end

/-! ### The hand-off and the clear of a region -/

section
variable {b : Block} {ctx : CmdCtx} {q : Queue} {rid : Nat} {r : Region}

theorem namedRegion_gone (hreg : b.region rid = none) : namedRegion b ctx q rid = .inl stObjectGone := by rw [namedRegion, hreg]

theorem namedRegion_other (hreg : b.region rid = some r) (hpasid : r.pasid ≠ some q.pasid) : namedRegion b ctx q rid = .inl stNotOwner := by
  rw [namedRegion, hreg]
  exact if_pos hpasid

theorem namedRegion_own (hreg : b.region rid = some r) (hpasid : r.pasid = some q.pasid) (hdying : r.dying = false) : namedRegion b ctx q rid = .inr r := by
  rw [namedRegion, hreg]
  simp only [hpasid, ne_eq, not_true_eq_false, if_false, hdying, Bool.false_and, Bool.false_eq_true]

end

section
variable {s : State} {ctx : CmdCtx} {q : Queue} {rid : BitVec 10} (hst : s.starts ctx 0x06 0 q)
include hst

theorem exec_cmdRegionHandoff_refused {st : Byte} (hname : namedRegion (markStarted ctx s.b) ctx q rid.toNat = .inl st) :
    exec (.cmdRegionHandoff ctx rid) s = .next (s.settled (complete s.hard ctx st 0 0 0 (markStarted ctx s.b))) := by
  show execCmdRegionHandoff ctx rid s = _
  rw [execCmdRegionHandoff, actCmd_starts _ hst]
  simp only [hname]

theorem exec_cmdRegionHandoff_named {r : Region} (hname : namedRegion (markStarted ctx s.b) ctx q rid.toNat = .inr r) :
    exec (.cmdRegionHandoff ctx rid) s = .next (s.settled (if r.role ≠ 0 ∨ r.kind ≠ 2 then complete s.hard ctx stNotOwner 0 0 0 (markStarted ctx s.b)
      else if r.state = 5 ∨ r.state = 7 ∨ r.state = 8 ∨ r.ctx.isSome = true then complete s.hard ctx stRegionRevoked 0 0 0 (markStarted ctx s.b)
      else if s.b.session r.part r.token.mirror = false ∨ r.token.mirror = s.b.selfIndex r.part then complete s.hard ctx stPeerDeparted 0 0 0 (markStarted ctx s.b)
      else wantPub rid.toNat (setRegion rid.toNat { r with handing := true, ctx := some ctx } (markStarted ctx s.b)))) := by
  show execCmdRegionHandoff ctx rid s = _
  rw [execCmdRegionHandoff, actCmd_starts _ hst]
  simp only [hname, markStarted_session, markStarted_selfIndex]

end

theorem exec_cmdRegionClear_named {s : State} {ctx : CmdCtx} {q : Queue} {rid : BitVec 10} {r : Region} (hst : s.starts ctx 0x07 0 q)
    (hname : namedRegion (markStarted ctx s.b) ctx q rid.toNat = .inr r) :
    exec (.cmdRegionClear ctx rid) s = .next (s.settled (if r.role ≠ 0 then complete s.hard ctx stNotOwner 0 0 0 (markStarted ctx s.b)
      else if r.state = 5 ∨ r.state = 7 ∨ r.state = 8 ∨ r.ctx.isSome = true then complete s.hard ctx stRegionRevoked 0 0 0 (markStarted ctx s.b)
      else if r.kind = 2 then wantPub rid.toNat (modRegion rid.toNat (fun x => { x with state := 9, ctx := some ctx }) (push (.part r.part) (clearRoot s.hard rid.toNat r (markStarted ctx s.b))))
      else complete s.hard ctx stOk 0 (if r.kind = 0 then 0 else r.token.tokenSeq.toNat) 0
        (modRegion rid.toNat (fun x => { x with state := 2 }) (push (.part r.part) (clearRoot s.hard rid.toNat r (markStarted ctx s.b)))))) := by
  show execCmdRegionClear ctx rid s = _
  rw [execCmdRegionClear, actCmd_starts _ hst]
  simp only [hname]

/-- A region that is open and has no command of its own under way lets a hand-off or a clear begin. -/
theorem region_at_rest {r : Region} (hstate : r.state = 2) (hctx : r.ctx = none) : ¬ (r.state = 5 ∨ r.state = 7 ∨ r.state = 8 ∨ r.ctx.isSome = true) := by
  rw [hstate, hctx]
  decide

/-! ### Takeover, a hand-off received, a refusal, and an open without a token -/

theorem exec_mirrorTakeover {s : State} {p : Part} {id : BitVec 32} {m : MirrorEnt} {t : Token} (hlive : s.b.live = true) (hm : s.b.mirrorEnt p id = some m) (ht : m.token = some t) :
    exec (.mirrorTakeover p id) s = .next (s.settled (if s.b.session p t.keeper = false ∨ s.b.gone p t.keeper = true then takeover s.hard m s.b else s.b)) := by
  show execMirrorTakeover p id s = _
  rw [execMirrorTakeover, act_live _ hlive]
  simp only [hm, ht]

section
variable {s : State} {sec : Sec} (hh : s.hears sec)
include hh

theorem exec_handoff {t : Token} (hkind : memberKind sec.peer = 0) :
    exec (.handoff sec t) s = .next (s.settled (takeHandoff s.hard sec.part (memberIndex sec.peer) t (heard sec s.b))) := by
  show execHandoff sec t s = _
  rw [execHandoff, actSec_hears _ hh, if_pos (isAccel_of_kind hkind)]

omit hh in
/-- A hand-off that does not follow from the token held, or not from its keeper, is dropped. -/
theorem takeHandoff_dropped {h : Hard} {p : Part} {peer : BitVec 16} {t t0 : Token} {m : MirrorEnt} {b : Block} (hm : b.mirrorEnt p t.regionId = some m) (ht : m.token = some t0)
    (hbad : tokenOk b p t = false ∨ t.keeper ≠ b.selfIndex p ∨ t0.keeper ≠ peer ∨ t.tokenSeq.toNat ≤ t0.tokenSeq.toNat) : takeHandoff h p peer t b = b := by
  rw [takeHandoff, hm, Option.bind_some, ht]
  exact if_pos hbad

theorem exec_refuse {id : BitVec 32} {st : Byte} {rid : Nat} {r : Region} (hreg : s.b.regionById sec.part id = some (rid, r)) :
    exec (.refuse sec id st) s = .next (s.settled (if r.role = 0 ∨ sec.peer ≠ accel r.token.keeper then heard sec s.b
      else if r.state = 1 then closeRegion s.hard rid (heard sec s.b) else revokeRegion s.hard rid (heard sec s.b))) := by
  show execRefuse sec id st s = _
  rw [execRefuse, actSec_hears _ hh, heard_regionById, hreg]

end

theorem exec_regionOpenTimeout {s : State} {p : Part} {rid : BitVec 10} {r : Region} (hlive : s.b.live = true) (hreg : s.b.region rid.toNat = some r) (hpart : r.part = p) (hstate : r.state = 1) :
    exec (.regionOpenTimeout p rid) s = .next (s.settled (if r.openTick.toNat + 1000000000 ≤ s.b.clk.tick.toNat then closeRegion s.hard rid.toNat s.b else s.b)) := by
  show execRegionOpenTimeout p rid s = _
  rw [execRegionOpenTimeout, act_live _ hlive]
  simp only [hreg, hpart, hstate, true_and]
  rfl

/-- Settles O49: command by command, after the lookup of the region the command names. -/
theorem regionsOpenMoveAndClear : Obligations.RegionsOpenMoveAndClear := by
  unfold Obligations.RegionsOpenMoveAndClear
  refine ⟨?_, ?_, ?_, ?_, ?_, ?_, ?_⟩
  · intro s ctx q w n hst b
    have hjig {j : Jig} (hj : s.b.jigOf q.part = some j) : b.jigOf q.part = some j := (markStarted_jigOf ctx s.b q.part).trans hj
    have hslice {sl : Slice} (hsl : s.b.sliceOf q.pasid = some sl) : b.sliceOf q.pasid = some sl := (markStarted_sliceOf ctx s.b q.pasid).trans hsl
    have hheld : regionsHeld b q.pasid = regionsHeld s.b q.pasid := markStarted_regionsHeld ctx s.b q.pasid
    refine ⟨fun j hj hno => ?_, fun j v rid r hj hv hobj hdying hclosing => ?_, fun j v hj hv hobj => ?_⟩
    · rw [exec_cmdRegionOpen w n hst, openRegion_unknown (hjig hj) hno]
    · have hobj' : windowObject b q.part w.val = some (rid, r) := (markStarted_windowObject ctx s.b q.part w.val).trans hobj
      refine ⟨fun hpasid => ?_, fun other hpasid hother => ?_⟩
      · rw [exec_cmdRegionOpen w n hst, openRegion_open (hjig hj) hv hobj' hdying hclosing hpasid, if_pos rfl]
      · rw [exec_cmdRegionOpen w n hst, openRegion_open (hjig hj) hv hobj' hdying hclosing hpasid, if_neg hother]
    · have hobj' : windowObject b q.part w.val = none := (markStarted_windowObject ctx s.b q.part w.val).trans hobj
      refine ⟨fun hcount hn => ?_, fun sl rid me off k t hn hsl hroom hfree hkind hroots hplace hkey => ?_, fun sl hn hsl hfull => ?_⟩
      · rw [exec_cmdRegionOpen w n hst, openRegion_noStack (hjig hj) hv hobj' hcount hn]
      · refine ⟨localObject q j v me off k t, ?_, rfl, rfl, rfl, rfl, rfl, rfl, rfl, rfl, rfl, rfl, rfl, rfl⟩
        rw [exec_cmdRegionOpen w n hst, openRegion_new (hjig hj) hv hobj' hn (hslice hsl), if_neg (by rw [hheld]; exact not_le.mpr hroom), openFresh_local hkind hfree hroots hplace hkey]
      · rw [exec_cmdRegionOpen w n hst, openRegion_new (hjig hj) hv hobj' hn (hslice hsl)]
        refine congrArg (fun b => Host.Outcome.next (s.settled b)) ?_
        by_cases hle : sl.rgn.toNat ≤ regionsHeld b q.pasid
        · exact if_pos hle
        · rw [if_neg hle]
          rcases hfull with hheld' | hfree | ⟨hkind, hroots⟩
          · exact absurd (hheld ▸ hheld') hle
          · exact openFresh_full hfree
          · exact openFresh_noRoot hkind hroots
  · intro s ctx q rid hst b
    have hreg' {r : Option Region} (hreg : s.b.region rid.toNat = r) : b.region rid.toNat = r := (markStarted_region ctx s.b rid.toNat).trans hreg
    refine ⟨fun hreg => ?_, fun r hreg hpasid => ?_, fun r hreg hpasid hdying hno => ?_, fun r hreg hpasid hdying hrole hkind => ?_⟩
    · exact exec_cmdRegionHandoff_refused hst (namedRegion_gone (hreg' hreg))
    · exact exec_cmdRegionHandoff_refused hst (namedRegion_other (hreg' hreg) hpasid)
    · rw [exec_cmdRegionHandoff_named hst (namedRegion_own (hreg' hreg) hpasid hdying), if_pos hno]
    · have hkeeps : ¬ (r.role ≠ 0 ∨ r.kind ≠ 2) := by rw [hrole, hkind]; decide
      refine ⟨fun hstate => ?_, fun hstate hctx hsess => ?_, fun hstate hctx hsess hself => ?_⟩
      · rw [exec_cmdRegionHandoff_named hst (namedRegion_own (hreg' hreg) hpasid hdying), if_neg hkeeps, if_pos (hstate.imp id fun h => .inr (.inl h))]
      · rw [exec_cmdRegionHandoff_named hst (namedRegion_own (hreg' hreg) hpasid hdying), if_neg hkeeps, if_neg (region_at_rest hstate hctx), if_pos (.inl hsess)]
      · rw [exec_cmdRegionHandoff_named hst (namedRegion_own (hreg' hreg) hpasid hdying), if_neg hkeeps, if_neg (region_at_rest hstate hctx),
          if_neg (by rintro (h | h); exacts [absurd (hsess.symm.trans h) (by decide), hself h])]
  · intro s ctx q rid r hst hreg hpasid hdying b
    have hname := namedRegion_own (ctx := ctx) ((markStarted_region ctx s.b rid.toNat).trans hreg) hpasid hdying
    refine ⟨fun hrole => ?_, fun hrole hstate => ?_, fun hrole hstate hctx hkind => ?_, fun hrole hstate hctx hkind => ?_⟩
    · rw [exec_cmdRegionClear_named hst hname, if_pos hrole]
    · rw [exec_cmdRegionClear_named hst hname, if_neg (not_not.mpr hrole), if_pos (hstate.imp id fun h => h.imp id .inl)]
    · rw [exec_cmdRegionClear_named hst hname, if_neg (not_not.mpr hrole), if_neg (region_at_rest hstate hctx), if_neg (show ¬ r.kind = 2 by rw [hkind]; decide), if_pos hkind]
    · rw [exec_cmdRegionClear_named hst hname, if_neg (not_not.mpr hrole), if_neg (region_at_rest hstate hctx), if_pos hkind]
  · intro s p id m t hlive hm ht
    refine ⟨fun hsess => ?_, fun hsess hgone => ?_⟩
    · rw [exec_mirrorTakeover hlive hm ht, if_pos (.inl hsess)]
    · rw [exec_mirrorTakeover hlive hm ht, if_neg (by rw [hsess, hgone]; decide)]
  · intro s sec t t0 m hh hkind hm ht
    refine ⟨fun hbad => ?_, fun _ _ _ _ _ _ _ => exec_handoff hh hkind⟩
    rw [exec_handoff hh hkind, takeHandoff_dropped (b := heard sec s.b) hm ht hbad]
  · intro s sec id st rid r hh hreg
    refine ⟨fun hrole hpeer hstate => ?_, fun hrole hpeer hstate => ?_, fun hno => ?_⟩
    · rw [exec_refuse hh hreg, if_neg (by rintro (h | h); exacts [hrole h, h hpeer]), if_pos hstate]
    · rw [exec_refuse hh hreg, if_neg (by rintro (h | h); exacts [hrole h, h hpeer]), if_neg hstate]
    · rw [exec_refuse hh hreg, if_pos hno]
  · intro s p rid r hlive hreg hpart hstate
    refine ⟨fun hdue => ?_, fun hnot => ?_⟩
    · rw [exec_regionOpenTimeout hlive hreg hpart hstate, if_pos hdue]
    · rw [exec_regionOpenTimeout hlive hreg hpart hstate, if_neg (not_le.mpr hnot)]

end Sys2Proof.Machine

end

section
/-! The commands of translation (R312 to R325). -/

namespace Sys2Proof.Machine

theorem modPtu_congr {p : Part} {f g : PtuPart → PtuPart} {b : Block} (h : f (b.ptuPart p) = g (b.ptuPart p)) : modPtu p f b = modPtu p g b :=
  congrArg (fun v => { b with ptu := Tab.set b.ptu p.val v }) h

/-! ### Registers of the PTU that act -/

section
variable {s : State} {p : Part} (hregs : s.b.regs = true) (hptu : islandPresent s.hard.cfg .ptu = true) (hreset : (s.b.island .ptu).inReset = false)
  (hasleep : (s.b.island .ptu).asleep = false) (hpart : s.b.partExists p = true)
include hregs hptu hreset hasleep hpart

theorem ptuReg_awake (f : Hard → Block → Block) : regAct (islandReg .ptu (partReg p f)) s = .next (s.settled (f s.hard s.b)) := by
  rw [regAct_on _ hregs, islandReg_awake _ hptu hreset hasleep, partReg_exists _ hpart]

theorem exec_fdone {id : BitVec 16} {c : Instr} {again : Bool} (hc : (c = .fdoneReplay p id ∧ again = true) ∨ (c = .fdoneFail p id ∧ again = false)) :
    exec c s = .next (s.settled (faultDone s.hard p id again s.b)) := by
  rcases hc with ⟨rfl, rfl⟩ | ⟨rfl, rfl⟩
  · exact ptuReg_awake hregs hptu hreset hasleep hpart _
  · exact ptuReg_awake hregs hptu hreset hasleep hpart _

theorem exec_faultRingConsume (rd : BitVec 10) (ok : Bool) : exec (.faultRingConsume p rd ok) s = .next (s.settled (ringConsumed s.hard p rd ok s.b)) :=
  ptuReg_awake hregs hptu hreset hasleep hpart _

theorem exec_faultRingEnable (v : Word) (ok : Bool) : exec (.faultRingEnable p v ok) s = .next (s.settled (ringBased s.hard p v ok s.b)) :=
  ptuReg_awake hregs hptu hreset hasleep hpart _

theorem exec_pinWrite (v : Word) : exec (.pinWrite p v) s = .next (s.settled (pinWritten s.hard p v s.b)) :=
  ptuReg_awake hregs hptu hreset hasleep hpart _

end

section
variable {h : Hard} {p : Part} {id : BitVec 16} {again : Bool} {b : Block}

theorem faultDone_unknown (hf : ((b.ptuPart p).faults.find? fun f => decide (f.id = id)) = none) : faultDone h p id again b = xlatNote h 0x0703 p [aHalf id.toNat] b := by
  rw [faultDone, hf]

theorem faultDone_known {f : XFault} (hf : ((b.ptuPart p).faults.find? fun f => decide (f.id = id)) = some f) :
    faultDone h p id again b = if f.written = false then b
      else if again then replay h p true (fun _ q => decide (q.fault = some id)) (modPtu p (fun x => { x with faults := x.faults.filter fun g => decide (g.id ≠ id) }) b)
      else endStalls p (fun q => decide (q.fault = some id)) (modPtu p (fun x => { x with faults := x.faults.filter fun g => decide (g.id ≠ id) }) b) := by
  rw [faultDone, hf]

/-- With no fault outstanding the ring has nothing to write. -/
theorem ringWrite_none (ok : Bool) (hf : (b.ptuPart p).faults = []) : ringWrite h p ok (b.ptuPart p).faults.length b = b := by
  rw [hf]; rfl

/-- A consumer index past `WR` is ignored. -/
theorem ringConsumed_past {rd : BitVec 10} (ok : Bool) (hle : (b.ptuPart p).rd.toNat ≤ (b.ptuPart p).wr.toNat)
    (hpast : (b.ptuPart p).wr.toNat - (b.ptuPart p).rd.toNat < (rd - (b.ptuPart p).rd).toNat) : ringConsumed h p rd ok b = b := by
  have hsub : ((b.ptuPart p).wr - (b.ptuPart p).rd).toNat = (b.ptuPart p).wr.toNat - (b.ptuPart p).rd.toNat := BitVec.toNat_sub_of_le hle
  exact if_pos (decide_eq_false (by rw [hsub]; exact not_le.mpr hpast))

theorem ringConsumed_within {rd : BitVec 10} (ok : Bool) (hin : (rd - (b.ptuPart p).rd).toNat ≤ ((b.ptuPart p).wr - (b.ptuPart p).rd).toNat) (hf : (b.ptuPart p).faults = []) :
    ringConsumed h p rd ok b = ringLevel h p (modPtu p (fun x => { x with rd := rd }) b) := by
  have hcons : (b.ptuPart p).consumes rd = true := decide_eq_true hin
  have hf' : ((ringLevel h p (modPtu p (fun x => { x with rd := rd }) b)).ptuPart p).faults = [] := by
    rw [Block.ptuPart, ringLevel, setLevel_ptu]
    show ((modPtu p (fun x => { x with rd := rd }) b).ptuPart p).faults = []
    rw [modPtu_ptuPart]
    exact hf
  rw [ringConsumed, hcons]
  exact ringWrite_none ok hf'

theorem ringBased_none (v : Word) (ok : Bool) (hf : (b.ptuPart p).faults = []) :
    ringBased h p v ok b = modPtu p (fun x => { x with base := BitVec.ofNat 52 (wbits v 12 52), en := wbit v 0 }) b :=
  ringWrite_none ok (by rw [modPtu_ptuPart]; exact hf)

/-- A pin's write, with the selection as it stands. -/
theorem pinWritten_eq (v : Word) (n : List PinEnt) (hn : n = ((b.ptuPart p).pins.filter fun e => !e.names (b.ptuPart p).selKind (b.ptuPart p).selDest)) :
    pinWritten h p v b = push (.part p) (modPtu p (fun x =>
      { x with pins := if wbit v 63 && pinnable h.cfg b p (Fin.ofNat 64 (wbits v 8 6)) && decide (n.length < 256) then n ++ [{ dkind := (b.ptuPart p).selKind, dest := (b.ptuPart p).selDest, port := Fin.ofNat 64 (wbits v 8 6) }] else n }) b) := by
  subst hn
  exact congrArg (push (.part p)) (modPtu_congr rfl)

end

/-! ### Moves, advice and invalidation -/

section
variable {s : State} {ctx : CmdCtx} {q : Queue} {a : BitVec 57} {n : BitVec 16} {small : Bool}

section
variable {dest : BitVec 2} {w : BitVec 6} {rv : BitVec 10} (hst : s.starts ctx 0x0F 0 q)
include hst

theorem exec_cmdPrefetch_malformed (hk : moveKeys (markStarted ctx s.b) q.part a n small = none) :
    exec (.cmdPrefetch ctx a n small dest w rv) s = .next (s.settled (complete s.hard ctx stAborted 0x0102 0 0 (markStarted ctx s.b))) := by
  show execCmdPrefetch ctx a n small dest w rv s = _
  rw [execCmdPrefetch, actCmd_starts _ hst]
  simp only [hk]

variable {ks : List Nat} (hk : moveKeys (markStarted ctx s.b) q.part a n small = some ks)
include hk

theorem exec_cmdPrefetch_pool (hdest : dest = 1) (hrv : rv = 0x3FF) :
    exec (.cmdPrefetch ctx a n small dest w rv) s = .next (s.settled (push (.part q.part) (newChange q.part { XChange.blank 0 (some ctx) with todo := ks, small := small, arg := 1, reserve := rv, bounce := w }
      (markStarted ctx s.b)))) := by
  subst hdest
  have hno : reserveRefusal (markStarted ctx s.b) q.part rv = none := if_pos (.inl hrv)
  show execCmdPrefetch ctx a n small 1 w rv s = _
  rw [execCmdPrefetch, actCmd_starts _ hst]
  simp only [hk, if_true, hno, if_neg (show ¬ (1 : BitVec 2) = 3 by decide)]
  rfl

theorem exec_cmdPrefetch_noBounce (hdest : dest = 2) (hw : (markStarted ctx s.b).bounce w = none) :
    exec (.cmdPrefetch ctx a n small dest w rv) s = .next (s.settled (complete s.hard ctx stObjectGone 0 0 0 (markStarted ctx s.b))) := by
  subst hdest
  have hno : bounceRefusal (markStarted ctx s.b) ctx q w = some stObjectGone := by rw [bounceRefusal, hw]
  show execCmdPrefetch ctx a n small 2 w rv s = _
  rw [execCmdPrefetch, actCmd_starts _ hst]
  simp only [hk, decide_true, Bool.true_or, if_true, hno, if_neg (show ¬ (2 : BitVec 2) = 1 by decide), if_neg (show ¬ (2 : BitVec 2) = 3 by decide)]

theorem exec_cmdPrefetch_noDest (hdest : dest = 3) :
    exec (.cmdPrefetch ctx a n small dest w rv) s = .next (s.settled (complete s.hard ctx stAborted 0x0102 0 0 (markStarted ctx s.b))) := by
  show execCmdPrefetch ctx a n small dest w rv s = _
  rw [execCmdPrefetch, actCmd_starts _ hst]
  simp only [hk, if_pos hdest]

end

section
variable {adv : BitVec 4} (hst : s.starts ctx 0x10 0 q)
include hst

theorem exec_cmdAdvise_refused (hbad : adv = 0 ∨ 6 < adv.toNat ∨ (small = true ∧ (adv = 3 ∨ adv = 4)) ∨ moveKeys (markStarted ctx s.b) q.part a n small = none) :
    exec (.cmdAdvise ctx a n small adv) s = .next (s.settled (complete s.hard ctx stAborted 0x0102 0 0 (markStarted ctx s.b))) := by
  have hnone : (if (decide (adv = 0) || decide (6 < adv.toNat) || (small && decide (adv = 3 ∨ adv = 4))) = true then none else moveKeys (markStarted ctx s.b) q.part a n small) = none := by
    rcases hbad with h | h | ⟨hs, h⟩ | h
    · exact if_pos (by simp [h])
    · exact if_pos (by simp [h])
    · exact if_pos (by rw [hs, decide_eq_true h]; simp)
    · rw [h]; exact ite_self _
  show execCmdAdvise ctx a n small adv s = _
  rw [execCmdAdvise, actCmd_starts _ hst]
  simp only [hnone]

theorem exec_cmdAdvise_taken {ks : List Nat} (hk : moveKeys (markStarted ctx s.b) q.part a n small = some ks) (hlo : 1 ≤ adv.toNat) (hhi : adv.toNat ≤ 6) (hsmall : small = false) :
    exec (.cmdAdvise ctx a n small adv) s = .next (s.settled (push (.part q.part) (newChange q.part { XChange.blank 1 (some ctx) with todo := ks, small := small, arg := adv.toNat } (markStarted ctx s.b)))) := by
  have hzero : decide (adv = 0) = false := decide_eq_false fun h => by rw [h] at hlo; exact absurd hlo (by decide)
  show execCmdAdvise ctx a n small adv s = _
  rw [execCmdAdvise, actCmd_starts _ hst]
  simp only [hzero, decide_eq_false (not_lt.mpr hhi), hsmall, Bool.false_and, Bool.or_self, Bool.false_eq_true, if_false, hsmall ▸ hk]

end

section
variable {wd : Bool} (hst : s.starts ctx 0x0E 0 q)
include hst

theorem exec_cmdInvalidateXlat_malformed (hk : invalKeys (markStarted ctx s.b) q.part a n small wd = none) :
    exec (.cmdInvalidateXlat ctx a n small wd) s = .next (s.settled (complete s.hard ctx stAborted 0x0102 0 0 (markStarted ctx s.b))) := by
  show execCmdInvalidateXlat ctx a n small wd s = _
  rw [execCmdInvalidateXlat, actCmd_starts _ hst]
  simp only [hk]

theorem exec_cmdInvalidateXlat_taken {ks : List Nat} (hk : invalKeys (markStarted ctx s.b) q.part a n small wd = some ks) :
    exec (.cmdInvalidateXlat ctx a n small wd) s = .next (s.settled (push (.part q.part) (newChange q.part { XChange.blank 2 (some ctx) with todo := ks, small := small, arg := bit wd } (markStarted ctx s.b)))) := by
  show execCmdInvalidateXlat ctx a n small wd s = _
  rw [execCmdInvalidateXlat, actCmd_starts _ hst]
  simp only [hk]

end

end

/-! ### Changes that go on -/

section
variable {s : State} {p : Part} {c : XChange} (hlive : s.b.live = true) (hone : (s.b.ptuPart p).changes = [c])
include hone

theorem change_only : s.b.change p c.id = some c := by
  rw [Block.change, hone]
  exact List.find?_cons_of_pos (decide_eq_true rfl)

include hlive

theorem exec_epochDrainDone_only : exec (.epochDrainDone p) s = .next (s.settled (push (.part p)
    (if c.stage = 1 ∧ (s.b.ptuPart p).drained c.epoch = true then changeDrained s.hard p c s.b else s.b))) := by
  show execEpochDrainDone p s = _
  rw [execEpochDrainDone, act_live _ hlive]
  simp only [hone, List.foldl_cons, List.foldl_nil, change_only hone]

theorem exec_pageMoveDone_moved {key : Nat} {ks : List Nat} (htodo : c.todo = key :: ks) (hstage : c.stage = 4) :
    exec (.pageMoveDone p) s = .next (s.settled (pageMoved s.hard p c key s.b)) := by
  show execPageMoveDone p s = _
  rw [execPageMoveDone, act_live _ hlive]
  simp only [hone, List.foldl_cons, List.foldl_nil, change_only hone, htodo, hstage, if_true]

theorem exec_pageMoveDone_other (hstage : c.stage ≠ 4) : exec (.pageMoveDone p) s = .next (s.settled s.b) := by
  show execPageMoveDone p s = _
  rw [execPageMoveDone, act_live _ hlive]
  simp only [hone, List.foldl_cons, List.foldl_nil, change_only hone]
  cases c.todo with
  | nil => rfl
  | cons key ks => simp only [if_neg hstage]

end

theorem exec_evictMove {s : State} {p : Part} (hlive : s.b.live = true) :
    exec (.evictMove p) s = .next (s.settled ((evictNext s.b p).elim s.b fun key =>
      push (.part p) (newChange p { XChange.blank 0 none with todo := [key], small := keyIsPart key, arg := 1 } s.b))) := by
  show execEvictMove p s = _
  rw [execEvictMove, act_live _ hlive]
  cases evictNext s.b p <;> rfl

/-! ### Destinations of a port that is down -/

section
variable {s : State} {p : Part} {k : Port} (hlive : s.b.live = true) (hport : portPresent s.hard.cfg k = true)
include hlive

theorem exec_portMoved_stays (hstay : (s.b.port k).linkUp = true ∨ s.b.clk.tick.toNat < (s.b.port k).downSince.toNat + 1000000) :
    exec (.portMoved p k) s = .next (s.settled s.b) := by
  show execPortMoved p k s = _
  rw [execPortMoved, act_live _ hlive]
  exact congrArg (fun b => Host.Outcome.next (s.settled b)) (if_pos (hstay.imp id .inl))

/-- A port's only destination, with no frame that waits there, goes to the port that takes it. -/
def destMoved (p : Part) (k m : Port) (e : PinEnt) (b : Block) : Block :=
  modPortPart m p (PortPart.put3 b.now []) (modPortPart k p (fun y => PortPart.put3 b.now [] { y with queue3 := y.queue3.filter fun q => !boundFor e q, wait3 := y.wait3.filter fun q => !boundFor e q })
    (modPtu p (fun x => { x with chosen := [{ e with port := m }] }) b))

omit hlive in
theorem destMoved_chosen (m : Port) (e : PinEnt) (b : Block) : ((destMoved p k m e b).ptuPart p).chosen = [{ e with port := m }] := by
  show ((modPtu p (fun x => { x with chosen := [{ e with port := m }] }) b).ptuPart p).chosen = _
  rw [modPtu_ptuPart]

omit hlive in
theorem moveDest_only {c : Cfg} {b : Block} {m : Port} {e : PinEnt} (hchosen : (b.ptuPart p).chosen = [e]) (hq : (b.portPart k p).queue3 = []) (hw : (b.portPart k p).wait3 = [])
    (hm : fewestDests { b.ptuPart p with chosen := [] } (((allPorts.filter (portOpen c b p)).filter fun x => decide (x ≠ k))) = some m) :
    moveDest c p k e (0, b) = (1, destMoved p k m e b) := by
  have hrest : ((b.ptuPart p).chosen.filter fun y => decide (y ≠ e)) = [] := by rw [hchosen]; simp
  have hfew : fewestDests { b.ptuPart p with chosen := [] } ((((List.range 64).map fun n => Fin.ofNat 64 n).filter (portOpen c b p)).filter fun x => decide (x ≠ k)) = some m := hm
  rw [moveDest]
  dsimp only
  rw [hrest, hfew, hq, hw]
  rfl

include hport

theorem exec_portMoved_only {m : Port} {e : PinEnt} (hdown : (s.b.port k).linkUp = false) (hlong : (s.b.port k).downSince.toNat + 1000000 ≤ s.b.clk.tick.toNat)
    (hchosen : (s.b.ptuPart p).chosen = [e]) (he : e.port = k) (hpins : (s.b.ptuPart p).pins = []) (hq : (s.b.portPart k p).queue3 = []) (hw : (s.b.portPart k p).wait3 = [])
    (hm : fewestDests { s.b.ptuPart p with chosen := [] } (((allPorts.filter (portOpen s.hard.cfg s.b p)).filter fun x => decide (x ≠ k))) = some m) :
    exec (.portMoved p k) s = .next (s.settled (push (.part p) (xlatNote s.hard 0x0706 p [aByte k.val, aCount 1] (destMoved p k m e s.b)))) := by
  have hgo : ¬ ((s.b.port k).linkUp = true ∨ s.b.now.toNat < (s.b.port k).downSince.toNat + 1000000 ∨ portPresent s.hard.cfg k = false) := by
    rw [hdown, hport]
    rintro (h | h | h)
    exacts [absurd h (by decide), absurd h (not_lt.mpr hlong), absurd h (by decide)]
  have hleave : ([e].filter fun e => decide (e.port = k) && !(([] : List PinEnt).any fun q => q.names e.dkind e.dest)) = [e] := by simp [he]
  show execPortMoved p k s = _
  rw [execPortMoved, act_live _ hlive]
  dsimp only
  rw [if_neg hgo, hchosen, hpins, hleave, List.foldl_cons, List.foldl_nil, moveDest_only hchosen hq hw hm]
  rfl

end

/-- Settles O51: command by command, on the partition's share of the PTU. -/
theorem translationCommands : Obligations.TranslationCommands := by
  unfold Obligations.TranslationCommands
  refine ⟨?_, ?_, ?_, ?_, ?_, ?_⟩
  · intro s p id c again hc hregs hptu hreset hasleep hpart
    refine ⟨fun hf => ?_, fun f hf => ⟨fun hw => ?_, fun hw => ⟨_, rfl, ?_⟩⟩⟩
    · rw [exec_fdone hregs hptu hreset hasleep hpart hc, faultDone_unknown hf]
    · rw [exec_fdone hregs hptu hreset hasleep hpart hc, faultDone_known hf, if_pos hw]
    · rw [exec_fdone hregs hptu hreset hasleep hpart hc, faultDone_known hf, if_neg (by rw [hw]; decide)]
  · intro s p rd ok v hregs hptu hreset hasleep hpart
    refine ⟨fun hpast hle => ?_, fun hin hf => ?_, fun hf => ?_, fun n hn => ⟨Fin.ofNat 64 (wbits v 8 6), Nat.mod_eq_of_lt (wbits_lt v 8 6), ?_⟩⟩
    · rw [exec_faultRingConsume hregs hptu hreset hasleep hpart, ringConsumed_past ok hle hpast]
    · rw [exec_faultRingConsume hregs hptu hreset hasleep hpart, ringConsumed_within ok hin hf]
    · rw [exec_faultRingEnable hregs hptu hreset hasleep hpart, ringBased_none v ok hf]
    · rw [exec_pinWrite hregs hptu hreset hasleep hpart, pinWritten_eq v n hn]
  · intro s ctx q a n small b bad
    refine ⟨fun hst dest w rv => ⟨?_, ?_, ?_, ?_⟩, fun hst adv => ⟨?_, ?_⟩, fun hst wd => ⟨?_, ?_⟩⟩
    · exact exec_cmdPrefetch_malformed hst
    · exact fun ks hk hdest hrv => exec_cmdPrefetch_pool hst hk hdest hrv
    · exact fun ks hk hdest hw => exec_cmdPrefetch_noBounce hst hk hdest hw
    · exact fun ks hk hdest => exec_cmdPrefetch_noDest hst hk hdest
    · exact exec_cmdAdvise_refused hst
    · exact fun ks hk hlo hhi hsmall => exec_cmdAdvise_taken hst hk hlo hhi hsmall
    · exact exec_cmdInvalidateXlat_malformed hst
    · exact fun ks hk => exec_cmdInvalidateXlat_taken hst hk
  · intro s p c hlive hone
    refine ⟨fun hstage hdr => ?_, fun hstage hdr => ?_, fun key ks htodo hstage => ?_, fun hstage => ?_⟩
    · rw [exec_epochDrainDone_only hlive hone, if_pos ⟨hstage, hdr⟩]
    · rw [exec_epochDrainDone_only hlive hone, if_neg (by rw [hdr]; exact fun h => absurd h.2 (by decide))]
    · exact exec_pageMoveDone_moved hlive hone htodo hstage
    · exact exec_pageMoveDone_other hlive hone hstage
  · intro s p hlive
    refine ⟨fun key hk => ?_, fun hk => ?_⟩
    · rw [exec_evictMove hlive, hk, Option.elim_some]
    · rw [exec_evictMove hlive, hk, Option.elim_none]
  · intro s p k m e hlive hport
    refine ⟨fun hstay => exec_portMoved_stays hlive hstay, fun hdown hlong hchosen he hpins hq hw hm => ⟨destMoved p k m e s.b, ?_, destMoved_chosen m e s.b⟩⟩
    exact exec_portMoved_only hlive hport hdown hlong hchosen he hpins hq hw hm

end Sys2Proof.Machine

end

section
/-! Slices, queues and descriptors (R19, R21, R328 to R337). -/

namespace Sys2Proof.Machine

/-! ### Slice entries -/

section
variable {s : State} {k : Fin 64} {quota : Bool} {v : Word} (hregs : s.b.regs = true) (hhbe : islandPresent s.hard.cfg .hbe = true) (hreset : (s.b.island .hbe).inReset = false)
  (hasleep : (s.b.island .hbe).asleep = false)
include hregs hhbe hreset hasleep

theorem exec_sliceWrite : exec (.sliceWrite k quota v) s = .next (s.settled (sliceWritten s.hard k.val quota v s.b)) := by
  show execSliceWrite k quota v s = _
  rw [execSliceWrite, regAct_on _ hregs, islandReg_awake _ hhbe hreset hasleep]

end

section
variable {h : Hard} {k : Nat} {quota : Bool} {v : Word} {b : Block}

/-- A PASID another valid entry names is refused (R19). -/
theorem sliceWritten_taken (hvalid : ((b.slice k).written quota v).valid = true) (htaken : sliceTaken b k ((b.slice k).written quota v).pasid = true) :
    sliceWritten h k quota v b = fire h 420 (note h 0x0803 24 (some (Fin.ofNat 8 ((b.slice k).written quota v).part.toNat)) [aHalf k, aW3 ((b.slice k).written quota v).pasid.toNat] b) := by
  rw [sliceWritten]
  exact if_pos (by rw [hvalid, htaken]; rfl)

/-- An entry that was not valid takes the write, and no process dies. -/
theorem sliceWritten_free (hold : (b.slice k).valid = false) (hok : ((b.slice k).written quota v).valid = false ∨ sliceTaken b k ((b.slice k).written quota v).pasid = false) :
    sliceWritten h k quota v b = { b with host := { b.host with slices := Tab.set b.host.slices k ((b.slice k).written quota v) } } := by
  have hgo : (((b.slice k).written quota v).valid && sliceTaken b k ((b.slice k).written quota v).pasid) = false := by
    rcases hok with h | h <;> rw [h]
    exacts [Bool.false_and _, Bool.and_false _]
  rw [sliceWritten]
  simp only [hgo, hold, Bool.false_and, Bool.false_eq_true, if_false]

end

/-! ### The creation of a queue -/

/-- The fields of `SWY_PART_QNEW_n` as a write leaves them. -/
def qnewTaken (v : Word) (x : PartSt) : PartSt :=
  { x with qVector := BitVec.ofNat 11 (wbits v 44 11), qCqLog := BitVec.ofNat 4 (wbits v 40 4), qSqLog := BitVec.ofNat 4 (wbits v 36 4), qPasid := BitVec.ofNat 20 (wbits v 12 20) }

/-- A queue as it is created with a write of `SWY_PART_QNEW_n`. -/
def queueNew (p : Part) (v : Word) (x : PartSt) : Queue :=
  { part := p, pasid := BitVec.ofNat 20 (wbits v 12 20), sqBase := x.qSqBase, cqBase := x.qCqBase, sqLog := wbits v 36 4, cqLog := wbits v 40 4, sqTail := 0, cqHead := 0, sqHead := 0, cqTail := 0,
    state := 1, tailErr := false, held := [], flight := [], aborted := [] }

section
variable {s : State} {p : Part} {v : Word} (hregs : s.b.regs = true)
include hregs

theorem exec_queueCreate : exec (.queueCreate p v) s = .next (s.settled (queueCreated s.hard p v s.b)) := by
  show execQueueCreate p v s = _
  rw [execQueueCreate, regAct_on _ hregs]

end

section
variable {h : Hard} {p : Part} {v : Word} {b : Block}

theorem queueCreated_off (hoff : wbit v 63 = false) : queueCreated h p v b = modPart p (qnewTaken v) b := if_pos hoff

theorem queueCreated_on (hon : wbit v 63 = true) {st : Byte} {n : Nat} (hq : queueStatus b p (BitVec.ofNat 20 (wbits v 12 20)) (wbits v 36 4) (wbits v 40 4) = (st, n)) :
    queueCreated h p v b = if st ≠ stOk then modPart p (fun x => { x with qDone := true, qStatus := st, qQueue := BitVec.ofNat 8 n }) (modPart p (qnewTaken v) b)
      else ownSrc h n p (wbits v 44 11) (setQueue n (queueNew p v (b.part p)) (modPart p (fun x => { x with qDone := true, qStatus := st, qQueue := BitVec.ofNat 8 n }) (modPart p (qnewTaken v) b))) := by
  have hq' : queueStatus (modPart p (fun s => { s with qVector := BitVec.ofNat 11 (wbits v 44 11), qCqLog := BitVec.ofNat 4 (wbits v 40 4), qSqLog := BitVec.ofNat 4 (wbits v 36 4), qPasid := BitVec.ofNat 20 (wbits v 12 20) }) b) p (BitVec.ofNat 20 (wbits v 12 20)) (wbits v 36 4) (wbits v 40 4) = (st, n) := hq
  rw [queueCreated]
  simp only [hon, Bool.true_eq_false, if_false, modPart_part, toNat_ofNat_wbits, hq']
  rfl

end

/-! ### The doorbells of a queue -/

section
variable {s : State} {n : BitVec 8} {q : Queue} (hregs : s.b.regs = true) (hq : s.b.queue n = some q) (hstate : q.state = 1)
include hregs hq hstate

theorem exec_sqTailWrite (i : BitVec 32) :
    exec (.sqTailWrite n i) s = .next (s.settled (setQueue n.toNat (if (i - q.sqHead).toNat ≤ 2 ^ q.sqLog then { q with sqTail := i } else { q with tailErr := true }) s.b)) := by
  show execSqTailWrite n i s = _
  rw [execSqTailWrite, regAct_on _ hregs, sqTailWritten, hq]
  simp only [if_neg (not_not.mpr hstate)]

theorem exec_cqHeadWrite (i : BitVec 32) :
    exec (.cqHeadWrite n i) s = .next (s.settled (if (i - q.cqHead).toNat ≤ (q.cqTail - q.cqHead).toNat then drainHeld s.hard n.toNat (q.held.length + 1) (setQueue n.toNat { q with cqHead := i } s.b)
      else setQueue n.toNat { q with tailErr := true } s.b)) := by
  show execCqHeadWrite n i s = _
  rw [execCqHeadWrite, regAct_on _ hregs, cqHeadWritten, hq]
  simp only [if_neg (not_not.mpr hstate)]

end

/-- A queue that holds no records has none to write. -/
theorem drainHeld_none (h : Hard) (n fuel : Nat) {q : Queue} (hheld : q.held = []) (b : Block) : drainHeld h n fuel (setQueue n q b) = setQueue n q b := by
  cases fuel with
  | zero => rfl
  | succ fuel =>
    have hget : Tab.get? (setQueue n q b).host.queues n = some q := Tab.get?_set_same ..
    rw [drainHeld, hget]
    dsimp only
    rw [hheld]

/-! ### The fetch of a descriptor -/

section
variable {s : State} {n : BitVec 8} {q : Queue} (hlive : s.b.live = true) (hq : s.b.queue n = some q)
include hlive hq

theorem exec_descriptorFetch_cqFail (d : Option Line) :
    exec (.descriptorFetch n d true) s = .next (s.settled (if q.state = 1 then ringFailed s.hard n q 1 s.b else s.b)) := by
  show execDescriptorFetch n d true s = _
  rw [execDescriptorFetch, act_live _ hlive]
  by_cases h1 : q.state = 1
  · simp only [hq, h1, true_and, if_true]
  · simp only [hq, h1, false_and, if_false, ne_eq, not_false_eq_true, true_or, if_true]

theorem exec_descriptorFetch_stopped (d : Option Line) (hstop : q.state ≠ 1 ∨ q.held ≠ [] ∨ q.sqHead = q.sqTail ∨ s.b.jtag.tcHalt = true) :
    exec (.descriptorFetch n d false) s = .next (s.settled s.b) := by
  show execDescriptorFetch n d false s = _
  rw [execDescriptorFetch, act_live _ hlive]
  simp only [hq, Bool.false_eq_true, and_false, if_false, if_pos hstop]

variable (hgo : ¬ (q.state ≠ 1 ∨ q.held ≠ [] ∨ q.sqHead = q.sqTail ∨ s.b.jtag.tcHalt = true))
include hgo

theorem exec_descriptorFetch_sqFail : exec (.descriptorFetch n none false) s = .next (s.settled (ringFailed s.hard n q 0 s.b)) := by
  show execDescriptorFetch n none false s = _
  rw [execDescriptorFetch, act_live _ hlive]
  simp only [hq, Bool.false_eq_true, and_false, if_false, if_neg hgo]

theorem exec_descriptorFetch_taken (d : Line) : exec (.descriptorFetch n (some d) false) s = .next (s.settled (takeDescriptor s.hard n q d s.b)) := by
  show execDescriptorFetch n (some d) false s = _
  rw [execDescriptorFetch, act_live _ hlive]
  simp only [hq, Bool.false_eq_true, and_false, if_false, if_neg hgo]

end

/-- The command context of the descriptor at `SQ_HEAD`. -/
def headCtx (n : BitVec 8) (q : Queue) (d : Line) : CmdCtx := { queue := n, cmdId := q.sqHead, cookie := (descHead d).cookie, intr := (descHead d).intr }

/-- The block once it has read the descriptor at `SQ_HEAD`. -/
def headRead (q : Queue) (b : Block) : Block := emit (.dmaRead ((q.sqBase.setWidth 64) <<< 12 + BitVec.ofNat 64 (64 * (q.sqHead.toNat % 2 ^ q.sqLog))) 64) b

/-- The command in flight that a descriptor becomes. -/
def headFlight (n : BitVec 8) (q : Queue) (d : Line) (b : Block) : InFlight :=
  { ctx := headCtx n q d, opcode := BitVec.ofNat 8 (descHead d).opcode, ordered := (descHead d).ordered, started := false, names := (descNames d).filter fun x => !namesDying (headRead q b) x }

section
variable {h : Hard} {n : BitVec 8} {q : Queue} {d : Line} {b : Block} (haborted : q.aborted = [])
include haborted

theorem takeDescriptor_rejected {r : Nat} (hr : descReason d = some r) :
    takeDescriptor h n q d b = complete h (headCtx n q d) stAborted r 0 0 (setQueue n.toNat { q with sqHead := q.sqHead + 1 } (headRead q b)) := by
  rw [takeDescriptor]
  simp only [hr, haborted, List.contains_nil, Bool.false_eq_true, if_false, List.append_nil, List.filter_nil]
  rfl

theorem takeDescriptor_fetched (hr : descReason d = none) :
    takeDescriptor h n q d b = setQueue n.toNat { q with sqHead := q.sqHead + 1, flight := q.flight ++ [headFlight n q d b] } (headRead q b) := by
  rw [takeDescriptor]
  simp only [hr, haborted, List.contains_nil, Bool.false_eq_true, if_false, List.filter_nil]
  rfl

end

/-! ### Reserved bits and unknown commands -/

theorem descHead_opcode (d : Line) : (descHead d).opcode = d.toNat % 256 := congrArg (· % 256) (Nat.div_one d.toNat)

/-- Codes past the last command name none (R337). -/
theorem operandFields_past {n : Nat} (h : 0x14 < n) : operandFields n = none := by
  unfold operandFields
  split
  case h_21 => rfl
  all_goals exact absurd h (by decide)

/-- Every command has its fields from byte 16 on. -/
theorem operandFields_known : ∀ n < 0x15, 1 ≤ n → ∃ fs, operandFields n = some fs ∧ ∀ f ∈ fs, 16 ≤ f.1 := by
  intro n hlt hle
  interval_cases n <;> exact ⟨_, rfl, by decide⟩

theorem dvd_fieldMask {f : Nat × Nat × Nat} (h : 16 ≤ f.1) : 2 ^ 128 ∣ fieldMask f :=
  Dvd.dvd.mul_left (Nat.pow_dvd_pow 2 (by omega)) _

theorem add_mul_two_pow_sub (head top : Nat) {sum n : Nat} (h : 2 ^ n ∣ sum) : ∃ k, head + (top * 2 ^ n - sum) = 2 ^ n * k + head := by
  obtain ⟨k, hk⟩ := Nat.dvd_sub (Nat.dvd_mul_left (2 ^ n) top) h
  exact ⟨k, by rw [hk, Nat.add_comm]⟩

/-- Operands lie past the header, so the header's reserved bits are reserved in every command. -/
theorem reservedMask_eq {fs : List (Nat × Nat × Nat)} (h : ∀ f ∈ fs, 16 ≤ f.1) : ∃ k, reservedMask fs = 2 ^ 128 * k + fieldMask (1, 2, 54) := by
  have hsum : 2 ^ 128 ∣ (fs.map fieldMask).sum := List.dvd_sum fun x hx => by
    obtain ⟨f, hf, rfl⟩ := List.mem_map.mp hx
    exact dvd_fieldMask (h f hf)
  exact add_mul_two_pow_sub _ _ hsum

theorem reservedMask_testBit {fs : List (Nat × Nat × Nat)} (h : ∀ f ∈ fs, 16 ≤ f.1) {i : Nat} (hlo : 10 ≤ i) (hhi : i < 64) : (reservedMask fs).testBit i = true := by
  obtain ⟨k, hk⟩ := reservedMask_eq h
  rw [hk, Nat.testBit_two_pow_mul_add k (by decide), if_pos (by omega), fieldMask, Nat.testBit_mul_two_pow, Nat.testBit_two_pow_sub_one]
  simp only [Bool.and_eq_true, decide_eq_true_eq]
  omega

theorem descReason_unknown {d : Line} (h : d.toNat % 256 = 0 ∨ 0x14 < d.toNat % 256) : descReason d = some 0x0100 := by
  have hnone : operandFields (descHead d).opcode = none := by
    rw [descHead_opcode]
    rcases h with h | h
    · rw [h]; rfl
    · exact operandFields_past h
  rw [descReason, hnone]

theorem descReason_reserved {d : Line} (hlo : 1 ≤ d.toNat % 256) (hhi : d.toNat % 256 ≤ 0x14) {i : Nat} (hi : 10 ≤ i) (hi' : i < 64) (hbit : d.getLsbD i = true) :
    descReason d = some 0x0101 := by
  obtain ⟨fs, hfs, hoff⟩ := operandFields_known (d.toNat % 256) (Nat.lt_succ_of_le hhi) hlo
  have hmask : d.toNat &&& reservedMask fs ≠ 0 := fun hzero => by
    have hand : (d.toNat &&& reservedMask fs).testBit i = true := by rw [Nat.testBit_and, reservedMask_testBit hoff hi hi', Bool.and_true]; exact hbit
    rw [hzero, Nat.zero_testBit] at hand
    exact absurd hand (by decide)
  rw [descReason, descHead_opcode, hfs]
  exact if_neg hmask

/-! ### A descriptor written out: the invalidation of a key -/

/-- Bits below a power of two meet none of its multiples. -/
theorem and_two_pow_mul {a n : Nat} (h : a < 2 ^ n) (c : Nat) : a &&& (2 ^ n * c) = 0 := by
  refine Nat.eq_of_testBit_eq fun i => ?_
  rw [Nat.testBit_and, Nat.testBit_two_pow_mul, Nat.zero_testBit]
  by_cases hi : i ≥ n
  · rw [Nat.testBit_lt_two_pow (Nat.lt_of_lt_of_le h (Nat.pow_le_pow_right (by decide) hi)), Bool.false_and]
  · rw [decide_eq_false hi, Bool.false_and, Bool.and_false]

/-- Low and high parts meet separately. -/
theorem two_pow_mul_add_and {a b c d n : Nat} (hb : b < 2 ^ n) (hd : d < 2 ^ n) (hhigh : a &&& c = 0) (hlow : b &&& d = 0) : (2 ^ n * a + b) &&& (2 ^ n * c + d) = 0 := by
  refine Nat.eq_of_testBit_eq fun i => ?_
  have hhigh' : (a.testBit (i - n) && c.testBit (i - n)) = false := by rw [← Nat.testBit_and, hhigh, Nat.zero_testBit]
  have hlow' : (b.testBit i && d.testBit i) = false := by rw [← Nat.testBit_and, hlow, Nat.zero_testBit]
  rw [Nat.testBit_and, Nat.testBit_two_pow_mul_add a hb, Nat.testBit_two_pow_mul_add c hd, Nat.zero_testBit]
  by_cases hi : i < n
  · rw [if_pos hi, if_pos hi, hlow']
  · rw [if_neg hi, if_neg hi, hhigh']

theorem keyInvalidate_toNat (slot : Slot) : (BitVec.ofNat 512 (0x0A + 2 ^ 128 * slot.toNat)).toNat = 2 ^ 128 * slot.toNat + 0x0A := by
  have hslot : slot.toNat < 2 ^ 12 := slot.isLt
  have hlt : 0x0A + 2 ^ 128 * slot.toNat < 2 ^ 512 := by
    calc 0x0A + 2 ^ 128 * slot.toNat < 2 ^ 141 := by omega
      _ ≤ 2 ^ 512 := Nat.pow_le_pow_right (by decide) (by decide)
  rw [BitVec.toNat_ofNat, Nat.mod_eq_of_lt hlt, Nat.add_comm]

/-- The reserved bits of a command with one slot operand. -/
theorem reservedMask_slot : ∃ c, reservedMask [(16, 0, 12)] = 2 ^ 128 * (2 ^ 12 * c) + 2 ^ 10 * (2 ^ 54 - 1) := by
  have hpow : (2 : Nat) ^ 384 = 2 ^ 12 * 2 ^ 372 := (Nat.pow_add 2 12 372)
  have hpos : 0 < (2 : Nat) ^ 372 := Nat.two_pow_pos 372
  refine ⟨2 ^ 372 - 1, ?_⟩
  have hmask : reservedMask [(16, 0, 12)] = (2 ^ 54 - 1) * 2 ^ 10 + ((2 ^ 384 - 1) * 2 ^ 128 - ((2 ^ 12 - 1) * 2 ^ 128 + 0)) := rfl
  rw [hmask, hpow]
  generalize (2 : Nat) ^ 372 = y at hpos ⊢
  omega

theorem descReason_keyInvalidate (slot : Slot) : descReason (BitVec.ofNat 512 (0x0A + 2 ^ 128 * slot.toNat)) = none := by
  have hop : (descHead (BitVec.ofNat 512 (0x0A + 2 ^ 128 * slot.toNat))).opcode = 0x0A := by rw [descHead_opcode, keyInvalidate_toNat]; omega
  have hmask : (2 ^ 128 * slot.toNat + 0x0A) &&& reservedMask [(16, 0, 12)] = 0 := by
    obtain ⟨c, hc⟩ := reservedMask_slot
    rw [hc]
    exact two_pow_mul_add_and (by decide) (by decide) (and_two_pow_mul slot.isLt c) (and_two_pow_mul (by decide) _)
  rw [descReason, hop]
  exact if_pos (by rw [keyInvalidate_toNat]; exact hmask)

theorem descField_keyInvalidate (slot : Slot) : descField (BitVec.ofNat 512 (0x0A + 2 ^ 128 * slot.toNat)) 16 0 12 = slot.toNat := by
  have hslot : slot.toNat < 2 ^ 12 := slot.isLt
  show (BitVec.ofNat 512 (0x0A + 2 ^ 128 * slot.toNat)).toNat / 2 ^ 128 % 2 ^ 12 = slot.toNat
  rw [keyInvalidate_toNat]
  omega

/-- Settles O52: the registers and the fetch by their cases, and the reserved bits of a descriptor by the mask that lies under every command's operands. -/
theorem slicesQueuesAndDescriptors : Obligations.SlicesQueuesAndDescriptors := by
  unfold Obligations.SlicesQueuesAndDescriptors
  refine ⟨?_, ?_, ?_, ?_, fun d h => descReason_unknown h, ?_, fun d off bit' w => rfl, fun slot => ⟨descReason_keyInvalidate slot, descField_keyInvalidate slot⟩⟩
  · intro s k quota v hregs hhbe hreset hasleep new
    refine ⟨fun hvalid htaken => ?_, fun hold hok => ?_⟩
    · rw [exec_sliceWrite hregs hhbe hreset hasleep, sliceWritten_taken hvalid htaken]
    · rw [exec_sliceWrite hregs hhbe hreset hasleep, sliceWritten_free hold hok]
  · intro s p v hregs b
    refine ⟨fun hoff => ?_, fun st n hon hq => ⟨fun hst => ?_, fun hst => ⟨queueNew p v (s.b.part p), ?_, rfl, rfl, rfl, rfl, rfl, rfl, rfl, rfl, rfl, rfl, rfl, rfl, rfl⟩⟩⟩
    · rw [exec_queueCreate hregs, queueCreated_off hoff]; rfl
    · rw [exec_queueCreate hregs, queueCreated_on hon hq, if_pos hst]; rfl
    · subst hst
      rw [exec_queueCreate hregs, queueCreated_on hon hq, if_neg (not_not.mpr rfl)]; rfl
  · intro s n i q hregs hq hstate
    refine ⟨fun hin => ?_, fun hpast => ?_, fun hin hheld => ?_, fun hpast => ?_⟩
    · rw [exec_sqTailWrite hregs hq hstate, if_pos hin]
    · rw [exec_sqTailWrite hregs hq hstate, if_neg (not_le.mpr hpast)]
    · rw [exec_cqHeadWrite hregs hq hstate, if_pos hin, drainHeld_none _ _ _ (by exact hheld)]
    · rw [exec_cqHeadWrite hregs hq hstate, if_neg (not_le.mpr hpast)]
  · intro s n q hlive hq
    refine ⟨fun hstop d => exec_descriptorFetch_stopped hlive hq d hstop, fun hstate d => ?_, fun hstate d => ?_, fun hstate hheld hmore hhalt => ?_⟩
    · rw [exec_descriptorFetch_cqFail hlive hq, if_neg hstate]
    · rw [exec_descriptorFetch_cqFail hlive hq, if_pos hstate]; rfl
    · have hgo : ¬ (q.state ≠ 1 ∨ q.held ≠ [] ∨ q.sqHead = q.sqTail ∨ s.b.jtag.tcHalt = true) := by
        rw [hstate, hheld, hhalt]
        simpa using hmore
      refine ⟨exec_descriptorFetch_sqFail hlive hq hgo, ?_⟩
      intro d haborted b ctx
      refine ⟨fun r hr => ?_, fun hr => ⟨headFlight n q d s.b, ?_, rfl, rfl, rfl, rfl⟩⟩
      · rw [exec_descriptorFetch_taken hlive hq hgo, takeDescriptor_rejected haborted hr]; rfl
      · rw [exec_descriptorFetch_taken hlive hq hgo, takeDescriptor_fetched haborted hr]; rfl
  · rintro d hlo hhi ⟨i, hi, hi', hbit⟩
    exact descReason_reserved hlo hhi hi hi' hbit

end Sys2Proof.Machine

end

section
/-! The commands of the host: partitions, fences, aborts, frees and queries (R337 to R344, R350). -/

namespace Sys2Proof.Machine

/-! ### What the start of a command leaves of queues, fences and partitions -/

section
variable (ctx : CmdCtx) (b : Block)

theorem markStarted_fenceSlot (f : BitVec 32) : (markStarted ctx b).fenceSlot f = b.fenceSlot f := by
  unfold markStarted
  split <;> rfl

theorem markStarted_partExists (p : Part) : (markStarted ctx b).partExists p = b.partExists p := by rw [markStarted_frame]; rfl
theorem markStarted_createBarred (h : Hard) : createBarred h (markStarted ctx b) = createBarred h b := by rw [markStarted_frame]; rfl
theorem markStarted_noRandom : (markStarted ctx b).noRandom = b.noRandom := by rw [markStarted_frame]; rfl
theorem markStarted_keyVal (k : Slot) : (markStarted ctx b).keyVal k = b.keyVal k := by rw [markStarted_frame]; rfl

/-- Only the queue of the command itself notes the start. -/
theorem markStarted_queue_ne {n : BitVec 8} (h : n ≠ ctx.queue) : (markStarted ctx b).queue n = b.queue n := by
  unfold markStarted
  split
  · rfl
  · exact Tab.get?_set_other _ (fun heq => h (BitVec.eq_of_toNat_eq heq)) _

end

/-! ### The creation of a partition -/

/-- The block with a new partition's root key, its log and its telemetry empty. -/
def rootDerived (ctx : CmdCtx) (p : Part) (b : Block) : Block :=
  let k := putKey (rootSlot p) (kdf (b.keyVal 1) (leBytes 1 p.val ++ leBytes 32 b.draw.toNat) "SWY-PART-ROOT") (childAttr b 3 (BitVec.ofNat 4 p.val) 1 0) (drawn (entropyServed ctx b))
  { k with log := { k.log with rings := Tab.del k.log.rings p.val, pages := Tab.del k.log.pages p.val }, tel := { k.tel with owners := Tab.del k.tel.owners p.val } }

theorem rootDerived_slot (ctx : CmdCtx) (p : Part) (b : Block) : ((rootDerived ctx p b).slot (16 + p.val)).value = kdf (b.keyVal 1) (leBytes 1 p.val ++ leBytes 32 (Config.drbg b.ent.draws).toNat) "SWY-PART-ROOT" :=
  congrArg KeySlot.value (setSlot_slot_same (rootSlot p) _ (drawn (entropyServed ctx b)))

theorem rootDerived_draws (ctx : CmdCtx) (p : Part) (b : Block) : (rootDerived ctx p b).ent.draws = b.ent.draws + 1 := rfl

theorem exec_cmdPartCreate {s : State} {ctx : CmdCtx} {q : Queue} (p : Part) (hst : s.starts ctx 0x01 0 q) :
    exec (.cmdPartCreate ctx p) s = .next (s.settled (if p ≠ q.part then complete s.hard ctx stNotOwner 0 0 0 (markStarted ctx s.b)
      else if s.b.partExists p = true ∨ createBarred s.hard s.b = true then complete s.hard ctx stNoSlot 0 0 0 (markStarted ctx s.b)
      else if s.b.noRandom = true then awaitEntropy ctx p (markStarted ctx s.b)
      else complete s.hard ctx stOk 0 0 0 (setPartState s.hard p 1 (modPart p (fun x => { x with createTick := s.b.clk.tick, held := false }) (rootDerived ctx p (markStarted ctx s.b)))))) := by
  show execCmdPartCreate ctx p s = _
  rw [execCmdPartCreate, actCmd_starts _ hst]
  simp only [markStarted_partExists, markStarted_createBarred, markStarted_noRandom, ← markStarted_clk ctx s.b]
  rfl

/-! ### Fences -/

section
variable {s : State} {ctx : CmdCtx} {q : Queue} (mode : BitVec 2) (sh : Bool) (k : BitVec 3) (f : BitVec 32) (acq : List (BitVec 16)) (hst : s.starts ctx 0x0D 0 q)
include hst

theorem exec_cmdFence_malformed (hbad : mode = 3 ∨ (mode = 0 ∧ 4 < k.toNat)) :
    exec (.cmdFence ctx mode sh k f acq) s = .next (s.settled (complete s.hard ctx stAborted 0x0102 0 0 (markStarted ctx s.b))) := by
  show execCmdFence ctx mode sh k f acq s = _
  rw [execCmdFence, actCmd_starts _ hst]
  rcases hbad with rfl | ⟨rfl, hk⟩
  · rfl
  · exact congrArg (fun b => Host.Outcome.next (s.settled b)) (if_pos (.inl hk))

theorem exec_cmdFence_object : exec (.cmdFence ctx 2 sh k f acq) s = .next (s.settled ((quotaFence q sh 0 (markStarted ctx s.b)).elim (complete s.hard ctx stNoSlot 0 0 0 (markStarted ctx s.b))
    fun t => complete s.hard ctx stOk 0 (t.2.fenceHandle t.1).toNat 0 t.2)) := by
  show execCmdFence ctx 2 sh k f acq s = _
  rw [execCmdFence, actCmd_starts _ hst]
  show Host.Outcome.next (s.settled (match quotaFence q sh 0 (markStarted ctx s.b) with | none => _ | some (n, b) => _)) = _
  cases quotaFence q sh 0 (markStarted ctx s.b) <;> rfl

theorem exec_cmdFence_wait : exec (.cmdFence ctx 1 sh k f acq) s = .next (s.settled (fenceWait s.hard ctx q f (markStarted ctx s.b))) := by
  show execCmdFence ctx 1 sh k f acq s = _
  rw [execCmdFence, actCmd_starts _ hst]
  rfl

theorem exec_cmdFence_signal : exec (.cmdFence ctx 0 sh 0 f acq) s = .next (s.settled (fenceSignal s.hard ctx q f [] (markStarted ctx s.b))) := by
  show execCmdFence ctx 0 sh 0 f acq s = _
  rw [execCmdFence, actCmd_starts _ hst]
  rfl

end

section
variable {h : Hard} {ctx : CmdCtx} {q : Queue} {f : BitVec 32} {b : Block}

theorem fenceWait_gone (hf : b.fenceSlot f = none) : fenceWait h ctx q f b = complete h ctx stObjectGone 0 0 0 b := by
  rw [fenceWait, namedFence, hf]

/-- A wait for a fence object of the driver that stands. -/
theorem fenceWait_named {n : Nat} {o : FenceObj} (hf : b.fenceSlot f = some (n, o)) (hkind : o.kind = 0) (hfreed : o.freed = false) :
    fenceWait h ctx q f b = if o.pasid ≠ q.pasid ∧ (o.shared = false ∨ o.part ≠ q.part) then complete h ctx stNotOwner 0 0 0 b
      else o.status.elim (setFence n { o with waits := o.waits ++ [ctx] } b) fun st => complete h ctx st 0 0 0 b := by
  have hname : namedFence b ctx f = .inr (n, o) := by
    rw [namedFence, hf]
    exact if_neg (by rw [hkind, hfreed]; rintro (h | ⟨h, -⟩) <;> exact absurd h (by decide))
  rw [fenceWait, hname]
  cases hst : o.status <;> simp only [hst, Option.elim_none, Option.elim_some]

/-- A fence with no acquires and no object to signal. -/
theorem fenceSignal_bare {n : Nat} {t : Block} (hquota : quotaFence q false 1 b = some (n, t)) (hslot : t.fenceSlot 0 = none) :
    fenceSignal h ctx q 0 [] b = takeFence q.part (some ctx) none 0 (some n) q.pasid [] none t := by
  rw [fenceSignal, acquireIds, List.foldl_nil]
  simp only [if_true, hquota, hslot]

end

/-! ### Aborts -/

section
variable {s : State} {ctx : CmdCtx} {q : Queue} {n : BitVec 8} {target : BitVec 32} (hst : s.starts ctx 0x11 0 q)
include hst

theorem exec_cmdAbort_none (hn : s.b.queue n = none) : exec (.cmdAbort ctx n target) s = .next (s.settled (complete s.hard ctx stNotOwner 0 0 0 (markStarted ctx s.b))) := by
  have hother : n ≠ ctx.queue := by
    rintro rfl
    obtain ⟨-, -, hq, -⟩ := hst
    exact absurd (hn.symm.trans hq) (by simp)
  have hn' : (markStarted ctx s.b).queue n = none := (markStarted_queue_ne ctx s.b hother).trans hn
  show execCmdAbort ctx n target s = _
  rw [execCmdAbort, actCmd_starts _ hst]
  simp only [hn']

theorem exec_cmdAbort_other {t : Queue} (hother : n ≠ ctx.queue) (hn : s.b.queue n = some t) :
    exec (.cmdAbort ctx n target) s = .next (s.settled (if t.pasid ≠ q.pasid then complete s.hard ctx stNotOwner 0 0 0 (markStarted ctx s.b)
      else abortTarget s.hard ctx n t target (markStarted ctx s.b))) := by
  have hn' : (markStarted ctx s.b).queue n = some t := (markStarted_queue_ne ctx s.b hother).trans hn
  show execCmdAbort ctx n target s = _
  rw [execCmdAbort, actCmd_starts _ hst]
  simp only [hn']

end

section
variable {h : Hard} {ctx : CmdCtx} {n : BitVec 8} {t : Queue} {target : BitVec 32} {b : Block}

/-- The command after the last one submitted is none. -/
theorem abortTarget_tail (htail : target = t.sqTail) : abortTarget h ctx n t target b = complete h ctx stNothingToAbort 0 0 0 b := by
  rw [abortTarget]
  exact if_pos (.inl (by rw [htail, BitVec.sub_self]; rfl))

/-- A submitted command that is not fetched yet is noted for its fetch. -/
theorem abortTarget_waiting (hlo : 1 ≤ (t.sqTail - target).toNat) (hhi : (t.sqTail - target).toNat ≤ 2 ^ 32 - 2 ^ t.sqLog)
    (hwait : (target - t.sqHead).toNat < (t.sqTail - t.sqHead).toNat) :
    abortTarget h ctx n t target b = complete h ctx stOk 0 0 0 (setQueue n.toNat { t with aborted := target :: t.aborted.filter fun x => decide (x ≠ target) } b) := by
  have hsub : ¬ ((t.sqTail - target).toNat = 0 ∨ 2 ^ 32 - 2 ^ t.sqLog < (t.sqTail - target).toNat) := by
    rintro (h | h)
    exacts [absurd hlo (by rw [h]; decide), absurd hhi (not_le.mpr h)]
  rw [abortTarget]
  dsimp only
  rw [if_neg hsub, if_pos hwait]

end

/-! ### Frees -/

section
variable {s : State} {ctx : CmdCtx} {q : Queue} {ot : Byte} {refs : Bool} {hd : BitVec 32} (hst : s.starts ctx 0x12 ot.toNat q)
include hst

theorem exec_cmdObjFree_malformed (hbad : ot = 0 ∨ 5 < ot.toNat ∨ (ot = 1 ∧ 256 ≤ hd.toNat) ∨ (ot = 2 ∧ 1024 ≤ hd.toNat) ∨ (ot = 4 ∧ 64 ≤ hd.toNat) ∨ (ot = 5 ∧ 8 ≤ hd.toNat)) :
    exec (.cmdObjFree ctx ot refs hd) s = .next (s.settled (complete s.hard ctx stAborted 0x0102 0 0 (markStarted ctx s.b))) := by
  show execCmdObjFree ctx ot refs hd s = _
  rw [execCmdObjFree, actCmd_starts _ hst]
  refine congrArg (fun b => Host.Outcome.next (s.settled b)) ?_
  rcases hbad with rfl | hot | ⟨rfl, hn⟩ | ⟨rfl, hn⟩ | ⟨rfl, hn⟩ | ⟨rfl, hn⟩
  · rfl
  · dsimp only
    split
    case h_6 => rfl
    all_goals omega
  · exact if_neg (not_lt.mpr hn)
  · exact if_neg (not_lt.mpr hn)
  · exact if_neg (not_lt.mpr hn)
  · exact if_pos hn

theorem exec_cmdObjFree_region (hot : ot = 2) (hn : hd.toNat < 1024) :
    exec (.cmdObjFree ctx ot refs hd) s = .next (s.settled (freeRegion s.hard ctx q hd.toNat refs (markStarted ctx s.b))) := by
  subst hot
  show execCmdObjFree ctx 2 refs hd s = _
  rw [execCmdObjFree, actCmd_starts _ hst]
  exact congrArg (fun b => Host.Outcome.next (s.settled b)) (if_pos hn)

theorem exec_cmdObjFree_part (hot : ot = 5) (hn : hd.toNat < 8) :
    exec (.cmdObjFree ctx ot refs hd) s = .next (s.settled (if hd.toNat ≠ q.part.val then complete s.hard ctx stNotOwner 0 0 0 (markStarted ctx s.b) else releasePart s.hard q.part ctx (markStarted ctx s.b))) := by
  subst hot
  show execCmdObjFree ctx 5 refs hd s = _
  rw [execCmdObjFree, actCmd_starts _ hst]
  exact congrArg (fun b => Host.Outcome.next (s.settled b)) (if_neg (not_le.mpr hn))

end

section
variable {h : Hard} {ctx : CmdCtx} {q : Queue} {rid : Nat} {refs : Bool} {b : Block}

theorem freeRegion_gone (hreg : b.region rid = none) : freeRegion h ctx q rid refs b = complete h ctx stObjectGone 0 0 0 b := by
  rw [freeRegion, hreg]

theorem freeRegion_other {r : Region} (hreg : b.region rid = some r) (hpasid : r.pasid ≠ some q.pasid) : freeRegion h ctx q rid refs b = complete h ctx stNotOwner 0 0 0 b := by
  rw [freeRegion, hreg]
  exact if_pos hpasid

end

/-! ### Queries -/

section
variable {s : State} {ctx : CmdCtx} {q : Queue} {sel : BitVec 16} {arg : BitVec 32} {addr : Word} {len : BitVec 32} {ok : Bool} (hst : s.starts ctx 0x13 0 q)
include hst

theorem exec_cmdQuery_malformed (hbad : addr.toNat % 8 ≠ 0 ∨ queryEntries s.hard (markStarted ctx s.b) q sel arg = none) :
    exec (.cmdQuery ctx sel arg addr len ok) s = .next (s.settled (complete s.hard ctx stAborted 0x0102 0 0 (markStarted ctx s.b))) := by
  have hnone : (if addr.toNat % 8 = 0 then queryEntries s.hard (markStarted ctx s.b) q sel arg else none) = none := by
    rcases hbad with h | h
    · exact if_neg h
    · rw [h]; exact ite_self _
  show execCmdQuery ctx sel arg addr len ok s = _
  rw [execCmdQuery, actCmd_starts _ hst]
  simp only [hnone]

theorem exec_cmdQuery_entries {es : List Bytes} (haddr : addr.toNat % 8 = 0) (hes : queryEntries s.hard (markStarted ctx s.b) q sel arg = some es) :
    exec (.cmdQuery ctx sel arg addr len ok) s = .next (s.settled (if ok = false then complete s.hard ctx stAborted 0x0104 0 0 (markStarted ctx s.b)
      else complete s.hard ctx stOk 0 (fitting len.toNat es).length es.length (if fitting len.toNat es = [] then markStarted ctx s.b else emit (.dmaWrite addr (fitting len.toNat es)) (markStarted ctx s.b)))) := by
  show execCmdQuery ctx sel arg addr len ok s = _
  rw [execCmdQuery, actCmd_starts _ hst]
  simp only [haddr, if_true, hes]

end

/-- Settles O53: command by command, on the block that has noted the command's start. -/
theorem hostCommandsComplete : Obligations.HostCommandsComplete := by
  unfold Obligations.HostCommandsComplete
  refine ⟨?_, ?_, ?_, ?_, ?_⟩
  · intro s ctx q p hst b
    refine ⟨fun hp => ?_, fun hp hno => ?_, fun hp hex hbar hrnd => ?_, fun hp hex hbar hrnd => ⟨rootDerived ctx p b, ?_, ?_, ?_⟩⟩
    · rw [exec_cmdPartCreate p hst, if_pos hp]
    · rw [exec_cmdPartCreate p hst, if_neg (not_not.mpr hp), if_pos hno]
    · rw [exec_cmdPartCreate p hst, if_neg (not_not.mpr hp), if_neg (by rw [hex, hbar]; decide), if_pos hrnd]
    · rw [exec_cmdPartCreate p hst, if_neg (not_not.mpr hp), if_neg (by rw [hex, hbar]; decide), if_neg (by rw [hrnd]; decide)]
    · rw [rootDerived_slot, markStarted_keyVal, markStarted_ent]
    · rw [rootDerived_draws, markStarted_ent]
  · intro s ctx q mode sh k f acq hst b
    refine ⟨exec_cmdFence_malformed mode sh k f acq hst, fun hmode => ⟨fun n t hquota => ?_, fun hquota => ?_⟩, fun hmode => ⟨fun hf => ?_, fun n o hf hkind hfreed => ?_⟩,
      fun hmode hk hzero n t hquota hslot => ?_⟩
    · rw [hmode, exec_cmdFence_object sh k f acq hst, hquota, Option.elim_some]
    · rw [hmode, exec_cmdFence_object sh k f acq hst, hquota, Option.elim_none]
    · rw [hmode, exec_cmdFence_wait sh k f acq hst, fenceWait_gone ((markStarted_fenceSlot ctx s.b f).trans hf)]
    · have hf' : b.fenceSlot f = some (n, o) := (markStarted_fenceSlot ctx s.b f).trans hf
      subst hmode
      refine ⟨fun hpasid hshared => ?_, fun st hpasid hst' => ?_, fun hpasid hst' => ?_⟩
      · rw [exec_cmdFence_wait sh k f acq hst, fenceWait_named hf' hkind hfreed, if_pos ⟨hpasid, .inl hshared⟩]
      · rw [exec_cmdFence_wait sh k f acq hst, fenceWait_named hf' hkind hfreed, if_neg (fun h => h.1 hpasid), hst', Option.elim_some]
      · rw [exec_cmdFence_wait sh k f acq hst, fenceWait_named hf' hkind hfreed, if_neg (fun h => h.1 hpasid), hst', Option.elim_none]
    · rw [hmode, hk, hzero, exec_cmdFence_signal sh 0 acq hst, fenceSignal_bare hquota hslot]
  · intro s ctx q n target hst b
    refine ⟨exec_cmdAbort_none hst, fun t hother hn => ⟨fun hpasid => ?_, fun hpasid htail => ?_, fun hpasid hlo hhi hwait => ?_⟩⟩
    · rw [exec_cmdAbort_other hst hother hn, if_pos hpasid]
    · rw [exec_cmdAbort_other hst hother hn, if_neg (not_not.mpr hpasid), abortTarget_tail htail]
    · rw [exec_cmdAbort_other hst hother hn, if_neg (not_not.mpr hpasid), abortTarget_waiting hlo hhi hwait]
  · intro s ctx q ot refs hd hst b
    refine ⟨exec_cmdObjFree_malformed hst, fun hot hn hreg => ?_, fun r hot hn hreg hpasid => ?_, fun hot hn hne => ?_, fun hot heq => ?_⟩
    · rw [exec_cmdObjFree_region hst hot hn, freeRegion_gone ((markStarted_region ctx s.b hd.toNat).trans hreg)]
    · rw [exec_cmdObjFree_region hst hot hn, freeRegion_other ((markStarted_region ctx s.b hd.toNat).trans hreg) hpasid]
    · rw [exec_cmdObjFree_part hst hot hn, if_pos hne]
    · rw [exec_cmdObjFree_part hst hot (heq ▸ q.part.isLt), if_neg (not_not.mpr heq)]
  · intro s ctx q sel arg addr len ok hst b
    refine ⟨exec_cmdQuery_malformed hst, fun es haddr hes => ⟨?_, fun hfit => ?_⟩⟩
    · rw [exec_cmdQuery_entries hst haddr hes, if_pos rfl]
    · rw [exec_cmdQuery_entries hst haddr hes, if_neg (by decide), if_neg hfit]

end Sys2Proof.Machine

end

section
/-! Bounce windows: their opening, the records of the H2D ring, the doorbells, and the time of a page (R348 to R354). -/

namespace Sys2Proof.Machine

/-! ### Opening a window -/

section
variable (ctx : CmdCtx) (b : Block)

theorem markStarted_bounces : (markStarted ctx b).host.bounces = b.host.bounces := by
  unfold markStarted
  split <;> rfl

theorem markStarted_bwGen : (markStarted ctx b).host.bwGen = b.host.bwGen := by
  unfold markStarted
  split <;> rfl

theorem markStarted_bouncesHeld (pasid : BitVec 20) : bouncesHeld (markStarted ctx b) pasid = bouncesHeld b pasid := by rw [bouncesHeld, markStarted_bounces]; rfl

end

/-- The session a host member's windows are opened under, as `bwSess` names it. -/
def hostSession (b : Block) (q : Queue) (host : BitVec 16) : Nat := q.part.val * 2 ^ 32 + (b.peer q.part (0x10000 ||| host.setWidth 32)).sessionId.toNat

section
variable {s : State} {ctx : CmdCtx} {q : Queue} {host : BitVec 16} {sl : BitVec 4} {h2d d2h : Word} {w : Byte} (hst : s.starts ctx 0x14 0 q)
include hst

theorem exec_cmdBounceOpen_malformed (hbad : sl.toNat < 4 ∨ 12 < sl.toNat ∨ h2d.toNat % 4096 ≠ 0 ∨ d2h.toNat % 4096 ≠ 0 ∨ (w ≠ 0xFF ∧ 64 ≤ w.toNat)) :
    exec (.cmdBounceOpen ctx host sl h2d d2h w) s = .next (s.settled (complete s.hard ctx stAborted 0x0102 0 0 (markStarted ctx s.b))) := by
  show execCmdBounceOpen ctx host sl h2d d2h w s = _
  rw [execCmdBounceOpen, actCmd_starts _ hst]
  exact congrArg (fun b => Host.Outcome.next (s.settled b)) (if_pos hbad)

variable (hgood : ¬ (sl.toNat < 4 ∨ 12 < sl.toNat ∨ h2d.toNat % 4096 ≠ 0 ∨ d2h.toNat % 4096 ≠ 0 ∨ (w ≠ 0xFF ∧ 64 ≤ w.toNat)))
include hgood

theorem exec_cmdBounceOpen_noSession (hsess : (s.b.peer q.part (0x10000 ||| host.setWidth 32)).inSession = false) :
    exec (.cmdBounceOpen ctx host sl h2d d2h w) s = .next (s.settled (complete s.hard ctx stPeerDeparted 0 0 0 (markStarted ctx s.b))) := by
  show execCmdBounceOpen ctx host sl h2d d2h w s = _
  rw [execCmdBounceOpen, actCmd_starts _ hst]
  simp only [if_neg hgood, markStarted_peer, hsess, if_true]

variable (hsess : (s.b.peer q.part (0x10000 ||| host.setWidth 32)).inSession = true) {e : Slice} (he : s.b.sliceOf q.pasid = some e)
include hsess he

theorem exec_cmdBounceOpen_overQuota (hfull : e.bw.toNat ≤ bouncesHeld s.b q.pasid) :
    exec (.cmdBounceOpen ctx host sl h2d d2h w) s = .next (s.settled (complete s.hard ctx stNoSlot 0 0 0 (markStarted ctx s.b))) := by
  show execCmdBounceOpen ctx host sl h2d d2h w s = _
  rw [execCmdBounceOpen, actCmd_starts _ hst]
  simp only [if_neg hgood, markStarted_peer, hsess, Bool.true_eq_false, if_false, markStarted_sliceOf, he, markStarted_bouncesHeld, if_pos hfull]

theorem exec_cmdBounceOpen_pinned (hroom : bouncesHeld s.b q.pasid < e.bw.toNat) (hwin : chooseWindow (markStarted ctx s.b) (hostSession s.b q host) w = .inr w.toNat) :
    exec (.cmdBounceOpen ctx host sl h2d d2h w) s = .next (s.settled (openWindow s.hard ctx q host (s.b.peer q.part (0x10000 ||| host.setWidth 32)).secret (hostSession s.b q host) w.toNat sl.toNat h2d d2h
      (markStarted ctx s.b))) := by
  have hwin' : chooseWindow (markStarted ctx s.b) (q.part.val * 2 ^ 32 + (s.b.peer q.part (0x10000 ||| host.setWidth 32)).sessionId.toNat) w = .inr w.toNat := hwin
  show execCmdBounceOpen ctx host sl h2d d2h w s = _
  rw [execCmdBounceOpen, actCmd_starts _ hst]
  simp only [if_neg hgood, markStarted_peer, hsess, Bool.true_eq_false, if_false, markStarted_sliceOf, he, markStarted_bouncesHeld, if_neg (not_le.mpr hroom), hwin']
  rfl

end

/-- A free window that is named is taken while its generation may rise. -/
theorem chooseWindow_pinned {b : Block} {sess : Nat} {w : Byte} (hw : w.toNat < 64) (hfree : Tab.has b.host.bounces w.toNat = false) (hgen : Tab.getD b.host.bwGen w.toNat 0 ≠ 0xFFFF) :
    chooseWindow b sess w = .inr w.toNat := by
  have hpin : w ≠ 0xFF := by
    rintro rfl
    exact absurd hw (by decide)
  rw [chooseWindow, if_neg hpin, hfree, windowFresh, decide_eq_true hgen]
  rfl

/-- A window as it opens. -/
def bounceNew (q : Queue) (host : BitVec 16) (slotsLog : Nat) (h2d d2h : Word) (k : Slot) : Bounce :=
  { part := q.part, pasid := q.pasid, host := host, state := 1, cause := 0, slotsLog := slotsLog, h2dBase := h2d, d2hBase := d2h, h2dHead := 0, h2dTail := 0, d2hHead := 0,
    d2hTail := 0, seqIn := 0, seqOut := 0, keySlot := k, outq := [], dying := none }

/-- The block with a window opened under a session, its generation risen. -/
def windowTaken (x : Bounce) (sess w : Nat) (gen : BitVec 16) (b : Block) : Block :=
  { b with host := { b.host with bounces := Tab.set b.host.bounces w x, bwGen := Tab.set b.host.bwGen w gen, bwSess := Tab.set b.host.bwSess w sess } }

theorem windowTaken_bounce (x : Bounce) (sess w : Nat) (gen : BitVec 16) (b : Block) : Tab.get? (windowTaken x sess w gen b).host.bounces w = some x := Tab.get?_set_same ..

theorem openWindow_derived {h : Hard} {ctx : CmdCtx} {q : Queue} {host : BitVec 16} {secret : Slot} {sess w slotsLog : Nat} {h2d d2h : Word} {b t : Block} {k : Slot} {gen : BitVec 16}
    (hgen : Tab.getD b.host.bwGen w 0 + 1 = gen) (hkey : deriveKey 10 q.part secret gen.toNat (leBytes 1 w ++ leBytes 2 gen.toNat) "SWY-BOUNCE" b = some (k, t)) :
    openWindow h ctx q host secret sess w slotsLog h2d d2h b = complete h ctx stOk 0 (w + 2 ^ 16 * gen.toNat) 0
      (ownSrc h (280 + w) q.part (vectorBase (.part q.part)) (windowTaken (bounceNew q host slotsLog h2d d2h k) sess w gen t)) := by
  rw [openWindow]
  dsimp only
  rw [hgen, hkey]
  rfl

/-! ### The doorbells -/

section
variable {s : State} {w : BitVec 6} {t : BitVec 32} {x : Bounce} (hregs : s.b.regs = true) (hhbe : islandPresent s.hard.cfg .hbe = true) (hreset : (s.b.island .hbe).inReset = false)
  (hasleep : (s.b.island .hbe).asleep = false) (hx : s.b.bounce w = some x)
include hregs hhbe hreset hasleep hx

theorem exec_h2dTailWrite :
    exec (.h2dTailWrite w t) s = .next (s.settled (if (t - x.h2dHead).toNat ≤ 2 ^ x.slotsLog then modBounce w (fun y => { y with h2dTail := t }) s.b else s.b)) := by
  show execH2dTailWrite w t s = _
  rw [execH2dTailWrite, regAct_on _ hregs, islandReg_awake _ hhbe hreset hasleep, h2dTailWritten, hx]

/-- With no record that waits for room and no move under way, only the index moves. -/
theorem exec_d2hHeadWrite_quiet (hout : x.outq = []) (hchg : (s.b.ptuPart x.part).changes = []) :
    exec (.d2hHeadWrite w t) s = .next (s.settled (modBounce w (fun y => { y with d2hHead := t }) s.b)) := by
  have hchg' : ((modBounce w (fun y => { y with d2hHead := t }) s.b).ptuPart x.part).changes = [] := by
    rw [modBounce, hx]
    exact hchg
  show execD2hHeadWrite w t s = _
  rw [execD2hHeadWrite, regAct_on _ hregs, islandReg_awake _ hhbe hreset hasleep, d2hHeadWritten, hx]
  simp only [hout, List.length_nil, drainD2h, movesGoOn, hchg', List.filter_nil, List.foldl_nil]

end

/-! ### Records of the H2D ring -/

theorem exec_record {s : State} {w : BitVec 6} {r : BounceRec} {c : Instr}
    (hc : (c = .bounceWrite w r ∧ r.rtype = 1) ∨ (c = .readReq w r ∧ r.rtype = 2) ∨ (c = .pageData w r ∧ r.rtype = 3) ∨ (c = .flush w r ∧ r.rtype = 4)) (hlive : s.b.live = true) :
    exec c s = .next (s.settled (takeRecord r.rtype s.hard w r s.b)) := by
  rcases hc with ⟨rfl, ht⟩ | ⟨rfl, ht⟩ | ⟨rfl, ht⟩ | ⟨rfl, ht⟩
  · rw [ht]; exact act_live (fun h b => takeRecord 1 h w r b) hlive
  · rw [ht]; exact act_live (fun h b => takeRecord 2 h w r b) hlive
  · rw [ht]; exact act_live (fun h b => takeRecord 3 h w r b) hlive
  · rw [ht]; exact act_live (fun h b => takeRecord 4 h w r b) hlive

section
variable {h : Hard} {w : BitVec 6} {x : Bounce} {key : Key} {r : BounceRec} {b : Block} (hx : b.bounce w = some x)
  (hgo : ¬ (x.state ≠ 1 ∨ x.h2dHead = x.h2dTail ∨ bounceBusy b w = true ∨ pageBusyIn b w x.part = true ∨ (b.island .hbe).asleep = true ∨ (b.island .hbe).inReset = true))
  (hkey : bounceKey b x = some key)
include hx hgo hkey

/-- The read of the record at `H2D_HEAD`. -/
def recordRead (x : Bounce) (b : Block) : Block := emit (.dmaRead (x.h2dBase + BitVec.ofNat 64 (4160 * (x.h2dHead.toNat % 2 ^ x.slotsLog))) 4160) b

omit hx hkey in
/-- A record of the type its command names. -/
theorem takesRecord_of : ¬ (x.state ≠ 1 ∨ x.h2dHead = x.h2dTail ∨ bounceBusy b w = true ∨ pageBusyIn b w x.part = true ∨ (b.island .hbe).asleep = true ∨ (b.island .hbe).inReset = true
    ∨ (decide (1 ≤ r.rtype.toNat ∧ r.rtype.toNat ≤ 4) = true ∧ r.rtype ≠ r.rtype)) := by
  simpa using hgo

theorem takeRecord_failed {cause : Nat} (hcheck : recordCheck b w x key r = .inl cause) : takeRecord r.rtype h w r b = bounceFail h w x cause r.seq (recordRead x b) := by
  have hcheck' : recordCheck (recordRead x b) w x key r = .inl cause := hcheck
  rw [takeRecord, hx]
  dsimp only
  rw [if_neg (takesRecord_of (r := r) hgo), hkey]
  dsimp only
  rw [show (emit (.dmaRead (x.h2dBase + BitVec.ofNat 64 (bounceSlot * (x.h2dHead.toNat % 2 ^ x.slotsLog))) bounceSlot) b) = recordRead x b from rfl, hcheck']

theorem takeRecord_passed {data : Bytes} (hcheck : recordCheck b w x key r = .inr data) :
    takeRecord r.rtype h w r b = recordRun h w { x with seqIn := x.seqIn + 1 } r data (modBounce w (fun y => { y with h2dHead := y.h2dHead + 1, seqIn := y.seqIn + 1 }) (touchKey .hbe x.keySlot (recordRead x b))) := by
  have hcheck' : recordCheck (recordRead x b) w x key r = .inr data := hcheck
  rw [takeRecord, hx]
  dsimp only
  rw [if_neg (takesRecord_of (r := r) hgo), hkey]
  dsimp only
  rw [show (emit (.dmaRead (x.h2dBase + BitVec.ofNat 64 (bounceSlot * (x.h2dHead.toNat % 2 ^ x.slotsLog))) bounceSlot) b) = recordRead x b from rfl, hcheck']

end

section
variable {w : BitVec 6} {x : Bounce} {key : Key} {r : BounceRec} {b : Block}

theorem recordCheck_forged (hopen : gcmOpen key (bounceIv false r.seq) (recordHeader r) r.payload r.tag = none) : recordCheck b w x key r = .inl 1 := by
  rw [recordCheck, hopen]

theorem recordCheck_opened {data : Bytes} (hopen : gcmOpen key (bounceIv false r.seq) (recordHeader r) r.payload r.tag = some data) :
    recordCheck b w x key r = if r.seq ≠ x.seqIn then .inl 2 else if headerGood r = false then .inl 3 else if r.rtype = 3 ∧ (pageAsked b w x r).isNone = true then .inl 4 else .inr data := by
  rw [recordCheck, hopen]

end

section
variable {h : Hard} {w : BitVec 6} {x : Bounce} {r : BounceRec} {data : Bytes} {b : Block}

theorem recordRun_empty (ht : r.rtype = 1) (hn : r.length = 0) : recordRun h w x r data b = b := by
  rw [recordRun, ht]
  exact if_pos hn

theorem recordRun_flush (ht : r.rtype = 4) : recordRun h w x r data b = takeFence x.part none none 0 none 0 [] (some (w, r.reqId)) b := by
  rw [recordRun, ht]
  rfl

end

/-! ### The time of a page -/

theorem exec_bouncePageTimeout_only {s : State} {w : BitVec 6} {x : Bounce} {c : XChange} {t : Word} (hlive : s.b.live = true) (hx : s.b.bounce w = some x)
    (hone : (s.b.ptuPart x.part).changes = [c]) (hkind : c.kind = 0) (hw : c.bounce = w) (hbegan : c.began = some t) :
    exec (.bouncePageTimeout w) s = .next (s.settled (if t.toNat + 1000000000 ≤ s.b.clk.tick.toNat then failChange s.hard x.part c stAborted 0 s.b else s.b)) := by
  show execBouncePageTimeout w s = _
  rw [execBouncePageTimeout, act_live _ hlive, hx]
  dsimp only
  rw [hone]
  by_cases hdue : t.toNat + 1000000000 ≤ s.b.clk.tick.toNat
  · have hdue' : t.toNat + second ≤ s.b.now.toNat := hdue
    simp only [List.filter_cons, hkind, hw, hbegan, and_self, decide_true, Bool.true_and, decide_eq_true hdue', if_true, List.filter_nil, List.foldl_cons, List.foldl_nil, if_pos hdue]
  · have hdue' : ¬ t.toNat + second ≤ s.b.now.toNat := hdue
    simp only [List.filter_cons, hkind, hw, hbegan, and_self, decide_true, Bool.true_and, decide_eq_false hdue', Bool.false_eq_true, if_false, List.filter_nil, List.foldl_nil, if_neg hdue]

/-- Settles O54: the opening, the doorbells, the records by their check, and a page's time. -/
theorem bounceWindowsMoveRecords : Obligations.BounceWindowsMoveRecords := by
  unfold Obligations.BounceWindowsMoveRecords
  refine ⟨?_, ?_, ?_, ?_, ?_⟩
  · intro s ctx q host sl h2d d2h w hst b x
    refine ⟨exec_cmdBounceOpen_malformed hst, fun hlo hhi hh2d hd2h hw => ?_⟩
    have hgood : ¬ (sl.toNat < 4 ∨ 12 < sl.toNat ∨ h2d.toNat % 4096 ≠ 0 ∨ d2h.toNat % 4096 ≠ 0 ∨ (w ≠ 0xFF ∧ 64 ≤ w.toNat)) := by
      rintro (h | h | h | h | ⟨-, h⟩)
      exacts [absurd hlo (not_le.mpr h), absurd hhi (not_le.mpr h), h hh2d, h hd2h, absurd hw (not_lt.mpr h)]
    refine ⟨exec_cmdBounceOpen_noSession hst hgood, fun e hsess he hfull => exec_cmdBounceOpen_overQuota hst hgood hsess he hfull, fun e k t hsess he hroom hfree hgen hkey => ?_⟩
    have hfree' : Tab.has b.host.bounces w.toNat = false := (congrArg (fun m => Tab.has m w.toNat) (markStarted_bounces ctx s.b)).trans hfree
    have hgen' : Tab.getD b.host.bwGen w.toNat 0 = Tab.getD s.b.host.bwGen w.toNat 0 := congrArg (fun m => Tab.getD m w.toNat 0) (markStarted_bwGen ctx s.b)
    have hwin : chooseWindow b (hostSession s.b q host) w = .inr w.toNat := chooseWindow_pinned hw hfree' (by rw [hgen']; exact hgen)
    refine ⟨bounceNew q host sl.toNat h2d d2h k, windowTaken (bounceNew q host sl.toNat h2d d2h k) (hostSession s.b q host) w.toNat (Tab.getD s.b.host.bwGen w.toNat 0 + 1) t, ?_, windowTaken_bounce ..,
      rfl, rfl, rfl, rfl, rfl, rfl, rfl, rfl, rfl, rfl, rfl, rfl, rfl, rfl⟩
    rw [exec_cmdBounceOpen_pinned hst hgood hsess he hroom hwin, openWindow_derived (congrArg (· + 1) hgen') hkey]
  · intro s w t x hregs hhbe hreset hasleep hx
    refine ⟨fun hin => ?_, fun hpast => ?_, exec_d2hHeadWrite_quiet hregs hhbe hreset hasleep hx⟩
    · rw [exec_h2dTailWrite hregs hhbe hreset hasleep hx, if_pos hin]
    · rw [exec_h2dTailWrite hregs hhbe hreset hasleep hx, if_neg (not_le.mpr hpast)]
  · intro s w x key r c hc hlive hx hstate hring hbusy hpage hasleep hreset hkey b
    have hgo : ¬ (x.state ≠ 1 ∨ x.h2dHead = x.h2dTail ∨ bounceBusy s.b w = true ∨ pageBusyIn s.b w x.part = true ∨ (s.b.island .hbe).asleep = true ∨ (s.b.island .hbe).inReset = true) := by
      rw [hstate, hbusy, hpage, hasleep, hreset]
      simpa using hring
    refine ⟨fun cause hcheck => ?_, fun data hcheck => ⟨_, rfl, fun ht hn => ?_, fun ht => ?_, ?_⟩⟩
    · rw [exec_record hc hlive, takeRecord_failed hx hgo hkey hcheck]; rfl
    · rw [exec_record hc hlive, takeRecord_passed hx hgo hkey hcheck, recordRun_empty ht hn]; rfl
    · rw [exec_record hc hlive, takeRecord_passed hx hgo hkey hcheck, recordRun_flush ht]; rfl
    · rw [exec_record hc hlive, takeRecord_passed hx hgo hkey hcheck]; rfl
  · intro b w x key r data
    refine ⟨recordCheck_forged, fun hopen hseq => ?_, fun hopen hseq hhead => ?_, fun hopen hseq hhead ht => ?_⟩
    · rw [recordCheck_opened hopen, if_pos hseq]
    · rw [recordCheck_opened hopen, if_neg (not_not.mpr hseq), if_pos hhead]
    · rw [recordCheck_opened hopen, if_neg (not_not.mpr hseq), if_neg (by rw [hhead]; decide), if_neg fun h => ht h.1]
  · intro s w x c t hlive hx hone hkind hw hbegan
    refine ⟨fun hdue => ?_, fun hnot => ?_⟩
    · rw [exec_bouncePageTimeout_only hlive hx hone hkind hw hbegan, if_pos hdue]
    · rw [exec_bouncePageTimeout_only hlive hx hone hkind hw hbegan, if_neg (not_le.mpr hnot)]

end Sys2Proof.Machine

end

section
/-! Resets asked for, and how they escalate (R366 to R372, R378 to R382). -/

namespace Sys2Proof.Machine

/-! ### Requests of a partition and of the operator -/

section
variable {s : State} {p : Part} (hup : s.b.up = true) (hboot : s.b.lc.bootState = 2) (hpart : s.b.partExists p = true) (hgo : (s.b.rstPart p).go = false)
include hup hboot hpart hgo

theorem exec_rstReqContext (e : BitVec 16) :
    exec (.rstReqContext p e) s = .next (s.settled (if ((takeContext s.hard p e (BitVec.ofNat 8 p.val) (modRstPart p (fun r => { r with go := true, level := 0, engine := e }) s.b)).runs (.context p e)
        || (takeContext s.hard p e (BitVec.ofNat 8 p.val) (modRstPart p (fun r => { r with go := true, level := 0, engine := e }) s.b)).runs (.partition p)) = true then
        takeContext s.hard p e (BitVec.ofNat 8 p.val) (modRstPart p (fun r => { r with go := true, level := 0, engine := e }) s.b)
      else modRstPart p (fun r => { r with go := false }) (takeContext s.hard p e (BitVec.ofNat 8 p.val) (modRstPart p (fun r => { r with go := true, level := 0, engine := e }) s.b)))) := by
  show execRstReqContext p e s = _
  rw [execRstReqContext, opAct_on _ hup hboot, partReg_exists _ hpart, resetAsked, hgo]
  rfl

theorem exec_rstReqPartition :
    exec (.rstReqPartition p) s = .next (s.settled (
      let e := (s.b.rstPart p).engine
      let b := takePartition s.hard p (BitVec.ofNat 8 p.val) (some p) (modRstPart p (fun r => { r with go := true, level := 2, engine := e }) s.b)
      if b.runs (.context p e) || b.runs (.partition p) then b else modRstPart p (fun r => { r with go := false }) b)) := by
  show execRstReqPartition p s = _
  rw [execRstReqPartition, opAct_on _ hup hboot, partReg_exists _ hpart, resetAsked, hgo]
  rfl

end

section
variable {s : State} (hup : s.b.up = true) (hboot : s.b.lc.bootState = 2)
include hup hboot

theorem exec_rstOpEngine (code : Byte) : exec (.rstOpEngine code) s = .next (s.settled (operatorAsks s.hard 1 code s.b)) := opAct_on (fun h b => operatorAsks h 1 code b) hup hboot
theorem exec_rstOpChip : exec .rstOpChip s = .next (s.settled (operatorAsks s.hard 3 s.b.rst.opIsland s.b)) := opAct_on (fun h b => operatorAsks h 3 b.rst.opIsland b) hup hboot
theorem exec_rstOpPowerCycle : exec .rstOpPowerCycle s = .next (s.settled (operatorAsks s.hard 4 s.b.rst.opIsland s.b)) := opAct_on (fun h b => operatorAsks h 4 b.rst.opIsland b) hup hboot

end

section
variable {h : Hard} {b : Block} (code : Byte)

/-- A halted block notes the operator's request and does nothing. -/
theorem operatorAsks_halted (level : Nat) (hhalt : b.rst.halted = true) : operatorAsks h level code b = modRst (fun r => { r with opLevel := BitVec.ofNat 4 level, opIsland := code }) b := if_pos hhalt

variable (hrun : b.rst.halted = false)
include hrun

theorem operatorAsks_engine {i : Island} (hi : islandOfCode code.toNat = some i) : operatorAsks h 1 code b = takeEngine h i 0xFE none (modRst (fun r => { r with opLevel := 1, opIsland := code }) b) := by
  have hrun' : ¬ (modRst (fun r => { r with opLevel := BitVec.ofNat 4 1, opIsland := code }) b).rst.halted = true := by show ¬ b.rst.halted = true; rw [hrun]; decide
  rw [operatorAsks, if_neg hrun', hi]
  rfl

theorem operatorAsks_chip : operatorAsks h 3 code b = takeChip h chipByOperator 0xFE none (modRst (fun r => { r with opLevel := 3, opIsland := code }) b) :=
  if_neg (show ¬ b.rst.halted = true by rw [hrun]; decide)

theorem operatorAsks_powerCycle : operatorAsks h 4 code b = takePowerCycle h 0xFE (modRst (fun r => { r with opLevel := 4, opIsland := code }) b) :=
  if_neg (show ¬ b.rst.halted = true by rw [hrun]; decide)

end

/-! ### The levels of the ladder -/

section
variable {h : Hard} {p : Part} {e : BitVec 16} {who : Byte} {b : Block} (hrun : b.rst.halted = false) (hpart : b.partExists p = true) (hheld : (b.part p).held = false)
  (hfree : b.runs (.context p e) = false)
include hrun hpart hheld hfree

theorem takeContext_eq : takeContext h p e who b = if 2 ≤ b.taken (.context p e) second ∧ holders b p e ≠ [] then escalateContext h p (holders b p e) 2 b
    else clearContext h p e (countReset p 0 (logEv h 0x0903 27 (some p) 0 2 [aHalf e.toNat, aByte who.toNat] (pushRunning (.context p e) who (some p) b))) := by
  rw [takeContext]
  dsimp only
  rw [hrun, hpart, hheld, hfree]
  exact if_neg (by decide)

theorem takeContext_taken (hfew : b.taken (.context p e) 1000000000 < 2) :
    takeContext h p e who b = clearContext h p e (countReset p 0 (logEv h 0x0903 27 (some p) 0 2 [aHalf e.toNat, aByte who.toNat] (pushRunning (.context p e) who (some p) b))) := by
  rw [takeContext_eq hrun hpart hheld hfree]
  exact if_neg fun h => absurd h.1 (not_le.mpr hfew)

theorem takeContext_third {i : Island} (hmany : 2 ≤ b.taken (.context p e) 1000000000) (hi : holders b p e = [i]) : takeContext h p e who b = escalateContext h p [i] 2 b := by
  rw [takeContext_eq hrun hpart hheld hfree, hi]
  exact if_pos ⟨hmany, List.cons_ne_nil _ _⟩

end

section
variable {h : Hard} {i : Island} {who : Byte} {origin : Option Part} {b : Block} (hrun : b.rst.halted = false) (hres : resettable h i = true) (hfree : b.runs (.engine i) = false)
include hrun hres hfree

theorem takeEngine_eq : takeEngine h i who origin b = if 2 ≤ b.taken (.engine i) (10 * second) then escalateEngine h origin 2 b
    else clearIsland h i ((partsOn b i).foldl (fun b p => logEv h 0x0904 (islandCode i) (some p) 2 3 [aByte (requesterFor who origin p)] (countReset p 1 b)) (pushRunning (.engine i) who origin b)) := by
  rw [takeEngine, hrun, hres, hfree]
  exact if_neg (by decide)

theorem takeEngine_taken (hfew : b.taken (.engine i) 10000000000 < 2) :
    takeEngine h i who origin b = clearIsland h i ((partsOn b i).foldl (fun b p => logEv h 0x0904 (islandCode i) (some p) 2 3 [aByte (requesterFor who origin p)] (countReset p 1 b)) (pushRunning (.engine i) who origin b)) := by
  rw [takeEngine_eq hrun hres hfree]
  exact if_neg (not_le.mpr hfew)

theorem takeEngine_third (hmany : 2 ≤ b.taken (.engine i) 10000000000) : takeEngine h i who origin b = escalateEngine h origin 2 b := by
  rw [takeEngine_eq hrun hres hfree]
  exact if_pos hmany

end

section
variable {h : Hard} {p : Part} {who : Byte} {origin : Option Part} {b : Block} (hrun : b.rst.halted = false) (hstate : (b.part p).state = 1 ∨ (b.part p).state = 2)
  (hheld : (b.part p).held = false) (hfree : b.runs (.partition p) = false)
include hrun hstate hheld hfree

/-- The block with a partition's reset begun. -/
def partitionTaken (h : Hard) (p : Part) (who : Byte) (origin : Option Part) (b : Block) : Block :=
  countReset p 2 (logEv h 0x0905 27 (some p) 2 3 [aByte who.toNat] (pushRunning (.partition p) who origin b))

theorem takePartition_eq : takePartition h p who origin b = if 2 ≤ b.taken (.partition p) (60 * second) then escalateChip h origin 2 2 b
    else if ((startSample 2 0 p (partitionTaken h p who origin b)).rstPart p).sampling.isSome = true then startSample 2 0 p (partitionTaken h p who origin b)
    else clearPartition h p (startSample 2 0 p (partitionTaken h p who origin b)) := by
  rw [takePartition]
  dsimp only
  rw [hrun, hheld, hfree, decide_eq_true hstate]
  exact if_neg (by decide)

omit hrun hstate hheld hfree in
theorem partitionTaken_rstPart : (partitionTaken h p who origin b).rstPart p = { b.rstPart p with resets := (b.rstPart p).resets + 1, lastLevel := 2 } := by
  rw [partitionTaken, countReset, modRstPart_rstPart, Block.rstPart, logEv_rst]
  rfl

omit hrun hstate hheld hfree in
theorem partitionTaken_partExists : (partitionTaken h p who origin b).partExists p = b.partExists p := by
  rw [Block.partExists, Block.part, partitionTaken, countReset, modRstPart_parts, logEv_parts]
  rfl

/-- With no sample to seal the partition is cleared at once. -/
theorem takePartition_taken (hfew : b.taken (.partition p) 60000000000 < 2) (hdump : (b.rstPart p).dumpEn = false) (hsampling : (b.rstPart p).sampling = none) :
    takePartition h p who origin b = clearPartition h p (modRstPart p (fun r => { r with dumpResult := 2 }) (partitionTaken h p who origin b)) := by
  have hexists : (partitionTaken h p who origin b).partExists p = true := by
    rw [partitionTaken_partExists]
    exact decide_eq_true (by rcases hstate with h | h <;> rw [h] <;> decide)
  have hoff : (((partitionTaken h p who origin b).jigOf p).isNone || !((partitionTaken h p who origin b).rstPart p).dumpEn) = true := by
    rw [partitionTaken_rstPart]
    simp [hdump]
  have hsample : startSample 2 0 p (partitionTaken h p who origin b) = modRstPart p (fun r => { r with dumpResult := 2 }) (partitionTaken h p who origin b) := by
    rw [startSample, hexists]
    exact if_pos hoff
  have hnone : ((modRstPart p (fun r => { r with dumpResult := 2 }) (partitionTaken h p who origin b)).rstPart p).sampling.isSome = false := by
    rw [modRstPart_rstPart, partitionTaken_rstPart]
    simp [hsampling]
  rw [takePartition_eq hrun hstate hheld hfree, if_neg (by exact not_le.mpr hfew), hsample, hnone]
  rfl

theorem takePartition_third (hmany : 2 ≤ b.taken (.partition p) 60000000000) : takePartition h p who origin b = escalateChip h origin 2 2 b := by
  rw [takePartition_eq hrun hstate hheld hfree]
  exact if_pos hmany

end

/-! ### A stall, and the end of the out-of-service state -/

theorem exec_stallEscalate_only {s : State} {p : Part} {q : Stalled} (hlive : s.b.live = true) (hone : (s.b.ptuPart p).stalls = [q]) (hlong : 2000000000 ≤ s.b.clk.tick.toNat - q.since.toNat) :
    exec (.stallEscalate p q.engine) s = .next (s.settled (takeContext s.hard p q.engine 0xFF (xlatNote s.hard 0x0702 p [aHalf ((q.fault.map BitVec.toNat).getD 0), aHalf q.engine.toNat] s.b))) := by
  have hlong' : 2 * second ≤ since s.b q.since := by
    rw [second, since]
    exact hlong
  have hfind : ((s.b.ptuPart p).stalls.find? fun x => decide (x.engine = q.engine) && decide (2 * second ≤ since s.b x.since)) = some q := by
    rw [hone]
    exact List.find?_cons_of_pos (by rw [decide_eq_true rfl, Bool.true_and]; exact decide_eq_true hlong')
  show execStallEscalate p q.engine s = _
  rw [execStallEscalate, act_live _ hlive, hfind]
  cases hfault : q.fault <;> simp only [hfault, Option.map_none, Option.map_some, Option.getD_none, Option.getD_some]

section
variable (b : Block)

/-- The block with the out-of-service state ended and its chip resets forgotten. -/
def oosReset (b : Block) : Block := compatApply (modRst (fun r => { r with compat := { r.compat with oos := false, resets := [] } }) b)

theorem oosCleared_eq : oosCleared b = if b.i3c.request = 3 then setRequest (restingRequest (oosReset b)) (oosReset b) else oosReset b := rfl

theorem oosCleared_rst : (oosCleared b).rst = (oosReset b).rst := by
  rw [oosCleared_eq]
  split <;> rfl

theorem restingRequest_oosReset : restingRequest (oosReset b) = if b.rst.halted then 2 else 0 := rfl

theorem oosCleared_request (hreq : b.i3c.request = 3) : (oosCleared b).i3c.request = if b.rst.halted then 2 else 0 := by
  rw [oosCleared_eq, if_pos hreq, setRequest, restingRequest_oosReset]

theorem oosCleared_i3c (hreq : b.i3c.request ≠ 3) : (oosCleared b).i3c = b.i3c := by
  rw [oosCleared_eq, if_neg hreq]
  rfl

end

/-- Settles O55: the requests, the level that acts and the one that takes over, level by level. -/
theorem resetsAreAskedAndEscalated : Obligations.ResetsAreAskedAndEscalated := by
  unfold Obligations.ResetsAreAskedAndEscalated
  refine ⟨?_, ?_, ?_, ?_, ?_, ?_, ?_⟩
  · intro s p e hup hboot hpart hgo
    exact ⟨exec_rstReqContext hup hboot hpart hgo e, exec_rstReqPartition hup hboot hpart hgo⟩
  · intro s code hup hboot
    refine ⟨fun hrun => ⟨fun i hi => ?_, ?_, ?_⟩, fun hhalt => ⟨?_, ?_, ?_⟩⟩
    · rw [exec_rstOpEngine hup hboot, operatorAsks_engine code hrun hi]
    · rw [exec_rstOpChip hup hboot, operatorAsks_chip _ hrun]; rfl
    · rw [exec_rstOpPowerCycle hup hboot, operatorAsks_powerCycle _ hrun]; rfl
    · rw [exec_rstOpEngine hup hboot, operatorAsks_halted _ _ hhalt]; rfl
    · rw [exec_rstOpChip hup hboot, operatorAsks_halted _ _ hhalt]; rfl
    · rw [exec_rstOpPowerCycle hup hboot, operatorAsks_halted _ _ hhalt]; rfl
  · intro h p e who b hrun hpart hheld hfree
    refine ⟨takeContext_taken hrun hpart hheld hfree, fun i hmany hi => ⟨fun hmax => ?_, fun hmax => ?_⟩⟩
    · rw [takeContext_third hrun hpart hheld hfree hmany hi, escalateContext, if_pos hmax]
    · rw [takeContext_third hrun hpart hheld hfree hmany hi, escalateContext, if_neg (not_lt.mpr hmax)]; rfl
  · intro h i who origin b hrun hres hfree
    refine ⟨takeEngine_taken hrun hres hfree, fun hmany => ⟨fun p hp hmax => ?_, fun p hp hmax => ?_, fun hnone => ?_⟩⟩
    · rw [takeEngine_third hrun hres hfree hmany, hp]
      exact if_pos hmax
    · rw [takeEngine_third hrun hres hfree hmany, hp]
      exact if_neg (not_lt.mpr hmax)
    · rw [takeEngine_third hrun hres hfree hmany, hnone]
      rfl
  · intro h p who origin b hrun hstate hheld hfree
    refine ⟨takePartition_taken hrun hstate hheld hfree, fun hmany => ⟨fun q hq hmax => ?_, fun q hq hmax => ?_⟩⟩
    · rw [takePartition_third hrun hstate hheld hfree hmany, hq]
      exact if_pos hmax
    · rw [takePartition_third hrun hstate hheld hfree hmany, hq]
      exact if_neg (not_lt.mpr hmax)
  · rintro s p e q hlive hone rfl hlong
    rw [exec_stallEscalate_only hlive hone hlong]
    cases q.fault <;> rfl
  · intro s hup hboot
    refine ⟨oosCleared s.b, opAct_on (fun _ b => oosCleared b) hup hboot, ?_, ?_, oosCleared_request s.b, oosCleared_i3c s.b, ?_, ?_⟩
    all_goals rw [oosCleared_rst]; rfl

end Sys2Proof.Machine

end

section
/-! The reset columns of the register tables (O59). Right after reset every table of the block is empty, so each lookup answers its default entry, whatever the port, island or partition: each fact below is a small closed evaluation. -/
namespace Sys2Proof.Machine

/-- The value of a register right after reset. -/
def resetValue (r : Reg) : Word := regValue State.reset.hard State.reset.b r

theorem resetValue_hbe : resetValue (.schedStat .hbe) = 0x410000000 ∧ resetValue (.gridOwner .hbe) = 0xF := by decide

theorem resetValue_le : ∀ n, resetValue (.schedStat (.le n)) = 0x1808000000 ∧ resetValue (.gridOwner (.le n)) = 0xF := by decide

theorem resetValue_me : ∀ n, resetValue (.schedStat (.me n)) = 0x1808000000 ∧ resetValue (.gridOwner (.me n)) = 0xF := by decide

theorem resetValue_port : ∀ k, resetValue (.portCtl k) = 0x404180000 ∧ resetValue (.patCtl k) = 0x2000000 := by decide

theorem resetValue_leShape : ∀ k p, resetValue (.leShape k p) = 0x1000000000 := by decide

theorem resetValue_mePlane : ∀ n p, resetValue (.mePlane n p) = 0xE100008 := by decide

theorem resetValue_partition : ∀ p, resetValue (.xctl p) = 0x10 ∧ resetValue (.ptuEpoch p) = 0x200000000000 ∧ resetValue (.rstStat p) = 0xF0 ∧
    resetValue (.jigState p) = 0 ∧ resetValue (.rstReq p) = 0 := by decide

theorem resetValue_partOwner : ∀ p, resetValue (.telCfg (.part p)) = 0x1020101 ∧ resetValue (.icPctl (.part p)) = 0 ∧ resetValue (.logPtr (.part p)) = 0 := by decide

theorem resetValue_operator : resetValue (.telCfg .operator) = 0x1020101 ∧ resetValue (.icPctl .operator) = 0 ∧ resetValue (.logPtr .operator) = 0 := by decide

theorem resetValue_owner : ∀ o, resetValue (.telCfg o) = 0x1020101 ∧ resetValue (.icPctl o) = 0 ∧ resetValue (.logPtr o) = 0
  | .part p => resetValue_partOwner p
  | .operator => resetValue_operator

theorem resetValue_global : resetValue .ksGlobal = 0xFC000000000 ∧ resetValue .rstCompat = 0x30258000000 ∧ resetValue .rstOp = 0 := by decide

/-- Settles O59: the reset columns, one lemma for each kind of unit. -/
theorem resetLeavesTheStatedValues : Obligations.ResetLeavesTheStatedValues := by
  obtain ⟨hsched, hgrid⟩ := resetValue_hbe
  obtain ⟨hks, hcompat, hop⟩ := resetValue_global
  exact ⟨rfl, rfl, hks, hsched, hgrid, hcompat, hop, resetValue_le, resetValue_me, resetValue_port, resetValue_leShape, resetValue_mePlane,
    resetValue_partition, resetValue_owner⟩

end Sys2Proof.Machine
end

section
/-! A clamp notice from the keeper of an open region (R268, R373): why O56 fails. R268 puts a region whose kind 1 keeper is lost in state 8; the model does so at the notice (`readersLose`), and the statement leaves that step out. -/
namespace Sys2Proof.Machine

/-- A region of kind 1 that member 2 keeps, read at this member. -/
def readerRegion : Region := { Tests.region9 with role := 2, token := { Tests.token9 with keeper := 2 } }

/-- A session with member 2, and that region. -/
def readerState : State := Tests.regS readerRegion Tests.sessS

/-- Member 2's clamp notice, with the MAC that the domain's key gives. -/
def keeperNotice : ClampNotice :=
  { Tests.notice0 with
    mac := kmac128 (readerState.b.keyVal (readerState.b.adm' 0).domainSlot)
      (noticeHead Tests.notice0.tick Tests.notice0.domainId Tests.notice0.clamping Tests.notice0.cause.toNat Tests.notice0.suspects) "SWY-CLAMP" }

theorem readerState_hears : readerState.hears Tests.sec2 := ⟨by decide, by decide, by decide⟩

theorem keeperNotice_ok : noticeOk (heard Tests.sec2 readerState.b) 0 Tests.jig0 keeperNotice = true := by
  have hmac : kmac128 ((heard Tests.sec2 readerState.b).keyVal ((heard Tests.sec2 readerState.b).adm' 0).domainSlot)
      (noticeHead keeperNotice.tick keeperNotice.domainId keeperNotice.clamping keeperNotice.cause.toNat keeperNotice.suspects) "SWY-CLAMP" = keeperNotice.mac := rfl
  have hrest : (decide (keeperNotice.domainId = Tests.jig0.domainId) && within keeperNotice.tick (heard Tests.sec2 readerState.b).now second &&
      !((heard Tests.sec2 readerState.b).adm' 0).notices.contains (keeperNotice.clamping, keeperNotice.tick)) = true := by decide
  rw [noticeOk, decide_eq_true hmac, Bool.true_and, hrest]

/-- The block once the notice is noted and its sender's departure recorded. -/
def noticedBlock : Block :=
  seeDeparture readerState.hard 0 Tests.peer2 5
    (modAdm 0 (fun a => { a with notices := (Tests.peer2, Tests.notice0.tick) :: a.notices }) (heard Tests.sec2 readerState.b))

/-- The block of the statement: the region stays as it is. -/
def regionsKept : Block := memberLost readerState.hard 0 2 (keeperLost readerState.hard 0 2 noticedBlock)

/-- The block of the model: the regions of the lost keeper are revoked. -/
def regionsRevoked : Block := memberLost readerState.hard 0 2 (readersLose readerState.hard 0 2 (keeperLost readerState.hard 0 2 noticedBlock))

theorem region_settled_regionsKept : ((readerState.settled regionsKept).b.region 3).map (·.state) = some 2 := by decide +kernel

theorem region_settled_regionsRevoked : ((readerState.settled regionsRevoked).b.region 3).map (·.state) = some 8 := by decide +kernel

theorem exec_keeperNotice : exec (.clampNotice Tests.sec2 keeperNotice) readerState = .next (readerState.settled regionsRevoked) := by
  have hjig : (heard Tests.sec2 readerState.b).jigOf Tests.sec2.part = some Tests.jig0 := rfl
  have hok := keeperNotice_ok
  show execClampNotice _ _ _ = _
  rw [execClampNotice, actSec_hears _ readerState_hears]
  simp only [hjig]
  exact congrArg (fun b => Host.Outcome.next (readerState.settled b)) (if_neg (by rw [show Tests.sec2.part = 0 from rfl, hok]; decide))

/-- Refutes O56: a notice from the kind 1 keeper of a region read here puts the region in state 8 (R268), and the statement leaves it in state 2. -/
theorem not_resetsEndSamplesAndNotices : ¬ Obligations.ResetsEndSamplesAndNotices := by
  intro h
  obtain ⟨-, -, -, hnotice⟩ := h
  obtain ⟨-, haccepted⟩ := hnotice readerState Tests.sec2 keeperNotice Tests.jig0 readerState_hears rfl
  have hstated : exec (.clampNotice Tests.sec2 keeperNotice) readerState = .next (readerState.settled regionsKept) := haccepted rfl (by decide) (by decide) rfl
  have hsame : readerState.settled regionsRevoked = readerState.settled regionsKept := Host.Outcome.next.inj (exec_keeperNotice.symm.trans hstated)
  have hregion := congrArg (fun t : State => (t.b.region 3).map (·.state)) hsame
  exact absurd (region_settled_regionsRevoked.symm.trans (hregion.trans region_settled_regionsKept)) (by decide)

end Sys2Proof.Machine
end
